-- ==== Sys2Proof/Word.lean ====
section
/-!
DEFINITION. The word types of the THN-3240 and their plainest arithmetic (Notation of 00_scope.md).
-/

namespace Sys2Proof

/-- A 32-bit register word. -/
abbrev Word := BitVec 32

/-- A byte. -/
abbrev Byte := BitVec 8

/-- A sparse table: keys strictly rising, no entry equal to the table's default value. -/
abbrev Tab (α : Type) := List (Nat × α)

end Sys2Proof
end

