-- ==== Sys2Proof/Syntax.lean ====
section
/-!
DEFINITION. The commands of the THN-3240 as opcode_table.json lists them, one constructor per row, with the operands
that the command brings from outside: the unit it addresses, and the values that come over a bus, a link or a pin.
Values that the device holds itself are read from the state.
-/

namespace Sys2Proof

/-- Data that the host returns to a read of the device, in ascending address; `poisoned` when the completion carried EP
or the read timed out (R353). Host memory is outside the device (DESIGN CHOICE, log 5). -/
structure HostRead where
  data : List Byte
  poisoned : Bool
  deriving DecidableEq, Repr

/-- What requests hold of a domain (R50). -/
inductive HoldSrc where
  /-- the attachment unit of boundary queue `b`, empty at its scheduled read or full at its scheduled write -/
  | queue (b : Fin 4096)
  /-- the power governor -/
  | governor
  deriving DecidableEq, Repr

/-- Traffic classes of packets (Table 3.3). -/
inductive PktCls where
  | b | c
  deriving DecidableEq, Repr

/-- How the CSI receiver decoded a packet header (R379, R383). -/
inductive CsiHdr where
  | ok
  | corrected
  /-- a detected multi-bit error; `vcReadable` says whether the virtual channel could be read -/
  | bad (vcReadable : Bool)
  deriving DecidableEq, Repr

/-- The D-PHY timing conditions of R383. -/
inductive CsiTimingKind where
  | sot | eot | deskewOverflow | clockLoss
  deriving DecidableEq, Repr

/-- What ends a Gostan training state (R393, Table 13.6). -/
inductive TrainEvent where
  /-- DETECT found a partner -/
  | detected
  /-- TRAIN finished: lanes reversed, and the polarity of each lane -/
  | locked (reversed : Bool) (pol : BitVec 4)
  /-- EQ finished: insertion loss in 0.1 dB -/
  | equalised (loss : BitVec 10)
  /-- EXCH finished: whether the partner's reset identity is unchanged (R395) -/
  | exchanged (sameIdentity : Bool)
  /-- the state failed, or its limit passed -/
  | failed
  deriving DecidableEq, Repr

/-- Why a link went down (R389, R395). -/
inductive DownWhy where
  | laneLost | replays
  deriving DecidableEq, Repr

/-- The security violations of R425. -/
inductive SecViolation where
  | fuseReadBack | unwrapFailure | trngHealth | jtagLocked | glitch
  deriving DecidableEq, Repr

/-- Who reads a BAR0 register (R121, R123, R373). -/
inductive Requester where
  | host | dealer
  deriving DecidableEq, Repr

/-- Where a write of the host lands (R351, R355, R359); BAR4 has commands of its own. -/
inductive HostAddr where
  | bar0 (off : BitVec 26)
  | bar2 (off : BitVec 20)
  | config (off : BitVec 12)
  deriving DecidableEq, Repr

/-- What the regulator answered to a PMBus poll (R404): VOUT in mV, IOUT in 10 mA, and whether STATUS_WORD reports a fault. -/
structure PmbusReply where
  vout : BitVec 16
  iout : BitVec 16
  faulted : Bool
  deriving DecidableEq, Repr

/-- A page-table entry the host returned to a walk, and whether its read was poisoned. -/
structure HostPte where
  entry : BitVec 64
  poisoned : Bool
  deriving DecidableEq, Repr

/-- The commands and events of opcode_table.json. -/
inductive Instr where
  -- the command processor, the loader and the other executors of host commands
  /-- R369 -/
  | nop (r : Fin 64)
  /-- R286; `img` is what the host returns to the image read of SRC 1, `ptes` the table entries in host memory that the walks of the
  image's lock list read -/
  | loadImage (img : HostRead) (ptes : List HostPte)
  /-- R286 -/
  | unload
  /-- R295 -/
  | applyOverlay
  /-- R292 -/
  | start
  /-- R292 -/
  | stop
  /-- R292 -/
  | drain
  /-- R300 -/
  | unfence
  /-- R305 -/
  | readKey (r : Fin 64)
  /-- R426 -/
  | attest (r : Fin 64)
  /-- R426; `failed` when the report write was poisoned or timed out -/
  | attestReportWrite (failed : Bool)
  /-- R342; `sig` is what the host returns to the read of SIG_ADDR -/
  | clearScoresheet (r : Fin 64) (sig : HostRead)
  /-- R342 -/
  | scoresheetEraseDone
  /-- R374 -/
  | signal (r : Fin 64)
  /-- R375 -/
  | fenceWait (r : Fin 64)
  /-- R375 -/
  | barrier (r : Fin 64)
  /-- R375 -/
  | fenceWaitComplete (r : Fin 64)
  /-- R375 -/
  | barrierComplete (r : Fin 64)
  /-- R375 -/
  | waitTimeout (r : Fin 64)
  /-- R370 -/
  | commandDispatch
  /-- R371 -/
  | completionEvent (r : Fin 64)
  /-- R370 -/
  | loaderQueueEnter (r : Fin 64)
  /-- R286 -/
  | loadComplete (d : Fin 4)
  /-- R295 -/
  | applyWrite (d : Fin 4)
  /-- R292 -/
  | drainComplete (d : Fin 4)
  /-- R291 -/
  | inputFrameStop (b : Fin 4096)
  /-- R291 -/
  | inputFrameResume (b : Fin 4096)
  /-- R58 -/
  | segmentBoundary (d : Fin 4)
  /-- R58 -/
  | segmentInstall (d : Fin 4)
  /-- R82; a write of SWAP in the XNODE page of core `c` -/
  | swap (c : Fin 32) (mask : BitVec 4)
  -- fabric and queues
  /-- R80; one output port of one switch node in the present cycle -/
  | trick (c : Fin 32) (p : Fin 59)
  /-- R101 -/
  | itemLand (c : Fin 32) (p : Fin 59)
  /-- R102 -/
  | bodyWrite (c : Fin 32) (p : Fin 59)
  /-- R104 -/
  | creditWord (c : Fin 32)
  /-- R50 -/
  | holdRequest (d : Fin 4) (src : HoldSrc)
  /-- R51 -/
  | holdAssert (d : Fin 4)
  /-- R51 -/
  | holdRelease (d : Fin 4)
  /-- R55 -/
  | holdLong (d : Fin 4)
  -- M tile steps
  /-- R159 -/
  | mNop (c : Fin 32) (m : Fin 10)
  /-- R158 -/
  | mLoop (c : Fin 32) (m : Fin 10)
  /-- R140 -/
  | conv (c : Fin 32) (m : Fin 10)
  /-- R145 -/
  | wconv (c : Fin 32) (m : Fin 10)
  /-- R147 -/
  | mmul (c : Fin 32) (m : Fin 10)
  /-- R154 -/
  | rsc (c : Fin 32) (m : Fin 10)
  /-- R157 -/
  | mEmit (c : Fin 32) (m : Fin 10)
  /-- R136 -/
  | wswap (c : Fin 32) (m : Fin 10)
  /-- R132 -/
  | wpset (c : Fin 32) (m : Fin 10)
  /-- R159 -/
  | mPhold (c : Fin 32) (m : Fin 10)
  /-- R159 -/
  | mDrop (c : Fin 32) (m : Fin 10)
  -- V tile steps
  /-- R171 -/
  | vNop (c : Fin 32) (v : Fin 2)
  /-- R171 -/
  | vLoop (c : Fin 32) (v : Fin 2)
  /-- R179 -/
  | dwc (c : Fin 32) (v : Fin 2)
  /-- R181 -/
  | pool (c : Fin 32) (v : Fin 2)
  /-- R182 -/
  | argm (c : Fin 32) (v : Fin 2)
  /-- R183 -/
  | elt (c : Fin 32) (v : Fin 2)
  /-- R184 -/
  | red (c : Fin 32) (v : Fin 2)
  /-- R185 -/
  | func (c : Fin 32) (v : Fin 2)
  /-- R188 -/
  | smx (c : Fin 32) (v : Fin 2)
  /-- R189 -/
  | lna (c : Fin 32) (v : Fin 2)
  /-- R190 -/
  | creq (c : Fin 32) (v : Fin 2)
  /-- R191 -/
  | csmp (c : Fin 32) (v : Fin 2)
  /-- R192 -/
  | topk (c : Fin 32) (v : Fin 2)
  /-- R193 -/
  | sel (c : Fin 32) (v : Fin 2)
  /-- R194 -/
  | tok (c : Fin 32) (v : Fin 2)
  /-- R195 -/
  | ccv (c : Fin 32) (v : Fin 2)
  /-- R196 -/
  | bgm (c : Fin 32) (v : Fin 2)
  /-- R197 -/
  | trk (c : Fin 32) (v : Fin 2)
  /-- R198 -/
  | cvt (c : Fin 32) (v : Fin 2)
  /-- R198 -/
  | sst (c : Fin 32) (v : Fin 2)
  /-- R198 -/
  | sld (c : Fin 32) (v : Fin 2)
  /-- R175 -/
  | vEmit (c : Fin 32) (v : Fin 2)
  /-- R175 -/
  | vPhold (c : Fin 32) (v : Fin 2)
  /-- R176 -/
  | vDrop (c : Fin 32) (v : Fin 2)
  -- class B and C packets
  /-- R88; `i` is the node input: 0 N, 1 E, 2 S, 3 W, 4 the bulk port's output -/
  | packetForward (c : Fin 32) (i : Fin 5) (k : PktCls) (lane : Fin 2)
  /-- R217 -/
  | bTileWrite (c : Fin 32)
  /-- R135 -/
  | weightStoreWrite (c : Fin 32)
  /-- R217, R392; `n` is a node code: a core, or GL0 or GL1 -/
  | queuePush (n : Fin 64)
  /-- R217 -/
  | readRequest (c : Fin 32)
  /-- R87; at the endpoint with node code `n` -/
  | readResponse (n : Fin 64)
  /-- R87; at the endpoint with node code `n` -/
  | writeAcknowledgement (n : Fin 64)
  /-- R282; at the endpoint with node code `n` -/
  | configurationWrite (n : Fin 64)
  /-- R237; the spill body of BMD `i` of B tile `b` -/
  | spillSend (c : Fin 32) (b : Fin 4) (i : Fin 16)
  /-- R249 -/
  | spillPacket (f : Fin 8)
  /-- R249 -/
  | spillAck (f : Fin 8) (st : Fin 64)
  /-- R90 -/
  | isoMapUpdate (n : Fin 64)
  -- fetch engines and translation
  /-- R252 -/
  | fetchIssue (f : Fin 8)
  /-- R255; `host` is the data when the request addressed host memory -/
  | fetchReturn (f : Fin 8) (tag : Fin 2048) (host : HostRead)
  /-- R245 -/
  | passStart (f : Fin 8) (st : Fin 64)
  /-- R248 -/
  | gatherRequest (f : Fin 8) (st : Fin 64)
  /-- R250 -/
  | prefetchDone (f : Fin 8) (st : Fin 64)
  /-- R258 -/
  | tagTimeout (p : Fin 4) (tag : Fin 256)
  /-- R257 -/
  | cancelComplete (f : Fin 8) (st : Fin 64)
  /-- R256 -/
  | cancel (f : Fin 8) (st : Fin 64)
  /-- R273 -/
  | resolveRetry (f : Fin 8) (st : Fin 64)
  /-- R273 -/
  | resolveCancel (f : Fin 8) (st : Fin 64)
  /-- R273 -/
  | xlateWaitExpiry (f : Fin 8) (st : Fin 64)
  /-- R271; `host` holds the table entries that lie in host memory, in the order the walk reads them -/
  | walkDone (f : Fin 8) (st : Fin 64) (host : List HostPte)
  /-- R275 -/
  | inval
  /-- R275 -/
  | invalComplete
  /-- R272 -/
  | lock
  /-- R272; `host` as for walkDone -/
  | lockComplete (host : List HostPte)
  /-- R278 -/
  | unlock
  /-- R261 -/
  | memAccess (p : Fin 4) (tag : Fin 256)
  /-- R262 -/
  | refresh (p : Fin 4)
  /-- R268 -/
  | ddrScrub (p : Fin 4)
  /-- R268 -/
  | ddrScrubWriteback (p : Fin 4)
  /-- R216 -/
  | btScrub (c : Fin 32) (b : Fin 4)
  /-- R216 -/
  | btScrubWriteback (c : Fin 32) (b : Fin 4)
  /-- R215 -/
  | btInitDone (c : Fin 32) (b : Fin 4)
  -- boundary queues, windows and the host port
  /-- R112 -/
  | queueResetDone (b : Fin 4096)
  /-- R120; `q` is the global queue index -/
  | tailTimeout (q : Fin 65536)
  /-- R121 -/
  | windowRead (who : Requester) (q : Fin 65536)
  /-- R121 -/
  | windowWrite (q : Fin 65536) (w : BitVec 64)
  /-- R123 -/
  | windowStallReturn (who : Requester) (q : Fin 65536)
  /-- R123 -/
  | windowStallTimeout (who : Requester) (q : Fin 65536)
  /-- R359 -/
  | doorbell (b : Fin 1536) (v : Word)
  /-- R365 -/
  | ringEnable (b : Fin 1536)
  /-- R365 -/
  | ringDisable (b : Fin 1536)
  /-- R366 -/
  | ringRead (b : Fin 1536)
  /-- R366 -/
  | ringReadCompletion (b : Fin 1536) (r : HostRead)
  /-- R367 -/
  | ringWrite (b : Fin 1536)
  /-- R353; the outstanding PCIe read with this tag -/
  | cplTimeout (tag : Fin 512)
  /-- R354 -/
  | hostPortReset
  /-- R360; a BAR4 read of `len` bytes -/
  | apertureRead (off : BitVec 36) (len : Fin 513)
  /-- R360 -/
  | apertureWrite (off : BitVec 36) (data : List Byte)
  /-- R360; the aperture read with this transaction number -/
  | apertureReadTimeout (txid : Word)
  /-- R374 -/
  | syncAdd (n : Fin 8192) (v : Word)
  /-- R374; at rank controller `r` -/
  | signalWord (r : Fin 4)
  -- faults
  /-- R309 -/
  | causeResolve
  /-- R298 -/
  | foldComplete (d : Fin 4)
  /-- R303 -/
  | keyUpdate
  /-- R326 -/
  | fenceNow (c : Fin 32)
  /-- R321 -/
  | firstClear
  /-- R313; `pg` is a page number, BAR0 offset ÷ 4 KiB -/
  | fltStatClear (pg : Fin 16384) (bits : BitVec 16)
  /-- R313 -/
  | rearmExpiry (pg : Fin 16384) (bit : Fin 16)
  /-- R327 -/
  | stalemate (d : Fin 4)
  /-- R323 -/
  | quietExpiry (d : Fin 4)
  /-- R323 -/
  | recoveryComplete (d : Fin 4)
  /-- R325 -/
  | quietMsWrite (d : Fin 4) (v : Word)
  /-- R325 -/
  | quietCurReset (d : Fin 4)
  /-- R405; `xinLost` when XIN shows no edge, otherwise the PLL lost lock -/
  | pllLoss (xinLost : Bool)
  /-- R318 -/
  | lockstep
  /-- R425 -/
  | security (why : SecViolation)
  /-- R317 -/
  | chipReset
  /-- R318 -/
  | dealerReloadDone
  /-- R319 -/
  | aliveToggle
  /-- R319 -/
  | aliveRestart
  /-- R317 -/
  | privLock
  /-- R329 -/
  | injGo
  /-- R329 -/
  | arm
  /-- R329 -/
  | injPriv (mask : BitVec 8)
  -- scoresheet and journal
  /-- R338 -/
  | recordCommit
  /-- R341 -/
  | scoresheetScan
  /-- R345; `flashFails` when the flash reports a failed program -/
  | journalRecord (flashFails : Bool)
  /-- R347; `flashFails` when the flash reports a failed program or erase -/
  | compactionDone (flashFails : Bool)
  /-- R335; `wear` is how many of the second's 1 ms samples show VDD above 40 A with Tj above 95 °C (R419) -/
  | opsecTick (wear : Fin 1001)
  /-- R345 -/
  | opsecJournal
  /-- R345 -/
  | userWrite (i : Fin 16) (v : Word)
  -- reset, boot and the platform
  /-- R406 -/
  | pwrokFall
  /-- R406; the length of the low pulse in ns -/
  | resetL (ns : Nat)
  /-- R406 -/
  | pePerstLAssert
  /-- R407 -/
  | pePerstLDeassert
  /-- R412; the sixteen EVO readings under the pull-down and under the pull-up (R408), and the TESTMODE pin (R329) -/
  | bootStart (pd pu : BitVec 16) (testmode : Bool)
  /-- R405 -/
  | pllLock
  /-- R414; `upstream` is what the Gostan partner returns under BOOT_SRC 0b10 (R413) -/
  | firmwareVerified (upstream : List Byte)
  /-- R413 -/
  | bootGo
  /-- R264; the read round-trip delay of each of the ten devices of each port, less its fixed latency, in 0.1 ps -/
  | ddrTrainingDone (delays : List (BitVec 32))
  /-- R407 -/
  | hostPortReady
  /-- R415 -/
  | autoload (k : Fin 4)
  /-- R404; the eight rails in mV, and whether each has been out of range for 10 µs -/
  | monitorSample (mv : List (BitVec 16)) (out : BitVec 8)
  /-- R404; `none` when the regulator did not acknowledge -/
  | pmbusPoll (rail : Fin 8) (reply : Option PmbusReply)
  /-- R416; measured power in 10 mW and the eight sensors in °C -/
  | governorMeasure (p : BitVec 16) (tj : List Int)
  /-- R416 -/
  | governorCalibrate
  /-- R417 -/
  | governorWindow
  /-- R418 -/
  | thermtripHw
  /-- R420; the filtered level of input `i` -/
  | trgEdge (i : Fin 4) (level : Bool)
  /-- R420 -/
  | trgStuck (i : Fin 4)
  /-- R420 -/
  | trgUnstuck (i : Fin 4)
  /-- R421 -/
  | trgTokenPush (i : Fin 4)
  /-- R424; `trng` is the random number the TRNG delivered -/
  | provision (trng : BitVec 256) (arg : HostRead)
  /-- R424; `arg` is what the host returns to the read of SEC_ARG -/
  | own (arg : HostRead)
  /-- R424 -/
  | revoke (arg : HostRead)
  /-- R424 -/
  | return_ (arg : HostRead)
  /-- R424 -/
  | svnCommit (arg : HostRead)
  /-- R305 -/
  | keyLatch
  -- camera ports and Gostan links
  /-- R381 -/
  | csiLongPacket (n : Fin 4) (hdr : CsiHdr) (vc : Fin 16) (dt : BitVec 6) (payload : List Byte) (crcOk : Bool)
  /-- R382 -/
  | csiFs (n : Fin 4) (vc : Fin 16) (fnum : BitVec 16)
  /-- R382 -/
  | csiFe (n : Fin 4) (vc : Fin 16)
  /-- R383; `lane` 0 to 3 is a data lane, 4 the clock lane; `vc` is the channel whose line was struck on a data lane -/
  | csiTiming (n : Fin 4) (why : CsiTimingKind) (lane : Fin 5) (vc : Fin 16)
  /-- R384; the measured skew of the four data lanes, in ps -/
  | csiDeskew (n : Fin 4) (skew : List (BitVec 12))
  /-- R389; the 38 bytes of the frame -/
  | glDataFrame (k : Fin 2) (frame : List Byte)
  /-- R387 -/
  | glCtrlFrame (k : Fin 2) (frame : List Byte)
  /-- R398; the 38 bytes of the frame -/
  | glTunnelFrame (k : Fin 2) (frame : List Byte)
  /-- R388 -/
  | glTransmit (k : Fin 2)
  /-- R389 -/
  | glReplay (k : Fin 2)
  /-- R395 -/
  | glDown (k : Fin 2) (why : DownWhy)
  /-- R393 -/
  | glTrainAdvance (k : Fin 2) (e : TrainEvent)
  /-- R394 -/
  | glKeyUpdate (k : Fin 2)
  /-- R393 -/
  | retrain (k : Fin 2)
  /-- R398 -/
  | tunWr (k : Fin 2)
  /-- R398 -/
  | tunRd (k : Fin 2)
  /-- R398 -/
  | tunTimeout (k : Fin 2)
  -- register accesses with behaviour of their own
  /-- R163; a write of PAGE_CTRL.QUIESCE in page `pg` -/
  | quiesce (pg : Fin 16384) (on : Bool)
  /-- R358 -/
  | blockReset (pg : Fin 16384)
  /-- R358 -/
  | perfSelWrite (pg : Fin 16384) (v : Word)
  /-- R358 -/
  | perfCntRead (pg : Fin 16384)
  /-- R373 -/
  | syncValueRead (who : Requester) (n : Fin 8192)
  /-- R279 -/
  | rttClr (p : Fin 4)
  /-- R94; `some v` writes, `none` reads -/
  | ttData (c : Fin 32) (w : Option Word)
  /-- R124 -/
  | ltData (c : Fin 32) (w : Option Word)
  /-- R163 -/
  | mPiHi (c : Fin 32) (m : Fin 10) (v : Word)
  /-- R163 -/
  | mDiHi (c : Fin 32) (m : Fin 10) (v : Word)
  /-- R201 -/
  | vPiHi (c : Fin 32) (u : Fin 2) (v : Word)
  /-- R201 -/
  | vDiHi (c : Fin 32) (u : Fin 2) (v : Word)
  /-- R201 -/
  | ftHi (c : Fin 32) (u : Fin 2) (v : Word)
  /-- R377 -/
  | hostEtData (w : Option Word)
  /-- R377 -/
  | ctData (v : Word)
  /-- R399 -/
  | ptData (n : Fin 4) (w : Option Word)
  /-- R400 -/
  | glEtData (k : Fin 2) (w : Option Word)
  /-- R8, R351, R356, R359; the bytes of one write of the host to `off` of BAR0, of BAR2 or of the configuration space; none is a byte
  whose enable is clear -/
  | registerWrite (off : HostAddr) (data : List (Option Byte))
  /-- R350; trained speed code 1 to 5, lanes, reversal and polarity -/
  | pcieLinkUp (speed : Fin 6) (width : Fin 5) (reversed : Bool) (pol : BitVec 4)
  deriving DecidableEq, Repr

end Sys2Proof
end

