-- ==== Sys2Proof/Decode.lean ====
section
/-!
DEFINITION. The commands that a word spells. No row of opcode_table.json gives bits: commands reach the block as events on its buses,
links and pins, and the command records of R369 are data of a ring that COMMAND_DISPATCH reads. So no word spells a command.
-/

namespace Sys2Proof

/-- The command that a word of the table's bits spells: none, as no row gives bits. -/
def decodeTableWord (_nbits _w : Nat) : Option Instr := none

end Sys2Proof
end

