-- ==== Sys2Proof/Config.lean ====
section
/-!
DEFINITION. What one part fixes at manufacture and what the manual leaves open. Every open value is opaque: nothing can
evaluate it, so a claim about it holds whatever it is (DESIGN CHOICE, log 2 and log 3).
-/

namespace Sys2Proof.Config

/-- Free values (DESIGN CHOICE, log 2): the n-th value that the manual leaves open, as a number; a user narrows it to the width it needs. -/
opaque free : Nat → Nat

/-- The binary16 operand that an F16 step takes from the PAYLOAD of a PARAM token (R183): the manual states no conversion (DEDUCED, log 25). -/
opaque tokenHalf : BitVec 12 → BitVec 16

/-- The set of the shared TLB in which an entry lies (R271), from its address space, page base and page size: the manual states no function
(DESIGN CHOICE, log 156). -/
opaque tlbSet : Nat → Nat → Nat → Nat

/-- The vendor root key hash in the fuses (R422): SHA-256 of a public key, chosen at manufacture. -/
opaque vendorKeyHash : BitVec 256

end Sys2Proof.Config
end

