-- ==== Sys2Proof/Machine/Tab.lean ====
section
/-!
DEFINITION. Sparse tables: a sorted list of (key, value) pairs in which a key that is not listed reads as the table's default, and
no listed entry equals that default. Memories are the tables of bytes (Host.Cell). Equal tables are equal data.
-/

namespace Sys2Proof.Machine

/-- The value of key `k`; `d` is what an unlisted key reads as. -/
def Tab.get {α : Type} (t : Tab α) (k : Nat) (d : α) : α :=
  match t with
  | [] => d
  | (j, v) :: r => if j = k then v else Tab.get r k d

/-- The table with key `k` unlisted. -/
def Tab.del {α : Type} (t : Tab α) (k : Nat) : Tab α :=
  match t with
  | [] => []
  | (j, v) :: r => if j = k then Tab.del r k else (j, v) :: Tab.del r k

/-- The table with key `k` listed with value `v`. -/
def Tab.put {α : Type} (t : Tab α) (k : Nat) (v : α) : Tab α :=
  match t with
  | [] => [(k, v)]
  | (j, w) :: r => if j = k then (k, v) :: r else if k < j then (k, v) :: (j, w) :: r else (j, w) :: Tab.put r k v

/-- The table in which key `k` reads `v`, with `d` the default of `k`. -/
def Tab.set {α : Type} [DecidableEq α] (t : Tab α) (k : Nat) (v d : α) : Tab α :=
  if v = d then Tab.del t k else Tab.put t k v

/-- Keys strictly rising from `lo`, and no entry equal to its default. -/
def Tab.wfFrom {α : Type} [DecidableEq α] (dflt : Nat → α) (lo : Nat) : Tab α → Bool
  | [] => true
  | (k, v) :: r => decide (lo ≤ k) && decide (v ≠ dflt k) && Tab.wfFrom dflt (k + 1) r

/-- The canonical form. -/
def Tab.wf {α : Type} [DecidableEq α] (dflt : Nat → α) (t : Tab α) : Bool := Tab.wfFrom dflt 0 t

/-- A memory: bytes by address. -/
abbrev Memory := List Host.Cell

/-- The canonical form of a memory whose unlisted bytes read as `d` (DESIGN CHOICE, log 4). -/
def Memory.wf (d : Byte) (m : Memory) : Bool := Tab.wf (fun _ => d) m

/-- One byte of a memory. -/
def Memory.read (m : Memory) (a : Nat) (d : Byte) : Byte := Tab.get m a d

/-- Write one byte. -/
def Memory.write (m : Memory) (a : Nat) (b d : Byte) : Memory := Tab.set m a b d

/-- Write consecutive bytes from address `a`. -/
def Memory.writeList (m : Memory) (a : Nat) (bs : List Byte) (d : Byte) : Memory :=
  match bs with
  | [] => m
  | b :: r => Memory.writeList (Memory.write m a b d) (a + 1) r d

/-- `n` consecutive bytes from address `a`. -/
def Memory.readList (m : Memory) (a n : Nat) (d : Byte) : List Byte :=
  match n with
  | 0 => []
  | n + 1 => Memory.read m a d :: Memory.readList m (a + 1) n d

/-- A little-endian number from bytes. -/
def leNat : List Byte → Nat
  | [] => 0
  | b :: r => b.toNat + 256 * leNat r

/-- The `n` low bytes of a number, least significant first. -/
def leBytes (n v : Nat) : List Byte :=
  match n with
  | 0 => []
  | n + 1 => BitVec.ofNat 8 v :: leBytes n (v / 256)

/-- A big-endian number from bytes. -/
def beNat (bs : List Byte) : Nat := leNat bs.reverse

/-- The `n` low bytes of a number, most significant first. -/
def beBytes (n v : Nat) : List Byte := (leBytes n v).reverse

/-- Bits [lo+w−1:lo] of a number (`bits` of 00_scope.md). -/
def bitsOf (x lo w : Nat) : Nat := (x >>> lo) % 2 ^ w

/-- `x` with bits [lo+w−1:lo] replaced by `v`. -/
def setBits (x lo w v : Nat) : Nat := x - (bitsOf x lo w) <<< lo + (v % 2 ^ w) <<< lo

/-- Bit `i` of a number. -/
def bitAt (x i : Nat) : Bool := x.testBit i

/-- `sext` of 00_scope.md: an `n`-bit two's complement value. -/
def sextN (x n : Nat) : Int :=
  let y := x % 2 ^ n
  if n = 0 then 0 else if y < 2 ^ (n - 1) then (y : Int) else (y : Int) - (2 ^ n : Nat)

/-- The `n`-bit two's complement pattern of an integer. -/
def twos (x : Int) (n : Nat) : Nat := (x % ((2 ^ n : Nat) : Int)).toNat

/-- `sat` of 00_scope.md. -/
def satI (x lo hi : Int) : Int := if x < lo then lo else if x > hi then hi else x

/-- `rshift_round` of 00_scope.md: round half up, then shift. -/
def rshiftRound (x : Int) (s : Nat) : Int :=
  if s = 0 then x else (x + (2 ^ (s - 1) : Nat)) / (2 ^ s : Nat)

/-- Remove duplicates and sort a list of keys. -/
def insertKey (k : Nat) : List Nat → List Nat
  | [] => [k]
  | j :: r => if k = j then j :: r else if k < j then k :: j :: r else j :: insertKey k r

/-- Split a list into pieces of `n` elements; `fuel` bounds the number of pieces. -/
def chunks {α : Type} (fuel n : Nat) (l : List α) : List (List α) :=
  match fuel with
  | 0 => []
  | f + 1 => if l.isEmpty then [] else l.take n :: chunks f n (l.drop n)

end Sys2Proof.Machine
end

