-- ==== Sys2Proof/Machine/RegTable.lean ====
section
/-!
DEFINITION. The register fields of every page, descriptor and context, as the register tables of the chapters list them:
offset from the start of the page (or descriptor), distance and count of repeated fields, lowest bit, width, access code of
Table 0.5, reset value, and the range that a write is brought into. Reset values that the tables give as a name (board, boot, fuses,
journal, layout, strap, stepping, grade) are 0 here and are written by the step that knows them (PRESUMED, log 6).
-/

namespace Sys2Proof.Machine

/-- Access codes of Table 0.5 (R8). -/
inductive Acc where
  | ro | rw | rov | w1c | w1s | wo
  deriving DecidableEq, Repr

/-- One register field. -/
structure Fld where
  off : Nat
  stride : Nat
  cnt : Nat
  lo : Nat
  w : Nat
  acc : Acc
  reset : Nat := 0
  clampLo : Nat := 0
  clampHi : Nat := 0
  deriving DecidableEq, Repr

/-- The kinds of register page of Table 12.3, and the other register groups of BAR0. -/
inductive PageKind where
  | chip | dealer | clocks | power | security | pins | fetch | mmu | memport | loader | fault | rankctl | score | journal
  | hostport | ingress | glink | corectl | xnode | qeng | mtile | vtile | btile
  deriving DecidableEq, Repr

namespace Reg


/-! ### XNODE (Table 3.10, 03_fabric_and_tricks.md) -/

def XNODE.ROUND_M1 : Fld := ⟨0x40, 4, 4, 0, 8, .rw, 0xFF, 15, 255⟩
def XNODE.TRICK : Fld := ⟨0x50, 4, 4, 0, 8, .rov, 0x0, 0, 0⟩
def XNODE.HELD : Fld := ⟨0x50, 4, 4, 8, 1, .rov, 0x0, 0, 0⟩
def XNODE.TT_TRICK : Fld := ⟨0x80, 0, 1, 0, 8, .rw, 0x0, 0, 0⟩
def XNODE.TT_PORT : Fld := ⟨0x80, 0, 1, 8, 6, .rw, 0x0, 0, 0⟩
def XNODE.TT_STAGED : Fld := ⟨0x80, 0, 1, 30, 1, .rw, 0x0, 0, 0⟩
def XNODE.TT_AUTOINC : Fld := ⟨0x80, 0, 1, 31, 1, .rw, 0x0, 0, 0⟩
def XNODE.ENTRY : Fld := ⟨0x84, 0, 1, 0, 8, .rw, 0x20, 0, 0⟩
def XNODE.SWAP : Fld := ⟨0x88, 0, 1, 0, 4, .wo, 0x0, 0, 0⟩
def XNODE.LOCAL_FENCED : Fld := ⟨0x8C, 0, 1, 0, 1, .rov, 0x0, 0, 0⟩
def XNODE.NODE_ISOLATED : Fld := ⟨0x8C, 0, 1, 1, 1, .rov, 0x0, 0, 0⟩
def XNODE.NBR_ISO : Fld := ⟨0x8C, 0, 1, 4, 4, .rov, 0x0, 0, 0⟩
def XNODE.DROP_CNT : Fld := ⟨0x90, 0, 1, 0, 32, .rov, 0x0, 0, 0⟩
def XNODE.COLLIDE_CNT : Fld := ⟨0x94, 0, 1, 0, 32, .rov, 0x0, 0, 0⟩
def XNODE.BC_DROP_CNT : Fld := ⟨0x98, 0, 1, 0, 32, .rov, 0x0, 0, 0⟩
def XNODE.OWNER_A : Fld := ⟨0x60, 4, 8, 0, 32, .rov, 0x0, 0, 0⟩
def XNODE.OWNER_S : Fld := ⟨0xA0, 4, 8, 0, 32, .rw, 0x0, 0, 0⟩

/-! ### FQ (Table 4.3, 04_queues.md) -/

def FQ.NET : Fld := ⟨0x0, 0, 1, 0, 2, .rw, 0x0, 0, 0⟩
def FQ.DOM : Fld := ⟨0x0, 0, 1, 2, 2, .rw, 0x0, 0, 0⟩
def FQ.EN : Fld := ⟨0x0, 0, 1, 4, 1, .rw, 0x0, 0, 0⟩
def FQ.CLS : Fld := ⟨0x0, 0, 1, 5, 2, .rw, 0x1, 0, 0⟩
def FQ.PERSIST : Fld := ⟨0x0, 0, 1, 7, 1, .rw, 0x0, 0, 0⟩
def FQ.WIN_PROD : Fld := ⟨0x0, 0, 1, 8, 1, .rw, 0x0, 0, 0⟩
def FQ.WIN_CONS : Fld := ⟨0x0, 0, 1, 9, 1, .rw, 0x0, 0, 0⟩
def FQ.STALL_EMPTY : Fld := ⟨0x0, 0, 1, 10, 1, .rw, 0x0, 0, 0⟩
def FQ.HEAD_PORT : Fld := ⟨0x0, 0, 1, 11, 6, .rw, 0x0, 0, 0⟩
def FQ.HEAD_SLOT : Fld := ⟨0x0, 0, 1, 17, 3, .rw, 0x0, 0, 0⟩
def FQ.BODY_TILE : Fld := ⟨0x0, 0, 1, 20, 2, .rw, 0x0, 0, 0⟩
def FQ.BODY_BASE : Fld := ⟨0x4, 0, 1, 0, 15, .rw, 0x0, 0, 0⟩
def FQ.BODY_SIZE : Fld := ⟨0x4, 0, 1, 15, 16, .rw, 0x0, 0, 0⟩
def FQ.PROD_CORE : Fld := ⟨0x8, 0, 1, 0, 5, .rw, 0x0, 0, 0⟩
def FQ.PROD_UNIT : Fld := ⟨0x8, 0, 1, 5, 4, .rw, 0x0, 0, 0⟩
def FQ.PROD_CNT : Fld := ⟨0x8, 0, 1, 9, 4, .rw, 0x0, 0, 0⟩
def FQ.CRED_NONE : Fld := ⟨0x8, 0, 1, 13, 1, .rw, 0x0, 0, 0⟩
def FQ.OUT_CNT : Fld := ⟨0x8, 0, 1, 14, 4, .rw, 0x0, 0, 0⟩
def FQ.OUT_CRED : Fld := ⟨0x8, 0, 1, 18, 1, .rw, 0x0, 0, 0⟩
def FQ.COUNT : Fld := ⟨0xC, 0, 1, 0, 20, .rov, 0x0, 0, 0⟩
def FQ.OVR : Fld := ⟨0xC, 0, 1, 20, 1, .w1c, 0x0, 0, 0⟩
def FQ.PAR_ERR : Fld := ⟨0xC, 0, 1, 21, 1, .w1c, 0x0, 0, 0⟩
def FQ.Q_STALL_IN : Fld := ⟨0x10, 0, 1, 0, 32, .rov, 0x0, 0, 0⟩
def FQ.Q_STALL_FULL : Fld := ⟨0x14, 0, 1, 0, 32, .rov, 0x0, 0, 0⟩

/-! ### BQD (Table 4.6, 04_queues.md) -/

def BQD.DOM : Fld := ⟨0x0, 0, 1, 2, 2, .rw, 0x0, 0, 0⟩
def BQD.EN : Fld := ⟨0x0, 0, 1, 4, 1, .rw, 0x0, 0, 0⟩
def BQD.CLS : Fld := ⟨0x0, 0, 1, 5, 2, .rw, 0x1, 0, 0⟩
def BQD.PKT : Fld := ⟨0x0, 0, 1, 7, 1, .rw, 0x0, 0, 0⟩
def BQD.HOLD_SRC : Fld := ⟨0x0, 0, 1, 8, 1, .rw, 0x0, 0, 0⟩
def BQD.DIR : Fld := ⟨0x0, 0, 1, 9, 1, .rw, 0x0, 0, 0⟩
def BQD.STALL_EMPTY : Fld := ⟨0x0, 0, 1, 10, 1, .rw, 0x0, 0, 0⟩
def BQD.WIN : Fld := ⟨0x0, 0, 1, 11, 1, .rw, 0x0, 0, 0⟩
def BQD.LOG2CAP : Fld := ⟨0x0, 0, 1, 12, 4, .rw, 0x4, 0, 0⟩
def BQD.BASE : Fld := ⟨0x0, 0, 1, 16, 16, .rw, 0x0, 0, 0⟩
def BQD.THRESH : Fld := ⟨0x4, 0, 1, 0, 15, .rw, 0x0, 0, 0⟩
def BQD.NOTIFY_EN : Fld := ⟨0x4, 0, 1, 15, 1, .rw, 0x0, 0, 0⟩
def BQD.PKT_LEN : Fld := ⟨0x4, 0, 1, 16, 15, .rw, 0x0, 0, 0⟩
def BQD.TIMEOUT : Fld := ⟨0x8, 0, 1, 0, 20, .rw, 0x0, 0, 1000000⟩
def BQD.PKT_PAD : Fld := ⟨0x8, 0, 1, 20, 5, .rw, 0x0, 0, 0⟩
def BQD.B_STALL : Fld := ⟨0xC, 0, 1, 0, 32, .rov, 0x0, 0, 0⟩
def BQD.WPTR : Fld := ⟨0x10, 0, 1, 0, 16, .rov, 0x0, 0, 0⟩
def BQD.RPTR : Fld := ⟨0x10, 0, 1, 16, 16, .rov, 0x0, 0, 0⟩
def BQD.OVERRUN : Fld := ⟨0x14, 0, 1, 0, 1, .w1c, 0x0, 0, 0⟩
def BQD.TAIL : Fld := ⟨0x14, 0, 1, 1, 1, .w1c, 0x0, 0, 0⟩
def BQD.RESETTING : Fld := ⟨0x14, 0, 1, 2, 1, .rov, 0x0, 0, 0⟩
def BQD.MISMATCH : Fld := ⟨0x14, 0, 1, 3, 1, .w1c, 0x0, 0, 0⟩
def BQD.NOTE : Fld := ⟨0x14, 0, 1, 4, 1, .w1c, 0x0, 0, 0⟩
def BQD.LOST_PKT : Fld := ⟨0x14, 0, 1, 16, 16, .rov, 0x0, 0, 0⟩

/-! ### QENG (Table 4.9, 04_queues.md) -/

def QENG.QSTALL_MAX : Fld := ⟨0x40, 0, 1, 0, 10, .rw, 0x32, 1, 1000⟩
def QENG.TRICK : Fld := ⟨0x44, 0, 1, 0, 8, .rw, 0x0, 0, 0⟩
def QENG.PORT : Fld := ⟨0x44, 0, 1, 8, 6, .rw, 0x0, 0, 0⟩
def QENG.STAGED : Fld := ⟨0x44, 0, 1, 30, 1, .rw, 0x0, 0, 0⟩
def QENG.AUTOINC : Fld := ⟨0x44, 0, 1, 31, 1, .rw, 0x0, 0, 0⟩
def QENG.LT_DATA : Fld := ⟨0x48, 0, 1, 0, 16, .rw, 0x0, 0, 0⟩
def QENG.ACTIVE_Q : Fld := ⟨0x4C, 0, 1, 0, 11, .rov, 0x0, 0, 0⟩
def QENG.OVR_QUEUE : Fld := ⟨0x50, 0, 1, 0, 11, .rov, 0x0, 0, 0⟩
def QENG.OVR_VALID : Fld := ⟨0x50, 0, 1, 31, 1, .w1c, 0x0, 0, 0⟩
def QENG.ECNT : Fld := ⟨0x80, 4, 16, 0, 20, .rw, 0x0, 0, 0⟩
def QENG.E_EXEMPT : Fld := ⟨0x80, 4, 16, 20, 1, .rw, 0x0, 0, 0⟩
def QENG.ECAP : Fld := ⟨0xC0, 4, 16, 0, 20, .rw, 0x0, 0, 0⟩
def QENG.QCNT : Fld := ⟨0x100, 4, 16, 0, 20, .rw, 0x0, 0, 0⟩
def QENG.Q_EXEMPT : Fld := ⟨0x100, 4, 16, 20, 1, .rw, 0x0, 0, 0⟩
def QENG.QCAP : Fld := ⟨0x140, 4, 16, 0, 20, .rw, 0x0, 0, 0⟩

/-! ### BQR (Table 4.11, 04_queues.md) -/

def BQR.QSTALL_MAX : Fld := ⟨0x40, 0, 1, 0, 10, .rw, 0x32, 1, 1000⟩
def BQR.MISMATCH_CNT : Fld := ⟨0x44, 0, 1, 0, 32, .rov, 0x0, 0, 0⟩
def BQR.FIRST_OVR : Fld := ⟨0x48, 0, 1, 0, 12, .rov, 0x0, 0, 0⟩
def BQR.FIRST_OVR_VALID : Fld := ⟨0x48, 0, 1, 31, 1, .w1c, 0x0, 0, 0⟩
def BQR.LOST_TOTAL : Fld := ⟨0x4C, 0, 1, 0, 32, .rov, 0x0, 0, 0⟩
def BQR.NOTE_OBJ : Fld := ⟨0x50, 0, 1, 0, 13, .rw, 0x0, 0, 0⟩
def BQR.NOTE_EN : Fld := ⟨0x50, 0, 1, 13, 1, .rw, 0x0, 0, 0⟩

/-! ### MTILE (Table 5.9, 05_multiplier_tiles.md) -/

def MTILE.PROG_LEN_M1 : Fld := ⟨0x40, 0, 1, 0, 8, .rw, 0xFF, 0, 0⟩
def MTILE.PC : Fld := ⟨0x40, 0, 1, 8, 8, .rov, 0x0, 0, 0⟩
def MTILE.LOOP_DEPTH : Fld := ⟨0x40, 0, 1, 16, 3, .rov, 0x0, 0, 0⟩
def MTILE.ACTIVE_HALF : Fld := ⟨0x44, 0, 1, 0, 1, .rov, 0x0, 0, 0⟩
def MTILE.WP : Fld := ⟨0x48, 0, 1, 0, 12, .rov, 0x0, 0, 0⟩
def MTILE.EP : Fld := ⟨0x4C, 0, 1, 0, 10, .rov, 0x0, 0, 0⟩
def MTILE.WS_CORR : Fld := ⟨0x50, 0, 1, 0, 32, .rov, 0x0, 0, 0⟩
def MTILE.WS_DROP : Fld := ⟨0x54, 0, 1, 0, 32, .rov, 0x0, 0, 0⟩
def MTILE.ACC_SAT_CNT : Fld := ⟨0x58, 0, 1, 0, 32, .rov, 0x0, 0, 0⟩
def MTILE.ESC_CYCLES : Fld := ⟨0x5C, 0, 1, 0, 32, .rov, 0x0, 0, 0⟩
def MTILE.SKEW_CNT : Fld := ⟨0x60, 0, 1, 0, 32, .rov, 0x0, 0, 0⟩
def MTILE.DTAG : Fld := ⟨0x64, 0, 1, 0, 4, .rov, 0x0, 0, 0⟩
def MTILE.STAG : Fld := ⟨0x64, 0, 1, 4, 4, .rov, 0x0, 0, 0⟩
def MTILE.SKEW_VALID : Fld := ⟨0x64, 0, 1, 31, 1, .w1c, 0x0, 0, 0⟩
def MTILE.ILL_ADDR : Fld := ⟨0x68, 0, 1, 0, 8, .rov, 0x0, 0, 0⟩
def MTILE.ILL_REASON : Fld := ⟨0x68, 0, 1, 8, 4, .rov, 0x0, 0, 0⟩
def MTILE.ILL_VALID : Fld := ⟨0x68, 0, 1, 31, 1, .w1c, 0x0, 0, 0⟩
def MTILE.CCNT : Fld := ⟨0x80, 4, 16, 0, 20, .rw, 0x0, 0, 0⟩
def MTILE.EXEMPT : Fld := ⟨0x80, 4, 16, 20, 1, .rw, 0x0, 0, 0⟩
def MTILE.CCAP : Fld := ⟨0xC0, 4, 16, 0, 20, .rw, 0x0, 0, 0⟩
def MTILE.PI_INDEX : Fld := ⟨0x100, 0, 1, 0, 8, .rw, 0x0, 0, 0⟩
def MTILE.PI_STAGED : Fld := ⟨0x100, 0, 1, 30, 1, .rw, 0x0, 0, 0⟩
def MTILE.PI_AUTOINC : Fld := ⟨0x100, 0, 1, 31, 1, .rw, 0x0, 0, 0⟩
def MTILE.PI_LO : Fld := ⟨0x104, 0, 1, 0, 32, .rw, 0x0, 0, 0⟩
def MTILE.PI_HI : Fld := ⟨0x108, 0, 1, 0, 32, .rw, 0x0, 0, 0⟩
def MTILE.DI_INDEX : Fld := ⟨0x10C, 0, 1, 0, 4, .rw, 0x0, 0, 0⟩
def MTILE.DI_WORD : Fld := ⟨0x10C, 0, 1, 4, 1, .rw, 0x0, 0, 0⟩
def MTILE.DI_STAGED : Fld := ⟨0x10C, 0, 1, 30, 1, .rw, 0x0, 0, 0⟩
def MTILE.DI_AUTOINC : Fld := ⟨0x10C, 0, 1, 31, 1, .rw, 0x0, 0, 0⟩
def MTILE.DI_LO : Fld := ⟨0x110, 0, 1, 0, 32, .rw, 0x0, 0, 0⟩
def MTILE.DI_HI : Fld := ⟨0x114, 0, 1, 0, 32, .rw, 0x0, 0, 0⟩

/-! ### VTILE (Table 6.16, 06_vector_tiles.md) -/

def VTILE.PROG_LEN_M1 : Fld := ⟨0x40, 0, 1, 0, 9, .rw, 0x1FF, 0, 0⟩
def VTILE.PC : Fld := ⟨0x40, 0, 1, 9, 9, .rov, 0x0, 0, 0⟩
def VTILE.LOOP_DEPTH : Fld := ⟨0x40, 0, 1, 18, 3, .rov, 0x0, 0, 0⟩
def VTILE.EP : Fld := ⟨0x44, 0, 1, 0, 24, .rov, 0x0, 0, 0⟩
def VTILE.BOXQ : Fld := ⟨0x48, 0, 1, 0, 7, .rov, 0x0, 0, 0⟩
def VTILE.TOPK_N : Fld := ⟨0x48, 0, 1, 7, 11, .rov, 0x0, 0, 0⟩
def VTILE.SCR_CORR : Fld := ⟨0x4C, 0, 1, 0, 32, .rov, 0x0, 0, 0⟩
def VTILE.ACC_SAT_CNT : Fld := ⟨0x50, 0, 1, 0, 32, .rov, 0x0, 0, 0⟩
def VTILE.NAN_CNT : Fld := ⟨0x54, 0, 1, 0, 32, .rov, 0x0, 0, 0⟩
def VTILE.SEQ_ERR_CNT : Fld := ⟨0x58, 0, 1, 0, 32, .rov, 0x0, 0, 0⟩
def VTILE.TSEQ : Fld := ⟨0x5C, 0, 1, 0, 2, .rov, 0x0, 0, 0⟩
def VTILE.S0SEQ : Fld := ⟨0x5C, 0, 1, 2, 2, .rov, 0x0, 0, 0⟩
def VTILE.S1SEQ : Fld := ⟨0x5C, 0, 1, 4, 2, .rov, 0x0, 0, 0⟩
def VTILE.SEQ_VALID : Fld := ⟨0x5C, 0, 1, 31, 1, .w1c, 0x0, 0, 0⟩
def VTILE.ILL_ADDR : Fld := ⟨0x60, 0, 1, 0, 9, .rov, 0x0, 0, 0⟩
def VTILE.ILL_REASON : Fld := ⟨0x60, 0, 1, 9, 4, .rov, 0x0, 0, 0⟩
def VTILE.ILL_VALID : Fld := ⟨0x60, 0, 1, 31, 1, .w1c, 0x0, 0, 0⟩
def VTILE.CCNT : Fld := ⟨0x80, 4, 16, 0, 20, .rw, 0x0, 0, 0⟩
def VTILE.EXEMPT : Fld := ⟨0x80, 4, 16, 20, 1, .rw, 0x0, 0, 0⟩
def VTILE.CCAP : Fld := ⟨0xC0, 4, 16, 0, 20, .rw, 0x0, 0, 0⟩
def VTILE.SQ_EN : Fld := ⟨0x100, 4, 16, 0, 1, .rw, 0x0, 0, 0⟩
def VTILE.SQ_ITEM_M1 : Fld := ⟨0x100, 4, 16, 1, 8, .rw, 0x0, 0, 0⟩
def VTILE.SQ : Fld := ⟨0x100, 4, 16, 9, 2, .rov, 0x0, 0, 0⟩
def VTILE.PI_INDEX : Fld := ⟨0x140, 0, 1, 0, 9, .rw, 0x0, 0, 0⟩
def VTILE.PI_STAGED : Fld := ⟨0x140, 0, 1, 30, 1, .rw, 0x0, 0, 0⟩
def VTILE.PI_AUTOINC : Fld := ⟨0x140, 0, 1, 31, 1, .rw, 0x0, 0, 0⟩
def VTILE.PI_LO : Fld := ⟨0x144, 0, 1, 0, 32, .rw, 0x0, 0, 0⟩
def VTILE.PI_HI : Fld := ⟨0x148, 0, 1, 0, 32, .rw, 0x0, 0, 0⟩
def VTILE.DI_INDEX : Fld := ⟨0x14C, 0, 1, 0, 4, .rw, 0x0, 0, 0⟩
def VTILE.DI_WORD : Fld := ⟨0x14C, 0, 1, 4, 1, .rw, 0x0, 0, 0⟩
def VTILE.DI_STAGED : Fld := ⟨0x14C, 0, 1, 30, 1, .rw, 0x0, 0, 0⟩
def VTILE.DI_AUTOINC : Fld := ⟨0x14C, 0, 1, 31, 1, .rw, 0x0, 0, 0⟩
def VTILE.DI_LO : Fld := ⟨0x150, 0, 1, 0, 32, .rw, 0x0, 0, 0⟩
def VTILE.DI_HI : Fld := ⟨0x154, 0, 1, 0, 32, .rw, 0x0, 0, 0⟩
def VTILE.FT_TABLE : Fld := ⟨0x158, 0, 1, 0, 3, .rw, 0x0, 0, 0⟩
def VTILE.FT_ENTRY : Fld := ⟨0x158, 0, 1, 3, 7, .rw, 0x0, 0, 0⟩
def VTILE.FT_STAGED : Fld := ⟨0x158, 0, 1, 30, 1, .rw, 0x0, 0, 0⟩
def VTILE.FT_AUTOINC : Fld := ⟨0x158, 0, 1, 31, 1, .rw, 0x0, 0, 0⟩
def VTILE.FT_LO : Fld := ⟨0x15C, 0, 1, 0, 32, .rw, 0x0, 0, 0⟩
def VTILE.FT_HI : Fld := ⟨0x160, 0, 1, 0, 32, .rw, 0x0, 0, 0⟩
def VTILE.CH : Fld := ⟨0x1C0, 4, 16, 0, 12, .rov, 0x0, 0, 0⟩

/-! ### BMD (Table 7.4, 07_buffer_tiles_and_stripes.md) -/

def BMD.QUEUE : Fld := ⟨0x0, 0, 1, 0, 11, .rw, 0x0, 0, 0⟩
def BMD.MODE : Fld := ⟨0x0, 0, 1, 11, 3, .rw, 0x0, 0, 0⟩
def BMD.QUEUE2 : Fld := ⟨0x0, 0, 1, 14, 11, .rw, 0x0, 0, 0⟩
def BMD.DUAL : Fld := ⟨0x0, 0, 1, 25, 2, .rw, 0x0, 0, 0⟩
def BMD.ORDER : Fld := ⟨0x0, 0, 1, 27, 1, .rw, 0x0, 0, 0⟩
def BMD.PADROW : Fld := ⟨0x0, 0, 1, 28, 1, .rw, 0x0, 0, 0⟩
def BMD.PFMT : Fld := ⟨0x0, 0, 1, 29, 1, .rw, 0x0, 0, 0⟩
def BMD.CHAIN : Fld := ⟨0x0, 0, 1, 30, 1, .rw, 0x0, 0, 0⟩
def BMD.IH_M1 : Fld := ⟨0x4, 0, 1, 0, 12, .rw, 0x0, 0, 0⟩
def BMD.CH_M1 : Fld := ⟨0x4, 0, 1, 12, 12, .rw, 0x0, 0, 0⟩
def BMD.FPR_M1 : Fld := ⟨0x4, 0, 1, 24, 7, .rw, 0x0, 0, 0⟩
def BMD.KH_M1 : Fld := ⟨0x8, 0, 1, 0, 3, .rw, 0x0, 0, 0⟩
def BMD.SV_M1 : Fld := ⟨0x8, 0, 1, 3, 3, .rw, 0x0, 0, 0⟩
def BMD.DV_M1 : Fld := ⟨0x8, 0, 1, 6, 2, .rw, 0x0, 0, 0⟩
def BMD.PT : Fld := ⟨0x8, 0, 1, 8, 3, .rw, 0x0, 0, 0⟩
def BMD.PB : Fld := ⟨0x8, 0, 1, 11, 3, .rw, 0x0, 0, 0⟩
def BMD.NR : Fld := ⟨0x8, 0, 1, 14, 15, .rw, 0x0, 0, 0⟩
def BMD.PADVAL : Fld := ⟨0xC, 0, 1, 0, 16, .rw, 0x0, 0, 0⟩
def BMD.NEXT : Fld := ⟨0xC, 0, 1, 16, 4, .rw, 0x0, 0, 0⟩
def BMD.NSEG_M1 : Fld := ⟨0x10, 0, 1, 0, 6, .rw, 0x0, 0, 0⟩
def BMD.SADV : Fld := ⟨0x10, 0, 1, 6, 7, .rw, 0x0, 0, 0⟩
def BMD.SPRE : Fld := ⟨0x10, 0, 1, 13, 3, .rw, 0x0, 0, 0⟩
def BMD.SSPAN_M1 : Fld := ⟨0x10, 0, 1, 16, 7, .rw, 0x0, 0, 0⟩
def BMD.LASTF : Fld := ⟨0x10, 0, 1, 23, 7, .rw, 0x0, 0, 0⟩
def BMD.MODEARG : Fld := ⟨0x14, 0, 1, 0, 32, .rw, 0x0, 0, 0⟩
def BMD.OROW : Fld := ⟨0x18, 0, 1, 0, 12, .rov, 0x0, 0, 0⟩
def BMD.LROW : Fld := ⟨0x18, 0, 1, 12, 12, .rov, 0x0, 0, 0⟩
def BMD.CUR : Fld := ⟨0x18, 0, 1, 24, 4, .rov, 0x0, 0, 0⟩

/-! ### BTILE (Table 7.9, 07_buffer_tiles_and_stripes.md) -/

def BTILE.STAGED : Fld := ⟨0x40, 0, 1, 0, 1, .rw, 0x0, 0, 0⟩
def BTILE.SCRUB_PERIOD : Fld := ⟨0x44, 0, 1, 0, 16, .rw, 0x3E8, 1, 65535⟩
def BTILE.SCRUB_EN : Fld := ⟨0x44, 0, 1, 16, 1, .rw, 0x1, 0, 0⟩
def BTILE.BT_CORR : Fld := ⟨0x48, 0, 1, 0, 32, .rov, 0x0, 0, 0⟩
def BTILE.UE_CNT : Fld := ⟨0x4C, 0, 1, 0, 32, .rov, 0x0, 0, 0⟩
def BTILE.UE_ADDR : Fld := ⟨0x50, 0, 1, 0, 17, .rov, 0x0, 0, 0⟩
def BTILE.UE_SCRUB : Fld := ⟨0x50, 0, 1, 17, 1, .rov, 0x0, 0, 0⟩
def BTILE.UE_VALID : Fld := ⟨0x50, 0, 1, 31, 1, .w1c, 0x0, 0, 0⟩
def BTILE.WADDR : Fld := ⟨0x54, 0, 1, 0, 17, .rov, 0x0, 0, 0⟩
def BTILE.WPORT : Fld := ⟨0x54, 0, 1, 17, 2, .rov, 0x0, 0, 0⟩
def BTILE.WDOM : Fld := ⟨0x54, 0, 1, 19, 2, .rov, 0x0, 0, 0⟩
def BTILE.BULK : Fld := ⟨0x54, 0, 1, 21, 1, .rov, 0x0, 0, 0⟩
def BTILE.W_VALID : Fld := ⟨0x54, 0, 1, 31, 1, .w1c, 0x0, 0, 0⟩
def BTILE.SLIP_CNT : Fld := ⟨0x60, 4, 4, 0, 32, .rov, 0x0, 0, 0⟩
def BTILE.PWAIT_CNT : Fld := ⟨0x70, 0, 1, 0, 32, .rov, 0x0, 0, 0⟩
def BTILE.WIN_LO : Fld := ⟨0x80, 8, 16, 0, 17, .rw, 0x1FFFF, 0, 0⟩
def BTILE.WIN_HI : Fld := ⟨0x84, 8, 16, 0, 17, .rw, 0x0, 0, 0⟩
def BTILE.BW_LO : Fld := ⟨0x100, 0, 1, 0, 17, .rw, 0x0, 0, 0⟩
def BTILE.BW_HI : Fld := ⟨0x104, 0, 1, 0, 17, .rw, 0x1FFFF, 0, 0⟩
def BTILE.PROTECT : Fld := ⟨0x108, 0, 1, 0, 1, .rw, 0x1, 0, 0⟩
def BTILE.IMG_LO : Fld := ⟨0x110, 8, 4, 0, 17, .rw, 0x1FFFF, 0, 0⟩
def BTILE.IMG_HI : Fld := ⟨0x114, 8, 4, 0, 17, .rw, 0x0, 0, 0⟩

/-! ### FETCH (Table 8.8, 08_fetch_memory_translation.md) -/

def FETCH.FLT_STREAM : Fld := ⟨0x60, 0, 1, 0, 6, .rov, 0x0, 0, 0⟩
def FETCH.FLT_KIND : Fld := ⟨0x60, 0, 1, 6, 2, .rov, 0x0, 0, 0⟩
def FETCH.FLT_LEVEL : Fld := ⟨0x60, 0, 1, 8, 2, .rov, 0x0, 0, 0⟩
def FETCH.FLT_LOCKED : Fld := ⟨0x60, 0, 1, 10, 1, .rov, 0x0, 0, 0⟩
def FETCH.FLT_VALID : Fld := ⟨0x60, 0, 1, 31, 1, .w1c, 0x0, 0, 0⟩
def FETCH.FLT_VA_LO : Fld := ⟨0x64, 0, 1, 0, 32, .rov, 0x0, 0, 0⟩
def FETCH.FLT_VA_HI : Fld := ⟨0x68, 0, 1, 0, 16, .rov, 0x0, 0, 0⟩
def FETCH.XLATE_WAIT : Fld := ⟨0x6C, 0, 1, 0, 16, .rw, 0xA, 0, 0⟩
def FETCH.DISCARD_CNT : Fld := ⟨0x70, 0, 1, 0, 32, .rov, 0x0, 0, 0⟩
def FETCH.TIMEOUT_CNT : Fld := ⟨0x74, 0, 1, 0, 32, .rov, 0x0, 0, 0⟩
def FETCH.TAGS_OUT : Fld := ⟨0x78, 0, 1, 0, 9, .rov, 0x0, 0, 0⟩
def FETCH.EPOCH : Fld := ⟨0x600, 8, 64, 0, 8, .rov, 0x0, 0, 0⟩
def FETCH.STATE : Fld := ⟨0x600, 8, 64, 8, 3, .rov, 0x0, 0, 0⟩
def FETCH.STALE : Fld := ⟨0x600, 8, 64, 11, 9, .rov, 0x0, 0, 0⟩
def FETCH.CANCEL : Fld := ⟨0x600, 8, 64, 21, 1, .wo, 0x0, 0, 0⟩
def FETCH.RESOLVE : Fld := ⟨0x600, 8, 64, 22, 2, .wo, 0x0, 0, 0⟩
def FETCH.CSYNC : Fld := ⟨0x604, 8, 64, 0, 13, .rw, 0x0, 0, 0⟩
def FETCH.CSYNC_EN : Fld := ⟨0x604, 8, 64, 13, 1, .rw, 0x0, 0, 0⟩

/-! ### GSLOT (Table 8.9, 08_fetch_memory_translation.md) -/

def GSLOT.BASE_LO : Fld := ⟨0x0, 0, 1, 0, 32, .rw, 0x0, 0, 0⟩
def GSLOT.BASE_HI : Fld := ⟨0x4, 0, 1, 0, 16, .rw, 0x0, 0, 0⟩
def GSLOT.GFMT : Fld := ⟨0x4, 0, 1, 16, 2, .rw, 0x0, 0, 0⟩
def GSLOT.GEN : Fld := ⟨0x4, 0, 1, 18, 1, .rw, 0x0, 0, 0⟩
def GSLOT.CH_M1 : Fld := ⟨0x4, 0, 1, 20, 12, .rw, 0x0, 0, 0⟩
def GSLOT.FW_M1 : Fld := ⟨0x8, 0, 1, 0, 12, .rw, 0x0, 0, 0⟩
def GSLOT.FH_M1 : Fld := ⟨0x8, 0, 1, 12, 12, .rw, 0x0, 0, 0⟩

/-! ### MMU (Table 8.12, 08_fetch_memory_translation.md) -/

def MMU.EN : Fld := ⟨0x40, 16, 5, 0, 1, .rw, 0x0, 0, 0⟩
def MMU.ROOT_LO : Fld := ⟨0x40, 16, 5, 12, 20, .rw, 0x0, 0, 0⟩
def MMU.ROOT_HI : Fld := ⟨0x44, 16, 5, 0, 16, .rw, 0x0, 0, 0⟩
def MMU.PINNED : Fld := ⟨0x48, 16, 5, 0, 9, .rov, 0x0, 0, 0⟩
def MMU.HOST_OFFSET : Fld := ⟨0x90, 4, 2, 0, 32, .rw, 0x0, 0, 0⟩
def MMU.OP_VA_LO : Fld := ⟨0xA0, 0, 1, 0, 32, .rw, 0x0, 0, 0⟩
def MMU.OP_VA_HI : Fld := ⟨0xA4, 0, 1, 0, 16, .rw, 0x0, 0, 0⟩
def MMU.OP_AS : Fld := ⟨0xA4, 0, 1, 16, 3, .rw, 0x0, 0, 0⟩
def MMU.OP_LEN : Fld := ⟨0xA8, 0, 1, 0, 20, .rw, 0x0, 0, 0⟩
def MMU.FORCE : Fld := ⟨0xA8, 0, 1, 28, 1, .rw, 0x0, 0, 0⟩
def MMU.INVAL : Fld := ⟨0xA8, 0, 1, 29, 1, .wo, 0x0, 0, 0⟩
def MMU.UNLOCK : Fld := ⟨0xA8, 0, 1, 30, 1, .wo, 0x0, 0, 0⟩
def MMU.LOCK : Fld := ⟨0xA8, 0, 1, 31, 1, .wo, 0x0, 0, 0⟩
def MMU.BUSY : Fld := ⟨0xAC, 0, 1, 0, 1, .rov, 0x0, 0, 0⟩
def MMU.REFUSED : Fld := ⟨0xAC, 0, 1, 1, 1, .w1c, 0x0, 0, 0⟩
def MMU.FAIL : Fld := ⟨0xAC, 0, 1, 2, 1, .w1c, 0x0, 0, 0⟩
def MMU.FAIL_KIND : Fld := ⟨0xAC, 0, 1, 3, 2, .rov, 0x0, 0, 0⟩
def MMU.FREE : Fld := ⟨0xAC, 0, 1, 16, 9, .rov, 0x100, 0, 0⟩

/-! ### MEMPORT (Table 8.13, 08_fetch_memory_translation.md) -/

def MEMPORT.PRESENT : Fld := ⟨0x40, 0, 1, 0, 1, .ro, 0x0, 0, 0⟩
def MEMPORT.DENS : Fld := ⟨0x40, 0, 1, 1, 2, .ro, 0x0, 0, 0⟩
def MEMPORT.CAP : Fld := ⟨0x40, 0, 1, 8, 8, .ro, 0x0, 0, 0⟩
def MEMPORT.RSV : Fld := ⟨0x44, 4, 4, 0, 6, .rw, 0x0, 0, 0⟩
def MEMPORT.TAGA : Fld := ⟨0x54, 0, 1, 0, 8, .rw, 0x0, 0, 192⟩
def MEMPORT.SCRUB_HOURS : Fld := ⟨0x58, 0, 1, 0, 16, .rw, 0x18, 1, 65535⟩
def MEMPORT.SCRUB_EN : Fld := ⟨0x58, 0, 1, 16, 1, .rw, 0x1, 0, 0⟩
def MEMPORT.CORR_CNT : Fld := ⟨0x5C, 0, 1, 0, 32, .rov, 0x0, 0, 0⟩
def MEMPORT.UE_CNT : Fld := ⟨0x60, 0, 1, 0, 32, .rov, 0x0, 0, 0⟩
def MEMPORT.UE_PA_LO : Fld := ⟨0x64, 0, 1, 0, 32, .rov, 0x0, 0, 0⟩
def MEMPORT.UE_PA_HI : Fld := ⟨0x68, 0, 1, 0, 16, .rov, 0x0, 0, 0⟩
def MEMPORT.UE_SCRUB : Fld := ⟨0x68, 0, 1, 16, 1, .rov, 0x0, 0, 0⟩
def MEMPORT.UE_VALID : Fld := ⟨0x68, 0, 1, 31, 1, .w1c, 0x0, 0, 0⟩
def MEMPORT.DEV_WARN : Fld := ⟨0x6C, 0, 1, 0, 16, .rw, 0x100, 0, 0⟩
def MEMPORT.CORR_DEV : Fld := ⟨0x70, 4, 10, 0, 32, .rov, 0x0, 0, 0⟩
def MEMPORT.TRN_LEN : Fld := ⟨0xA0, 4, 10, 0, 16, .rov, 0x0, 0, 0⟩
def MEMPORT.PS_PER_MM : Fld := ⟨0xD0, 0, 1, 0, 8, .rw, 0x46, 0, 0⟩
def MEMPORT.RTT_MAX : Fld := ⟨0xD4, 0, 1, 0, 16, .rov, 0x0, 0, 0⟩
def MEMPORT.RTT_CLR : Fld := ⟨0xD4, 0, 1, 31, 1, .wo, 0x0, 0, 0⟩
def MEMPORT.IMG_LO : Fld := ⟨0xE0, 8, 8, 0, 32, .rw, 0xFFFFFFFF, 0, 0⟩
def MEMPORT.IMG_HI : Fld := ⟨0xE4, 8, 8, 0, 32, .rw, 0x0, 0, 0⟩

/-! ### LOADER (Table 9.12, 09_images_and_overlays.md) -/

def LOADER.BUSY : Fld := ⟨0x40, 0, 1, 0, 1, .rov, 0x0, 0, 0⟩
def LOADER.CUR_DOM : Fld := ⟨0x40, 0, 1, 1, 2, .rov, 0x0, 0, 0⟩
def LOADER.LAST_RESULT : Fld := ⟨0x40, 0, 1, 8, 8, .rov, 0x0, 0, 0⟩
def LOADER.LAST_DOM : Fld := ⟨0x40, 0, 1, 16, 2, .rov, 0x0, 0, 0⟩
def LOADER.LAST_CMD : Fld := ⟨0x40, 0, 1, 18, 4, .rov, 0x0, 0, 0⟩
def LOADER.LAST_DETAIL : Fld := ⟨0x44, 0, 1, 0, 32, .rov, 0x0, 0, 0⟩
def LOADER.KEY_LATCH : Fld := ⟨0x48, 0, 1, 0, 1, .wo, 0x0, 0, 0⟩
def LOADER.KEY_EPOCH : Fld := ⟨0x4C, 0, 1, 0, 32, .rov, 0x0, 0, 0⟩
def LOADER.KEY : Fld := ⟨0x50, 4, 8, 0, 32, .rov, 0x0, 0, 0⟩
def LOADER.FW_DIGEST : Fld := ⟨0x70, 4, 8, 0, 32, .ro, 0x0, 0, 0⟩
def LOADER.LAT_VER : Fld := ⟨0x90, 0, 1, 0, 8, .ro, 0x1, 0, 0⟩
def LOADER.LAT_CHIP : Fld := ⟨0xA0, 4, 16, 0, 8, .ro, 0x0, 0, 0⟩

/-! ### LDOM (Table 9.13, 09_images_and_overlays.md) -/

def LDOM.STATE : Fld := ⟨0x0, 0, 1, 0, 3, .rov, 0x0, 0, 0⟩
def LDOM.HELD : Fld := ⟨0x0, 0, 1, 3, 1, .rov, 0x0, 0, 0⟩
def LDOM.MODE : Fld := ⟨0x0, 0, 1, 4, 4, .rov, 0x0, 0, 0⟩
def LDOM.FOLDED : Fld := ⟨0x0, 0, 1, 8, 1, .rov, 0x0, 0, 0⟩
def LDOM.FOLD_SQ : Fld := ⟨0x0, 0, 1, 9, 5, .rov, 0x0, 0, 0⟩
def LDOM.MODE_DROPPED : Fld := ⟨0x0, 0, 1, 14, 1, .w1c, 0x0, 0, 0⟩
def LDOM.SEG : Fld := ⟨0x0, 0, 1, 15, 3, .rov, 0x0, 0, 0⟩
def LDOM.NSEG_M1 : Fld := ⟨0x0, 0, 1, 18, 3, .rov, 0x0, 0, 0⟩
def LDOM.FOFF : Fld := ⟨0x0, 0, 1, 21, 3, .rov, 0x0, 0, 0⟩
def LDOM.ROFF : Fld := ⟨0x0, 0, 1, 24, 2, .rov, 0x0, 0, 0⟩
def LDOM.VW_M1 : Fld := ⟨0x0, 0, 1, 26, 3, .rov, 0x0, 0, 0⟩
def LDOM.VH_M1 : Fld := ⟨0x0, 0, 1, 29, 2, .rov, 0x0, 0, 0⟩
def LDOM.HOLD_LIMIT : Fld := ⟨0x4, 0, 1, 0, 20, .rw, 0x3E8, 10, 1000000⟩
def LDOM.SCHED_LAT : Fld := ⟨0x8, 0, 1, 0, 32, .rov, 0x0, 0, 0⟩
def LDOM.PHI : Fld := ⟨0xC, 0, 1, 0, 9, .rov, 0x0, 0, 0⟩
def LDOM.FRAME : Fld := ⟨0x10, 0, 1, 0, 32, .rov, 0x0, 0, 0⟩
def LDOM.SKIPPED : Fld := ⟨0x14, 0, 1, 0, 32, .rov, 0x0, 0, 0⟩
def LDOM.EQ_LO : Fld := ⟨0x18, 0, 1, 0, 32, .rov, 0x0, 0, 0⟩
def LDOM.EQ_HI : Fld := ⟨0x1C, 0, 1, 0, 32, .rov, 0x0, 0, 0⟩
def LDOM.APPLY_CNT : Fld := ⟨0x20, 0, 1, 0, 32, .rov, 0x0, 0, 0⟩
def LDOM.RESTORE_CNT : Fld := ⟨0x24, 0, 1, 0, 32, .rov, 0x0, 0, 0⟩
def LDOM.BASE_DIGEST : Fld := ⟨0x40, 4, 8, 0, 32, .rov, 0x0, 0, 0⟩

/-! ### FAULT (Table 10.7, 10_faults_and_fencing.md) -/

def FAULT.FIRST_PAGE : Fld := ⟨0x40, 0, 1, 0, 12, .rov, 0x0, 0, 0⟩
def FAULT.FIRST_CAUSE : Fld := ⟨0x40, 0, 1, 12, 4, .rov, 0x0, 0, 0⟩
def FAULT.FIRST_PRIV : Fld := ⟨0x40, 0, 1, 16, 1, .rov, 0x0, 0, 0⟩
def FAULT.FIRST_DOM : Fld := ⟨0x40, 0, 1, 17, 2, .rov, 0x0, 0, 0⟩
def FAULT.FIRST_DOMV : Fld := ⟨0x40, 0, 1, 19, 1, .rov, 0x0, 0, 0⟩
def FAULT.FIRST_SEV : Fld := ⟨0x40, 0, 1, 20, 2, .rov, 0x0, 0, 0⟩
def FAULT.FIRST_VALID : Fld := ⟨0x40, 0, 1, 31, 1, .w1c, 0x0, 0, 0⟩
def FAULT.FIRST_TIME_LO : Fld := ⟨0x44, 0, 1, 0, 32, .rov, 0x0, 0, 0⟩
def FAULT.FIRST_TIME_HI : Fld := ⟨0x48, 0, 1, 0, 32, .rov, 0x0, 0, 0⟩
def FAULT.OVF_CNT : Fld := ⟨0x4C, 0, 1, 0, 16, .rov, 0x0, 0, 0⟩
def FAULT.OVF : Fld := ⟨0x4C, 0, 1, 31, 1, .rov, 0x0, 0, 0⟩
def FAULT.FENCE_MAP : Fld := ⟨0x50, 0, 1, 0, 32, .rov, 0x0, 0, 0⟩
def FAULT.FENCE_CORE : Fld := ⟨0x54, 0, 1, 0, 5, .wo, 0x0, 0, 0⟩
def FAULT.FENCE_NOW : Fld := ⟨0x54, 0, 1, 31, 1, .wo, 0x0, 0, 0⟩
def FAULT.PRIV_STAT : Fld := ⟨0x58, 0, 1, 0, 8, .w1c, 0x0, 0, 0⟩
def FAULT.PRIV_REACT : Fld := ⟨0x60, 4, 8, 0, 5, .rw, 0x0, 0, 0⟩
def FAULT.PRIV_LOCK : Fld := ⟨0x80, 0, 1, 0, 1, .w1s, 0x0, 0, 0⟩
def FAULT.ALIVE_RUN : Fld := ⟨0x84, 0, 1, 0, 1, .rov, 0x0, 0, 0⟩
def FAULT.ALIVE_LEVEL : Fld := ⟨0x84, 0, 1, 1, 1, .rov, 0x0, 0, 0⟩
def FAULT.ALIVE_RESTART : Fld := ⟨0x84, 0, 1, 8, 1, .wo, 0x0, 0, 0⟩
def FAULT.REARM_MS : Fld := ⟨0x88, 0, 1, 0, 16, .rw, 0x3E8, 1, 65535⟩
def FAULT.EVO_MAP_LO : Fld := ⟨0x120, 0, 1, 0, 24, .rw, 0x0, 0, 0⟩
def FAULT.EVO_MAP_HI : Fld := ⟨0x124, 0, 1, 0, 24, .rw, 0x0, 0, 0⟩
def FAULT.INJ_PAGE : Fld := ⟨0x180, 0, 1, 0, 12, .rw, 0x0, 0, 0⟩
def FAULT.INJ_BIT : Fld := ⟨0x180, 0, 1, 12, 4, .rw, 0x0, 0, 0⟩
def FAULT.INJ_GO : Fld := ⟨0x180, 0, 1, 16, 1, .wo, 0x0, 0, 0⟩
def FAULT.TM : Fld := ⟨0x180, 0, 1, 31, 1, .ro, 0x0, 0, 0⟩
def FAULT.ECC_KIND : Fld := ⟨0x184, 0, 1, 0, 3, .rw, 0x0, 0, 0⟩
def FAULT.SYM_A : Fld := ⟨0x184, 0, 1, 3, 5, .rw, 0x0, 0, 0⟩
def FAULT.SYM_B : Fld := ⟨0x184, 0, 1, 8, 5, .rw, 0x0, 0, 0⟩
def FAULT.TWO : Fld := ⟨0x184, 0, 1, 13, 1, .rw, 0x0, 0, 0⟩
def FAULT.XORVAL : Fld := ⟨0x184, 0, 1, 14, 4, .rw, 0x0, 0, 0⟩
def FAULT.ARM : Fld := ⟨0x184, 0, 1, 18, 1, .w1s, 0x0, 0, 0⟩
def FAULT.INJ_PRIV : Fld := ⟨0x188, 0, 1, 0, 8, .wo, 0x0, 0, 0⟩

/-! ### FDOM (Table 10.8, 10_faults_and_fencing.md) -/

def FDOM.QUIET_MS : Fld := ⟨0x0, 0, 1, 0, 16, .rw, 0x64, 1, 60000⟩
def FDOM.AUTO_RESTART : Fld := ⟨0x0, 0, 1, 16, 1, .rw, 0x1, 0, 0⟩
def FDOM.QUIET_CUR : Fld := ⟨0x4, 0, 1, 0, 16, .rov, 0x64, 0, 0⟩
def FDOM.QUIET_LEFT : Fld := ⟨0x8, 0, 1, 0, 16, .rov, 0x0, 0, 0⟩
def FDOM.RECOVERY_CNT : Fld := ⟨0xC, 0, 1, 0, 32, .rov, 0x0, 0, 0⟩
def FDOM.STOP_PAGE : Fld := ⟨0x10, 0, 1, 0, 12, .rov, 0x0, 0, 0⟩
def FDOM.STOP_BIT : Fld := ⟨0x10, 0, 1, 12, 4, .rov, 0x0, 0, 0⟩
def FDOM.STOP_VALID : Fld := ⟨0x10, 0, 1, 31, 1, .rov, 0x0, 0, 0⟩
def FDOM.STALE_Q : Fld := ⟨0x14, 0, 1, 0, 16, .rov, 0x0, 0, 0⟩
def FDOM.STALE_VALID : Fld := ⟨0x14, 0, 1, 31, 1, .w1c, 0x0, 0, 0⟩
def FDOM.GRIDLOCK_TIME : Fld := ⟨0x18, 0, 1, 0, 24, .rw, 0x1000, 256, 16777215⟩
def FDOM.S1_MARKS : Fld := ⟨0x1C, 0, 1, 0, 32, .rov, 0x0, 0, 0⟩

/-! ### RANKCTL (Table 10.9, 10_faults_and_fencing.md) -/

def RANKCTL.FENCED : Fld := ⟨0x40, 0, 1, 0, 8, .rov, 0x0, 0, 0⟩
def RANKCTL.WRITE_DROP_CNT : Fld := ⟨0x44, 0, 1, 0, 32, .rov, 0x0, 0, 0⟩
def RANKCTL.DROP_PAGE : Fld := ⟨0x48, 0, 1, 0, 12, .rov, 0x0, 0, 0⟩

/-! ### CORECTL (Table 10.10, 10_faults_and_fencing.md) -/

def CORECTL.FPAGE : Fld := ⟨0x40, 0, 1, 0, 12, .rov, 0x0, 0, 0⟩
def CORECTL.FBIT : Fld := ⟨0x40, 0, 1, 12, 4, .rov, 0x0, 0, 0⟩
def CORECTL.FHOST : Fld := ⟨0x40, 0, 1, 16, 1, .rov, 0x0, 0, 0⟩
def CORECTL.FBOOT : Fld := ⟨0x40, 0, 1, 17, 1, .rov, 0x0, 0, 0⟩
def CORECTL.FVALID : Fld := ⟨0x40, 0, 1, 31, 1, .rov, 0x0, 0, 0⟩
def CORECTL.FENCE_TIME_LO : Fld := ⟨0x44, 0, 1, 0, 32, .rov, 0x0, 0, 0⟩
def CORECTL.FENCE_TIME_HI : Fld := ⟨0x48, 0, 1, 0, 32, .rov, 0x0, 0, 0⟩

/-! ### SCORE (Table 11.9, 11_scoresheet_and_journal.md) -/

def SCORE.READY : Fld := ⟨0x40, 0, 1, 0, 1, .rov, 0x0, 0, 0⟩
def SCORE.FULL : Fld := ⟨0x40, 0, 1, 1, 1, .rov, 0x0, 0, 0⟩
def SCORE.CLEARING : Fld := ⟨0x40, 0, 1, 2, 1, .rov, 0x0, 0, 0⟩
def SCORE.NOPART : Fld := ⟨0x40, 0, 1, 3, 1, .rov, 0x0, 0, 0⟩
def SCORE.QDEPTH : Fld := ⟨0x40, 0, 1, 8, 7, .rov, 0x0, 0, 0⟩
def SCORE.COUNT : Fld := ⟨0x44, 0, 1, 0, 32, .rov, 0x0, 0, 0⟩
def SCORE.WRPTR : Fld := ⟨0x48, 0, 1, 0, 32, .rov, 0x0, 0, 0⟩
def SCORE.SIZE : Fld := ⟨0x4C, 0, 1, 0, 32, .ro, 0x0, 0, 0⟩
def SCORE.DROP_FULL : Fld := ⟨0x50, 0, 1, 0, 32, .rov, 0x0, 0, 0⟩
def SCORE.DROP_BUSY : Fld := ⟨0x54, 0, 1, 0, 32, .rov, 0x0, 0, 0⟩
def SCORE.TORN_CNT : Fld := ⟨0x58, 0, 1, 0, 16, .rov, 0x0, 0, 0⟩
def SCORE.HEAD : Fld := ⟨0x60, 4, 8, 0, 32, .rov, 0x0, 0, 0⟩
def SCORE.OPSEC : Fld := ⟨0x80, 0, 1, 0, 32, .rov, 0x0, 0, 0⟩
def SCORE.OPHOURS : Fld := ⟨0x84, 0, 1, 0, 32, .rov, 0x0, 0, 0⟩
def SCORE.PCYCLE : Fld := ⟨0x88, 0, 1, 0, 24, .rov, 0x0, 0, 0⟩
def SCORE.TRG_REC : Fld := ⟨0x8C, 0, 1, 0, 4, .rw, 0xF, 0, 0⟩

/-! ### JOURNAL (Table 11.10, 11_scoresheet_and_journal.md) -/

def JOURNAL.READY : Fld := ⟨0x40, 0, 1, 0, 1, .rov, 0x0, 0, 0⟩
def JOURNAL.PART : Fld := ⟨0x40, 0, 1, 1, 1, .rov, 0x0, 0, 0⟩
def JOURNAL.COMPACTING : Fld := ⟨0x40, 0, 1, 2, 1, .rov, 0x0, 0, 0⟩
def JOURNAL.JSTOP : Fld := ⟨0x40, 0, 1, 3, 1, .rov, 0x0, 0, 0⟩
def JOURNAL.JRESET : Fld := ⟨0x40, 0, 1, 4, 1, .rov, 0x0, 0, 0⟩
def JOURNAL.TORN_SEEN : Fld := ⟨0x40, 0, 1, 5, 1, .rov, 0x0, 0, 0⟩
def JOURNAL.SEQ : Fld := ⟨0x44, 0, 1, 0, 32, .rov, 0x0, 0, 0⟩
def JOURNAL.WRPTR : Fld := ⟨0x48, 0, 1, 0, 18, .rov, 0x0, 0, 0⟩
def JOURNAL.OPSEC_J : Fld := ⟨0x4C, 0, 1, 0, 32, .rov, 0x0, 0, 0⟩
def JOURNAL.WEAR : Fld := ⟨0x50, 0, 1, 0, 32, .rov, 0x0, 0, 0⟩
def JOURNAL.FAIL_CNT : Fld := ⟨0x54, 0, 1, 0, 16, .rov, 0x0, 0, 0⟩
def JOURNAL.COMPACT_CNT : Fld := ⟨0x58, 0, 1, 0, 32, .rov, 0x0, 0, 0⟩
def JOURNAL.USER : Fld := ⟨0x80, 4, 16, 0, 32, .rw, 0x0, 0, 0⟩

/-! ### HDR (Table 12.4, 12_host_port_and_registers.md) -/

def HDR.HDR_VER : Fld := ⟨0x0, 0, 1, 0, 8, .ro, 0x1, 0, 0⟩
def HDR.INSTANCE : Fld := ⟨0x0, 0, 1, 8, 8, .ro, 0x0, 0, 0⟩
def HDR.BLOCK_TYPE : Fld := ⟨0x0, 0, 1, 16, 16, .ro, 0x0, 0, 0⟩
def HDR.STEPPING : Fld := ⟨0x4, 0, 1, 8, 8, .ro, 0xB0, 0, 0⟩
def HDR.MINOR : Fld := ⟨0x4, 0, 1, 16, 8, .ro, 0x0, 0, 0⟩
def HDR.MAJOR : Fld := ⟨0x4, 0, 1, 24, 8, .ro, 0x1, 0, 0⟩
def HDR.PAGE_CAP : Fld := ⟨0x8, 0, 1, 0, 32, .ro, 0x0, 0, 0⟩
def HDR.ENABLE : Fld := ⟨0xC, 0, 1, 0, 1, .rw, 0x0, 0, 0⟩
def HDR.QUIESCE : Fld := ⟨0xC, 0, 1, 1, 1, .rw, 0x0, 0, 0⟩
def HDR.BLOCK_RESET : Fld := ⟨0xC, 0, 1, 2, 1, .w1s, 0x0, 0, 0⟩
def HDR.READY : Fld := ⟨0x10, 0, 1, 0, 1, .rov, 0x0, 0, 0⟩
def HDR.QUIESCED : Fld := ⟨0x10, 0, 1, 1, 1, .rov, 0x0, 0, 0⟩
def HDR.FENCED : Fld := ⟨0x10, 0, 1, 2, 1, .rov, 0x0, 0, 0⟩
def HDR.POISON_SEEN : Fld := ⟨0x10, 0, 1, 3, 1, .w1c, 0x0, 0, 0⟩
def HDR.DOMAIN : Fld := ⟨0x10, 0, 1, 4, 2, .rov, 0x0, 0, 0⟩
def HDR.FLT_STAT : Fld := ⟨0x14, 0, 1, 0, 16, .w1c, 0x0, 0, 0⟩
def HDR.FLT_MASK : Fld := ⟨0x18, 0, 1, 0, 16, .rw, 0x0, 0, 0⟩
def HDR.FLT_SEV : Fld := ⟨0x1C, 0, 1, 0, 32, .rw, 0x0, 0, 0⟩
def HDR.CAUSE : Fld := ⟨0x20, 0, 1, 0, 4, .rov, 0x0, 0, 0⟩
def HDR.OVF : Fld := ⟨0x20, 0, 1, 8, 1, .rov, 0x0, 0, 0⟩
def HDR.OVF_COUNT : Fld := ⟨0x20, 0, 1, 16, 16, .rov, 0x0, 0, 0⟩
def HDR.PERF_SEL : Fld := ⟨0x24, 0, 1, 0, 32, .rw, 0x0, 0, 0⟩
def HDR.PERF_CNT_LO : Fld := ⟨0x28, 0, 1, 0, 32, .rov, 0x0, 0, 0⟩
def HDR.PERF_CNT_HI : Fld := ⟨0x2C, 0, 1, 0, 32, .rov, 0x0, 0, 0⟩
def HDR.STALL_IN : Fld := ⟨0x30, 0, 1, 0, 32, .rov, 0x0, 0, 0⟩
def HDR.STALL_OUT : Fld := ⟨0x34, 0, 1, 0, 32, .rov, 0x0, 0, 0⟩
def HDR.SCRATCH : Fld := ⟨0x38, 0, 1, 0, 32, .rw, 0x0, 0, 0⟩

/-! ### RING (Table 12.6, 12_host_port_and_registers.md) -/

def RING.HBASE_LO : Fld := ⟨0x0, 0, 1, 0, 32, .rw, 0x0, 0, 0⟩
def RING.HBASE_HI : Fld := ⟨0x4, 0, 1, 0, 32, .rw, 0x0, 0, 0⟩
def RING.HLOG2 : Fld := ⟨0x8, 0, 1, 0, 5, .rw, 0x0, 0, 0⟩
def RING.HEN : Fld := ⟨0x8, 0, 1, 5, 1, .rw, 0x0, 0, 0⟩
def RING.ROLE : Fld := ⟨0x8, 0, 1, 6, 2, .rw, 0x0, 0, 0⟩
def RING.VEC : Fld := ⟨0x8, 0, 1, 8, 9, .rw, 0x0, 0, 0⟩
def RING.VEC_EN : Fld := ⟨0x8, 0, 1, 17, 1, .rw, 0x0, 0, 0⟩
def RING.DMAE : Fld := ⟨0x8, 0, 1, 18, 2, .rw, 0x0, 0, 0⟩
def RING.IDX_ADDR_LO : Fld := ⟨0xC, 0, 1, 0, 32, .rw, 0x0, 0, 0⟩
def RING.IDX_ADDR_HI : Fld := ⟨0x10, 0, 1, 0, 32, .rw, 0x0, 0, 0⟩
def RING.DEV_IDX : Fld := ⟨0x14, 0, 1, 0, 32, .rov, 0x0, 0, 0⟩
def RING.HOST_IDX : Fld := ⟨0x18, 0, 1, 0, 32, .rov, 0x0, 0, 0⟩
def RING.LINK : Fld := ⟨0x1C, 0, 1, 0, 13, .rw, 0x0, 0, 0⟩
def RING.LINK_EN : Fld := ⟨0x1C, 0, 1, 13, 1, .rw, 0x0, 0, 0⟩

/-! ### SYNC (Table 12.11, 12_host_port_and_registers.md) -/

def SYNC.VALUE_LO : Fld := ⟨0x0, 0, 1, 0, 32, .rw, 0x0, 0, 0⟩
def SYNC.VALUE_HI : Fld := ⟨0x4, 0, 1, 0, 32, .rw, 0x0, 0, 0⟩
def SYNC.MODE : Fld := ⟨0x8, 0, 1, 0, 1, .rw, 0x0, 0, 0⟩
def SYNC.IRQ_EN : Fld := ⟨0x8, 0, 1, 1, 1, .rw, 0x0, 0, 0⟩
def SYNC.VEC : Fld := ⟨0x8, 0, 1, 2, 9, .rw, 0x0, 0, 0⟩
def SYNC.PARTIES : Fld := ⟨0xC, 0, 1, 0, 16, .rw, 0x1, 1, 65535⟩
def SYNC.ARRIVED : Fld := ⟨0xC, 0, 1, 16, 16, .rov, 0x0, 0, 0⟩
def SYNC.ADD : Fld := ⟨0x10, 0, 1, 0, 32, .wo, 0x0, 0, 0⟩
def SYNC.IRQ_TGT_LO : Fld := ⟨0x18, 0, 1, 0, 32, .rw, 0x0, 0, 0⟩
def SYNC.IRQ_TGT_HI : Fld := ⟨0x1C, 0, 1, 0, 32, .rw, 0x0, 0, 0⟩
def SYNC.WAITERS : Fld := ⟨0x20, 0, 1, 0, 8, .rov, 0x0, 0, 0⟩
def SYNC.SIG_CNT : Fld := ⟨0x24, 0, 1, 0, 32, .rov, 0x0, 0, 0⟩

/-! ### HOSTPORT (Table 12.12, 12_host_port_and_registers.md) -/

def HOSTPORT.SPEED : Fld := ⟨0x60, 0, 1, 0, 3, .rov, 0x0, 0, 0⟩
def HOSTPORT.WIDTH : Fld := ⟨0x60, 0, 1, 3, 3, .rov, 0x0, 0, 0⟩
def HOSTPORT.REVERSED : Fld := ⟨0x60, 0, 1, 6, 1, .rov, 0x0, 0, 0⟩
def HOSTPORT.POL : Fld := ⟨0x60, 0, 1, 7, 4, .rov, 0x0, 0, 0⟩
def HOSTPORT.FAULT_EVRING : Fld := ⟨0x64, 0, 1, 0, 11, .rw, 0x0, 0, 0⟩
def HOSTPORT.FEV_EN : Fld := ⟨0x64, 0, 1, 11, 1, .rw, 0x0, 0, 0⟩
def HOSTPORT.IRQ_SEV : Fld := ⟨0x64, 0, 1, 12, 2, .rw, 0x2, 0, 0⟩
def HOSTPORT.IRQ_SEV_EN : Fld := ⟨0x64, 0, 1, 14, 1, .rw, 0x0, 0, 0⟩
def HOSTPORT.DOM_EVRING : Fld := ⟨0x68, 4, 4, 0, 11, .rw, 0x0, 0, 0⟩
def HOSTPORT.DEV_EN : Fld := ⟨0x68, 4, 4, 11, 1, .rw, 0x0, 0, 0⟩
def HOSTPORT.EV_DROP : Fld := ⟨0x78, 0, 1, 0, 32, .rov, 0x0, 0, 0⟩
def HOSTPORT.LAND_DROP : Fld := ⟨0x7C, 0, 1, 0, 32, .rov, 0x0, 0, 0⟩
def HOSTPORT.HQ_BASE : Fld := ⟨0x80, 4, 4, 0, 11, .rov, 0x0, 0, 0⟩
def HOSTPORT.HQ_N : Fld := ⟨0x80, 4, 4, 11, 11, .rov, 0x0, 0, 0⟩
def HOSTPORT.HQ_CMBASE : Fld := ⟨0x90, 4, 4, 0, 16, .rov, 0x0, 0, 0⟩
def HOSTPORT.TRICK : Fld := ⟨0xA0, 0, 1, 0, 8, .rw, 0x0, 0, 0⟩
def HOSTPORT.TBL : Fld := ⟨0xA0, 0, 1, 8, 4, .rw, 0x0, 0, 0⟩
def HOSTPORT.STAGED : Fld := ⟨0xA0, 0, 1, 30, 1, .rw, 0x0, 0, 0⟩
def HOSTPORT.AUTOINC : Fld := ⟨0xA0, 0, 1, 31, 1, .rw, 0x0, 0, 0⟩
def HOSTPORT.ET_DATA : Fld := ⟨0xA4, 0, 1, 0, 16, .rw, 0x0, 0, 0⟩
def HOSTPORT.CT_INDEX : Fld := ⟨0xA8, 0, 1, 0, 11, .rw, 0x0, 0, 0⟩
def HOSTPORT.CT_DATA : Fld := ⟨0xAC, 0, 1, 0, 8, .rw, 0x0, 0, 0⟩
def HOSTPORT.OWNER_A : Fld := ⟨0xB0, 0, 1, 0, 18, .rov, 0x0, 0, 0⟩
def HOSTPORT.APER_BASE_LO : Fld := ⟨0xB8, 0, 1, 21, 11, .rw, 0x0, 0, 0⟩
def HOSTPORT.APER_BASE_HI : Fld := ⟨0xBC, 0, 1, 0, 16, .rw, 0x0, 0, 0⟩
def HOSTPORT.APER_ERR : Fld := ⟨0xC0, 0, 1, 0, 32, .rov, 0x0, 0, 0⟩
def HOSTPORT.TAGS_OUT : Fld := ⟨0xC4, 0, 1, 0, 10, .rov, 0x0, 0, 0⟩
def HOSTPORT.LQ_DEPTH : Fld := ⟨0xC4, 0, 1, 16, 5, .rov, 0x0, 0, 0⟩
def HOSTPORT.BAD_ACC : Fld := ⟨0xC8, 0, 1, 0, 32, .rov, 0x0, 0, 0⟩

/-! ### INGRESS (Table 13.8, 13_ingress_and_gostan_links.md) -/

def INGRESS.EN : Fld := ⟨0x60, 0, 1, 0, 1, .rw, 0x0, 0, 0⟩
def INGRESS.LANES : Fld := ⟨0x60, 0, 1, 1, 2, .rw, 0x2, 0, 0⟩
def INGRESS.LANE_MAP : Fld := ⟨0x60, 0, 1, 3, 8, .rw, 0xE4, 0, 0⟩
def INGRESS.POL : Fld := ⟨0x60, 0, 1, 11, 4, .rw, 0x0, 0, 0⟩
def INGRESS.RATE : Fld := ⟨0x64, 0, 1, 0, 12, .rw, 0x9C4, 80, 2500⟩
def INGRESS.LANE_HS : Fld := ⟨0x68, 0, 1, 0, 4, .rov, 0x0, 0, 0⟩
def INGRESS.CLK_HS : Fld := ⟨0x68, 0, 1, 4, 1, .rov, 0x0, 0, 0⟩
def INGRESS.DESKEWED : Fld := ⟨0x68, 0, 1, 5, 1, .rov, 0x0, 0, 0⟩
def INGRESS.ECC_CORR : Fld := ⟨0x6C, 0, 1, 0, 32, .rov, 0x0, 0, 0⟩
def INGRESS.HDR_UE : Fld := ⟨0x70, 0, 1, 0, 32, .rov, 0x0, 0, 0⟩
def INGRESS.CRC_ERR : Fld := ⟨0x74, 0, 1, 0, 32, .rov, 0x0, 0, 0⟩
def INGRESS.TIM_ERR : Fld := ⟨0x78, 0, 1, 0, 32, .rov, 0x0, 0, 0⟩
def INGRESS.DT_IGN : Fld := ⟨0x7C, 0, 1, 0, 32, .rov, 0x0, 0, 0⟩
def INGRESS.SKEW : Fld := ⟨0x80, 4, 4, 0, 12, .rov, 0x0, 0, 0⟩
def INGRESS.SKEW_VALID : Fld := ⟨0x80, 4, 4, 12, 1, .rov, 0x0, 0, 0⟩
def INGRESS.SKEW_MAX : Fld := ⟨0x90, 0, 1, 0, 12, .rw, 0x4B0, 0, 0⟩
def INGRESS.TRICK : Fld := ⟨0xA0, 0, 1, 0, 8, .rw, 0x0, 0, 0⟩
def INGRESS.STAGED : Fld := ⟨0xA0, 0, 1, 30, 1, .rw, 0x0, 0, 0⟩
def INGRESS.AUTOINC : Fld := ⟨0xA0, 0, 1, 31, 1, .rw, 0x0, 0, 0⟩
def INGRESS.PT_DATA : Fld := ⟨0xA4, 0, 1, 0, 16, .rw, 0x0, 0, 0⟩
def INGRESS.OWNER_A : Fld := ⟨0xA8, 0, 1, 0, 3, .rov, 0x0, 0, 0⟩
def INGRESS.DT : Fld := ⟨0xC0, 8, 16, 0, 6, .rw, 0x0, 0, 0⟩
def INGRESS.VC_EN : Fld := ⟨0xC0, 8, 16, 6, 1, .rw, 0x0, 0, 0⟩
def INGRESS.OSGN : Fld := ⟨0xC0, 8, 16, 7, 1, .rw, 0x0, 0, 0⟩
def INGRESS.DEPTH : Fld := ⟨0xC0, 8, 16, 8, 1, .rw, 0x0, 0, 0⟩
def INGRESS.QBASE : Fld := ⟨0xC0, 8, 16, 9, 6, .rw, 0x0, 0, 0⟩
def INGRESS.FNUM_CHK : Fld := ⟨0xC0, 8, 16, 15, 1, .rw, 0x0, 0, 0⟩
def INGRESS.WIDTH_M1 : Fld := ⟨0xC0, 8, 16, 16, 12, .rw, 0x0, 0, 0⟩
def INGRESS.LINES_M1 : Fld := ⟨0xC4, 8, 16, 0, 12, .rw, 0x0, 0, 0⟩
def INGRESS.FRAMES_OK : Fld := ⟨0x140, 16, 16, 0, 32, .rov, 0x0, 0, 0⟩
def INGRESS.FRAMES_BAD : Fld := ⟨0x144, 16, 16, 0, 32, .rov, 0x0, 0, 0⟩
def INGRESS.LINES_FIXED : Fld := ⟨0x148, 16, 16, 0, 16, .rov, 0x0, 0, 0⟩
def INGRESS.FNUM_ERR : Fld := ⟨0x148, 16, 16, 16, 16, .rov, 0x0, 0, 0⟩
def INGRESS.LAST_FNUM : Fld := ⟨0x14C, 16, 16, 0, 16, .rov, 0x0, 0, 0⟩

/-! ### GLINK (Table 13.9, 13_ingress_and_gostan_links.md) -/

def GLINK.EN : Fld := ⟨0x60, 0, 1, 0, 1, .rw, 0x1, 0, 0⟩
def GLINK.RETRAIN : Fld := ⟨0x60, 0, 1, 1, 1, .wo, 0x0, 0, 0⟩
def GLINK.EXP_EN : Fld := ⟨0x60, 0, 1, 2, 1, .rw, 0x0, 0, 0⟩
def GLINK.EXP_POS : Fld := ⟨0x60, 0, 1, 3, 3, .rw, 0x0, 0, 0⟩
def GLINK.KEY_CHK : Fld := ⟨0x60, 0, 1, 6, 1, .rw, 0x0, 0, 0⟩
def GLINK.LSTATE : Fld := ⟨0x64, 0, 1, 0, 3, .rov, 0x0, 0, 0⟩
def GLINK.LEAD : Fld := ⟨0x64, 0, 1, 3, 1, .rov, 0x0, 0, 0⟩
def GLINK.REVERSED : Fld := ⟨0x64, 0, 1, 4, 1, .rov, 0x0, 0, 0⟩
def GLINK.POL : Fld := ⟨0x64, 0, 1, 5, 4, .rov, 0x0, 0, 0⟩
def GLINK.FAIL : Fld := ⟨0x64, 0, 1, 9, 3, .rov, 0x0, 0, 0⟩
def GLINK.LOSS : Fld := ⟨0x68, 0, 1, 0, 10, .rov, 0x0, 0, 0⟩
def GLINK.EQ_LEN : Fld := ⟨0x68, 0, 1, 16, 10, .rov, 0x0, 0, 0⟩
def GLINK.LOSS_PER_MM : Fld := ⟨0x6C, 0, 1, 0, 8, .rw, 0x6E, 0, 0⟩
def GLINK.P_PART : Fld := ⟨0x70, 0, 1, 0, 16, .rov, 0x0, 0, 0⟩
def GLINK.P_STEP : Fld := ⟨0x70, 0, 1, 16, 8, .rov, 0x0, 0, 0⟩
def GLINK.P_POS : Fld := ⟨0x70, 0, 1, 24, 3, .rov, 0x0, 0, 0⟩
def GLINK.P_ROLE : Fld := ⟨0x70, 0, 1, 27, 1, .rov, 0x0, 0, 0⟩
def GLINK.P_HPOS : Fld := ⟨0x70, 0, 1, 28, 3, .rov, 0x0, 0, 0⟩
def GLINK.P_VALID : Fld := ⟨0x70, 0, 1, 31, 1, .rov, 0x0, 0, 0⟩
def GLINK.P_EPOCH : Fld := ⟨0x74, 0, 1, 0, 32, .rov, 0x0, 0, 0⟩
def GLINK.P_KEY : Fld := ⟨0x80, 4, 8, 0, 32, .rov, 0x0, 0, 0⟩
def GLINK.EXP_KEY : Fld := ⟨0xA0, 4, 8, 0, 32, .rw, 0x0, 0, 0⟩
def GLINK.REPLAY_CNT : Fld := ⟨0xC0, 0, 1, 0, 32, .rov, 0x0, 0, 0⟩
def GLINK.CRC_CNT : Fld := ⟨0xC4, 0, 1, 0, 32, .rov, 0x0, 0, 0⟩
def GLINK.RETRAIN_CNT : Fld := ⟨0xC8, 0, 1, 0, 16, .rov, 0x0, 0, 0⟩
def GLINK.TUN_DROP : Fld := ⟨0xC8, 0, 1, 16, 16, .rov, 0x0, 0, 0⟩
def GLINK.BC_IGN : Fld := ⟨0xCC, 0, 1, 0, 32, .rov, 0x0, 0, 0⟩
def GLINK.TUN_OFFSET : Fld := ⟨0xD0, 0, 1, 0, 26, .rw, 0x0, 0, 0⟩
def GLINK.TUN_SPACE : Fld := ⟨0xD0, 0, 1, 26, 1, .rw, 0x0, 0, 0⟩
def GLINK.TUN_TPOS : Fld := ⟨0xD0, 0, 1, 27, 3, .rw, 0x0, 0, 0⟩
def GLINK.TUN_WDATA : Fld := ⟨0xD4, 0, 1, 0, 32, .rw, 0x0, 0, 0⟩
def GLINK.TUN_WR : Fld := ⟨0xD8, 0, 1, 0, 1, .wo, 0x0, 0, 0⟩
def GLINK.TUN_RD : Fld := ⟨0xD8, 0, 1, 1, 1, .wo, 0x0, 0, 0⟩
def GLINK.TUN_BUSY : Fld := ⟨0xD8, 0, 1, 2, 1, .rov, 0x0, 0, 0⟩
def GLINK.TERR : Fld := ⟨0xD8, 0, 1, 3, 1, .w1c, 0x0, 0, 0⟩
def GLINK.TUN_RDATA : Fld := ⟨0xDC, 0, 1, 0, 32, .rov, 0x0, 0, 0⟩
def GLINK.TUN_BASE_LO : Fld := ⟨0xE0, 0, 1, 12, 20, .rw, 0x0, 0, 0⟩
def GLINK.TUN_BASE_HI : Fld := ⟨0xE4, 0, 1, 0, 16, .rw, 0x0, 0, 0⟩
def GLINK.TUN_LEN : Fld := ⟨0xE8, 0, 1, 0, 20, .rw, 0x0, 0, 0⟩
def GLINK.TUN_VEC : Fld := ⟨0xEC, 0, 1, 0, 9, .rw, 0x0, 0, 0⟩
def GLINK.TVEC_EN : Fld := ⟨0xEC, 0, 1, 9, 1, .rw, 0x0, 0, 0⟩
def GLINK.HPOS : Fld := ⟨0xEC, 0, 1, 10, 3, .rov, 0x0, 0, 0⟩
def GLINK.TRICK : Fld := ⟨0x100, 0, 1, 0, 8, .rw, 0x0, 0, 0⟩
def GLINK.TBL : Fld := ⟨0x100, 0, 1, 8, 3, .rw, 0x0, 0, 0⟩
def GLINK.STAGED : Fld := ⟨0x100, 0, 1, 30, 1, .rw, 0x0, 0, 0⟩
def GLINK.AUTOINC : Fld := ⟨0x100, 0, 1, 31, 1, .rw, 0x0, 0, 0⟩
def GLINK.ET_DATA : Fld := ⟨0x104, 0, 1, 0, 16, .rw, 0x0, 0, 0⟩
def GLINK.OWNER_A : Fld := ⟨0x108, 0, 1, 0, 9, .rov, 0x0, 0, 0⟩

/-! ### POWER (Table 14.10, 14_power_clocks_boot_security.md) -/

def POWER.P_CAP : Fld := ⟨0x40, 0, 1, 0, 5, .rw, 0x19, 10, 25⟩
def POWER.CREDIT_MAX : Fld := ⟨0x44, 0, 1, 0, 16, .rw, 0x3A98, 0, 15000⟩
def POWER.CREDIT : Fld := ⟨0x48, 0, 1, 0, 16, .rov, 0x3A98, 0, 0⟩
def POWER.P_NOW : Fld := ⟨0x4C, 0, 1, 0, 16, .rov, 0x0, 0, 0⟩
def POWER.CAPPING : Fld := ⟨0x4C, 0, 1, 16, 1, .rov, 0x0, 0, 0⟩
def POWER.AT_FLOOR : Fld := ⟨0x4C, 0, 1, 17, 1, .rov, 0x0, 0, 0⟩
def POWER.THROTTLING : Fld := ⟨0x4C, 0, 1, 18, 1, .rov, 0x0, 0, 0⟩
def POWER.PMB_ERR : Fld := ⟨0x4C, 0, 1, 19, 1, .w1c, 0x0, 0, 0⟩
def POWER.H : Fld := ⟨0x50, 4, 4, 0, 9, .rov, 0x0, 0, 0⟩
def POWER.TJ : Fld := ⟨0x60, 0, 1, 0, 8, .rov, 0x0, 0, 0⟩
def POWER.TJ_PEAK : Fld := ⟨0x60, 0, 1, 8, 8, .rov, 0x0, 0, 0⟩
def POWER.T_THR : Fld := ⟨0x64, 0, 1, 0, 8, .ro, 0x0, 0, 0⟩
def POWER.T_TRIP : Fld := ⟨0x64, 0, 1, 8, 8, .ro, 0x0, 0, 0⟩
def POWER.T_HW : Fld := ⟨0x64, 0, 1, 16, 8, .ro, 0x0, 0, 0⟩
def POWER.VDD_SET : Fld := ⟨0x68, 0, 1, 0, 10, .rov, 0x2EE, 0, 0⟩
def POWER.V : Fld := ⟨0x70, 4, 8, 0, 16, .rov, 0x0, 0, 0⟩
def POWER.I : Fld := ⟨0x70, 4, 8, 16, 16, .rov, 0x0, 0, 0⟩

/-! ### CLOCKS (Table 14.11, 14_power_clocks_boot_security.md) -/

def CLOCKS.LOCKED : Fld := ⟨0x40, 0, 1, 0, 1, .rov, 0x0, 0, 0⟩
def CLOCKS.REF_OK : Fld := ⟨0x40, 0, 1, 1, 1, .rov, 0x0, 0, 0⟩
def CLOCKS.LOSS_CNT : Fld := ⟨0x44, 0, 1, 0, 16, .rov, 0x0, 0, 0⟩

/-! ### PINS (Table 14.12, 14_power_clocks_boot_security.md) -/

def PINS.STRAP_UP : Fld := ⟨0x40, 0, 1, 0, 16, .ro, 0x0, 0, 0⟩
def PINS.STRAP_NONE : Fld := ⟨0x40, 0, 1, 16, 16, .ro, 0x0, 0, 0⟩
def PINS.BOOT_SRC : Fld := ⟨0x44, 0, 1, 0, 2, .ro, 0x0, 0, 0⟩
def PINS.GL_ROLE : Fld := ⟨0x44, 0, 1, 2, 1, .ro, 0x0, 0, 0⟩
def PINS.PCIE_PRESENT : Fld := ⟨0x44, 0, 1, 3, 1, .ro, 0x0, 0, 0⟩
def PINS.POS : Fld := ⟨0x44, 0, 1, 4, 3, .ro, 0x0, 0, 0⟩
def PINS.EVO_OUT : Fld := ⟨0x48, 0, 1, 0, 16, .rw, 0x0, 0, 0⟩
def PINS.EVO_OE : Fld := ⟨0x48, 0, 1, 16, 16, .rw, 0x0, 0, 0⟩
def PINS.FILT : Fld := ⟨0x60, 16, 4, 0, 10, .rw, 0xA, 1, 1000⟩
def PINS.EDGES : Fld := ⟨0x60, 16, 4, 10, 2, .rw, 0x1, 0, 0⟩
def PINS.ACT_LOW : Fld := ⟨0x60, 16, 4, 12, 1, .rw, 0x0, 0, 0⟩
def PINS.STUCK_S : Fld := ⟨0x60, 16, 4, 13, 10, .rw, 0xA, 0, 0⟩
def PINS.DQUEUE : Fld := ⟨0x64, 16, 4, 0, 16, .rw, 0x0, 0, 0⟩
def PINS.DOM : Fld := ⟨0x64, 16, 4, 16, 2, .rw, 0x0, 0, 0⟩
def PINS.TOK_EN : Fld := ⟨0x64, 16, 4, 18, 1, .rw, 0x0, 0, 0⟩
def PINS.OVR_CNT : Fld := ⟨0x68, 16, 4, 0, 16, .rov, 0x0, 0, 0⟩
def PINS.ACCEPT_CNT : Fld := ⟨0x68, 16, 4, 16, 16, .rov, 0x0, 0, 0⟩
def PINS.LEVEL : Fld := ⟨0x6C, 16, 4, 0, 1, .rov, 0x0, 0, 0⟩
def PINS.STUCK : Fld := ⟨0x6C, 16, 4, 1, 1, .rov, 0x0, 0, 0⟩
def PINS.PENDING : Fld := ⟨0x6C, 16, 4, 2, 3, .rov, 0x0, 0, 0⟩

/-! ### SECURITY (Table 14.13, 14_power_clocks_boot_security.md) -/

def SECURITY.LIFECYCLE : Fld := ⟨0x40, 0, 1, 0, 2, .ro, 0x0, 0, 0⟩
def SECURITY.SLOT0_OK : Fld := ⟨0x40, 0, 1, 2, 1, .rov, 0x0, 0, 0⟩
def SECURITY.SLOT1_OK : Fld := ⟨0x40, 0, 1, 3, 1, .rov, 0x0, 0, 0⟩
def SECURITY.JTAG_LOCKED : Fld := ⟨0x40, 0, 1, 4, 1, .ro, 0x0, 0, 0⟩
def SECURITY.TRNG_OK : Fld := ⟨0x40, 0, 1, 5, 1, .rov, 0x0, 0, 0⟩
def SECURITY.MIN_SVN : Fld := ⟨0x44, 0, 1, 0, 32, .rov, 0x0, 0, 0⟩
def SECURITY.FW_VERSION : Fld := ⟨0x48, 0, 1, 0, 32, .ro, 0x0, 0, 0⟩
def SECURITY.FW_SVN : Fld := ⟨0x4C, 0, 1, 0, 32, .ro, 0x0, 0, 0⟩
def SECURITY.ROM_VERSION : Fld := ⟨0x50, 0, 1, 0, 32, .ro, 0x10000, 0, 0⟩
def SECURITY.FW_B : Fld := ⟨0x54, 0, 1, 0, 1, .ro, 0x0, 0, 0⟩
def SECURITY.FW_A_BAD : Fld := ⟨0x54, 0, 1, 1, 1, .ro, 0x0, 0, 0⟩
def SECURITY.FW_TRIES : Fld := ⟨0x54, 0, 1, 2, 6, .rov, 0x0, 0, 0⟩
def SECURITY.BOOT_GO : Fld := ⟨0x54, 0, 1, 8, 1, .wo, 0x0, 0, 0⟩
def SECURITY.ID_PUB : Fld := ⟨0x60, 4, 16, 0, 32, .ro, 0x0, 0, 0⟩
def SECURITY.SEC_OP : Fld := ⟨0xA0, 0, 1, 0, 4, .wo, 0x0, 0, 0⟩
def SECURITY.SEC_STATUS : Fld := ⟨0xA0, 0, 1, 4, 4, .rov, 0x0, 0, 0⟩
def SECURITY.SEC_BUSY : Fld := ⟨0xA0, 0, 1, 8, 1, .rov, 0x0, 0, 0⟩
def SECURITY.SEC_ARG_LO : Fld := ⟨0xA4, 0, 1, 0, 32, .rw, 0x0, 0, 0⟩
def SECURITY.SEC_ARG_HI : Fld := ⟨0xA8, 0, 1, 0, 32, .rw, 0x0, 0, 0⟩

/-! ### SDESC (Table 8.10, 08_fetch_memory_translation.md) -/

def SDESC.KIND : Fld := ⟨0x0, 0, 1, 0, 3, .rw, 0x0, 0, 0⟩
def SDESC.EN : Fld := ⟨0x0, 0, 1, 3, 1, .rw, 0x0, 0, 0⟩
def SDESC.DOM : Fld := ⟨0x0, 0, 1, 4, 2, .rw, 0x0, 0, 0⟩
def SDESC.CLS : Fld := ⟨0x0, 0, 1, 6, 2, .rw, 0x0, 0, 0⟩
def SDESC.AS : Fld := ⟨0x0, 0, 1, 8, 3, .rw, 0x0, 0, 0⟩
def SDESC.BRANK : Fld := ⟨0x0, 0, 1, 11, 2, .rw, 0x0, 0, 0⟩
def SDESC.BQ : Fld := ⟨0x0, 0, 1, 13, 8, .rw, 0x0, 0, 0⟩
def SDESC.CNT : Fld := ⟨0x0, 0, 1, 21, 4, .rw, 0x0, 0, 0⟩
def SDESC.STAMP : Fld := ⟨0x0, 0, 1, 25, 1, .rw, 0x0, 0, 0⟩
def SDESC.NSLOT_M1 : Fld := ⟨0x0, 0, 1, 26, 4, .rw, 0x0, 0, 0⟩
def SDESC.MAPBASE_LO : Fld := ⟨0x4, 0, 1, 0, 32, .rw, 0x0, 0, 0⟩
def SDESC.MAPBASE_HI : Fld := ⟨0x8, 0, 1, 0, 16, .rw, 0x0, 0, 0⟩
def SDESC.FMT : Fld := ⟨0x8, 0, 1, 16, 3, .rw, 0x0, 0, 0⟩
def SDESC.U : Fld := ⟨0x8, 0, 1, 19, 1, .rw, 0x0, 0, 0⟩
def SDESC.C_M1 : Fld := ⟨0x8, 0, 1, 20, 12, .rw, 0x0, 0, 0⟩
def SDESC.MW_M1 : Fld := ⟨0xC, 0, 1, 0, 12, .rw, 0x0, 0, 0⟩
def SDESC.LENF_M1 : Fld := ⟨0xC, 0, 1, 0, 24, .rw, 0x0, 0, 0⟩
def SDESC.H_M1 : Fld := ⟨0xC, 0, 1, 12, 12, .rw, 0x0, 0, 0⟩
def SDESC.X0 : Fld := ⟨0x10, 0, 1, 0, 12, .rw, 0x0, 0, 0⟩
def SDESC.X1 : Fld := ⟨0x10, 0, 1, 12, 12, .rw, 0x0, 0, 0⟩
def SDESC.AFTER : Fld := ⟨0x10, 0, 1, 24, 6, .rw, 0x0, 0, 0⟩
def SDESC.AFTEN : Fld := ⟨0x10, 0, 1, 30, 1, .rw, 0x0, 0, 0⟩
def SDESC.Y0 : Fld := ⟨0x14, 0, 1, 0, 12, .rw, 0x0, 0, 0⟩
def SDESC.Y1 : Fld := ⟨0x14, 0, 1, 12, 12, .rw, 0x0, 0, 0⟩
def SDESC.C0 : Fld := ⟨0x18, 0, 1, 0, 12, .rw, 0x0, 0, 0⟩
def SDESC.C1 : Fld := ⟨0x18, 0, 1, 12, 12, .rw, 0x0, 0, 0⟩
def SDESC.FSTRIDE : Fld := ⟨0x1C, 0, 1, 0, 20, .rw, 0x0, 0, 0⟩
def SDESC.TQ : Fld := ⟨0x1C, 0, 1, 20, 11, .rw, 0x0, 0, 0⟩

/-- The fields of XNODE. -/
def XNODE.all : List Fld :=
  [XNODE.ROUND_M1, XNODE.TRICK, XNODE.HELD, XNODE.TT_TRICK, XNODE.TT_PORT, XNODE.TT_STAGED, XNODE.TT_AUTOINC, XNODE.ENTRY, XNODE.SWAP, XNODE.LOCAL_FENCED, XNODE.NODE_ISOLATED, XNODE.NBR_ISO] ++
  [XNODE.DROP_CNT, XNODE.COLLIDE_CNT, XNODE.BC_DROP_CNT, XNODE.OWNER_A, XNODE.OWNER_S]

/-- The fields of FQ. -/
def FQ.all : List Fld :=
  [FQ.NET, FQ.DOM, FQ.EN, FQ.CLS, FQ.PERSIST, FQ.WIN_PROD, FQ.WIN_CONS, FQ.STALL_EMPTY, FQ.HEAD_PORT, FQ.HEAD_SLOT, FQ.BODY_TILE, FQ.BODY_BASE] ++
  [FQ.BODY_SIZE, FQ.PROD_CORE, FQ.PROD_UNIT, FQ.PROD_CNT, FQ.CRED_NONE, FQ.OUT_CNT, FQ.OUT_CRED, FQ.COUNT, FQ.OVR, FQ.PAR_ERR, FQ.Q_STALL_IN, FQ.Q_STALL_FULL]

/-- The fields of BQD. -/
def BQD.all : List Fld :=
  [BQD.DOM, BQD.EN, BQD.CLS, BQD.PKT, BQD.HOLD_SRC, BQD.DIR, BQD.STALL_EMPTY, BQD.WIN, BQD.LOG2CAP, BQD.BASE, BQD.THRESH, BQD.NOTIFY_EN] ++
  [BQD.PKT_LEN, BQD.TIMEOUT, BQD.PKT_PAD, BQD.B_STALL, BQD.WPTR, BQD.RPTR, BQD.OVERRUN, BQD.TAIL, BQD.RESETTING, BQD.MISMATCH, BQD.NOTE, BQD.LOST_PKT]

/-- The fields of QENG. -/
def QENG.all : List Fld :=
  [QENG.QSTALL_MAX, QENG.TRICK, QENG.PORT, QENG.STAGED, QENG.AUTOINC, QENG.LT_DATA, QENG.ACTIVE_Q, QENG.OVR_QUEUE, QENG.OVR_VALID, QENG.ECNT, QENG.E_EXEMPT, QENG.ECAP] ++
  [QENG.QCNT, QENG.Q_EXEMPT, QENG.QCAP]

/-- The fields of BQR. -/
def BQR.all : List Fld :=
  [BQR.QSTALL_MAX, BQR.MISMATCH_CNT, BQR.FIRST_OVR, BQR.FIRST_OVR_VALID, BQR.LOST_TOTAL, BQR.NOTE_OBJ, BQR.NOTE_EN]

/-- The fields of MTILE. -/
def MTILE.all : List Fld :=
  [MTILE.PROG_LEN_M1, MTILE.PC, MTILE.LOOP_DEPTH, MTILE.ACTIVE_HALF, MTILE.WP, MTILE.EP, MTILE.WS_CORR, MTILE.WS_DROP, MTILE.ACC_SAT_CNT, MTILE.ESC_CYCLES, MTILE.SKEW_CNT, MTILE.DTAG] ++
  [MTILE.STAG, MTILE.SKEW_VALID, MTILE.ILL_ADDR, MTILE.ILL_REASON, MTILE.ILL_VALID, MTILE.CCNT, MTILE.EXEMPT, MTILE.CCAP, MTILE.PI_INDEX, MTILE.PI_STAGED, MTILE.PI_AUTOINC, MTILE.PI_LO] ++
  [MTILE.PI_HI, MTILE.DI_INDEX, MTILE.DI_WORD, MTILE.DI_STAGED, MTILE.DI_AUTOINC, MTILE.DI_LO, MTILE.DI_HI]

/-- The fields of VTILE. -/
def VTILE.all : List Fld :=
  [VTILE.PROG_LEN_M1, VTILE.PC, VTILE.LOOP_DEPTH, VTILE.EP, VTILE.BOXQ, VTILE.TOPK_N, VTILE.SCR_CORR, VTILE.ACC_SAT_CNT, VTILE.NAN_CNT, VTILE.SEQ_ERR_CNT, VTILE.TSEQ, VTILE.S0SEQ] ++
  [VTILE.S1SEQ, VTILE.SEQ_VALID, VTILE.ILL_ADDR, VTILE.ILL_REASON, VTILE.ILL_VALID, VTILE.CCNT, VTILE.EXEMPT, VTILE.CCAP, VTILE.SQ_EN, VTILE.SQ_ITEM_M1, VTILE.SQ, VTILE.PI_INDEX] ++
  [VTILE.PI_STAGED, VTILE.PI_AUTOINC, VTILE.PI_LO, VTILE.PI_HI, VTILE.DI_INDEX, VTILE.DI_WORD, VTILE.DI_STAGED, VTILE.DI_AUTOINC, VTILE.DI_LO, VTILE.DI_HI, VTILE.FT_TABLE, VTILE.FT_ENTRY] ++
  [VTILE.FT_STAGED, VTILE.FT_AUTOINC, VTILE.FT_LO, VTILE.FT_HI, VTILE.CH]

/-- The fields of BMD. -/
def BMD.all : List Fld :=
  [BMD.QUEUE, BMD.MODE, BMD.QUEUE2, BMD.DUAL, BMD.ORDER, BMD.PADROW, BMD.PFMT, BMD.CHAIN, BMD.IH_M1, BMD.CH_M1, BMD.FPR_M1, BMD.KH_M1] ++
  [BMD.SV_M1, BMD.DV_M1, BMD.PT, BMD.PB, BMD.NR, BMD.PADVAL, BMD.NEXT, BMD.NSEG_M1, BMD.SADV, BMD.SPRE, BMD.SSPAN_M1, BMD.LASTF] ++
  [BMD.MODEARG, BMD.OROW, BMD.LROW, BMD.CUR]

/-- The fields of BTILE. -/
def BTILE.all : List Fld :=
  [BTILE.STAGED, BTILE.SCRUB_PERIOD, BTILE.SCRUB_EN, BTILE.BT_CORR, BTILE.UE_CNT, BTILE.UE_ADDR, BTILE.UE_SCRUB, BTILE.UE_VALID, BTILE.WADDR, BTILE.WPORT, BTILE.WDOM, BTILE.BULK] ++
  [BTILE.W_VALID, BTILE.SLIP_CNT, BTILE.PWAIT_CNT, BTILE.WIN_LO, BTILE.WIN_HI, BTILE.BW_LO, BTILE.BW_HI, BTILE.PROTECT, BTILE.IMG_LO, BTILE.IMG_HI]

/-- The fields of FETCH. -/
def FETCH.all : List Fld :=
  [FETCH.FLT_STREAM, FETCH.FLT_KIND, FETCH.FLT_LEVEL, FETCH.FLT_LOCKED, FETCH.FLT_VALID, FETCH.FLT_VA_LO, FETCH.FLT_VA_HI, FETCH.XLATE_WAIT, FETCH.DISCARD_CNT, FETCH.TIMEOUT_CNT, FETCH.TAGS_OUT, FETCH.EPOCH] ++
  [FETCH.STATE, FETCH.STALE, FETCH.CANCEL, FETCH.RESOLVE, FETCH.CSYNC, FETCH.CSYNC_EN]

/-- The fields of GSLOT. -/
def GSLOT.all : List Fld :=
  [GSLOT.BASE_LO, GSLOT.BASE_HI, GSLOT.GFMT, GSLOT.GEN, GSLOT.CH_M1, GSLOT.FW_M1, GSLOT.FH_M1]

/-- The fields of MMU. -/
def MMU.all : List Fld :=
  [MMU.EN, MMU.ROOT_LO, MMU.ROOT_HI, MMU.PINNED, MMU.HOST_OFFSET, MMU.OP_VA_LO, MMU.OP_VA_HI, MMU.OP_AS, MMU.OP_LEN, MMU.FORCE, MMU.INVAL, MMU.UNLOCK] ++
  [MMU.LOCK, MMU.BUSY, MMU.REFUSED, MMU.FAIL, MMU.FAIL_KIND, MMU.FREE]

/-- The fields of MEMPORT. -/
def MEMPORT.all : List Fld :=
  [MEMPORT.PRESENT, MEMPORT.DENS, MEMPORT.CAP, MEMPORT.RSV, MEMPORT.TAGA, MEMPORT.SCRUB_HOURS, MEMPORT.SCRUB_EN, MEMPORT.CORR_CNT, MEMPORT.UE_CNT, MEMPORT.UE_PA_LO, MEMPORT.UE_PA_HI, MEMPORT.UE_SCRUB] ++
  [MEMPORT.UE_VALID, MEMPORT.DEV_WARN, MEMPORT.CORR_DEV, MEMPORT.TRN_LEN, MEMPORT.PS_PER_MM, MEMPORT.RTT_MAX, MEMPORT.RTT_CLR, MEMPORT.IMG_LO, MEMPORT.IMG_HI]

/-- The fields of LOADER. -/
def LOADER.all : List Fld :=
  [LOADER.BUSY, LOADER.CUR_DOM, LOADER.LAST_RESULT, LOADER.LAST_DOM, LOADER.LAST_CMD, LOADER.LAST_DETAIL, LOADER.KEY_LATCH, LOADER.KEY_EPOCH, LOADER.KEY, LOADER.FW_DIGEST, LOADER.LAT_VER, LOADER.LAT_CHIP]

/-- The fields of LDOM. -/
def LDOM.all : List Fld :=
  [LDOM.STATE, LDOM.HELD, LDOM.MODE, LDOM.FOLDED, LDOM.FOLD_SQ, LDOM.MODE_DROPPED, LDOM.SEG, LDOM.NSEG_M1, LDOM.FOFF, LDOM.ROFF, LDOM.VW_M1, LDOM.VH_M1] ++
  [LDOM.HOLD_LIMIT, LDOM.SCHED_LAT, LDOM.PHI, LDOM.FRAME, LDOM.SKIPPED, LDOM.EQ_LO, LDOM.EQ_HI, LDOM.APPLY_CNT, LDOM.RESTORE_CNT, LDOM.BASE_DIGEST]

/-- The fields of FAULT. -/
def FAULT.all : List Fld :=
  [FAULT.FIRST_PAGE, FAULT.FIRST_CAUSE, FAULT.FIRST_PRIV, FAULT.FIRST_DOM, FAULT.FIRST_DOMV, FAULT.FIRST_SEV, FAULT.FIRST_VALID, FAULT.FIRST_TIME_LO, FAULT.FIRST_TIME_HI, FAULT.OVF_CNT, FAULT.OVF, FAULT.FENCE_MAP] ++
  [FAULT.FENCE_CORE, FAULT.FENCE_NOW, FAULT.PRIV_STAT, FAULT.PRIV_REACT, FAULT.PRIV_LOCK, FAULT.ALIVE_RUN, FAULT.ALIVE_LEVEL, FAULT.ALIVE_RESTART, FAULT.REARM_MS, FAULT.EVO_MAP_LO, FAULT.EVO_MAP_HI, FAULT.INJ_PAGE] ++
  [FAULT.INJ_BIT, FAULT.INJ_GO, FAULT.TM, FAULT.ECC_KIND, FAULT.SYM_A, FAULT.SYM_B, FAULT.TWO, FAULT.XORVAL, FAULT.ARM, FAULT.INJ_PRIV]

/-- The fields of FDOM. -/
def FDOM.all : List Fld :=
  [FDOM.QUIET_MS, FDOM.AUTO_RESTART, FDOM.QUIET_CUR, FDOM.QUIET_LEFT, FDOM.RECOVERY_CNT, FDOM.STOP_PAGE, FDOM.STOP_BIT, FDOM.STOP_VALID, FDOM.STALE_Q, FDOM.STALE_VALID, FDOM.GRIDLOCK_TIME, FDOM.S1_MARKS]

/-- The fields of RANKCTL. -/
def RANKCTL.all : List Fld :=
  [RANKCTL.FENCED, RANKCTL.WRITE_DROP_CNT, RANKCTL.DROP_PAGE]

/-- The fields of CORECTL. -/
def CORECTL.all : List Fld :=
  [CORECTL.FPAGE, CORECTL.FBIT, CORECTL.FHOST, CORECTL.FBOOT, CORECTL.FVALID, CORECTL.FENCE_TIME_LO, CORECTL.FENCE_TIME_HI]

/-- The fields of SCORE. -/
def SCORE.all : List Fld :=
  [SCORE.READY, SCORE.FULL, SCORE.CLEARING, SCORE.NOPART, SCORE.QDEPTH, SCORE.COUNT, SCORE.WRPTR, SCORE.SIZE, SCORE.DROP_FULL, SCORE.DROP_BUSY, SCORE.TORN_CNT, SCORE.HEAD] ++
  [SCORE.OPSEC, SCORE.OPHOURS, SCORE.PCYCLE, SCORE.TRG_REC]

/-- The fields of JOURNAL. -/
def JOURNAL.all : List Fld :=
  [JOURNAL.READY, JOURNAL.PART, JOURNAL.COMPACTING, JOURNAL.JSTOP, JOURNAL.JRESET, JOURNAL.TORN_SEEN, JOURNAL.SEQ, JOURNAL.WRPTR, JOURNAL.OPSEC_J, JOURNAL.WEAR, JOURNAL.FAIL_CNT, JOURNAL.COMPACT_CNT] ++
  [JOURNAL.USER]

/-- The fields of HDR. -/
def HDR.all : List Fld :=
  [HDR.HDR_VER, HDR.INSTANCE, HDR.BLOCK_TYPE, HDR.STEPPING, HDR.MINOR, HDR.MAJOR, HDR.PAGE_CAP, HDR.ENABLE, HDR.QUIESCE, HDR.BLOCK_RESET, HDR.READY, HDR.QUIESCED] ++
  [HDR.FENCED, HDR.POISON_SEEN, HDR.DOMAIN, HDR.FLT_STAT, HDR.FLT_MASK, HDR.FLT_SEV, HDR.CAUSE, HDR.OVF, HDR.OVF_COUNT, HDR.PERF_SEL, HDR.PERF_CNT_LO, HDR.PERF_CNT_HI] ++
  [HDR.STALL_IN, HDR.STALL_OUT, HDR.SCRATCH]

/-- The fields of RING. -/
def RING.all : List Fld :=
  [RING.HBASE_LO, RING.HBASE_HI, RING.HLOG2, RING.HEN, RING.ROLE, RING.VEC, RING.VEC_EN, RING.DMAE, RING.IDX_ADDR_LO, RING.IDX_ADDR_HI, RING.DEV_IDX, RING.HOST_IDX] ++
  [RING.LINK, RING.LINK_EN]

/-- The fields of SYNC. -/
def SYNC.all : List Fld :=
  [SYNC.VALUE_LO, SYNC.VALUE_HI, SYNC.MODE, SYNC.IRQ_EN, SYNC.VEC, SYNC.PARTIES, SYNC.ARRIVED, SYNC.ADD, SYNC.IRQ_TGT_LO, SYNC.IRQ_TGT_HI, SYNC.WAITERS, SYNC.SIG_CNT]

/-- The fields of HOSTPORT. -/
def HOSTPORT.all : List Fld :=
  [HOSTPORT.SPEED, HOSTPORT.WIDTH, HOSTPORT.REVERSED, HOSTPORT.POL, HOSTPORT.FAULT_EVRING, HOSTPORT.FEV_EN, HOSTPORT.IRQ_SEV, HOSTPORT.IRQ_SEV_EN, HOSTPORT.DOM_EVRING, HOSTPORT.DEV_EN, HOSTPORT.EV_DROP, HOSTPORT.LAND_DROP] ++
  [HOSTPORT.HQ_BASE, HOSTPORT.HQ_N, HOSTPORT.HQ_CMBASE, HOSTPORT.TRICK, HOSTPORT.TBL, HOSTPORT.STAGED, HOSTPORT.AUTOINC, HOSTPORT.ET_DATA, HOSTPORT.CT_INDEX, HOSTPORT.CT_DATA, HOSTPORT.OWNER_A, HOSTPORT.APER_BASE_LO] ++
  [HOSTPORT.APER_BASE_HI, HOSTPORT.APER_ERR, HOSTPORT.TAGS_OUT, HOSTPORT.LQ_DEPTH, HOSTPORT.BAD_ACC]

/-- The fields of INGRESS. -/
def INGRESS.all : List Fld :=
  [INGRESS.EN, INGRESS.LANES, INGRESS.LANE_MAP, INGRESS.POL, INGRESS.RATE, INGRESS.LANE_HS, INGRESS.CLK_HS, INGRESS.DESKEWED, INGRESS.ECC_CORR, INGRESS.HDR_UE, INGRESS.CRC_ERR, INGRESS.TIM_ERR] ++
  [INGRESS.DT_IGN, INGRESS.SKEW, INGRESS.SKEW_VALID, INGRESS.SKEW_MAX, INGRESS.TRICK, INGRESS.STAGED, INGRESS.AUTOINC, INGRESS.PT_DATA, INGRESS.OWNER_A, INGRESS.DT, INGRESS.VC_EN, INGRESS.OSGN] ++
  [INGRESS.DEPTH, INGRESS.QBASE, INGRESS.FNUM_CHK, INGRESS.WIDTH_M1, INGRESS.LINES_M1, INGRESS.FRAMES_OK, INGRESS.FRAMES_BAD, INGRESS.LINES_FIXED, INGRESS.FNUM_ERR, INGRESS.LAST_FNUM]

/-- The fields of GLINK. -/
def GLINK.all : List Fld :=
  [GLINK.EN, GLINK.RETRAIN, GLINK.EXP_EN, GLINK.EXP_POS, GLINK.KEY_CHK, GLINK.LSTATE, GLINK.LEAD, GLINK.REVERSED, GLINK.POL, GLINK.FAIL, GLINK.LOSS, GLINK.EQ_LEN] ++
  [GLINK.LOSS_PER_MM, GLINK.P_PART, GLINK.P_STEP, GLINK.P_POS, GLINK.P_ROLE, GLINK.P_HPOS, GLINK.P_VALID, GLINK.P_EPOCH, GLINK.P_KEY, GLINK.EXP_KEY, GLINK.REPLAY_CNT, GLINK.CRC_CNT] ++
  [GLINK.RETRAIN_CNT, GLINK.TUN_DROP, GLINK.BC_IGN, GLINK.TUN_OFFSET, GLINK.TUN_SPACE, GLINK.TUN_TPOS, GLINK.TUN_WDATA, GLINK.TUN_WR, GLINK.TUN_RD, GLINK.TUN_BUSY, GLINK.TERR, GLINK.TUN_RDATA] ++
  [GLINK.TUN_BASE_LO, GLINK.TUN_BASE_HI, GLINK.TUN_LEN, GLINK.TUN_VEC, GLINK.TVEC_EN, GLINK.HPOS, GLINK.TRICK, GLINK.TBL, GLINK.STAGED, GLINK.AUTOINC, GLINK.ET_DATA, GLINK.OWNER_A]

/-- The fields of POWER. -/
def POWER.all : List Fld :=
  [POWER.P_CAP, POWER.CREDIT_MAX, POWER.CREDIT, POWER.P_NOW, POWER.CAPPING, POWER.AT_FLOOR, POWER.THROTTLING, POWER.PMB_ERR, POWER.H, POWER.TJ, POWER.TJ_PEAK, POWER.T_THR] ++
  [POWER.T_TRIP, POWER.T_HW, POWER.VDD_SET, POWER.V, POWER.I]

/-- The fields of CLOCKS. -/
def CLOCKS.all : List Fld :=
  [CLOCKS.LOCKED, CLOCKS.REF_OK, CLOCKS.LOSS_CNT]

/-- The fields of PINS. -/
def PINS.all : List Fld :=
  [PINS.STRAP_UP, PINS.STRAP_NONE, PINS.BOOT_SRC, PINS.GL_ROLE, PINS.PCIE_PRESENT, PINS.POS, PINS.EVO_OUT, PINS.EVO_OE, PINS.FILT, PINS.EDGES, PINS.ACT_LOW, PINS.STUCK_S] ++
  [PINS.DQUEUE, PINS.DOM, PINS.TOK_EN, PINS.OVR_CNT, PINS.ACCEPT_CNT, PINS.LEVEL, PINS.STUCK, PINS.PENDING]

/-- The fields of SECURITY. -/
def SECURITY.all : List Fld :=
  [SECURITY.LIFECYCLE, SECURITY.SLOT0_OK, SECURITY.SLOT1_OK, SECURITY.JTAG_LOCKED, SECURITY.TRNG_OK, SECURITY.MIN_SVN, SECURITY.FW_VERSION, SECURITY.FW_SVN, SECURITY.ROM_VERSION, SECURITY.FW_B, SECURITY.FW_A_BAD, SECURITY.FW_TRIES] ++
  [SECURITY.BOOT_GO, SECURITY.ID_PUB, SECURITY.SEC_OP, SECURITY.SEC_STATUS, SECURITY.SEC_BUSY, SECURITY.SEC_ARG_LO, SECURITY.SEC_ARG_HI]

/-- The fields of SDESC. -/
def SDESC.all : List Fld :=
  [SDESC.KIND, SDESC.EN, SDESC.DOM, SDESC.CLS, SDESC.AS, SDESC.BRANK, SDESC.BQ, SDESC.CNT, SDESC.STAMP, SDESC.NSLOT_M1, SDESC.MAPBASE_LO, SDESC.MAPBASE_HI] ++
  [SDESC.FMT, SDESC.U, SDESC.C_M1, SDESC.MW_M1, SDESC.LENF_M1, SDESC.H_M1, SDESC.X0, SDESC.X1, SDESC.AFTER, SDESC.AFTEN, SDESC.Y0, SDESC.Y1] ++
  [SDESC.C0, SDESC.C1, SDESC.FSTRIDE, SDESC.TQ]

end Reg

/-- The block-specific fields of a page; the common header of Table 12.4 comes besides. -/
def PageKind.fields : PageKind → List Fld
  | .chip | .dealer => []
  | .clocks => Reg.CLOCKS.all
  | .power => Reg.POWER.all
  | .security => Reg.SECURITY.all
  | .pins => Reg.PINS.all
  | .fetch => Reg.BQR.all ++ Reg.FETCH.all
  | .mmu => Reg.MMU.all
  | .memport => Reg.MEMPORT.all
  | .loader => Reg.LOADER.all
  | .fault => Reg.FAULT.all
  | .rankctl => Reg.RANKCTL.all
  | .score => Reg.SCORE.all
  | .journal => Reg.JOURNAL.all
  | .hostport => Reg.BQR.all ++ Reg.HOSTPORT.all
  | .ingress => Reg.BQR.all ++ Reg.INGRESS.all
  | .glink => Reg.BQR.all ++ Reg.GLINK.all
  | .corectl => Reg.CORECTL.all
  | .xnode => Reg.XNODE.all
  | .qeng => Reg.QENG.all
  | .mtile => Reg.MTILE.all
  | .vtile => Reg.VTILE.all
  | .btile => Reg.BTILE.all

/-- Block types of Table 12.3 (R357). -/
def PageKind.blockType : PageKind → Nat
  | .chip => 0x0001 | .dealer => 0x0002 | .clocks => 0x0046 | .power => 0x0044 | .security => 0x0045 | .pins => 0x0047
  | .fetch => 0x0020 | .mmu => 0x0021 | .memport => 0x0022 | .loader => 0x0043 | .fault => 0x0040 | .rankctl => 0x0003
  | .score => 0x0041 | .journal => 0x0042 | .hostport => 0x0030 | .ingress => 0x0031 | .glink => 0x0032
  | .corectl => 0x0010 | .xnode => 0x0014 | .qeng => 0x0015 | .mtile => 0x0011 | .vtile => 0x0012 | .btile => 0x0013

/-- Reset value of FLT_SEV (Tables 10.2 and 10.3). -/
def PageKind.sevReset : PageKind → Nat
  | .xnode => 0x01BF | .qeng => 0x00FB | .mtile => 0x84D7 | .vtile => 0x9377 | .btile => 0x0B07 | .fetch => 0x7615
  | .memport => 0x0001 | .loader => 0x0030 | .corectl => 0x002E | .rankctl => 0x0003 | .fault => 0x0033
  | .hostport => 0x0155 | .ingress => 0x0155 | .glink => 0x3C15
  | .mmu | .pins | .power | .score | .chip | .dealer | .clocks | .security | .journal => 0

/-- Whether the page belongs to a core, whose ENABLE resets to 0 (Table 12.4). -/
def PageKind.isCore : PageKind → Bool
  | .corectl | .xnode | .qeng | .mtile | .vtile | .btile => true
  | _ => false

/-- Words of a page whose reset value is not 0, beyond the header: byte offset and value. -/
def PageKind.resets : PageKind → List (Nat × Nat)
  | .chip => [(0x8, 0x4242001)]
  | .power => [(0x40, 0x19), (0x44, 0x3A98), (0x48, 0x3A98), (0x64, 0x736E64), (0x68, 0x2EE)]
  | .security => [(0x50, 0x10000)]
  | .pins => [(0x60, 0x1440A), (0x70, 0x1440A), (0x80, 0x1440A), (0x90, 0x1440A)]
  | .fetch => [(0x40, 0x32), (0x6C, 0xA)]
  | .mmu => [(0xAC, 0x1000000)]
  | .memport => [(0x58, 0x10018), (0x6C, 0x100), (0xD0, 0x46), (0xE0, 0xFFFFFFFF), (0xE8, 0xFFFFFFFF), (0xF0, 0xFFFFFFFF), (0xF8, 0xFFFFFFFF), (0x100, 0xFFFFFFFF), (0x108, 0xFFFFFFFF), (0x110, 0xFFFFFFFF), (0x118, 0xFFFFFFFF)]
  | .loader => [(0x90, 0x1), (0xA0, 3), (0xA4, 2), (0xA8, 24), (0xAC, 3), (0xB0, 2), (0xB4, 1), (0xB8, 3), (0xBC, 24), (0xC0, 5), (0xC4, 3), (0xC8, 8), (0xCC, 4), (0xD0, 2), (0xD4, 2), (0xD8, 4), (0xDC, 3),
      (0x104, 0x3E8), (0x184, 0x3E8), (0x204, 0x3E8), (0x284, 0x3E8)]
  | .fault => [(0x60, 0x18), (0x64, 0x18), (0x68, 0x18), (0x6C, 0x5), (0x70, 0x3), (0x74, 0x3), (0x78, 0x1), (0x7C, 0x1), (0x88, 0x3E8), (0xA0, 0x10064), (0xA4, 0x64), (0xB8, 0x1000), (0xC0, 0x10064), (0xC4, 0x64), (0xD8, 0x1000), (0xE0, 0x10064), (0xE4, 0x64), (0xF8, 0x1000), (0x100, 0x10064), (0x104, 0x64), (0x118, 0x1000)]
  | .score => [(0x8C, 0xF)]
  | .hostport => [(0x40, 0x32), (0x64, 0x2000)]
  | .ingress => [(0x40, 0x32), (0x60, 0x724), (0x64, 0x9C4), (0x90, 0x4B0)]
  | .glink => [(0x40, 0x32), (0x60, 0x1), (0x6C, 0x6E)]
  | .xnode => [(0x40, 0xFF), (0x44, 0xFF), (0x48, 0xFF), (0x4C, 0xFF), (0x84, 0x20)]
  | .qeng => [(0x40, 0x32)]
  | .mtile => [(0x40, 0xFF)]
  | .vtile => [(0x40, 0x1FF)]
  | .btile => [(0x44, 0x103E8), (0x80, 0x1FFFF), (0x88, 0x1FFFF), (0x90, 0x1FFFF), (0x98, 0x1FFFF), (0xA0, 0x1FFFF), (0xA8, 0x1FFFF), (0xB0, 0x1FFFF), (0xB8, 0x1FFFF), (0xC0, 0x1FFFF), (0xC8, 0x1FFFF), (0xD0, 0x1FFFF), (0xD8, 0x1FFFF), (0xE0, 0x1FFFF), (0xE8, 0x1FFFF), (0xF0, 0x1FFFF), (0xF8, 0x1FFFF), (0x104, 0x1FFFF), (0x108, 0x1), (0x110, 0x1FFFF), (0x118, 0x1FFFF), (0x120, 0x1FFFF), (0x128, 0x1FFFF)]
  | .dealer | .clocks | .rankctl | .journal | .corectl => []

/-- Page number (BAR0 offset ÷ 4 KiB) to page kind and page number within its kind (Table 12.3, R10, R13). -/
def pageKind (pg : Nat) : Option (PageKind × Nat) :=
  if pg < 0x10 then
    match pg with
    | 0 => some (.chip, 0) | 1 => some (.dealer, 0) | 2 => some (.clocks, 0) | 3 => some (.power, 0)
    | 4 => some (.security, 0) | 5 => some (.pins, 0) | _ => none
  else if pg < 0x18 then some (.fetch, pg - 0x10)
  else if pg = 0x18 then some (.mmu, 0)
  else if pg < 0x1D then some (.memport, pg - 0x19)
  else if pg = 0x20 then some (.loader, 0)
  else if pg = 0x30 then some (.fault, 0)
  else if 0x31 ≤ pg ∧ pg < 0x35 then some (.rankctl, pg - 0x31)
  else if pg = 0x40 then some (.score, 0)
  else if pg = 0x41 then some (.journal, 0)
  else if pg = 0x50 then some (.hostport, 0)
  else if 0x51 ≤ pg ∧ pg < 0x55 then some (.ingress, pg - 0x51)
  else if pg = 0x58 then some (.glink, 0)
  else if pg = 0x59 then some (.glink, 1)
  else if 0x100 ≤ pg ∧ pg < 0x500 then
    let p := (pg - 0x100) % 32
    let c := (pg - 0x100) / 32
    if p = 0 then some (.corectl, c)
    else if p = 1 then some (.xnode, c)
    else if p = 2 then some (.qeng, c)
    else if p < 13 then some (.mtile, p - 3)
    else if p < 15 then some (.vtile, p - 13)
    else if p < 19 then some (.btile, p - 15)
    else none
  else none

/-- Reset value of the BAR0 word at byte offset `a` (a multiple of 4). -/
def wordReset (a : Nat) : Nat :=
  if 0x1000000 ≤ a ∧ a < 0x1200000 then
    -- Tables 4.3 and 4.6: CLS 0b01, and LOG2CAP 4 in a boundary descriptor
    if a % 32 = 0 then (if a < 0x1000000 + 61440 * 32 then 0x20 else 0x4020) else 0
  else if 0x2000000 ≤ a ∧ a < 0x2080000 then
    (if a % 64 = 12 then 1 else 0)
  else match pageKind (a / 4096) with
    | none => 0
    | some (k, n) =>
      let o := a % 4096
      if o = 0 then 0x01 + n * 0x100 + k.blockType * 0x10000
      else if o = 4 then 0xB000 + (if k = .chip then 0x03000000 else 0x01000000)
      else if o = 0xC then (if k.isCore then 0 else 1)
      else if o = 0x1C then k.sevReset
      else ((k.resets.find? (fun e => e.1 == o)).map (·.2)).getD 0

end Sys2Proof.Machine
end

