-- ==== Sys2Proof/Machine/Types.lean ====
section
/-!
DEFINITION. The pieces of the machine's state that move through it: items, packets, entries of boundary queues, requests, jobs of
the loader, fault occurrences, records and the outputs to the world outside.
-/

namespace Sys2Proof.Machine

/-- One item with the VNET sideband of Table 3.2; SNET and CNET items use the low data bits and VALID and POISON. `fsb` is the
frame-start bit of a boundary-queue entry (R366, R381, R391). -/
structure Item where
  data : BitVec 256
  valid : Bool
  poison : Bool
  seq : BitVec 2
  btag : BitVec 4
  fsb : Bool
  deriving DecidableEq, Repr

/-- An empty item. -/
def Item.zero : Item := ⟨0, false, false, 0, 0, false⟩

/-- A placeholder (R39). -/
def Item.placeholder : Item := ⟨0, false, false, 0, 0, false⟩

/-- Zero data with POISON (R112, R248, R258). -/
def Item.poisoned : Item := ⟨0, true, true, 0, 0, false⟩

/-- A VALID item of plain data (R87). -/
def Item.ofNat (n : Nat) (p : Bool := false) : Item := ⟨BitVec.ofNat 256 n, true, p, 0, 0, false⟩

/-- A class A item on a link, with the domain that its queue or port belongs to; `badPar` marks a link parity error (R73); `fromQ` is 1 + the queue whose body presented it, or 0. -/
structure Flit where
  item : Item
  dom : Nat
  badPar : Bool
  fromQ : Nat
  deriving DecidableEq, Repr

/-- Edge blocks (Table 1.3). -/
inductive Edge where
  | csi (n : Nat)
  | fetch (f : Nat)
  /-- the host port by LINK 0 (d4) or 1 (e4) -/
  | host (link : Nat)
  | gl (k : Nat)
  /-- rank controller, 0 to 3 -/
  | rank (r : Nat)
  deriving DecidableEq, Repr

/-- A class A item between its last node and an edge block, which it enters in the next cycle (R93): the network, the domain of the node's
output port and the trick in which it arrives. -/
structure EdgeFlit where
  edge : Edge
  net : Nat
  dom : Nat
  trick : Nat
  flit : Flit
  deriving DecidableEq, Repr

/-- A class B or C packet that its endpoint keeps until its route may change (R91): header without a route, class, payload, and the
domain for which it is sent. -/
structure Parked where
  hdr : Nat
  cls : Nat
  items : List Item
  dom : Option Nat
  /-- fetch stream that sends it, 64·engine + stream + 1; 0 none -/
  own : Nat
  deriving DecidableEq, Repr

/-- A flit of a class B or C packet (R86), and the fetch stream that sends it: 64·engine + stream + 1, 0 none (R259). -/
structure BFlit where
  item : Item
  head : Bool
  tail : Bool
  own : Nat
  deriving DecidableEq, Repr

/-- An item that the switch node sent on a local input port in cycle `at_`, with the landing entry of its trick (R93, R101). -/
structure Landed where
  flit : Flit
  entry : Nat
  owner : Nat
  at_ : Nat
  deriving DecidableEq, Repr

/-- An item in a landing buffer or a body: `at` is the first cycle in which it may be presented (R102). -/
structure BodyItem where
  q : Nat
  item : Item
  at_ : Nat
  deriving DecidableEq, Repr

/-- A body read that the queue engine offers for a presentation (R102): source 0 to 3 (OUT0, OUT1, SOUT, COUT) of the core, the queue,
the domain cycle of the first trick that its data reach, the first word, whether it was performed, and how many presentations of the queue
come before its own. -/
structure PRead where
  core : Nat
  src : Nat
  q : Nat
  due : Nat
  word : Nat
  done : Bool
  ahead : Nat
  deriving DecidableEq, Repr

/-- Rescale entries that a step of a unit reads through port 3 of a B tile (R154, R206): the cycle of its issue, the next word, the words
left, the words left of the access begun, and the first and the number of the slots that wait for them. -/
structure RsReq where
  core : Nat
  unit : Nat
  tile : Nat
  since : Nat
  word : Nat
  left : Nat
  acc : Nat
  slot : Nat
  slots : Nat
  deriving DecidableEq, Repr

/-- A packet that a core's bulk port serves entry by entry (R217, R237): KIND (5: a spill), its header, the queue of a push or a spill, the B
tile, the byte address of the next entry, the items still to be written, the items read, the entries left, and whether a word was refused. -/
structure Bulk where
  kind : Nat
  hdr : Nat
  q : Nat
  tile : Nat
  addr : Nat
  payload : List Item
  got : List Item
  left : Nat
  bad : Bool
  deriving DecidableEq, Repr

/-- A flit in a tile's output port, in flight until its switch node takes it: `at_` is the cycle in which it completes (R38, R93). -/
structure OutFlit where
  item : Item
  at_ : Nat
  /-- it completed while the domain was held, and lies in the skid buffer (R52) -/
  skid : Bool
  deriving DecidableEq, Repr

/-- A position in the presentation order of R221. -/
structure LbCur where
  oy : Nat
  k : Nat
  a : Nat
  b : Nat
  f : Nat
  deriving DecidableEq, Repr

/-- A line buffer (R219 to R224): flits landed since START, rows released, rows that may be released once landed, rows of earlier
frames, the positions of QUEUE and QUEUE2, the sideband of the landed flits by body entry, and the first cycles in which the newest
flits may be presented (R102). -/
structure LbSt where
  landed : Nat
  rel : Nat
  target : Nat
  base : Nat
  cur : LbCur
  cur2 : LbCur
  side : Tab Item
  fresh : List Nat
  /-- OROW and LROW, and the descriptor in use once a chain has moved on from its first (R224) -/
  orow : Nat
  lrow : Nat
  chain : Option Nat
  deriving DecidableEq, Repr

/-- A line buffer at START. -/
def LbSt.zero : LbSt := ⟨0, 0, 0, 0, ⟨0, 0, 0, 0, 0⟩, ⟨0, 0, 0, 0, 0⟩, [], [], 0, 0, none⟩

/-- An open result packet of an outbound queue (R114 to R118). -/
structure OpenPkt where
  /-- ring entry of the length slot -/
  slot : Nat
  /-- items taken from the fabric -/
  taken : Nat
  /-- payload entries written -/
  written : Nat
  poison : Bool
  overrun : Bool
  bound : Nat
  /-- domain frame number and stream tag (DEDUCED, log 11) -/
  frame : Nat
  tag : Nat
  lastValid : Bool
  /-- the threshold has been crossed -/
  crossed : Bool
  deriving DecidableEq, Repr

/-- The state of one boundary queue beside its descriptor and its crossing memory. -/
structure BqSt where
  /-- write and read pointers; the registers show the low bits -/
  w : Nat
  r : Nat
  /-- published pointers and the stages of the two synchronisers, the reader's and the writer's view last (R110) -/
  wPub : Nat
  rPub : Nat
  wPrev : Nat
  rPrev : Nat
  wFf : List Nat
  rFf : List Nat
  /-- a pointer copy differs from its twin (R112) -/
  mismatch : Bool
  resetting : Bool
  /-- poison entries still owed after a queue reset, and whether the rest of the stream unit is poisoned (R112) -/
  owed : Nat
  unitPoison : Bool
  /-- the next entry written carries POISON (R113) -/
  nextPoison : Bool
  pkt : Option OpenPkt
  pseq : Nat
  /-- packets closed since START (DEDUCED, log 11) -/
  closed : Nat
  /-- frames whose first entry the attachment read since START (DEDUCED, log 11) -/
  frames : Nat
  /-- items from the fabric that wait for room (R105, R113) -/
  wait : List Item
  /-- a notification at THRESH was given and the count has not fallen below it since (R119) -/
  noted : Bool
  /-- cycle at which the tail timer started; none: stopped (R120) -/
  tail : Option Nat
  /-- entries freed since the last credit word (R364, R391) -/
  freed : Nat
  /-- entries taken from the ring since HEN was set, modulo FLEN (R366) -/
  fcnt : Nat
  /-- frame discard of R291: the reader stopped at a frame start; the writer discards until the next frame start after RUNNING -/
  stopWanted : Bool
  stopped : Bool
  /-- the writer is inside a frame that it discards -/
  dropping : Bool
  /-- entries made visible in the host ring but not yet freed, and payload entries already copied of the open packet (R367) -/
  copied : Nat
  /-- the open packet being copied has crossed THRESH (R117) -/
  crossed : Bool
  /-- entries that their writer holds until their cycle, entries read whose pointer advance is still to come, and the cycles (plus 1) of the last
  write and the last read: each pointer advances at most once a cycle (R111) -/
  arr : List Item
  rel : Nat
  lastW : Nat
  lastR : Nat
  /-- closed packets whose slot waits until their payload is visible: slot entry, write pointer after the payload, slot (R116) -/
  closing : List (Nat × Nat × Nat)
  /-- entries left of each packet that has any in the queue or is open, oldest first (R112) -/
  spans : List Nat
  deriving DecidableEq, Repr

/-- A boundary queue after reset. -/
def BqSt.zero : BqSt :=
  ⟨0, 0, 0, 0, 0, 0, [0, 0, 0], [0, 0, 0], false, false, 0, false, false, none, 0, 0, 0, [], false, none, 0, 0, false, false, false,
    0, false, [], 0, 0, 0, [], []⟩

/-- A read of ring entries that the device has outstanding at the host (R352, R353, R366): its tag, the ring, first entry and count. -/
structure PcieRead where
  tag : Nat
  b : Nat
  first : Nat
  n : Nat
  at_ : Nat
  deriving DecidableEq, Repr

/-- The identification of the configuration space (Table 0.2). -/
structure PcieId where
  vendor : BitVec 16
  device : BitVec 16
  revision : BitVec 8
  /-- base class, sub-class, programming interface -/
  classCode : BitVec 24
  subVendor : BitVec 16
  subId : BitVec 16
  deriving DecidableEq, Repr

/-- Fields of the PCI Express configuration space (Table 12.1): the identification (R3), the AER Uncorrectable Error
Status, and what the device's behaviour reads (R351 to R353); the reset values are those of log 6. -/
structure PcieCfg where
  ident : PcieId
  aer : BitVec 32
  /-- MSI-X Enable and Function Mask -/
  msixEn : Bool
  msixMask : Bool
  /-- Max_Payload_Size and Max_Read_Request_Size in bytes -/
  mps : Nat
  mrrs : Nat
  /-- 10-bit Tag Requester Enable and Extended Tag Field Enable -/
  tag10 : Bool
  tagExt : Bool
  /-- Enable Relaxed Ordering -/
  relaxed : Bool
  /-- Completion Timeout Value and Disable -/
  cto : Nat
  ctoOff : Bool
  /-- the power state is D3hot -/
  d3hot : Bool
  /-- size of BAR4 in bytes (Resizable BAR) -/
  bar4 : Nat
  deriving DecidableEq, Repr

/-- A command taken from a command ring (R369 to R371). -/
structure RingCmd where
  bytes : List Byte
  /-- 0 dispatched, 1 given to its executor or waiting, 2 completed: its event is due -/
  stage : Nat
  result : Nat
  detail : Nat
  aux : Nat
  /-- second payload entry of the completion event -/
  entry1 : Nat
  /-- FENCE_WAIT and BARRIER: the value that VALUE must reach; cycle of dispatch -/
  target : Nat
  at_ : Nat
  /-- a host-port reset dropped its event (R354) -/
  gone : Bool
  deriving DecidableEq, Repr

/-- A BAR4 access (R360): byte address within the B tiles or in DDR5, length, and the data of a write. The first of the queue is in
progress: `tx` is its packet's transaction number, and `tag` (256·port + tag) its request at a memory port. -/
structure AperReq where
  addr : Nat
  len : Nat
  data : List Byte
  write : Bool
  /-- BAR4 offset -/
  off : Nat
  tx : Option Nat
  at_ : Nat
  tag : Option Nat
  /-- DDR5: bytes requested so far, the data of a read so far, and its poison -/
  pos : Nat
  got : List Byte
  bad : Bool
  deriving DecidableEq, Repr

/-- One request at a memory port (R252, R253): of fetch engine `f`, or of the BAR4 aperture, for which `f` is 8. -/
structure MemReq where
  port : Nat
  tag : Nat
  f : Nat
  st : Nat
  epoch : Nat
  /-- position among the stream's requests; returns are delivered in this order -/
  seq : Nat
  pa : Nat
  /-- device virtual address of the burst -/
  va : Nat
  len : Nat
  write : Bool
  /-- write data with byte enables; `none` keeps the byte -/
  wdata : List (Option Byte)
  cls : Nat
  dom : Nat
  at_ : Nat
  /-- performed by the port -/
  done : Bool
  rdata : List Byte
  /-- poison per byte of the answer -/
  rpoison : List Bool
  deriving DecidableEq, Repr

/-- A return held by the engine until the stream's earlier ones are delivered (R252). -/
structure FetchRet where
  seq : Nat
  va : Nat
  data : List Byte
  poison : List Bool
  deriving DecidableEq, Repr

/-- One fetch stream beside its descriptor and status word. -/
structure FStream where
  /-- pass in progress, and passes completed since START (R245) -/
  pass : Nat
  passDone : Nat
  /-- next item of the pass to request and the bytes of it already requested; next item to deliver -/
  pos : Nat
  poff : Nat
  dpos : Nat
  /-- memory requests issued and delivered -/
  iseq : Nat
  dseq : Nat
  rets : List FetchRet
  /-- bytes at hand of the item being assembled, with poison -/
  acc : List Byte
  accP : List Bool
  /-- stamp count (R246) -/
  stamp : Nat
  /-- translation of the next request at hand: virtual and physical 4 KiB page -/
  xl : Option (Nat × Nat)
  /-- address of the request that waits for a walk -/
  walkVa : Nat
  wasLocked : Bool
  suspAt : Nat
  /-- cancelled and not yet signalled (R257), and a cancel that waits for an old tag -/
  csyncDue : Bool
  cancelWait : Bool
  /-- PREFETCH: starts again when its cancel is complete (R251) -/
  again : Bool
  /-- PREFETCH: flits of the record being assembled, transaction numbers awaited, and the end record was read (R250) -/
  rec_ : List Item
  ackTx : List Nat
  ended : Bool
  started : Bool
  /-- GATHER: the two request words in service and their poison (R248) -/
  gath : List Nat
  gpoison : Bool
  /-- GATHER: bytes of the first row, with poison -/
  grow : List Byte
  growP : List Bool
  /-- pieces waiting to be written: address and bytes -/
  wq : List (Nat × List (Option Byte))
  /-- SPILL: packets in service, header and payload; items of the segment written (R249) -/
  spill : List (Nat × List Item)
  spDone : Nat
  deriving DecidableEq, Repr

/-- A stream after reset. -/
def FStream.zero : FStream :=
  { pass := 0, passDone := 0, pos := 0, poff := 0, dpos := 0, iseq := 0, dseq := 0, rets := [], acc := [], accP := [], stamp := 0,
    xl := none, walkVa := 0, wasLocked := false, suspAt := 0, csyncDue := false, cancelWait := false, again := false, rec_ := [], ackTx := [],
    ended := false, started := false, gath := [], gpoison := false, grow := [], growP := [], wq := [], spill := [], spDone := 0 }

/-- One translation held by a TLB (R271). -/
structure TlbEnt where
  as_ : Nat
  /-- virtual and physical page base, and page size as a power of two: 12 or 21 -/
  va : Nat
  pa : Nat
  lg : Nat
  rd : Bool
  wr : Bool
  pinned : Bool
  parErr : Bool
  deriving DecidableEq, Repr

/-- Attribution of a cause (R311). -/
inductive Attr where
  | none_
  /-- the core, the node, or the bound core -/
  | core (c : Nat)
  /-- the domain of a unit on a core -/
  | unit (d c : Nat)
  /-- a domain with no core named -/
  | dom (d : Nat)
  deriving DecidableEq, Repr

/-- One occurrence of a cause that waits for its resolver (R308, R309). -/
structure Occ where
  page : Nat
  bit : Nat
  attr : Attr
  time : Nat
  /-- the FLT_STAT bit rose (R313) -/
  rose : Bool
  injected : Bool
  /-- frames of the domain whose first input item had arrived when the cause was latched (R310) -/
  frames : Nat
  deriving DecidableEq, Repr

/-- What a step still takes from one input queue (R34, R176): port 0 VI0, 1 VI1, 2 SI, 3 CI; the queue; items left; items taken. -/
structure Seg where
  port : Nat
  q : Nat
  left : Nat
  got : List Item
  deriving DecidableEq, Repr

/-- A step that has issued and still takes items, or waits for its unit (R142, R176). Times are domain cycles: cycles in which
the domain was not held. -/
structure Run where
  op : Nat
  iw : Nat
  pc : Nat
  t0 : Nat
  segs : List Seg
  /-- cycles in which an item was missing or was discarded for a skew -/
  waits : Nat
  /-- 1 + the cycle in which the step last took items -/
  acted : Nat
  /-- domain cycle of its last take -/
  lastTake : Nat
  skew : Bool
  deriving DecidableEq, Repr

/-- A tile sequencer beside its registers (R35, R158, R171): open loops, innermost first (top, END, passes left), first domain cycle
in which the next step may issue, 1 + the cycle of the last attempt, steps in progress, cycle by cycle use of the input ports,
and whether an illegal step stopped it. -/
structure Sqr where
  loops : List (Nat × Nat × Nat)
  readyAt : Nat
  tried : Nat
  runs : List Run
  portUse : Tab Nat
  stuck : Bool
  deriving DecidableEq, Repr

def Sqr.zero : Sqr := ⟨[], 0, 0, [], [], false⟩

/-- An M tile (R128): accumulators by entry, 1,024 values in row order (an unlisted entry is all zero), entry flags as bit maps
(POISON, PLACEHOLDER, accumulated into since cleared), domain cycle of each entry's last update; output slots by 32·slot + row,
their flags and formats, and the domain cycle in which each row is written; last cycle of the MAC phase. -/
structure MTile where
  sq : Sqr
  acc : Tab (List Int)
  accPoison : Nat
  accPh : Nat
  accUsed : Nat
  accAt : Tab Nat
  slots : Tab (List Int)
  slotPoison : Nat
  slotPh : Nat
  slotA12 : Nat
  slotAt : Tab Nat
  macEnd : Nat
  deriving DecidableEq, Repr

def MTile.zero : MTile := ⟨Sqr.zero, [], 0, 0, 0, [], [], 0, 0, 0, [], 0⟩

/-- One slot of a V tile's result buffer (R167). -/
structure Slot where
  data : Nat
  valid : Bool
  poison : Bool
  deriving DecidableEq, Repr

def Slot.zero : Slot := ⟨0, true, false⟩

/-- A box of R190. -/
structure Box where
  x1 : Nat
  y1 : Nat
  x2 : Nat
  y2 : Nat
  poison : Bool
  deriving DecidableEq, Repr

/-- A V tile (R167): result slots and the domain cycle in which each is written, unit-phase ends by unit, scratch writes under way
(first entry, count, cycle), the latched box, the box FIFO and the count of R191, the top-K set (score code, index), IDX, and
whether a poisoned flit poisoned the set. -/
structure VTile where
  sq : Sqr
  slots : Tab Slot
  slotAt : Tab Nat
  unitBegin : Tab Nat
  unitEnd : Tab Nat
  scrW : List (Nat × Nat × Nat)
  box : Box
  boxes : List Box
  boxK : Nat
  topk : List (Nat × Nat)
  idx : Nat
  tkPoison : Bool
  /-- flits put through each credit counter since its stamp advanced (R175) -/
  sqN : Tab Nat
  deriving DecidableEq, Repr

def VTile.zero : VTile := ⟨Sqr.zero, [], [], [], [], [], ⟨0, 0, 0, 0, false⟩, [], 0, [], 0, false, []⟩

/-- One entry of an image's section table (Table 9.2). -/
structure Sect where
  typ : Nat
  index : Nat
  seg : Nat
  off : Nat
  len : Nat
  digest : List Byte
  deriving DecidableEq, Repr

/-- A scoresheet record that waits to be written (Table 11.3): its header fields and body words; `key` is the page and bit of a CAUSE
record, `priv` marks a PRIV record. -/
structure RecReq where
  typ : Nat
  sev : Nat
  inj : Bool
  pcycle : Nat
  opsec : Nat
  body : List Nat
  key : Option (Nat × Nat)
  priv : Bool
  deriving DecidableEq, Repr

/-- A clear of the scoresheet in progress (R342): the ring that asked, the key slot, and the old values. -/
structure ClrSt where
  ring : Nat
  slot : Nat
  head : List Byte
  count : Nat
  dropFull : Nat
  dropBusy : Nat
  deriving DecidableEq, Repr

/-- A virtual channel of a CSI port (R381 to R383): a frame is open, it is dropped, its lines so far, and whether a frame number was seen. -/
structure CsiVc where
  open_ : Bool
  dropped : Bool
  line : Nat
  seen : Bool
  deriving DecidableEq, Repr

def CsiVc.zero : CsiVc := ⟨false, false, 0, false⟩

/-- A Gostan link beside its registers (R387 to R398). -/
structure GlSt where
  /-- FSEQ of the next sequenced frame to send and of the next one expected -/
  txSeq : Nat
  rxSeq : Nat
  /-- frames sent and not acknowledged, oldest first: FSEQ and bytes; how many of the last of them a replay still sends -/
  buf : List (Nat × List Byte)
  resend : Nat
  /-- a NAK is to be sent; it was sent and no frame has been accepted since; the partner sent one -/
  nakDue : Bool
  nakSent : Bool
  nakRx : Bool
  /-- replays without ACK progress, and the cycle of the last progress -/
  replays : Nat
  ackAt : Nat
  /-- sequenced frames accepted since the last ACK was sent, and the cycle of that -/
  ackCnt : Nat
  ackSentAt : Nat
  /-- SUB 1, 2 and 3 frames that wait -/
  caps : List Nat
  /-- outbound streams: items sent modulo 2^16, credit, items since START -/
  sent : Tab Nat
  cred : Tab Nat
  fcnt : Tab Nat
  /-- inbound streams: 1 + CRED last sent; 0: a record with RST is due -/
  adv : Tab Nat
  rr : Nat
  deal : Nat
  /-- TUNNEL payloads that wait (bytes 4 to 35) -/
  tun : List (List Byte)
  /-- the outstanding access of the TUN registers: cycle, tag and whether it reads -/
  tunOut : Option (Nat × Nat × Bool)
  tunTag : Nat
  /-- replays that covered class A items, seen by the receiver, by domain: domain frame begun, count; at 4 + domain (1, 0) when the
  replay in progress is counted (R389) -/
  rep : Tab (Nat × Nat)
  /-- a replay is in progress at the receiver, and how many of the next expected frames are known to belong to it -/
  inReplay : Bool
  repEnd : Nat
  deriving DecidableEq, Repr

def GlSt.zero : GlSt :=
  { txSeq := 0, rxSeq := 0, buf := [], resend := 0, nakDue := false, nakSent := false, nakRx := false, replays := 0, ackAt := 0,
    ackCnt := 0, ackSentAt := 0, caps := [], sent := [], cred := [], fcnt := [], adv := [], rr := 0, deal := 0, tun := [],
    tunOut := none, tunTag := 0, rep := [], inReplay := false, repEnd := 0 }

/-- A trigger input beside its registers (R420, R421): pending tokens (edge, true rising), cycle of the last accepted edge, cycle since
which the level stands, and the SEQ of its next token. -/
structure TrgSt where
  pend : List Bool
  acceptAt : Option Nat
  since : Nat
  seq : Nat
  deriving DecidableEq, Repr

def TrgSt.zero : TrgSt := ⟨[], none, 0, 0⟩

/-- An access of a requester that waits at the block that owns a queue (R123): a window read, one that a TUNNEL frame asked for (link, SPOS, TAG,
ADDR, byte mask), a window write, a write of bytes and a read of a word of the block's registers. -/
inductive StallOp where
  | read
  | tunRead (k spos tag addr mask : Nat)
  | winWrite (w : Nat)
  | write (off : Nat) (bytes : List (Option Byte))
  | word (a : Nat)
  deriving DecidableEq, Repr

/-- A waiting access: its requester, page of the owning block, queue, the cycle since which it stalls, what it does. -/
structure Stall where
  who : Requester
  block : Nat
  q : Nat
  at_ : Nat
  op : StallOp
  deriving DecidableEq, Repr

/-- What the device sends to the world outside it, oldest first. -/
inductive Out where
  /-- posted write to host memory, with its byte enables; `ro`: Relaxed Ordering set. No Snoop is never set (R352) -/
  | hostWrite (addr : Nat) (bytes : List (Option Byte)) (ro : Bool)
  | msix (vec : Nat)
  /-- completion of a BAR0, BAR2 or window read -/
  | readDone (who : Requester) (off value : Nat)
  /-- completion of a BAR4 read -/
  | aperDone (off : Nat) (data : List Byte) (ep : Bool)
  /-- read request to host memory -/
  | hostRead (tag addr len : Nat)
  /-- level of an output pin: 0 low, 1 high, 2 high impedance -/
  | pin (name : String) (level : Nat)
  /-- frame sent on a Gostan link -/
  | frame (k : Nat) (bytes : List Byte)
  /-- the trap to the Dealer (R317) -/
  | nmi
  deriving DecidableEq, Repr

end Sys2Proof.Machine
end

