-- ==== Sys2Proof/Machine/State.lean ====
section
/-!
DEFINITION. The state of the device, as plain data: everything the chapters give it, and the queue of waiting commands.
Sparse parts are tables (Tab) in canonical form. Register words live in one table keyed by BAR0 word address; a second bank of a
word (staged) lies 2^26 words higher.
-/

namespace Sys2Proof.Machine

/-- Why a step stops with a fault. -/
inductive Fault where
  /-- raised by MEM_ACCESS when a request that stands in a tag register addresses DDR5 beyond the installed capacity: the manual
  gives such an address no memory (R260). Safe: the machine stops where the manual states nothing. -/
  | noMemory (pa : Nat)
  deriving DecidableEq, Repr

/-- Why a step is refused. -/
inductive Refusal where
  /-- raised by the dispatcher for a command that has no meaning yet. Safe. -/
  | notModelled (mnemonic : String)
  deriving DecidableEq, Repr

/-- Switch nodes, packets on the fabric and their endpoints (03_fabric_and_tricks.md). -/
structure Fab where
  /-- trick counters, key 4·node + domain (R77) -/
  trick : Tab Nat
  /-- active-bank selectors of tables, key by `Bank` (R82) -/
  sel : Tab Bool
  /-- trick tables: key ((64·node + port)·2 + bank)·256 + trick; unlisted 0x20 (R79, R94) -/
  tt : Tab Nat
  /-- landing and presentation tables of the queue engines, same keys; unlisted 0 (R101) -/
  lt : Tab Nat
  /-- edge tables: host port ((12·0 + p)·2 + bank)·256 + t, CSI n from table 12 + n, GL k from table 16 + 6k; unlisted 0 (R363, R385, R391) -/
  et : Tab Nat
  /-- pass registers: key (3·node + network)·4 + direction (R76) -/
  pass : Tab (Option Flit)
  /-- items on the links, in the pass registers from the next cycle on -/
  passNxt : Tab (Option Flit)
  /-- items on the links to edge blocks, which they enter in the next cycle (R93) -/
  edgeNxt : List EdgeFlit
  /-- pass registers whose item left in this cycle -/
  sent : List Nat
  /-- output ports (64·node + port) that had their turn in this cycle, and nodes whose pass registers were checked (R83) -/
  portDone : List Nat
  nodeDone : List Nat
  /-- local and edge sources read in this cycle, key 128·node + 32·network + source (R80) -/
  latch : Tab (Option (Option Flit))
  /-- position in the pattern B, B, B, C of each port (R81) -/
  deal : Tab Nat
  /-- isolated nodes, one bit each (R24, R85) -/
  iso : Nat
  /-- the isolated-node map of each endpoint, by node code (R90) -/
  isoCopy : Tab Nat
  /-- class B and C buffers: key ((5·node + input)·2 + class)·2 + lane; input 4 is the bulk port (R91) -/
  buf : Tab (List BFlit)
  /-- flits on the links, in the buffer of that key from the next cycle on (R92) -/
  bufNxt : List (Nat × BFlit)
  /-- flits that an endpoint has still to send into the buffer of that key, as its places become free (R91) -/
  send : Tab (List BFlit)
  /-- by 64·source + destination: the route last used (its waypoint), packets on it that are to be acknowledged or answered, and packets that
  wait for a change of route (R91) -/
  way : Tab (Option (Option Nat))
  owed : Tab Nat
  parked : Tab (List Parked)
  /-- output port and lane that the packet at the front of a buffer was given, same keys; port 64: it is discarded -/
  route : Tab (Option (Nat × Nat))
  /-- nodes that sent a class B or C flit in this cycle (R94) -/
  bcSent : List Nat
  /-- flits in the output ports of the tiles, oldest first, key 128·node + 32·network + source (R38, R52) -/
  outp : Tab (List OutFlit)
  /-- staged words that the next swap event installs: capacities and queue descriptors, by BAR0 word address (R283) -/
  stg : Tab (Option Nat)
  /-- input whose packet holds an output lane: key ((64·node + port)·2 + class)·2 + lane (R91) -/
  lane : Tab (Option Nat)
  /-- round-robin pointers of the output lanes -/
  rr : Tab Nat
  /-- flits of the packet arriving at an endpoint: key (node code·2 + class)·2 + lane -/
  inbox : Tab (List Item)
  /-- complete packets waiting at an endpoint, by node code: header and payload, oldest first -/
  inPk : Tab (List (List Item))
  /-- reads awaiting their response: key 64·requester + responder (R92) -/
  rdOut : Tab Nat
  /-- transaction numbers of the endpoints -/
  txid : Tab Nat
  deriving DecidableEq, Repr

/-- Queue engines and boundary queues (04_queues.md). -/
structure Qs where
  /-- heads, at most 4 items, by global queue index (R99) -/
  head : Tab (List Item)
  /-- bodies, oldest first: order, sideband and presentation time; the data words lie in the B tiles (R100, R102) -/
  body : Tab (List BodyItem)
  /-- next body entry to write, modulo the body's items -/
  wIdx : Tab Nat
  /-- uncredited counts (R104) -/
  uncred : Tab Nat
  /-- landing buffers, key 64·core + port (R102) -/
  land : Tab (List BodyItem)
  /-- items on their way from a switch node to a local input, key 64·core + port -/
  lin : Tab (List Landed)
  /-- body reads offered for the presentations of the next tricks (R102) -/
  reads : List PRead
  /-- output flits of the transposer that are still to be written, key as for `trGrp` (R225) -/
  trOut : Tab (List BodyItem)
  /-- items of window pushes that wait for room in the body, by queue (R121) -/
  pushWait : Tab (List Item)
  /-- queues whose window write or read is in the middle of a VNET flit: words so far -/
  winW : Tab Nat
  winWData : Tab Nat
  winR : Tab Nat
  /-- stalled window reads and the accesses that wait behind them, oldest first (R123) -/
  stalls : List Stall
  /-- credits that reach a counter of this core in the next cycle: (core, unit, counter, amount) (R104) -/
  credDue : List (Nat × Nat × Nat × Nat)
  /-- credit words that landed, by core: word and owner of the landing port (R104) -/
  credIn : Tab (List (Nat × Nat))
  /-- signal words that reached a rank controller (R374) -/
  sigIn : Tab (List Nat)
  /-- line buffers by the global index of QUEUE (R219 to R224) -/
  lb : Tab LbSt
  /-- open transpose groups: key 2·core + 0 or 1 for port 28 or 29, the queue and its flits (R225) -/
  trGrp : Tab (Option (Nat × List Item))
  /-- replay positions and stamp counts (R226) -/
  rpPos : Tab Nat
  rpStamp : Tab Nat
  /-- spill bodies: items sent since the segment began, and packets not yet acknowledged (item counts) (R237) -/
  spSent : Tab Nat
  spWait : Tab (List (Nat × Nat))
  /-- boundary queues by b -/
  bq : Tab BqSt
  /-- crossing memories: key block·65536 + entry (R108) -/
  xmem : Tab Item
  /-- error patterns of crossing-memory entries (R108) -/
  xerr : Tab Nat
  /-- credit targets of host-port, CSI and Gostan queues, active at b and staged at b + 4096 (Table 12.5) -/
  ctgt : Tab Nat
  /-- frame lengths FLEN of host-port queues (Table 12.5) -/
  flen : Tab Nat
  deriving DecidableEq, Repr

/-- Hold (R49 to R55), per domain 0 to 3. -/
structure Hold where
  /-- requests that are raised: (domain, source) -/
  reqs : List (Nat × HoldSrc)
  /-- scheduled reads that found EMPTY and scheduled writes that found FULL in this cycle: boundary queues -/
  missed : List Nat
  /-- delay line of the combined request, bit 2 the oldest (R51) -/
  pipe : Tab Nat
  /-- the hold line is effective -/
  held : Tab Bool
  /-- cycles held without a break (R55), HOLD_LONG raised for this hold -/
  len : Tab Nat
  longDone : Tab Bool
  /-- unheld cycles without a step while a queue is full (R327), and whether a tile stepped in this cycle -/
  stale : Tab Nat
  stepped : Tab Bool
  /-- held-cycle and unheld-cycle counts of the governor's window (R417) -/
  win : Tab Nat
  /-- domain cycles: cycles in which the domain was not held -/
  dcyc : Tab Nat
  deriving DecidableEq, Repr

/-- Faults, reactions and privileged sources (10_faults_and_fencing.md) beside their registers. -/
structure Flt where
  /-- occurrences waiting for the resolver -/
  occs : List Occ
  /-- domains whose stop waits for CAUSE_RESOLVE of IMAGE_UE: (domain, page) (R318) -/
  imgUe : List (Option Nat × Nat)
  /-- frame marks in force: domain to F + 1 (R310) -/
  mark : Tab Nat
  /-- bound-condition flags of the frames in flight, by domain (Table 2.8) -/
  bound : Tab Nat
  /-- a stopped domain was RUNNING, DRAINING or SWITCHING; stopped with FOLD_NONE; recovery failed; stopped by STOP (R323, R324) -/
  wasRun : Tab Bool
  foldNone : Tab Bool
  recFailed : Tab Bool
  byStop : Tab Bool
  /-- quiet timer: the cycle at which it expires (R323); none: not running -/
  quiet : Tab (Option Nat)
  /-- a recovery's restore is in progress (R323) -/
  recovering : Tab Bool
  /-- cycle of the last recovery START, if that START is the domain's last (R325); the doubled interval test -/
  recStart : Tab (Option Nat)
  /-- the next START is a recovery's START (AUTO_RESTART 0) -/
  recArmed : Tab Bool
  /-- cycles accumulated in RUNNING, DRAINING or SWITCHING since the last stop (R325) -/
  upCycles : Tab Nat
  /-- pages whose capture is disarmed (R320) -/
  capt : Tab Bool
  /-- FLT_STAT bits whose record was committed: (page, bit, cycle) (R313) -/
  rearm : List (Nat × Nat × Nat)
  /-- fence map changes whose key update is due (R303) -/
  keyDue : Bool
  /-- domains whose EVO pins are released: STOPPED, and not RUNNING since (R316) -/
  evoOff : Tab Bool
  /-- a chip reset waits for the record of its source: (source, cycle) (R317) -/
  resetDue : Option (Nat × Nat)
  /-- the Dealer reloads its firmware, since cycle `downAt` (R318) -/
  dealerDown : Bool
  downAt : Nat
  aliveNext : Nat
  /-- protected cells other than the memories that hold an error, by `Upset.key`: the error pattern (DESIGN CHOICE, log 134) -/
  upset : Tab Nat
  /-- an armed corruption: (kind, page, pattern) (R329) -/
  armed : Option (Nat × Nat × Nat)
  deriving DecidableEq, Repr

/-- Fetch engines, tags, the MMU and DDR5 (08_fetch_memory_translation.md). -/
structure Mem where
  /-- streams by 64·engine + stream -/
  st : Tab FStream
  /-- requests outstanding at the memory ports -/
  reqs : List MemReq
  /-- round-robin positions of each engine, and 3:1 pattern positions: of engine f (f), of the slots of port p (64 + p) and of its tags
  (72 + p) -/
  rr : Tab Nat
  deal : Tab Nat
  /-- requests whose tags timed out and may still return (R258) -/
  late : List MemReq
  /-- engine TLBs by engine, and the shared TLB -/
  tlb : Tab (List TlbEnt)
  shared : List TlbEnt
  /-- operation in progress in the MMU: 0 none, 1 INVAL, 2 LOCK; its address space, address and pages; the streams (64·engine + stream)
  whose walks began before it -/
  op : Nat
  opArg : Nat × Nat × Nat
  opWalks : List Nat
  /-- pinned translations that were dropped and are pinned again at their next use (R274, R275) -/
  relock : List TlbEnt
  /-- DDR5 contents, error patterns per beat, and scrub state: position per port and pending write-backs -/
  ddr : List Host.Cell
  derr : Tab Nat
  scrubPos : Tab Nat
  scrubWb : List (Nat × Nat)
  /-- cycle at which the next scrub read of a port is due (R268) -/
  scrubAt : Tab Nat
  /-- reserved slots used in the present round per port and domain (R261): key 8·port + domain; and slots of the round gone by, per port -/
  slots : Tab Nat
  round : Tab Nat
  /-- B tile contents, error patterns per word -/
  bmem : List Host.Cell
  berr : Tab Nat
  bscrub : Tab Nat
  bscrubWb : List (Nat × Nat)
  /-- cycle of the next scrub access of a tile (R216), rescale entries being read (R154, R207), and the packet each bulk port serves (R217) -/
  scrubDue : Tab Nat
  rsq : List RsReq
  bulk : Tab (Option Bulk)
  /-- what was used in this fa cycle: fetch engine f accepts (8 + f) and had an fm cycle (32 + f), memory port p bursts (16 + p) and
  refreshes (24 + p), core c counted STALL_IN
  (64 + c) or STALL_OUT (96 + c) of its queue engine, and input p of core c wrote a body (2048 + 64·c + p) -/
  used : List Nat
  /-- bank use of each B tile in this cycle: (tile, port, words) -/
  buse : List (Nat × Nat × List Nat)
  deriving DecidableEq, Repr

/-- One loader command, as it waits in the loader queue (R370). -/
structure LCmd where
  opc : Nat
  dom : Nat
  ring : Nat
  params : List Byte
  /-- given by AUTOLOAD (R415) -/
  auto : Bool
  deriving DecidableEq, Repr

/-- Where a loaded domain's image copy, arena and host region lie (R286). -/
structure ImgCopy where
  base : Nat
  len : Nat
  arena : Nat
  arenaLen : Nat
  host : Nat
  deriving DecidableEq, Repr

/-- What the loader does for a domain in the background of its commands. -/
inductive LJob where
  | idle
  /-- LOAD_IMAGE has sent its records (step 8) and waits for them -/
  | load
  /-- APPLY_OVERLAY waits for its drain: overlay number -/
  | applyWait (idx : Nat)
  /-- DRAIN waits for its drain -/
  | drainWait
  /-- STOP restores the base configuration -/
  | stopRestore
  /-- APPLY_OVERLAY has sent the variant's records: overlay number -/
  | applySent (idx : Nat)
  /-- a failed apply restores the base configuration: its result and detail -/
  | applyRestore (result detail : Nat)
  deriving DecidableEq, Repr

/-- The loader (09_images_and_overlays.md) beside its registers. -/
structure Ldr where
  queue : List LCmd
  /-- job of each domain, and its command -/
  job : Tab LJob
  cmdOf : Tab (Option LCmd)
  /-- image copy: by domain -/
  img : Tab (Option ImgCopy)
  /-- section table of the domain's image -/
  sects : Tab (List Sect)
  /-- cores of the domain (bit map), and the fold taken into the base configuration -/
  cores : Tab Nat
  foldSq : Tab (Option Nat)
  /-- a DRAIN command was interrupted by a fold; an apply waits for the segment switch -/
  drainCmd : Tab Bool
  applyPend : Tab (Option Nat)
  /-- a fold is being written; the records of the write in progress were sent -/
  folding : Tab Bool
  sent : Tab Bool
  /-- ports with class A entries of the loaded image: bit 64·node code + port (R288) -/
  claims : Tab Nat
  /-- the next segment is staged but not installed: START installs it (R60) -/
  segPend : Tab Bool
  /-- segment boundary reached: inputs stop, then drain (R58) -/
  segDrain : Tab Bool
  /-- TAGA shares: key 4·domain + port; largest RSV and TAGA of any segment: keys 8·domain + port, + 4 -/
  taga : Tab Nat
  maxRsv : Tab Nat
  /-- an apply found the domain RUNNING and starts it again at its end (R295) -/
  resume : Tab Bool
  /-- where the placed copy of each PREFETCH section lies, key 8·domain + segment: 1 + DDR5 address (Table 9.7, step 7) -/
  pfetch : Tab Nat
  /-- M tiles whose shadow half received an HSEL 0 write, key 10·core + m (R136) -/
  shadow : Tab Bool
  /-- the position key and its epoch; the first key exists -/
  key : BitVec 256
  epoch : Nat
  keyValid : Bool
  /-- variant of the overlay in force: fold square, 0xFF for unfolded -/
  variantSq : Tab Nat
  /-- frames begun at the inputs of the domain since START (R310, DEDUCED, log 11) -/
  inFrames : Tab Nat
  /-- the image's RSV of domain m at port p, for its present segment (R70): key 4·m + p -/
  rsv : Tab Nat
  deriving DecidableEq, Repr

/-- The tiles of the cores (05_multiplier_tiles.md, 06_vector_tiles.md) beside their registers; unit u of core c is 0 to 9 for
M0 to M9, 10 and 11 for V0 and V1. -/
structure Tiles where
  /-- M tiles by 10·core + tile, V tiles by 2·core + tile -/
  mt : Tab MTile
  vt : Tab VTile
  /-- program memories: key ((16·core + u)·2 + bank)·512 + instruction -/
  prog : Tab Nat
  /-- descriptor words: key ((16·core + u)·2 + bank)·32 + 2·descriptor + word -/
  desc : Tab Nat
  /-- function tables: key ((2·core + v)·2 + bank)·1024 + 128·table + entry -/
  ftab : Tab Nat
  /-- error patterns of weight-store and scratch words, keys: byte address ÷ 8 in the stores -/
  werr : Tab Nat
  serr : Tab Nat
  /-- POISON flags of scratch entries, key 2048·(2·core + v) + entry -/
  spois : Tab Bool
  deriving DecidableEq, Repr

/-- The host port (12_host_port_and_registers.md) beside its registers and queues. -/
structure Hp where
  cfg : PcieCfg
  /-- MSI-X table words (4·vector + word; unlisted 0) and pending bits (R351, R359) -/
  msixT : Tab Nat
  pba : Nat
  /-- the command of each command ring -/
  cmd : Tab (Option RingCmd)
  /-- next command ring in round-robin order -/
  next : Nat
  /-- DMA engines 0 to 3: the ring at which each goes on; 4: the engine that the link takes next (R368) -/
  dma : Tab Nat
  reads : List PcieRead
  aper : List AperReq
  /-- transaction numbers of the loader's packets that ask for an acknowledgement, with their domains; those of all its packets, with domain
  and record offset; and refused records, newest first, by domain and offset (R296) -/
  ldrTx : List (Nat × Nat)
  ldrSent : List (Nat × Nat × Nat)
  refused : List (Nat × Nat)
  /-- VALUE_HI latched by each requester (0 host, 1 Dealer) at each sync object, key 8192·requester + object (Table 12.11) -/
  valHi : Tab Nat
  deriving DecidableEq, Repr

/-- The scoresheet and the journal (11_scoresheet_and_journal.md) beside their registers and the flash. -/
structure Sco where
  queue : List RecReq
  /-- byte offsets of the partitions in the flash: scoresheet, journal P0 and P1 -/
  base : Nat
  jbase : Nat × Nat
  clr : Option ClrSt
  /-- journalled copies by 256·item + index; changes that wait to be written -/
  jcopy : Tab (List Nat)
  jdue : List Nat
  /-- torn records found by the scan: offset and bytes skipped -/
  torn : List (Nat × Nat)
  /-- cycle of the last operating second -/
  secAt : Nat
  deriving DecidableEq, Repr

/-- The one-time-programmable fuses (R422); the vendor root key hash is Config.vendorKeyHash. -/
structure Fuses where
  /-- 0 blank, 1 provisioned, 2 owned, 3 returned -/
  life : Nat
  slot0 : Option (BitVec 256)
  slot1 : Option (BitVec 256)
  /-- revoke bits of the two slots -/
  rev : Nat
  /-- the identity private key, 0 before provisioning -/
  idKey : BitVec 256
  minSvn : Nat
  /-- VDD set point: 680 mV + 5 mV × vdd (R403) -/
  vdd : Nat
  /-- grade: 1 commercial, 2 industrial (R5) -/
  grade : Nat
  deriving DecidableEq, Repr

/-- Power, clocks, boot, security and pins (14_power_clocks_boot_security.md) beside their registers. -/
structure Plat where
  fuse : Fuses
  /-- the Dealer's SRAM as BAR4 maps it until boot step 5 (R413) -/
  sram : List Host.Cell
  /-- boot: 0 not begun, 1 straps sensed, 2 PLL locked and records read, 3 firmware verified, 4 host port ready -/
  step : Nat
  halted : Bool
  /-- STRAP_ERR, readable over JTAG (R409): bit 0 strap fault, 1 BOOT_SRC, 2 POS_PAR, 3 PCIe absent, 4 no upstream partner -/
  strapErr : Nat
  /-- BOOT_GO was written; DDR5 is trained; PE_PERST_L is low; the STRAP reaction waits for the host port (R318) -/
  go : Bool
  trained : Bool
  perst : Bool
  strapDue : Bool
  /-- reset reason (Table 11.4) -/
  reason : Nat
  /-- partitions of the layout block by TYPE: byte offset and size (Table 11.1) -/
  parts : Tab (Nat × Nat)
  /-- the identity key could not be unwrapped (R425) -/
  idBad : Bool
  /-- energy credit in µJ, estimate calibrated against the regulators in 10 µW, unheld fraction in 256ths, class B and C stopped (R416, R417) -/
  credit : Nat
  calib : Nat
  unheld : Nat
  bcStop : Bool
  /-- polls that a regulator failed to acknowledge in a row, and the governor uses the on-die estimate alone (R404) -/
  pmbFail : Tab Nat
  estOnly : Bool
  /-- THERMTRIP_L is latched low (R418) -/
  trip : Bool
  trg : Tab TrgSt
  /-- next autoload entry (R415) -/
  auto : Nat
  deriving DecidableEq, Repr

/-- The camera ports and the Gostan links (13_ingress_and_gostan_links.md) beside their registers. -/
structure Links where
  /-- virtual channels by 16·port + channel -/
  csi : Tab CsiVc
  gl : Tab GlSt
  deriving DecidableEq, Repr

/-- The device but for the weight stores, the V tile scratch and the flash. -/
structure Dev where
  /-- fa cycles from power-on to the last reset, and since it (R7, R321, DESIGN CHOICE, log 1) -/
  before : Nat
  cycle : Nat
  /-- how many free values have been used (DESIGN CHOICE, log 2) -/
  fv : Nat
  /-- register words by BAR0 word address; a staged second bank lies 2^26 words higher, and the W1C bits that hardware set in the present
  fc cycle (R9) 2^27 words higher; an unlisted word holds its reset value -/
  regs : Tab Word
  /-- performance counters by page number (R358) -/
  perf : Tab Nat
  /-- what was sent outside, newest first -/
  out : List Out
  fab : Fab
  qs : Qs
  hold : Hold
  flt : Flt
  mem : Mem
  ldr : Ldr
  tl : Tiles
  hp : Hp
  sco : Sco
  plat : Plat
  links : Links
  deriving DecidableEq, Repr

/-- The machine: the device, its weight stores, V tile scratch and flash, and the commands that wait, first in, first out. -/
structure State where
  dev : Dev
  /-- weight stores: byte k of half h of M tile m of core c at ((10·c + m)·2 + h)·49152 + k; unlisted 0 (DESIGN CHOICE, log 4) -/
  wmem : Memory
  /-- V tile scratch: byte e of tile v of core c at (2·c + v)·65536 + e; unlisted 0 (DESIGN CHOICE, log 4) -/
  scr : Memory
  /-- boot flash; unlisted 0xFF (DESIGN CHOICE, log 4) -/
  flash : Memory
  pending : List Instr
  deriving DecidableEq, Repr

def Fab.reset : Fab :=
  { trick := [], sel := [], tt := [], lt := [], et := [], pass := [], passNxt := [], edgeNxt := [], sent := [], portDone := [], nodeDone := [],
    latch := [], deal := [], iso := 0, isoCopy := [], buf := [], bufNxt := [], send := [], way := [], owed := [], parked := [], route := [], bcSent := [], outp := [], stg := [], lane := [], rr := [],
    inbox := [], inPk := [], rdOut := [], txid := [] }

def Qs.reset : Qs :=
  { head := [], body := [], wIdx := [], uncred := [], land := [], lin := [], reads := [], trOut := [], pushWait := [], winW := [], winWData := [], winR := [],
    stalls := [], credDue := [], credIn := [], sigIn := [], lb := [], trGrp := [], rpPos := [], rpStamp := [], spSent := [],
    spWait := [], bq := [], xmem := [], xerr := [], ctgt := [], flen := [] }

def Hold.reset : Hold :=
  { reqs := [], missed := [], pipe := [], held := [], len := [], longDone := [], stale := [], stepped := [], win := [], dcyc := [] }

def Flt.reset : Flt :=
  { occs := [], imgUe := [], mark := [], bound := [], wasRun := [], foldNone := [], recFailed := [], byStop := [], quiet := [],
    recovering := [], recStart := [], recArmed := [], upCycles := [], capt := [], rearm := [], keyDue := false, evoOff := [], resetDue := none,
    dealerDown := false, downAt := 0, aliveNext := 0, upset := [], armed := none }

def Mem.reset : Mem :=
  { st := [], reqs := [], rr := [], deal := [], late := [], tlb := [], shared := [], op := 0, opArg := (0, 0, 0), opWalks := [], relock := [], ddr := [], derr := [], scrubPos := [],
    scrubWb := [], scrubAt := [], slots := [], round := [], bmem := [], berr := [], bscrub := [], bscrubWb := [], scrubDue := [], rsq := [], bulk := [], used := [], buse := [] }

def Ldr.reset : Ldr :=
  { queue := [], job := [], cmdOf := [], img := [], sects := [], cores := [], foldSq := [], drainCmd := [], applyPend := [], folding := [],
    sent := [], claims := [], segPend := [], segDrain := [], taga := [], maxRsv := [], resume := [], pfetch := [], shadow := [], key := 0, epoch := 0, keyValid := false, variantSq := [],
    inFrames := [], rsv := [] }

def Tiles.reset : Tiles := { mt := [], vt := [], prog := [], desc := [], ftab := [], werr := [], serr := [], spois := [] }

/-- Configuration-space values after reset (PRESUMED, log 6). -/
def PcieCfg.reset : PcieCfg :=
  { ident := ⟨0x2E9B, 0x3240, 0xB0, 0x120000, 0x2E9B, 0x0001⟩, aer := 0, msixEn := true, msixMask := false, mps := 128, mrrs := 512, tag10 := false, tagExt := false, relaxed := true, cto := 0, ctoOff := false, d3hot := false,
    bar4 := 2 ^ 28 }

def Hp.reset : Hp :=
  { cfg := PcieCfg.reset, msixT := [], pba := 0, cmd := [], next := 0, dma := [], reads := [], aper := [], ldrTx := [], ldrSent := [], refused := [], valHi := [] }

def Sco.reset : Sco :=
  { queue := [], base := 0, jbase := (0, 0), clr := none, jcopy := [], jdue := [], torn := [], secAt := 0 }

def Fuses.blank : Fuses := { life := 0, slot0 := none, slot1 := none, rev := 0, idKey := 0, minSvn := 0, vdd := 14, grade := 1 }

/-- The platform after a reset that leaves the fuses `f` and the THERMTRIP_L latch as they are (R406). -/
def Plat.after (f : Fuses) (trip : Bool) (reason : Nat) : Plat :=
  { fuse := f, sram := [], step := 0, halted := false, strapErr := 0, go := false, trained := false, perst := true, strapDue := false,
    reason := reason, parts := [], idBad := false, credit := 15000000, calib := 0, unheld := 256, bcStop := false, pmbFail := [],
    estOnly := false, trip := trip, trg := [], auto := 0 }

def Plat.reset : Plat := Plat.after Fuses.blank false 0

def Links.reset : Links := { csi := [], gl := [] }

def Dev.reset : Dev :=
  { before := 0, cycle := 0, fv := 0, regs := [], perf := [], out := [], fab := Fab.reset, qs := Qs.reset, hold := Hold.reset, flt := Flt.reset,
    mem := Mem.reset, ldr := Ldr.reset, tl := Tiles.reset, hp := Hp.reset, sco := Sco.reset,
    plat := Plat.reset, links := Links.reset }

/-- The machine right after power-on: every register at its reset value (an unlisted register word), nothing in the memories, no
command waiting (R406, PRESUMED, log 6). -/
def State.reset : State := { dev := Dev.reset, wmem := [], scr := [], flash := [], pending := [] }

end Sys2Proof.Machine
end

