-- ==== Sys2Proof/Machine/Ops.lean ====
section
/-!
DEFINITION. The operations that every unit shares: register fields, pages, free values, outputs, raising a cause, domains, holds
and fences, performance counters.
-/

namespace Sys2Proof.Machine

/-! ### Pages and register groups (R10, R13, R97, R357, R365, R373): BAR0 byte offsets -/

def Pg.core (c p : Nat) : Nat := 0x100000 + c * 0x20000 + p * 0x1000
def Pg.corectl (c : Nat) : Nat := Pg.core c 0
def Pg.xnode (c : Nat) : Nat := Pg.core c 1
def Pg.qeng (c : Nat) : Nat := Pg.core c 2
def Pg.mtile (c m : Nat) : Nat := Pg.core c (3 + m)
def Pg.vtile (c v : Nat) : Nat := Pg.core c (13 + v)
def Pg.btile (c b : Nat) : Nat := Pg.core c (15 + b)
def Pg.chip : Nat := 0
def Pg.dealer : Nat := 0x1000
def Pg.clocks : Nat := 0x2000
def Pg.power : Nat := 0x3000
def Pg.security : Nat := 0x4000
def Pg.pins : Nat := 0x5000
def Pg.fetch (f : Nat) : Nat := 0x10000 + f * 0x1000
def Pg.mmu : Nat := 0x18000
def Pg.memport (k : Nat) : Nat := 0x19000 + k * 0x1000
def Pg.loader : Nat := 0x20000
def Pg.ldom (d : Nat) : Nat := 0x20100 + 0x80 * d
def Pg.fault : Nat := 0x30000
def Pg.fdom (d : Nat) : Nat := 0x300A0 + 0x20 * d
def Pg.rank (r : Nat) : Nat := 0x31000 + r * 0x1000
def Pg.score : Nat := 0x40000
def Pg.journal : Nat := 0x41000
def Pg.host : Nat := 0x50000
def Pg.csi (n : Nat) : Nat := 0x51000 + n * 0x1000
def Pg.gl (k : Nat) : Nat := 0x58000 + k * 0x1000
/-- Descriptor of the queue with global index `q` (R97). -/
def Pg.queue (q : Nat) : Nat := 0x1000000 + q * 32
/-- Descriptor of boundary queue `b`. -/
def Pg.bq (b : Nat) : Nat := Pg.queue (61440 + b)
def Pg.ring (b : Nat) : Nat := 0x60000 + 32 * b
def Pg.sync (n : Nat) : Nat := 0x2000000 + 64 * n
def Pg.gslot (f i : Nat) : Nat := Pg.fetch f + 0x500 + 16 * i
def Pg.sdesc (f s : Nat) : Nat := Pg.fetch f + 0x800 + 32 * s
def Pg.bmd (c b i : Nat) : Nat := Pg.btile c b + 0x200 + 32 * i
/-- Distance from a word to its staged bank. -/
def Pg.staged : Nat := 0x10000000

/-! ### Register words and fields -/

/-- The stored word at byte offset `a`. -/
def Dev.word (d : Dev) (a : Nat) : Nat := (Tab.get d.regs (a / 4) (BitVec.ofNat 32 (wordReset (a % Pg.staged)))).toNat

/-- Store a word. -/
def Dev.setWord (d : Dev) (a v : Nat) : Dev :=
  { d with regs := Tab.set d.regs (a / 4) (BitVec.ofNat 32 v) (BitVec.ofNat 32 (wordReset (a % Pg.staged))) }

/-- The value of field `F`, number `i`, of the page or descriptor at `base`. -/
def Dev.rd (d : Dev) (base : Nat) (F : Fld) (i : Nat := 0) : Nat :=
  bitsOf (d.word (base + F.off + F.stride * i)) F.lo F.w

/-- The field as a flag. -/
def Dev.flag (d : Dev) (base : Nat) (F : Fld) (i : Nat := 0) : Bool := d.rd base F i != 0

/-- Set a field; other bits of the word keep their value. -/
def Dev.wr (d : Dev) (base : Nat) (F : Fld) (v : Nat) (i : Nat := 0) : Dev :=
  let a := base + F.off + F.stride * i
  d.setWord a (setBits (d.word a) F.lo F.w v)

/-- Count up a field that saturates. -/
def Dev.bump (d : Dev) (base : Nat) (F : Fld) (n : Nat := 1) (i : Nat := 0) : Dev :=
  d.wr base F (min (d.rd base F i + n) (2 ^ F.w - 1)) i

/-- A 64-bit value in two words, low word first. -/
def Dev.rd64 (d : Dev) (a : Nat) : Nat := d.word a + 2 ^ 32 * d.word (a + 4)

def Dev.wr64 (d : Dev) (a v : Nat) : Dev := (d.setWord a v).setWord (a + 4) (v / 2 ^ 32)

/-! ### Free values, outputs, time -/

/-- A free value below `2^w` (DESIGN CHOICE, log 2), and the device that has used it. -/
def Dev.free (d : Dev) (w : Nat) : Nat × Dev := (Config.free d.fv % 2 ^ w, { d with fv := d.fv + 1 })

/-- One of `n` choices that the manual leaves open. -/
def Dev.choose (d : Dev) (n : Nat) : Nat × Dev :=
  if n ≤ 1 then (0, d) else (Config.free d.fv % n, { d with fv := d.fv + 1 })

/-- Bytes 4 to 35 of a TUNNEL frame (R398). -/
def tunPayload (tpos spos op tag mask addr : Nat) (data : List Byte) : List Byte :=
  leBytes 1 (tpos % 8 + 8 * (spos % 8)) ++ leBytes 1 (op % 8 + 8 * (tag % 32)) ++ leBytes 2 mask ++ leBytes 6 addr ++ leBytes 2 0 ++
    (data ++ List.replicate 16 0).take 16 ++ leBytes 4 0

/-- Queue TUNNEL payloads on link `k`. -/
def Dev.tunSend (d : Dev) (k : Nat) (ps : List (List Byte)) : Dev :=
  let g := Tab.get d.links.gl k GlSt.zero
  { d with links := { d.links with gl := Tab.set d.links.gl k { g with tun := g.tun ++ ps } GlSt.zero } }

/-- The device has no PCI Express: EVO[3] was sensed 0 (Table 14.2). -/
def Dev.noPcie (d : Dev) : Bool := decide (0 < d.plat.step) && !d.flag Pg.pins Reg.PINS.PCIE_PRESENT

/-- TUNNEL requests that stand for what a host port would send (R398). -/
def Dev.tunRequests (d : Dev) (o : Out) : List (List Byte) :=
  let h := d.rd (Pg.gl 0) Reg.GLINK.HPOS
  let pos := d.rd Pg.pins Reg.PINS.POS
  let parts (a n : Nat) : List Nat := (List.range ((a + n + 15) / 16 - a / 16)).map (fun j => a / 16 + j)
  match o with
  | .hostWrite a bs _ => (parts a bs.length).map (fun j =>
      let at_ (i : Nat) : Option Byte := if a ≤ 16 * j + i then (bs[16 * j + i - a]?).join else none
      tunPayload h pos 5 0 ((List.range 16).foldl (fun m i => if (at_ i).isSome then m + 2 ^ i else m) 0) (16 * j)
        ((List.range 16).map (fun i => (at_ i).getD 0)))
  | .hostRead tag a n => (parts a n).map (fun j => tunPayload h pos 4 tag 0 (16 * j) [])
  | .msix v => [tunPayload h pos 7 0 0 v []]
  | _ => []

/-- Send something outside; what a host port would send leaves a device without PCI Express through GL0 (R398). -/
def Dev.emit (d : Dev) (o : Out) : Dev :=
  let ps := if d.noPcie then d.tunRequests o else []
  if ps.isEmpty then { d with out := o :: d.out } else d.tunSend 0 ps

/-- A posted write of whole bytes to host memory; Relaxed Ordering only for payload of host rings, while it is enabled (R352). -/
def Dev.post (d : Dev) (a : Nat) (bs : List Byte) (payload : Bool := false) : Dev :=
  d.emit (.hostWrite a (bs.map some) (payload && d.hp.cfg.relaxed))

/-- Bytes written in pieces of at most min(MPS, 512) that cross no 4 KiB boundary (R352); `fuel` bounds the pieces. -/
def Dev.postAll (d : Dev) (a : Nat) (bs : List Byte) : Nat → Dev
  | 0 => d
  | f + 1 =>
    match bs with
    | [] => d
    | _ =>
      let n := max 1 (min (min 512 d.hp.cfg.mps) (4096 - a % 4096))
      (d.post a (bs.take n)).postAll (a + n) (bs.drop n) f

/-- An error that the device reports under AER: its bit of the Uncorrectable Error Status (R351, R353, PRESUMED, log 158). -/
def Dev.aer (d : Dev) (bit : Nat) : Dev :=
  { d with hp := { d.hp with cfg := { d.hp.cfg with aer := d.hp.cfg.aer ||| BitVec.ofNat 32 (2 ^ bit) } } }

/-- Time since power-on in units of 40 ns, one fs cycle (R30, R321). -/
def Dev.fs (d : Dev) : Nat := (d.before + d.cycle) / 16

/-- fa cycles of a time in µs. -/
def usCycles (us : Nat) : Nat := us * 400

/-- Fold an operation over a list. -/
def Dev.each {α : Type} (d : Dev) (l : List α) (f : Dev → α → Dev) : Dev := l.foldl f d

/-! ### Cores, files and nodes (R10, R12) -/

def fileOf (c : Nat) : Nat := c % 8
def rankOf (c : Nat) : Nat := c / 8

/-- Neighbour of node `c` in direction 0 N, 1 E, 2 S, 3 W. -/
def neighbour (c dir : Nat) : Option Nat :=
  match dir with
  | 0 => if rankOf c < 3 then some (c + 8) else none
  | 1 => if fileOf c < 7 then some (c + 1) else none
  | 2 => if 0 < rankOf c then some (c - 8) else none
  | 3 => if 0 < fileOf c then some (c - 1) else none
  | _ => none

/-- The edge block behind the link of node `c` in direction `dir` on network `net` (0 VNET, 1 SNET, 2 CNET); none: absent
(R14, R75). -/
def edgeAt (c dir net : Nat) : Option Edge :=
  if dir = 3 ∧ fileOf c = 0 then (if net = 0 then some (.csi (rankOf c)) else none)
  else if dir = 2 ∧ rankOf c = 0 then (if net = 2 then none else some (.fetch (fileOf c)))
  else if dir = 1 ∧ fileOf c = 7 then (if net = 0 then none else some (.rank (rankOf c)))
  else if dir = 0 ∧ rankOf c = 3 then
    (match fileOf c with
      | 1 => some (.gl 0) | 3 => some (.host 0) | 4 => some (.host 1) | 6 => some (.gl 1) | _ => none)
  else none

/-- A link is absent when neither a node nor an edge block lies behind it. -/
def linkAbsent (c dir net : Nat) : Bool := (neighbour c dir).isNone && (edgeAt c dir net).isNone

/-- The node that edge block's attachment link leads to, and the direction of that link at the node. -/
def Edge.node : Edge → Nat × Nat
  | .csi n => (8 * n, 3)
  | .fetch f => (f, 2)
  | .host l => (27 + l, 0)
  | .gl k => (if k = 0 then 25 else 30, 0)
  | .rank r => (8 * r + 7, 1)

/-! ### Domains (R46, R48) -/

def stEMPTY : Nat := 0
def stLOADED : Nat := 1
def stRUNNING : Nat := 2
def stDRAINING : Nat := 3
def stSWITCHING : Nat := 4
def stSTOPPED : Nat := 5

/-- State of domain `m` (Table 2.2). -/
def Dev.dstate (d : Dev) (m : Nat) : Nat := d.rd (Pg.ldom m) Reg.LDOM.STATE

/-- Pending EVENT tokens of the inputs of domain `m` are discarded (R421); `start`: their item counts begin at 0 (R42). -/
def Dev.trgClear (d : Dev) (m : Nat) (start : Bool) : Dev :=
  d.each ((List.range 4).filter (fun i => d.rd Pg.pins Reg.PINS.DOM i == m)) (fun d i =>
    let t := Tab.get d.plat.trg i TrgSt.zero
    let t1 : TrgSt := if start then { t with seq := 0 } else { t with pend := [] }
    ({ d with plat := { d.plat with trg := Tab.set d.plat.trg i t1 TrgSt.zero } } : Dev).wr Pg.pins Reg.PINS.PENDING t1.pend.length i)

def Dev.setState (d : Dev) (m st : Nat) : Dev :=
  let d1 := d.wr (Pg.ldom m) Reg.LDOM.STATE st
  if st = stRUNNING then d1 else d1.trgClear m false

/-- RUNNING or DRAINING. -/
def Dev.running (d : Dev) (m : Nat) : Bool := d.dstate m == stRUNNING || d.dstate m == stDRAINING

/-- The domain of a core; none: the core belongs to no domain (R46). -/
def Dev.coreDom (d : Dev) (c : Nat) : Option Nat :=
  if d.flag (Pg.corectl c) Reg.HDR.ENABLE then some (d.rd (Pg.corectl c) Reg.HDR.DOMAIN) else none

/-- Cores of a domain in ascending order. -/
def Dev.domCores (d : Dev) (m : Nat) : List Nat := (List.range 32).filter (fun c => d.coreDom c == some m)

/-- The core is fenced (R326). -/
def Dev.fenced (d : Dev) (c : Nat) : Bool := bitAt (d.rd Pg.fault Reg.FAULT.FENCE_MAP) c

/-- The node is isolated (R24). -/
def Dev.isolated (d : Dev) (c : Nat) : Bool := bitAt d.fab.iso c

/-- The hold line of the domain is effective (R49, R51). -/
def Dev.held (d : Dev) (m : Nat) : Bool := Tab.get d.hold.held m false

/-- Held, or STOPPED, which counts as held for the switch nodes (R315). -/
def Dev.frozen (d : Dev) (m : Nat) : Bool := d.held m || d.dstate m == stSTOPPED

/-- Trick counter of domain `m` in node `c` (R77). -/
def Dev.trickOf (d : Dev) (c m : Nat) : Nat := Tab.get d.fab.trick (4 * c + m) 0

/-! ### Bank selectors (R82)

A table with an active and a staged bank has one selector: the number of its active bank. -/

/-- Selector of the tables of port `p` of node `c` (ports 60 to 63: the presentation tables of the queue engine). -/
def Bank.port (c p : Nat) : Nat := 64 * c + p
/-- Selector of edge table `t` (0 to 11 host port, 12 to 15 CSI, 16 to 27 Gostan). -/
def Bank.edge (t : Nat) : Nat := 4096 + t
/-- Selector of the programs, descriptors and function tables of unit `u` (0 to 9 M, 10 and 11 V) of core `c`. -/
def Bank.tile (c u : Nat) : Nat := 8192 + 16 * c + u

/-- Selector of the body mode descriptors of B tile `b` of core `c`. -/
def Bank.btile (c b : Nat) : Nat := 12288 + 4 * c + b

def Dev.bank (d : Dev) (k : Nat) : Nat := if Tab.get d.fab.sel k false then 1 else 0

/-- Exchange the banks behind a selector. -/
def Dev.flip (d : Dev) (k : Nat) : Dev :=
  { d with fab := { d.fab with sel := Tab.set d.fab.sel k (!Tab.get d.fab.sel k false) false } }

/-- Key of an entry of a banked table of 256 entries; `st` selects the staged bank. -/
def Dev.bankKey (d : Dev) (sel tbl t : Nat) (st : Bool) : Nat :=
  (tbl * 2 + (if st then 1 - d.bank sel else d.bank sel)) * 256 + t

/-! ### Performance counters (R358) -/

/-- Count `n` on the page at `base` when PERF_SEL matches: `mask` are the selecting bits, `ev` the event. -/
def Dev.count (d : Dev) (base mask ev : Nat) (n : Nat := 1) : Dev :=
  if d.rd base Reg.HDR.PERF_SEL &&& mask = ev then
    { d with perf := Tab.set d.perf (base / 4096) ((Tab.get d.perf (base / 4096) 0 + n) % 2 ^ 64) 0 }
  else d

/-! ### Causes (R308, R320, R321) -/

/-- A domain that an attribution names. -/
def Dev.attrDom (d : Dev) : Attr → Option Nat
  | .none_ => none
  | .core c => d.coreDom c
  | .unit m _ => some m
  | .dom m => some m

/-- Severity of cause `bit` of the page at `base`. -/
def Dev.sevOf (d : Dev) (base bit : Nat) : Nat := bitsOf (d.rd base Reg.HDR.FLT_SEV) (2 * bit) 2

/-- Capture in the page (R320): the first unmasked occurrence while the capture is armed sets CAUSE and disarms it; each later
one sets OVF and counts. -/
def Dev.capture (d : Dev) (base bit : Nat) : Dev :=
  if Tab.get d.flt.capt (base / 4096) false then (d.wr base Reg.HDR.OVF 1).bump base Reg.HDR.OVF_COUNT
  else
    let d1 := d.wr base Reg.HDR.CAUSE bit
    { d1 with flt := { d1.flt with capt := Tab.set d1.flt.capt (base / 4096) true false } }

/-- Arm the capture again when no unmasked FLT_STAT bit remains set (R320). -/
def Dev.rearmCapture (d : Dev) (base : Nat) : Dev :=
  if d.rd base Reg.HDR.FLT_STAT &&& (0xFFFF - d.rd base Reg.HDR.FLT_MASK) = 0 then
    let d1 := d.setWord (base + 0x20) 0
    { d1 with flt := { d1.flt with capt := Tab.set d1.flt.capt (base / 4096) false false } }
  else d

/-- What an occurrence does at its severity: the severity that takes effect, and what it stops or fences. -/
inductive Target where
  | nothing
  | stop (m : Nat)
  | fence (c : Nat)
  deriving DecidableEq, Repr

/-- The target of a reaction (R311). -/
def Dev.targetOf (d : Dev) (attr : Attr) (sev : Nat) : Nat × Target :=
  let stop (m : Nat) : Nat × Target := if d.dstate m = stEMPTY then (0, .nothing) else (3, .stop m)
  let fence (c : Nat) : Nat × Target := if d.fenced c then (0, .nothing) else (2, .fence c)
  match attr with
  | .none_ => (0, .nothing)
  | .core c =>
    if sev = 3 then (match d.coreDom c with | some m => stop m | none => fence c)
    else if sev = 2 then fence c else (sev, .nothing)
  | .unit m c => if sev = 3 then stop m else if sev = 2 then fence c else (sev, .nothing)
  | .dom m => if 2 ≤ sev then stop m else (sev, .nothing)

/-! ### Bits that hardware sets and software clears (R9) -/

/-- Where the register table keeps the bits of the word at `a` that hardware set in the present fc cycle: a bank above the staged one. -/
def eventKey (a : Nat) : Nat := a / 4 + 2 ^ 27

/-- Bits of the word at `a` that hardware set in the present fc cycle: a write of 1 in that cycle leaves them set (R9). -/
def Dev.events (d : Dev) (a : Nat) : Nat := (Tab.get d.regs (eventKey a) 0).toNat

/-- Hardware sets W1C bits of a field: the bits of `v`. -/
def Dev.hit (d : Dev) (base : Nat) (F : Fld) (v : Nat := 1) (i : Nat := 0) : Dev :=
  let a := base + F.off + F.stride * i
  let d1 := d.setWord a (d.word a ||| v <<< F.lo)
  { d1 with regs := Tab.set d1.regs (eventKey a) (BitVec.ofNat 32 (d.events a ||| v <<< F.lo)) 0 }

/-- Raise cause `bit` of the page at BAR0 offset `base` (R308). An unmasked cause is captured in the page and waits for its
resolver; a masked one only sets its bit. -/
def Dev.raiseFull (d : Dev) (base bit : Nat) (attr : Attr) (injected : Bool) : Dev :=
  let st := d.rd base Reg.HDR.FLT_STAT
  let d1 := d.hit base Reg.HDR.FLT_STAT (2 ^ bit)
  if bitAt (d.rd base Reg.HDR.FLT_MASK) bit then d1
  else
    let d2 := d1.capture base bit
    { d2 with flt := { d2.flt with
        occs := d2.flt.occs ++ [⟨base / 4096, bit, attr, d.fs, !bitAt st bit, injected,
          match d.attrDom attr with | some m => Tab.get d.ldr.inFrames m 0 | none => 0⟩] } }

def Dev.raise (d : Dev) (base bit : Nat) (attr : Attr) : Dev := d.raiseFull base bit attr false

/-- Attribution to a domain when one is known. -/
def attrOpt : Option Nat → Attr
  | none => .none_
  | some m => .dom m

/-- Set POISON_SEEN of the page (R328). -/
def Dev.poisonSeen (d : Dev) (base : Nat) (p : Bool) : Dev := if p then d.hit base Reg.HDR.POISON_SEEN else d

/-- Set bound-condition flag `bit` (8 to 13) for the frames in flight of a domain: those begun up to now (Table 2.8). -/
def Dev.setBound (d : Dev) (m bit : Nat) : Dev :=
  { d with flt := { d.flt with bound := Tab.set d.flt.bound (16 * m + bit) (Tab.get d.ldr.inFrames m 0) 0 } }

/-- A class A reservation of the domain at some port is below the image's value (Table 2.8). It can change only while the domain does not run. -/
def Dev.rsvLow (d : Dev) (m : Nat) : Bool :=
  (List.range 4).any (fun p => decide (d.rd (Pg.memport p) Reg.MEMPORT.RSV m < Tab.get d.ldr.rsv (4 * m + p) 0))

/-- The bound-condition flags of frame `f` of domain `m`, bits [5:0] for flags [13:8] (R70). -/
def Dev.boundOf (d : Dev) (m f : Nat) : Nat :=
  (List.range 6).foldl (fun v i =>
    if f < Tab.get d.flt.bound (16 * m + 8 + i) 0 ∨ (i = 2 ∧ d.rsvLow m = true) then v + 2 ^ i else v) 0

/-! ### Errors in protected cells (R95, R107, R199, R314; DESIGN CHOICE, log 134) -/

/-- Where the error of cell `i` of a kind of cell stands. -/
def Upset.key (kind i : Nat) : Nat := kind * 2 ^ 40 + i

/-- Trick-table entry, by its key in the tables. -/
def Upset.tt (i : Nat) : Nat := Upset.key 0 i
/-- Owner field of port `p` of node `c`. -/
def Upset.owner (c p : Nat) : Nat := Upset.key 1 (64 * c + p)
/-- Pointers of fabric queue `q`. -/
def Upset.ptr (q : Nat) : Nat := Upset.key 2 q
/-- Program word and descriptor word, by their keys in the tables. -/
def Upset.prog (i : Nat) : Nat := Upset.key 3 i
def Upset.desc (i : Nat) : Nat := Upset.key 4 i
/-- Function-table entry by its key, and result slot `s` of V tile `v` of core `c`. -/
def Upset.ftab (i : Nat) : Nat := Upset.key 5 i
def Upset.slot (c v s : Nat) : Nat := Upset.key 6 (256 * (2 * c + v) + s)
/-- BMD, window or range registers of B tile `b` of core `c`. -/
def Upset.btReg (c b : Nat) : Nat := Upset.key 7 (4 * c + b)
/-- Core controller state or isolation switches of core `c`. -/
def Upset.core (c : Nat) : Nat := Upset.key 8 c
/-- The hold line of domain `m` as core `c` receives it. -/
def Upset.line (c m : Nat) : Nat := Upset.key 9 (4 * c + m)
/-- Rank register bus and sync objects of rank `r`. -/
def Upset.rank (r : Nat) : Nat := Upset.key 10 r
/-- Slot of domain `m` on the hold ring. -/
def Upset.ring (m : Nat) : Nat := Upset.key 11 m

def Dev.upsetAt (d : Dev) (k : Nat) : Nat := Tab.get d.flt.upset k 0
def Dev.setUpset (d : Dev) (k v : Nat) : Dev := { d with flt := { d.flt with upset := Tab.set d.flt.upset k v 0 } }

/-- Cell `k` is found in error: the cause is raised for each attribution, and the cell is right from here on. -/
def Dev.upsetFound (d : Dev) (k base bit : Nat) (attrs : List Attr) : Dev :=
  if d.upsetAt k = 0 then d else (d.setUpset k 0).each attrs (fun d a => d.raise base bit a)

/-- The parity of the pointers of fabric queue `q` is checked (R107). -/
def Dev.ptrCheck (d : Dev) (q : Nat) : Dev :=
  if d.upsetAt (Upset.ptr q) = 0 then d
  else (d.hit (Pg.queue q) Reg.FQ.PAR_ERR).upsetFound (Upset.ptr q) (Pg.qeng (q / 1920)) 1 [.core (q / 1920)]

/-- Domains with a core in rank `r`. -/
def Dev.rankDoms (d : Dev) (r : Nat) : List Nat :=
  (List.range 4).filter (fun m => (List.range 8).any (fun f => d.coreDom (8 * r + f) == some m))

/-- Registers, hold lines and the hold ring are checked in every cycle (Table 10.3, Table 7.10). -/
def Dev.tickUpset (d : Dev) : Dev :=
  if d.flt.upset.isEmpty then d
  else
    let d1 := d.each (List.range 32) (fun d c =>
      let a := (d.each (List.range 4) (fun d b => d.upsetFound (Upset.btReg c b) (Pg.btile c b) 5 [.core c])).upsetFound (Upset.core c)
        (Pg.corectl c) 0 [.core c]
      a.each (List.range 4) (fun d m => d.upsetFound (Upset.line c m) (Pg.corectl c) 1 [.dom m]))
    let d2 := d1.each (List.range 4) (fun d r => d.upsetFound (Upset.rank r) (Pg.rank r) 0 ((d.rankDoms r).map Attr.dom))
    d2.each (List.range 4) (fun d m => d.upsetFound (Upset.ring m) Pg.fault 2 [.dom m])

/-! ### Boundary queues: blocks, ranges and registers (R15, R108, R127) -/

/-- Edge block of boundary queue `b`: page base, number of its crossing memory, first queue. -/
def bqBlock (b : Nat) : Nat × Nat × Nat :=
  if b < 1536 then (Pg.host, 0, 0)
  else if b < 1792 then (Pg.csi ((b - 1536) / 64), 1 + (b - 1536) / 64, 1536 + (b - 1536) / 64 * 64)
  else if b < 2304 then (Pg.gl ((b - 1792) / 256), 5 + (b - 1792) / 256, 1792 + (b - 1792) / 256 * 256)
  else (Pg.fetch ((b - 2304) / 224), 7 + (b - 2304) / 224, 2304 + (b - 2304) / 224 * 224)

/-- Global number of local boundary queue `i` of an edge block. -/
def Edge.bq (e : Edge) (i : Nat) : Nat :=
  match e with
  | .host _ => i
  | .csi n => 1536 + 64 * n + i
  | .gl k => 1792 + 256 * k + i
  | .fetch f => 2304 + 224 * f + i
  | .rank _ => i

end Sys2Proof.Machine
end

