-- ==== Sys2Proof/Machine/BTile.lean ====
section
/-!
DEFINITION. B tiles (07_buffer_tiles_and_stripes.md): words, banks, ports, windows, the symbol code, and the scrubber's commands.
Tile number below is 4·core + tile. Word w of a tile is bytes 8w to 8w+7 of its MiB.
-/

namespace Sys2Proof.Machine

/-- Address of byte 0 of B tile `b` of core `c`. -/
def bBase (c b : Nat) : Nat := (4 * c + b) * 0x100000

/-- Bank of word `w` (R204). -/
def bankOf (w : Nat) : Nat := Nat.xor (w % 16) (w / 256 % 16)

/-- Symbols in error of a 76-bit pattern (R213). -/
def symbolsIn (n pat : Nat) : Nat := ((List.range n).filter (fun i => bitsOf pat (4 * i) 4 != 0)).length

/-- The outcome of decoding one S4EC-D4ED word (R213). -/
inductive EccRead where
  | clean | corrected | uncorrectable
  deriving DecidableEq, Repr

/-- Decode a word of the S4EC-D4ED code with error pattern `pat`: one symbol is corrected, two are detected, three or more may do
either, and a wrong word may be delivered as corrected (a free value). Answers the outcome and the data as delivered. -/
def eccDecode (d : Dev) (pat data : Nat) : EccRead × Nat × Dev :=
  let n := symbolsIn 19 pat
  if n = 0 then (.clean, data, d)
  else if n = 1 then (.corrected, data, d)
  else if n = 2 then
    let (x, d1) := d.free 64
    (.uncorrectable, Nat.xor data x, d1)
  else
    let (k, d1) := d.choose 2
    let (x, d2) := d1.free 64
    (if k = 0 then .uncorrectable else .corrected, Nat.xor data x, d2)

/-- The 64 data bits of word `w`, as stored. -/
def Dev.bRaw (d : Dev) (c b w : Nat) : Nat := leNat (Memory.readList d.mem.bmem (bBase c b + 8 * w) 8 0)

/-- A word lies in an image range of its tile (R214). -/
def Dev.bInImage (d : Dev) (c b w : Nat) : Bool :=
  (List.range 4).any (fun i => decide (d.rd (Pg.btile c b) Reg.BTILE.IMG_LO i ≤ w ∧ w ≤ d.rd (Pg.btile c b) Reg.BTILE.IMG_HI i))

/-- Report an uncorrectable error in an image region that belongs to the domain of core `c` (R214, R318); `page` reports it. -/
def Dev.imageUe (d : Dev) (m : Option Nat) (page : Nat) : Dev :=
  { d with flt := { d.flt with imgUe := d.flt.imgUe ++ [(m, page)] } }

/-- Record an uncorrectable word (R214, R216). -/
def Dev.bUe (d : Dev) (c b w : Nat) (scrub : Bool) (attr : Attr) : Dev :=
  let pg := Pg.btile c b
  let d1 := d.bump pg Reg.BTILE.UE_CNT
  let d2 := if d1.flag pg Reg.BTILE.UE_VALID then d1
    else ((d1.wr pg Reg.BTILE.UE_ADDR w).wr pg Reg.BTILE.UE_SCRUB (if scrub then 1 else 0)).hit pg Reg.BTILE.UE_VALID
  let d3 := d2.raise pg (if scrub then 2 else 1) attr
  if d3.bInImage c b w then d3.imageUe (d3.coreDom c) (pg / 4096) else d3

/-- Read word `w` through the code: the data, whether it is poisoned, whether a symbol was corrected, and the counts of R214. -/
def Dev.bReadWord (d : Dev) (c b w : Nat) (attr : Attr) : Nat × Bool × Bool × Dev :=
  let pat := Tab.get d.mem.berr ((4 * c + b) * 0x20000 + w) 0
  match eccDecode d pat (d.bRaw c b w) with
  | (.clean, v, d1) => (v, false, false, d1)
  | (.corrected, v, d1) => (v, false, true, d1.bump (Pg.btile c b) Reg.BTILE.BT_CORR)
  | (.uncorrectable, v, d1) => (v, true, false, d1.bUe c b w false attr)

/-- Read consecutive words, as they come: data in word order, poison, correction. -/
def Dev.bReadRun (d : Dev) (c b w n : Nat) (attr : Attr) : Nat × Bool × Bool × Dev :=
  match n with
  | 0 => (0, false, false, d)
  | n + 1 =>
    let (v, p, k, d1) := d.bReadWord c b w attr
    let (r, q, l, d2) := d1.bReadRun c b (w + 1) n attr
    (v + 2 ^ 64 * r, p || q, k || l, d2)

/-- One read of consecutive words; the result is little-endian in word order. Event 3 counts a read that corrected a symbol (Table 7.11). -/
def Dev.bReadWords (d : Dev) (c b w n : Nat) (attr : Attr) : Nat × Bool × Dev :=
  let (v, p, k, d1) := d.bReadRun c b w n attr
  (v, p, if k then d1.count (Pg.btile c b) 0xF 3 else d1)

/-- The error pattern that an armed injection puts into a write (R329): `kind` 0 B tile, 2 weight store, 3 scratch, 4 crossing
memory; `page` the page written. -/
def Dev.armedFor (d : Dev) (kind page : Nat) : Nat × Dev :=
  match d.flt.armed with
  | some (k, p, pat) =>
    if k = kind ∧ p = page then
      (pat, ({ d with flt := { d.flt with armed := none } }).wr Pg.fault Reg.FAULT.ARM 0)
    else (0, d)
  | none => (0, d)

/-- Store bytes in a B tile from byte address `a`; the words written become clean but for an armed corruption. -/
def Dev.bStore (d : Dev) (c b a : Nat) (bs : List Byte) : Dev :=
  let (pat, d1) := d.armedFor 0 (Pg.btile c b / 4096)
  let w0 := a / 8
  let nw := (a + bs.length + 7) / 8 - w0
  let errs := (List.range nw).foldl (fun t i => Tab.set t ((4 * c + b) * 0x20000 + w0 + i) (if i = 0 then pat else 0) 0) d1.mem.berr
  { d1 with mem := { d1.mem with
      bmem := Memory.writeList d1.mem.bmem (bBase c b + a) bs 0
      berr := errs
      bscrubWb := d1.mem.bscrubWb.filter (fun e => !(e.1 == 4 * c + b && decide (w0 ≤ e.2 ∧ e.2 < w0 + nw))) } }

/-- Count one cycle in a header counter at most once in a cycle; `k` marks that it was counted (R124). -/
def Dev.oncePerCycle (d : Dev) (k pg : Nat) (F : Fld) : Dev :=
  if d.mem.used.contains k then d else ({ d with mem := { d.mem with used := k :: d.mem.used } } : Dev).bump pg F

/-- All words lie in window (p, m) (R211). -/
def Dev.bInWindow (d : Dev) (c b p m w n : Nat) : Bool :=
  let pg := Pg.btile c b
  decide (d.rd pg Reg.BTILE.WIN_LO (4 * p + m) ≤ w ∧ w + n ≤ d.rd pg Reg.BTILE.WIN_HI (4 * p + m) + 1)

/-- First word of the access outside the window. -/
def Dev.bFirstOutside (d : Dev) (c b p m w n : Nat) : Nat :=
  ((List.range n).find? (fun i => !d.bInWindow c b p m (w + i) 1)).getD 0 + w

/-- Capture a refused access in WIN_ERR (R211, R212). -/
def Dev.bWinErr (d : Dev) (c b p m w : Nat) (bulk : Bool) : Dev :=
  let pg := Pg.btile c b
  if d.flag pg Reg.BTILE.W_VALID then d
  else ((((d.wr pg Reg.BTILE.WADDR w).wr pg Reg.BTILE.WPORT p).wr pg Reg.BTILE.WDOM m).wr pg Reg.BTILE.BULK
    (if bulk then 1 else 0)).hit pg Reg.BTILE.W_VALID

/-- BT_WINDOW against domain `m` (R211). -/
def Dev.bWindowMiss (d : Dev) (c b p m w n : Nat) : Dev :=
  (d.bWinErr c b p m (d.bFirstOutside c b p m w n) false).raise (Pg.btile c b) 0 (.unit m c)

/-- Read entry `e` (four words) for a queue of domain `m` on port `p`: data and poison (R211, R214). -/
def Dev.bReadEntry (d : Dev) (c b p m e : Nat) : Nat × Bool × Dev :=
  if d.bInWindow c b p m (4 * e) 4 then d.bReadWords c b (4 * e) 4 (.unit m c)
  else (0, true, d.bWindowMiss c b p m (4 * e) 4)

/-- Write `bs` at byte offset `a` (within one entry) for a queue of domain `m` on port `p` (R211). -/
def Dev.bWriteEntry (d : Dev) (c b p m a : Nat) (bs : List Byte) : Dev :=
  let w := a / 8
  let n := (a + bs.length + 7) / 8 - w
  if d.bInWindow c b p m w n then d.bStore c b a bs else d.bWindowMiss c b p m w n

/-- A bulk access to words `w` to `w+n−1` is allowed (R212). -/
def Dev.bBulkOk (d : Dev) (c b w n : Nat) (write : Bool) : Bool :=
  let pg := Pg.btile c b
  decide (d.rd pg Reg.BTILE.BW_LO ≤ w ∧ w + n ≤ d.rd pg Reg.BTILE.BW_HI + 1 ∧ w + n ≤ 0x20000) &&
  !(write && d.flag pg Reg.BTILE.PROTECT &&
    (List.range 4).any (fun m => d.running m &&
      (List.range 3).any (fun p =>
        decide (d.rd pg Reg.BTILE.WIN_LO (4 * p + m) < w + n ∧ w ≤ d.rd pg Reg.BTILE.WIN_HI (4 * p + m) ∧
          d.rd pg Reg.BTILE.WIN_LO (4 * p + m) ≤ d.rd pg Reg.BTILE.WIN_HI (4 * p + m)))))

/-- BULK_WINDOW (R212, R217). -/
def Dev.bBulkMiss (d : Dev) (c b w : Nat) : Dev :=
  (d.bWinErr c b 3 0 (w % 0x20000) true).raise (Pg.btile c b) 3 .none_

/-- The tile has written every word to zero and is READY (R215). -/
def Dev.btInitDone (d : Dev) (c b : Nat) : Dev :=
  let t := 4 * c + b
  if d.flag (Pg.btile c b) Reg.HDR.READY then d
  else
    let lo := bBase c b
    let d1 : Dev := { d with mem := { d.mem with
      bmem := d.mem.bmem.filter (fun e => decide (e.1 < lo ∨ lo + 0x100000 ≤ e.1))
      berr := d.mem.berr.filter (fun e => decide (e.1 / 0x20000 ≠ t)) } }
    d1.wr (Pg.btile c b) Reg.HDR.READY 1

end Sys2Proof.Machine
end

