-- ==== Sys2Proof/Machine/Ddr.lean ====
section
/-!
DEFINITION. DDR5 memory (R260 to R269): ports, beats of the RS(10,8) code, reads, writes and scrubbing. An error pattern of 40 bits
stands by each 4-byte beat (key: address ÷ 4); the memory holds the data that the beat was written with.
-/

namespace Sys2Proof.Machine

/-! ### The field GF(16) and a beat (R265, Table 8.4) -/

/-- αᵏ, for the polynomial x⁴ + x + 1. -/
def gfExp (k : Nat) : Nat := [1, 2, 4, 8, 3, 6, 12, 11, 5, 10, 7, 14, 15, 13, 9].getD (k % 15) 1

/-- Exponent of a nonzero element. -/
def gfLog (x : Nat) : Nat := ((List.range 15).find? (fun k => gfExp k == x)).getD 0

def gfMul (a b : Nat) : Nat := if a = 0 ∨ b = 0 then 0 else gfExp (gfLog a + gfLog b)

/-- S0 and S1 of an error pattern; a codeword contributes nothing. -/
def beatSyndromes (pat : Nat) : Nat × Nat :=
  (List.range 10).foldl (fun s i =>
    let e := bitsOf pat (4 * i) 4
    (Nat.xor s.1 e, Nat.xor s.2 (gfMul e (gfExp i)))) (0, 0)

/-- The outcome of decoding one beat. -/
inductive BeatRead where
  | clean
  | corrected (j : Nat)
  | uncorrectable
  /-- the poison mark of R267 -/
  | mark
  deriving DecidableEq, Repr

/-- Decode a beat with error pattern `pat`: the outcome and the XOR of the delivered data with the data written. -/
def beatDecode (pat : Nat) : BeatRead × Nat :=
  let (s0, s1) := beatSyndromes pat
  if s0 = 0 ∧ s1 = 0 then (.clean, pat % 2 ^ 32)
  else if s0 = 0 then (if s1 = 0xA then .mark else .uncorrectable, pat % 2 ^ 32)
  else if s1 = 0 then (.uncorrectable, pat % 2 ^ 32)
  else
    let j := (gfLog s1 + 15 - gfLog s0) % 15
    if j ≤ 9 then (.corrected j, Nat.xor pat (s0 <<< (4 * j)) % 2 ^ 32) else (.uncorrectable, pat % 2 ^ 32)

/-- The pattern of the poison mark: both check symbols XORed by 0xF (R267). -/
def markPattern : Nat := 0xFF * 2 ^ 32

/-! ### Ports (R260, R263) -/

/-- Populated ports: 4, 2 or none, by the PRESENT bits. -/
def Dev.ddrPorts (d : Dev) : Nat :=
  if d.flag (Pg.memport 2) Reg.MEMPORT.PRESENT then 4 else if d.flag (Pg.memport 0) Reg.MEMPORT.PRESENT then 2 else 0

/-- Installed capacity in bytes. -/
def Dev.ddrCap (d : Dev) : Nat := (List.range 4).foldl (fun n p => n + d.rd (Pg.memport p) Reg.MEMPORT.CAP) 0 * 2 ^ 30

/-- The port that serves a physical address. -/
def Dev.ddrPort (d : Dev) (pa : Nat) : Nat := pa / 4096 % max 1 d.ddrPorts

/-- Physical address of byte `a` within port `p`. -/
def Dev.ddrAddr (d : Dev) (p a : Nat) : Nat := (a / 4096 * max 1 d.ddrPorts + p) * 4096 + a % 4096

/-! ### Beats -/

/-- Image ranges of port `p` that contain a page are reported for their domains (R269). -/
def Dev.ddrImageUe (d : Dev) (p pa : Nat) : Dev :=
  d.each (List.range 4) (fun d m =>
    if (List.range 2).any (fun i =>
        decide (d.rd (Pg.memport p) Reg.MEMPORT.IMG_LO (2 * m + i) ≤ pa / 4096 ∧
          pa / 4096 ≤ d.rd (Pg.memport p) Reg.MEMPORT.IMG_HI (2 * m + i)))
    then d.imageUe (some m) (Pg.memport p / 4096) else d)

/-- A corrected symbol (Table 8.4, R279). -/
def Dev.ddrCorrected (d : Dev) (p j : Nat) : Dev :=
  let pg := Pg.memport p
  let d1 := (d.bump pg Reg.MEMPORT.CORR_CNT).bump pg Reg.MEMPORT.CORR_DEV 1 j
  if d1.rd pg Reg.MEMPORT.CORR_DEV j = d1.rd pg Reg.MEMPORT.DEV_WARN ∧ d.rd pg Reg.MEMPORT.CORR_DEV j ≠ d1.rd pg Reg.MEMPORT.CORR_DEV j then
    d1.raise pg 2 .none_
  else d1

/-- An uncorrectable beat that is no poison mark (R267, R268, R269). -/
def Dev.ddrUe (d : Dev) (p pa : Nat) (scrub : Bool) (attr : Attr) : Dev :=
  let pg := Pg.memport p
  let d1 := d.bump pg Reg.MEMPORT.UE_CNT
  let d2 := if d1.flag pg Reg.MEMPORT.UE_VALID then d1
    else (((d1.wr pg Reg.MEMPORT.UE_PA_LO pa).wr pg Reg.MEMPORT.UE_PA_HI (pa / 2 ^ 32)).wr pg Reg.MEMPORT.UE_SCRUB
      (if scrub then 1 else 0)).hit pg Reg.MEMPORT.UE_VALID
  (d2.raise pg (if scrub then 1 else 0) attr).ddrImageUe p pa

/-- Data of a beat as written. -/
def Dev.ddrRaw (d : Dev) (b : Nat) : Nat := leNat (Memory.readList d.mem.ddr (4 * b) 4 0)

/-- Read beat number `b` (address ÷ 4): delivered data, poison. -/
def Dev.ddrBeat (d : Dev) (b : Nat) (attr : Attr) : Nat × Bool × Dev :=
  let p := d.ddrPort (4 * b)
  let (r, x) := beatDecode (Tab.get d.mem.derr b 0)
  let v := Nat.xor (d.ddrRaw b) x
  match r with
  | .clean => (v, false, d)
  | .corrected j => (v, false, d.ddrCorrected p j)
  | .uncorrectable => (v, true, d.ddrUe p (4 * b) false attr)
  | .mark => (v, true, d)

/-- Read `n` consecutive beats: bytes, and poison of each byte. -/
def Dev.ddrBeats (d : Dev) (b n : Nat) (attr : Attr) : List Byte × List Bool × Dev :=
  match n with
  | 0 => ([], [], d)
  | n + 1 =>
    let (v, p, d1) := d.ddrBeat b attr
    let (bs, ps, d2) := d1.ddrBeats (b + 1) n attr
    (leBytes 4 v ++ bs, List.replicate 4 p ++ ps, d2)

/-- Read `len` bytes from physical address `pa`; whole beats are decoded. -/
def Dev.ddrRead (d : Dev) (pa len : Nat) (attr : Attr) : List Byte × List Bool × Dev :=
  let b0 := pa / 4
  let (bs, ps, d1) := d.ddrBeats b0 ((pa + len + 3) / 4 - b0) attr
  ((bs.drop (pa % 4)).take len, (ps.drop (pa % 4)).take len, d1)

/-- Store one beat: data and error pattern. A write to the burst cancels its scrub write-back (R268). -/
def Dev.ddrPutBeat (d : Dev) (b v pat : Nat) : Dev :=
  { d with mem := { d.mem with
      ddr := Memory.writeList d.mem.ddr (4 * b) (leBytes 4 v) 0
      derr := Tab.set d.mem.derr b pat 0
      scrubWb := d.mem.scrubWb.filter (fun e => !(e.2 == b / 16)) } }

/-- Bytes over a number: `none` keeps the byte. -/
def mergeBytes (v : Nat) (bs : List (Option Byte)) : Nat :=
  leNat ((leBytes bs.length v).zipWith (fun o n => n.getD o) bs)

/-- Write one beat of a burst (R261, R267): wholly covered, fresh; otherwise read, merged and stored, an uncorrectable beat with the
poison mark. -/
def Dev.ddrWriteBeat (d : Dev) (b : Nat) (bs : List (Option Byte)) (attr : Attr) : Dev :=
  if bs.all (·.isSome) then d.ddrPutBeat b (mergeBytes 0 bs) 0
  else
    let (v, p, d1) := d.ddrBeat b attr
    d1.ddrPutBeat b (mergeBytes v bs) (if p then markPattern else 0)

/-- Write whole beats in turn. -/
def Dev.ddrWriteBeats (d : Dev) (b : Nat) (bs : List (List (Option Byte))) (attr : Attr) : Dev :=
  match bs with
  | [] => d
  | x :: r => (d.ddrWriteBeat b x attr).ddrWriteBeats (b + 1) r attr

/-- Write bytes at `pa`, all within one burst of 64 bytes (R261): a whole burst directly, a smaller one as a read-modify-write of the
burst. An armed corruption goes into the first beat (R329). -/
def Dev.ddrWriteBurst (d : Dev) (pa : Nat) (bs : List (Option Byte)) (attr : Attr) : Dev :=
  let o := pa % 64
  let full := (List.replicate o none ++ bs ++ List.replicate (64 - o - bs.length) none).take 64
  let (pat, d1) := d.armedFor 1 (Pg.memport (d.ddrPort pa) / 4096)
  let d2 := d1.ddrWriteBeats (pa / 64 * 16) (chunks 16 4 full) attr
  if pat = 0 then d2
  else { d2 with mem := { d2.mem with derr := Tab.set d2.mem.derr (pa / 4) pat 0 } }

/-- Write bytes anywhere, burst by burst; `fuel` bounds the bursts. -/
def Dev.ddrWrite (d : Dev) (fuel pa : Nat) (bs : List (Option Byte)) (attr : Attr) : Dev :=
  match fuel with
  | 0 => d
  | f + 1 =>
    if bs.isEmpty then d
    else
      let n := 64 - pa % 64
      (d.ddrWriteBurst pa (bs.take n) attr).ddrWrite f (pa + n) (bs.drop n) attr

/-! ### Slots (R261) and scrubbing (R268) -/

/-- The request has a reserved slot in the present round (R261). -/
def Dev.reserved (d : Dev) (r : MemReq) : Bool :=
  r.cls == 1 && decide (Tab.get d.mem.slots (8 * r.port + r.dom) 0 < d.rd (Pg.memport r.port) Reg.MEMPORT.RSV r.dom)

/-- A waiting class A request has the present slot of port `p` reserved. -/
def Dev.slotReserved (d : Dev) (p : Nat) : Bool := d.mem.reqs.any (fun x => x.port == p && !x.done && d.reserved x)

/-- A request of a class waits at port `p`. -/
def Dev.portWaits (d : Dev) (p cls : Nat) : Bool := d.mem.reqs.any (fun x => x.port == p && x.cls == cls && !x.done)

/-- fa cycles from one scrub read of port `p` to the next: SCRUB_HOURS over the port's bursts. -/
def Dev.ddrScrubPeriod (d : Dev) (p : Nat) : Nat :=
  d.rd (Pg.memport p) Reg.MEMPORT.SCRUB_HOURS * usCycles (3600 * 1000000) / max 1 (d.rd (Pg.memport p) Reg.MEMPORT.CAP * 2 ^ 24)

/-- The scrubber of port `p` works. -/
def Dev.ddrScrubOn (d : Dev) (p : Nat) : Bool :=
  d.flag (Pg.memport p) Reg.MEMPORT.PRESENT && d.flag (Pg.memport p) Reg.MEMPORT.SCRUB_EN && !d.flag (Pg.memport p) Reg.HDR.QUIESCE

/-- A scrub read of port `p` has waited four periods: it goes ahead of classes B and C. -/
def Dev.ddrScrubLate (d : Dev) (p : Nat) : Bool :=
  d.ddrScrubOn p && decide (Tab.get d.mem.scrubAt p 0 + 4 * d.ddrScrubPeriod p ≤ d.cycle)

/-- A scrub read of port `p` is due and may take the present slot. -/
def Dev.ddrScrubTurn (d : Dev) (p : Nat) : Bool :=
  d.ddrScrubOn p && decide (Tab.get d.mem.scrubAt p 0 ≤ d.cycle) && !d.mem.used.contains (16 + p) && !d.slotReserved p &&
    (d.ddrScrubLate p || (!d.portWaits p 2 && !d.portWaits p 3))

/-- DDR_SCRUB: one scrub read of a burst of port `p`, when it is due and has a slot. The next falls due a period after this one did (log
154). -/
def Dev.ddrScrub (d : Dev) (p : Nat) : Dev :=
  let pg := Pg.memport p
  if !d.ddrScrubTurn p then d
  else
    let a := Tab.get d.mem.scrubPos p 0
    let size := d.rd pg Reg.MEMPORT.CAP * 2 ^ 30
    let next := if size ≤ a + 64 then 0 else a + 64
    let d0 : Dev := { d with mem := { d.mem with
      scrubPos := Tab.set d.mem.scrubPos p next 0, used := (16 + p) :: d.mem.used
      scrubAt := Tab.set d.mem.scrubAt p (max (Tab.get d.mem.scrubAt p 0 + d.ddrScrubPeriod p) d.cycle) 0 } }
    let b0 := d.ddrAddr p a / 4
    d0.each (List.range 16) (fun d i =>
      match (beatDecode (Tab.get d.mem.derr (b0 + i) 0)).1 with
      | .clean | .mark => d
      | .corrected j =>
        let d1 := d.ddrCorrected p j
        if d1.mem.scrubWb.contains (p, b0 / 16) then d1
        else { d1 with mem := { d1.mem with scrubWb := d1.mem.scrubWb ++ [(p, b0 / 16)] } }
      | .uncorrectable => d.ddrUe p (4 * (b0 + i)) true .none_)

/-- Write the corrected beats of the oldest burst back; no write to it intervened. -/
def Dev.ddrScrubWriteback (d : Dev) (p : Nat) : Dev :=
  if d.mem.used.contains (16 + p) then d
  else match d.mem.scrubWb.find? (fun e => e.1 == p) with
  | none => d
  | some e =>
    let d1 : Dev := { d with mem := { d.mem with used := (16 + p) :: d.mem.used } }
    let d2 := d1.each (List.range 16) (fun d i =>
      let b := 16 * e.2 + i
      match beatDecode (Tab.get d.mem.derr b 0) with
      | (.corrected _, x) => d.ddrPutBeat b (Nat.xor (d.ddrRaw b) x) 0
      | _ => d)
    { d2 with mem := { d2.mem with scrubWb := d2.mem.scrubWb.erase e } }

/-- REFRESH (R262): refresh, calibration and tracking keep the contents and happen in the slots that the reservation does not count;
they change nothing that a command can see. The port has no burst in this cycle, and the cycle is no slot of its round. -/
def Dev.refresh (d : Dev) (p : Nat) : Dev :=
  if d.mem.used.contains (16 + p) then d else { d with mem := { d.mem with used := (24 + p) :: (16 + p) :: d.mem.used } }

end Sys2Proof.Machine
end

