-- ==== Sys2Proof/Machine/Queues.lean ====
section
/-!
DEFINITION. Fabric queues (04_queues.md): descriptors, heads, bodies and their modes, credits, landing and presentation.
`q` is a global queue index; local queue i of core c has q = 1920·c + i.
-/

namespace Sys2Proof.Machine

def qCore (q : Nat) : Nat := q / 1920
def qLocal (q : Nat) : Nat := q % 1920

/-- Items per 32-byte body entry by network (R100). -/
def perEntry (net : Nat) : Nat := if net = 0 then 1 else if net = 1 then 8 else 16

/-- Network of output port `p` of a switch node (Table 3.4); none: unassigned. -/
def portNet (p : Nat) : Option Nat :=
  if p ≤ 30 then some 0 else if 32 ≤ p ∧ p ≤ 49 then some 1 else if 52 ≤ p ∧ p ≤ 58 then some 2 else none

/-- Direction of a mesh output port; none: a local port. -/
def portDir (p : Nat) : Option Nat :=
  if p < 4 then some p else if 32 ≤ p ∧ p < 36 then some (p - 32) else if 52 ≤ p ∧ p < 56 then some (p - 52) else none

/-- Owner of output port `p` of node `c`, active bank (R78, Table 3.10). -/
def Dev.ownerA (d : Dev) (c p : Nat) : Option Nat :=
  let n := bitsOf (d.rd (Pg.xnode c) Reg.XNODE.OWNER_A (p / 8)) (4 * (p % 8)) 3
  if 4 ≤ n then some (n - 4) else none

/-- Owner of the port in the staged bank. -/
def Dev.ownerS (d : Dev) (c p : Nat) : Option Nat :=
  let n := bitsOf (d.rd (Pg.xnode c) Reg.XNODE.OWNER_S (p / 8)) (4 * (p % 8)) 3
  if 4 ≤ n then some (n - 4) else none

/-! ### Descriptors and body modes -/

def Dev.qNet (d : Dev) (q : Nat) : Nat := d.rd (Pg.queue q) Reg.FQ.NET
def Dev.qDom (d : Dev) (q : Nat) : Nat := d.rd (Pg.queue q) Reg.FQ.DOM
def Dev.qEn (d : Dev) (q : Nat) : Bool := d.flag (Pg.queue q) Reg.FQ.EN
def Dev.qSize (d : Dev) (q : Nat) : Nat := d.rd (Pg.queue q) Reg.FQ.BODY_SIZE
def Dev.qTile (d : Dev) (q : Nat) : Nat := d.rd (Pg.queue q) Reg.FQ.BODY_TILE
def Dev.qBase (d : Dev) (q : Nat) : Nat := d.rd (Pg.queue q) Reg.FQ.BODY_BASE

/-- Offset of BMD `i` of B tile `b` of core `c`, in the active bank or (`st`) in the staged one (R218). -/
def Dev.bmdAt (d : Dev) (c b i : Nat) (st : Bool) : Nat :=
  Pg.bmd c b i + (if (d.bank (Bank.btile c b) == 1) != st then Pg.staged else 0)

/-- Offset of active BMD `i` of the B tile that holds the body of `q`. -/
def Dev.qBmd (d : Dev) (q i : Nat) : Nat := d.bmdAt (qCore q) (d.qTile q) i false

/-- The active BMD of lowest index that names `q` as QUEUE, or as QUEUE2 of a split line buffer (R218, R224). -/
def Dev.bmdOf (d : Dev) (q : Nat) : Option Nat :=
  (List.range 16).find? (fun i =>
    let a := d.qBmd q i
    d.rd a Reg.BMD.MODE != 0 &&
      (d.rd a Reg.BMD.QUEUE == qLocal q ||
        (d.rd a Reg.BMD.MODE == 1 && d.rd a Reg.BMD.DUAL != 0 && d.rd a Reg.BMD.QUEUE2 == qLocal q)))

/-- Body mode of a queue: 0 for a queue without a BMD. -/
def Dev.qMode (d : Dev) (q : Nat) : Nat :=
  if d.qSize q = 0 then 0 else
  match d.bmdOf q with
  | none => 0
  | some i => d.rd (d.qBmd q i) Reg.BMD.MODE

/-- QUEUE of the line buffer that `q` belongs to. -/
def Dev.lbMain (d : Dev) (q : Nat) : Nat :=
  match d.bmdOf q with
  | none => q
  | some i => qCore q * 1920 + d.rd (d.qBmd q i) Reg.BMD.QUEUE

/-- Offset of the BMD in use: CUR of the first one, and the first one itself while CUR names no descriptor of the chain (R224). -/
def Dev.lbBmd (d : Dev) (q : Nat) : Nat :=
  match d.bmdOf q with
  | none => d.qBmd q 0
  | some i =>
    let j := (Tab.get d.qs.lb (qCore q * 1920 + d.rd (d.qBmd q i) Reg.BMD.QUEUE) LbSt.zero).chain.getD i
    d.qBmd q (if d.flag (d.qBmd q i) Reg.BMD.CHAIN && d.rd (d.qBmd q j) Reg.BMD.MODE == 1 &&
      d.rd (d.qBmd q j) Reg.BMD.QUEUE == d.rd (d.qBmd q i) Reg.BMD.QUEUE then j else i)

/-- Items per row of a line buffer. -/
def Dev.lbRowItems (d : Dev) (a : Nat) : Nat := (d.rd a Reg.BMD.CH_M1 + 1) * (d.rd a Reg.BMD.FPR_M1 + 1)

/-- Capacity in items (R100, R223, R226). -/
def Dev.qCap (d : Dev) (q : Nat) : Nat :=
  if d.qSize q = 0 then 4
  else match d.qMode q with
    | 1 => d.rd (d.lbBmd q) Reg.BMD.NR * d.lbRowItems (d.lbBmd q)
    | _ => 4 + perEntry (d.qNet q) * d.qSize q

/-- Items of a replay body. -/
def Dev.rpItems (d : Dev) (q : Nat) : Nat :=
  match d.bmdOf q with
  | none => 0
  | some i => bitsOf (d.rd (d.qBmd q i) Reg.BMD.MODEARG) 0 16 + 1

/-- COUNT (Table 4.3, R223, R226). -/
def Dev.qCount (d : Dev) (q : Nat) : Nat :=
  match d.qMode q with
  | 1 => d.rd (Pg.queue (d.lbMain q)) Reg.FQ.COUNT
  | 3 => d.rpItems q
  | _ => d.rd (Pg.queue q) Reg.FQ.COUNT

/-- The queue is full, in the sense of R106, R223 and R226. -/
def Dev.qFull (d : Dev) (q : Nat) : Bool := d.qMode q != 3 && decide (d.qCap q ≤ d.qCount q)

/-- The queue counts as empty (R226). -/
def Dev.qEmpty (d : Dev) (q : Nat) : Bool := d.qMode q == 3 || d.qCount q == 0

def Dev.qAdd (d : Dev) (q n : Nat) : Dev :=
  let q := if d.qMode q = 1 then d.lbMain q else q
  d.wr (Pg.queue q) Reg.FQ.COUNT (d.rd (Pg.queue q) Reg.FQ.COUNT + n)

def Dev.qSub (d : Dev) (q n : Nat) : Dev :=
  let q := if d.qMode q = 1 then d.lbMain q else q
  d.wr (Pg.queue q) Reg.FQ.COUNT (d.rd (Pg.queue q) Reg.FQ.COUNT - n)

def Dev.qHead (d : Dev) (q : Nat) : List Item := Tab.get d.qs.head q []

def Dev.setHead (d : Dev) (q : Nat) (l : List Item) : Dev := { d with qs := { d.qs with head := Tab.set d.qs.head q l [] } }

def Dev.qBody (d : Dev) (q : Nat) : List BodyItem := Tab.get d.qs.body q []

def Dev.setBody (d : Dev) (q : Nat) (l : List BodyItem) : Dev := { d with qs := { d.qs with body := Tab.set d.qs.body q l [] } }

/-- Enabled fabric queues whose descriptors are listed, by global index. -/
def Dev.listedQueues (d : Dev) : List Nat :=
  d.regs.filterMap (fun e =>
    if 0x400000 ≤ e.1 ∧ e.1 < 0x400000 + 61440 * 8 ∧ e.1 % 8 = 0 ∧ bitAt e.2.toNat 4 then some ((e.1 - 0x400000) / 8) else none)

/-- The enabled queue whose head occupies slot `slot` of input port `port` of core `c` (R99). -/
def Dev.queueAtHead (d : Dev) (c port slot : Nat) : Option Nat :=
  d.listedQueues.find? (fun q =>
    qCore q == c && d.rd (Pg.queue q) Reg.FQ.HEAD_PORT == port && d.rd (Pg.queue q) Reg.FQ.HEAD_SLOT == slot &&
    !d.flag (Pg.queue q) Reg.FQ.WIN_CONS && !d.flag (Pg.queue q) Reg.FQ.OUT_CRED)

/-- A queue sets OVR, and the page records the first that did (R106, Table 4.9). -/
def Dev.setOvr (d : Dev) (q : Nat) : Dev :=
  let pg := Pg.qeng (qCore q)
  let d1 := d.hit (Pg.queue q) Reg.FQ.OVR
  if d1.flag pg Reg.QENG.OVR_VALID then d1 else (d1.wr pg Reg.QENG.OVR_QUEUE (qLocal q)).hit pg Reg.QENG.OVR_VALID

/-- Overrun of a queue: OVR and Q_OVERRUN (R106, R102). -/
def Dev.qOverrun (d : Dev) (q : Nat) : Dev := (d.setOvr q).raise (Pg.qeng (qCore q)) 0 (.unit (d.qDom q) (qCore q))

/-! ### Credits (R103 to R105) -/

/-- Page and fields of credit counter unit `u` of core `c` (Table 4.2): count, EXEMPT, capacity. -/
def counterRef (c u : Nat) : Option (Nat × Fld × Fld × Fld) :=
  if u < 10 then some (Pg.mtile c u, Reg.MTILE.CCNT, Reg.MTILE.EXEMPT, Reg.MTILE.CCAP)
  else if u < 12 then some (Pg.vtile c (u - 10), Reg.VTILE.CCNT, Reg.VTILE.EXEMPT, Reg.VTILE.CCAP)
  else if u = 12 then some (Pg.qeng c, Reg.QENG.QCNT, Reg.QENG.Q_EXEMPT, Reg.QENG.QCAP)
  else if u = 13 then some (Pg.qeng c, Reg.QENG.ECNT, Reg.QENG.E_EXEMPT, Reg.QENG.ECAP)
  else none

/-- The counter permits `n` items (R36, R103, R105). -/
def Dev.creditOk (d : Dev) (c u i n : Nat) : Bool :=
  match counterRef c u with
  | none => false
  | some (pg, cnt, ex, _) => d.flag pg ex i || decide (n ≤ d.rd pg cnt i)

/-- Take `n` credits; an EXEMPT counter is never decremented. -/
def Dev.creditTake (d : Dev) (c u i n : Nat) : Dev :=
  match counterRef c u with
  | none => d
  | some (pg, cnt, ex, _) => if d.flag pg ex i then d else d.wr pg cnt (d.rd pg cnt i - n) i

/-- Add `n` credits (R104): a counter that would rise above its capacity is set to it and CREDIT_RANGE raised; a reserved unit
raises CREDIT_RANGE against `owner`. A counter with EXEMPT 1 is never checked (R105), so it is set to its capacity and raises nothing
(DEDUCED, log 42). -/
def Dev.creditAdd (d : Dev) (c u i n : Nat) (owner : Attr) : Dev :=
  match counterRef c u with
  | none => d.raise (Pg.qeng c) 2 owner
  | some (pg, cnt, ex, cap) =>
    if d.rd pg cnt i + n ≤ d.rd pg cap i then d.wr pg cnt (d.rd pg cnt i + n) i
    else if d.flag pg ex i then d.wr pg cnt (d.rd pg cap i) i
    else (d.wr pg cnt (d.rd pg cap i) i).raise (Pg.qeng c) 2 (match d.coreDom c with | some m => .unit m c | none => .none_)

/-- `n` items of queue `q` were freed: the uncredited count rises, or the producer's counter does in the next cycle (R104). -/
def Dev.freeItems (d : Dev) (q n : Nat) : Dev :=
  let a := Pg.queue q
  if n = 0 ∨ d.flag a Reg.FQ.CRED_NONE then d
  else if d.rd a Reg.FQ.PROD_CORE = qCore q then
    let due := d.qs.credDue ++ [(qCore q, d.rd a Reg.FQ.PROD_UNIT, d.rd a Reg.FQ.PROD_CNT, n)]
    { d with qs := { d.qs with credDue := due } }
  else { d with qs := { d.qs with uncred := Tab.set d.qs.uncred q (Tab.get d.qs.uncred q 0 + n) 0 } }

/-- A credit word (Table 4.2). -/
def creditWord (cnt unit n : Nat) : Item := Item.ofNat (cnt % 16 + 16 * (unit % 16) + 256 * (n % 0x100000))

/-- CREDIT_WORD: the oldest landed credit word of core `c` reaches its counter (R104); nothing enters a fenced core (R24). -/
def Dev.creditWordIn (d : Dev) (c : Nat) : Dev :=
  if d.fenced c then d else
  match Tab.get d.qs.credIn c [] with
  | [] => d
  | (w, owner) :: rest =>
    let d1 : Dev := { d with qs := { d.qs with credIn := Tab.set d.qs.credIn c rest [] } }
    (d1.creditAdd c (bitsOf w 4 4) (bitsOf w 0 4) (bitsOf w 8 20) (.unit owner c)).count (Pg.qeng c) 0xF 3

/-! ### Taking items -/

/-- A consumer takes the oldest item of the head of `q` (R104, R223). -/
def Dev.takeHead (d : Dev) (q : Nat) : Option Item × Dev :=
  match d.qHead q with
  | [] => (none, d)
  | x :: r =>
    let d1 := (d.setHead q r).ptrCheck q
    match d.qMode q with
    | 1 | 3 => (some x, d1)
    | _ => (some x, (d1.qSub q 1).freeItems q 1)

/-! ### Body addresses -/

/-- Byte address in the tile, and length, of body item number `n` of a FIFO-like body. -/
def Dev.bodyAddr (d : Dev) (q n : Nat) : Nat × Nat :=
  let k := perEntry (d.qNet q)
  let i := n % (k * d.qSize q)
  let w := 32 / k
  (32 * (d.qBase q + i / k) + w * (i % k), w)

/-- B tile port of the landing input or source: IN0/OUT0 0, IN1/OUT1 1, the scalar channel 2 (Table 7.1). -/
def chanOfInput (p : Nat) : Nat := if p = 28 then 0 else if p = 29 then 1 else 2

/-- Number of the next item to be written of a FIFO-like body. -/
def Dev.bodyNext (d : Dev) (q : Nat) : Nat := Tab.get d.qs.wIdx q 0

/-- Append one item to a FIFO-like body: data to the B tile, order and sideband to the body. -/
def Dev.bodyPut (d : Dev) (q port : Nat) (x : Item) (at_ : Nat) : Dev :=
  let n := d.bodyNext q
  let (a, w) := d.bodyAddr q n
  let d1 := d.bWriteEntry (qCore q) (d.qTile q) port (d.qDom q) a (leBytes w x.data.toNat)
  let d2 := d1.setBody q (d1.qBody q ++ [⟨q, { x with data := 0 }, at_⟩])
  { d2 with qs := { d2.qs with wIdx := Tab.set d2.qs.wIdx q ((n + 1) % (perEntry (d.qNet q) * d.qSize q)) 0 } }

/-- Read one item's data from byte address `a` on port `p`, with the entry's poison (R211, R214). -/
def Dev.bodyRead (d : Dev) (q port a w : Nat) : Nat × Bool × Dev :=
  let (v, p, d1) := d.bReadEntry (qCore q) (d.qTile q) port (d.qDom q) (a / 32)
  (bitsOf v (8 * (a % 32)) (8 * w), p, d1)

/-! ### Line buffers (R219 to R224) -/

def Dev.lbGet (d : Dev) (q : Nat) : LbSt := Tab.get d.qs.lb q LbSt.zero
def Dev.lbSet (d : Dev) (q : Nat) (s : LbSt) : Dev := { d with qs := { d.qs with lb := Tab.set d.qs.lb q s LbSt.zero } }

/-- Output rows of a frame (R219). -/
def Dev.lbOH (d : Dev) (a : Nat) : Nat :=
  let f (F : Fld) := d.rd a F
  let num : Int := (f Reg.BMD.IH_M1 + 1 + f Reg.BMD.PT + f Reg.BMD.PB : Nat) -
    ((f Reg.BMD.DV_M1 + 1) * f Reg.BMD.KH_M1 : Nat) - 1
  (num / ((f Reg.BMD.SV_M1 + 1 : Nat) : Int) + 1).toNat

/-- First and last flit of segment `k` (R221). -/
def Dev.lbSeg (d : Dev) (a k : Nat) : Nat × Int :=
  let s := k * d.rd a Reg.BMD.SADV
  let pre := d.rd a Reg.BMD.SPRE
  (s - pre, min (d.rd a Reg.BMD.LASTF : Int) ((s : Int) - pre + d.rd a Reg.BMD.SSPAN_M1))

/-- Channel, kernel row and input row at a position of the presentation order. -/
def Dev.lbAt (d : Dev) (a : Nat) (c : LbCur) : Nat × Nat × Int :=
  let ord := d.flag a Reg.BMD.ORDER
  let ch := if ord then c.a else c.b
  let kh := if ord then c.b else c.a
  (ch, kh, ((d.rd a Reg.BMD.SV_M1 + 1) * c.oy + (d.rd a Reg.BMD.DV_M1 + 1) * kh : Nat) - (d.rd a Reg.BMD.PT : Int))

/-- The position presents an item, and for which queue: true for QUEUE2. -/
def Dev.lbPresents (d : Dev) (a : Nat) (c : LbCur) : Bool × Bool :=
  let (ch, kh, iy) := d.lbAt a c
  let pad := decide (iy < 0 ∨ (d.rd a Reg.BMD.IH_M1 : Int) < iy)
  let (f0, f1) := d.lbSeg a c.k
  let dual := d.rd a Reg.BMD.DUAL
  (!(pad && !d.flag a Reg.BMD.PADROW) && decide ((f0 + c.f : Nat) ≤ f1),
    (dual == 1 && ch % 2 == 1) || (dual == 2 && kh % 2 == 1))

/-- The next position in the order. -/
def Dev.lbStep (d : Dev) (a : Nat) (c : LbCur) : LbCur :=
  let (f0, f1) := d.lbSeg a c.k
  let ord := d.flag a Reg.BMD.ORDER
  let nb := if ord then d.rd a Reg.BMD.KH_M1 else d.rd a Reg.BMD.CH_M1
  let na := if ord then d.rd a Reg.BMD.CH_M1 else d.rd a Reg.BMD.KH_M1
  if (d.lbPresents a c).1 ∧ ((f0 + c.f + 1 : Nat) : Int) ≤ f1 then { c with f := c.f + 1 }
  else if c.b < nb then { c with b := c.b + 1, f := 0 }
  else if c.a < na then { c with a := c.a + 1, b := 0, f := 0 }
  else if c.k < d.rd a Reg.BMD.NSEG_M1 then { c with k := c.k + 1, a := 0, b := 0, f := 0 }
  else ⟨c.oy + 1, 0, 0, 0, 0⟩

/-- Move to the first position at or after `c` that presents an item of QUEUE (or QUEUE2), or past the last output row. -/
def Dev.lbSeek (d : Dev) (a : Nat) (second : Bool) (fuel : Nat) (c : LbCur) : LbCur :=
  match fuel with
  | 0 => c
  | n + 1 =>
    if d.lbOH a ≤ c.oy then c
    else
      let (p, s2) := d.lbPresents a c
      if p && (s2 == second) then c else d.lbSeek a second n (d.lbStep a c)

/-- Bound on the positions that one search may skip. -/
def lbFuel : Nat := 2 ^ 24

/-- Release the rows that no later output row needs (R221, R223). -/
def Dev.lbRelease (d : Dev) (q a : Nat) : Dev :=
  let s := d.lbGet q
  let items := d.lbRowItems a
  let landedRows := s.landed / items
  let newRel := max s.rel (min s.target landedRows)
  let n := newRel - s.rel
  if n = 0 then d
  else
    let d1 := ((d.lbSet q { s with rel := newRel }).qSub q (n * items)).freeItems q (n * items)
    d1.count (Pg.btile (qCore q) (d.qTile q)) 0xF 7 n

/-- Keep LROW: rows fully landed in the current frame (Table 7.4). -/
def Dev.lbRows (d : Dev) (q : Nat) : Dev :=
  match d.bmdOf q with
  | none => d
  | some _ =>
    let a := d.lbBmd q
    let s := d.lbGet q
    d.lbSet q { s with lrow := min (d.rd a Reg.BMD.IH_M1 + 1) (s.landed / d.lbRowItems a - s.base) % 4096 }

/-- After a presentation: settle both positions, set the release point of finished output rows, and start the next frame when the
last output row has been presented (R223, R224). -/
def Dev.lbSettle (d : Dev) (q : Nat) : Dev :=
  match d.bmdOf q with
  | none => d
  | some _ =>
    let a := d.lbBmd q
    let s := d.lbGet q
    let c1 := d.lbSeek a false lbFuel s.cur
    let c2 := if d.rd a Reg.BMD.DUAL = 0 then c1 else d.lbSeek a true lbFuel s.cur2
    let oy := min c1.oy c2.oy
    let oh := d.lbOH a
    let ih := d.rd a Reg.BMD.IH_M1 + 1
    let sv := d.rd a Reg.BMD.SV_M1 + 1
    let lim := if oh ≤ oy then ih else min ih (sv * oy - d.rd a Reg.BMD.PT)
    let s1 := { s with cur := c1, cur2 := c2, target := max s.target (s.base + lim) }
    let d1 := (d.lbSet q s1).lbRelease q a
    if oh ≤ oy then
      let s2 := d1.lbGet q
      (d1.lbSet q { s2 with
        base := s2.base + ih, cur := ⟨0, 0, 0, 0, 0⟩, cur2 := ⟨0, 0, 0, 0, 0⟩, orow := 0
        chain := if d.flag a Reg.BMD.CHAIN then some (d.rd a Reg.BMD.NEXT) else s2.chain }).lbRows q
    else d1.lbSet q { d1.lbGet q with orow := oy % 4096 }

/-- Word 0x18 of BMD `i` of tile `b`: OROW, LROW and CUR of a line buffer in its first BMD of the active bank, and 0 elsewhere (R224). -/
def Dev.lbStatus (d : Dev) (c b i : Nat) : Nat :=
  let a := d.bmdAt c b i false
  let q := 1920 * c + d.rd a Reg.BMD.QUEUE
  if d.rd a Reg.BMD.MODE = 1 ∧ d.qTile q = b ∧ d.bmdOf q = some i then
    let s := d.lbGet q
    s.orow % 4096 + s.lrow % 4096 * 2 ^ 12 + (if d.flag a Reg.BMD.CHAIN then s.chain.getD i % 16 else 0) * 2 ^ 24
  else 0

/-- Body entry of the next flit that lands in a line buffer (R220). -/
def Dev.lbEntry (d : Dev) (q : Nat) : Nat :=
  let s := d.lbGet q
  let items := d.lbRowItems (d.lbBmd q)
  d.qBase q + (s.landed / items % max 1 (d.rd (d.lbBmd q) Reg.BMD.NR)) * items + s.landed % items

/-- A landed flit is written into its row slot (R220); it may be presented two cycles later (R102, R221). -/
def Dev.lbPut (d : Dev) (q port : Nat) (x : Item) : Dev :=
  let a := d.lbBmd q
  let s := d.lbGet q
  let e := d.lbEntry q
  let d1 := d.bWriteEntry (qCore q) (d.qTile q) port (d.qDom q) (32 * e) (leBytes 32 x.data.toNat)
  let d2 := d1.lbSet q { s with
    landed := s.landed + 1, side := Tab.set s.side e { x with data := 0 } Item.zero
    fresh := s.fresh.filter (fun t => decide (d.cycle < t)) ++ [d.cycle + 2] }
  (d2.lbRelease q a).lbRows q

/-- The pad flit of a descriptor (R221). -/
def Dev.lbPad (d : Dev) (a : Nat) : Item :=
  let v := d.rd a Reg.BMD.PADVAL
  let n := if d.flag a Reg.BMD.PFMT then (List.range 16).foldl (fun x i => x + v <<< (16 * i)) 0
    else (List.range 32).foldl (fun x i => x + (v % 256) <<< (8 * i)) 0
  Item.ofNat n

/-- The `k`-th position at or after `c` that presents an item of the queue. -/
def Dev.lbAhead (d : Dev) (a : Nat) (second : Bool) (k : Nat) (c : LbCur) : LbCur :=
  let c1 := d.lbSeek a second lbFuel c
  match k with
  | 0 => c1
  | k + 1 => d.lbAhead a second k (d.lbStep a c1)

/-- What a line buffer presents for `q` after `k` others: a pad flit; or the number of the flit since START, counted from 0, and its body
entry. None beyond the last output row. -/
def Dev.lbNext (d : Dev) (q k : Nat) : Option (Option (Nat × Nat)) :=
  let main := d.lbMain q
  let a := d.lbBmd q
  let s := d.lbGet main
  let second := q != main
  let c := d.lbAhead a second k (if second then s.cur2 else s.cur)
  if d.lbOH a ≤ c.oy then none
  else
    let (ch, _, iy) := d.lbAt a c
    if iy < 0 ∨ (d.rd a Reg.BMD.IH_M1 : Int) < iy then some none
    else
      let items := d.lbRowItems a
      let row := s.base + iy.toNat
      let off := ch * (d.rd a Reg.BMD.FPR_M1 + 1) + (d.lbSeg a c.k).1 + c.f
      some (some (row * items + off, d.qBase q + (row % max 1 (d.rd a Reg.BMD.NR)) * items + off))

/-- Flits of the line buffer that may be presented by now (R102). -/
def Dev.lbReady (d : Dev) (q : Nat) : Nat :=
  let s := d.lbGet (d.lbMain q)
  s.landed - (s.fresh.filter (fun t => decide (d.cycle < t))).length

/-- Advance the position of `q` past the item just presented. -/
def Dev.lbAdvance (d : Dev) (q : Nat) : Dev :=
  let main := d.lbMain q
  let a := d.lbBmd q
  let s := d.lbGet main
  let second := q != main
  let c := d.lbSeek a second lbFuel (if second then s.cur2 else s.cur)
  let c1 := d.lbStep a c
  (d.lbSet main (if second then { s with cur2 := c1 } else { s with cur := c1 })).lbSettle main

/-! ### Transposition (R225) -/

/-- The GS output flits of a group: byte p of output flit c is input byte p·GS + c. -/
def transposeGroup (g : List Item) : List Item :=
  let gs := g.length
  let bytes := g.flatMap (fun x => leBytes 32 (if x.valid then x.data.toNat else 0))
  let first := g.headD Item.zero
  (List.range gs).map (fun c =>
    let v := leNat ((List.range 32).map (fun p => bytes.getD (p * gs + c) 0))
    ⟨BitVec.ofNat 256 v, g.any (·.valid), g.any (·.poison), first.seq, first.btag, false⟩)

/-! ### Landing (R101, R102, R106) -/

/-- Queue named by a landing or presentation entry of core `c`. -/
def entryQueue (c e : Nat) : Nat := 1920 * c + e % 2048

/-- Items of `q` on their way to its head from its own body (R102). -/
def Dev.headComing (d : Dev) (q : Nat) : Nat :=
  ((Tab.get d.qs.lin (64 * qCore q + d.rd (Pg.queue q) Reg.FQ.HEAD_PORT) []).filter (fun x => x.flit.fromQ == q + 1)).length

/-- LAND_MISS (R101). -/
def Dev.landMiss (d : Dev) (c owner : Nat) : Dev := d.raise (Pg.qeng c) 3 (.unit owner c)

/-- A landed item for a queue with a body, at a queue-engine input (R102, R225, R226). -/
def Dev.landBody (d : Dev) (c p q : Nat) (x : Item) : Dev :=
  let key := 64 * c + p
  if d.qMode q = 3 ∨ d.qFull q then d.qOverrun q
  else if d.qMode q = 2 ∧ (p = 28 ∨ p = 29) then
    match d.bmdOf q with
    | none => d
    | some i =>
      let gs := d.rd (d.qBmd q i) Reg.BMD.MODEARG % 32 + 1
      let g := Tab.get d.qs.trGrp (2 * c + (p - 28)) none
      let clash := match g with | some (q0, _) => q0 != q | none => false
      if clash then d.raise (Pg.btile c (d.qTile q)) 4 (.unit (d.qDom q) c)
      else
        let items := (match g with | some (_, l) => l | none => []) ++ [x]
        let d1 := d.qAdd q 1
        if items.length < gs then
          { d1 with qs := { d1.qs with trGrp := Tab.set d1.qs.trGrp (2 * c + (p - 28)) (some (q, items)) none } }
        else
          let d2 : Dev := { d1 with qs := { d1.qs with trGrp := Tab.set d1.qs.trGrp (2 * c + (p - 28)) none none } }
          let out := (transposeGroup items).map (fun x => (⟨q, x, d.cycle⟩ : BodyItem))
          let tk := 2 * c + (p - 28)
          ({ d2 with qs := { d2.qs with trOut := Tab.set d2.qs.trOut tk (Tab.get d2.qs.trOut tk [] ++ out) [] } } : Dev).count
            (Pg.btile c (d.qTile q)) 0xF 8
  else
    let buf := Tab.get d.qs.land key []
    if 4 ≤ buf.length then d.qOverrun q
    else
      let d1 := d.qAdd q 1
      { d1 with qs := { d1.qs with land := Tab.set d1.qs.land key (buf ++ [⟨q, x, d.cycle⟩]) [] } }

/-- ITEM_LAND: the oldest item on its way to local input `p` of core `c` goes where its landing entry says (R101, R106), at the
earliest in the cycle after its node sent it (R93). CRED 1 makes it a credit word at any input (DESIGN CHOICE beyond SIN, log 137). -/
def Dev.itemLand (d : Dev) (c p : Nat) : Dev :=
  let key := 64 * c + p
  match Tab.get d.qs.lin key [] with
  | [] => d
  | l :: rest =>
    if d.cycle ≤ l.at_ then d else
    let d := ({ d with qs := { d.qs with lin := Tab.set d.qs.lin key rest [] } } : Dev)
    if d.fenced c then d.bump (Pg.xnode c) Reg.XNODE.DROP_CNT
    else
      let e := l.entry
      let x := l.flit.item
      let q := entryQueue c e
      let d := d.poisonSeen (Pg.qeng c) x.poison
      -- an item that leaves its own body for another queue is no longer in that queue
      let leaves := l.flit.fromQ != 0 && (l.flit.fromQ != q + 1 || !bitAt e 12 || bitAt e 11)
      let d := if leaves && !d.flag (Pg.queue (l.flit.fromQ - 1)) Reg.FQ.OUT_CRED && d.qMode (l.flit.fromQ - 1) != 1
          && d.qMode (l.flit.fromQ - 1) != 3 then d.qSub (l.flit.fromQ - 1) 1 else d
      if !bitAt e 12 then d.landMiss c l.owner
      else if bitAt e 11 then
        let ws := Tab.get d.qs.credIn c [] ++ [(x.data.toNat % 2 ^ 32, l.owner)]
        { d with qs := { d.qs with credIn := Tab.set d.qs.credIn c ws [] } }
      else
        let input := p = 28 ∨ p = 29 ∨ p = 48 ∨ p = 58
        if 1920 ≤ e % 2048 ∨ !d.qEn q ∨ some (d.qNet q) ≠ portNet p ∨ (input ∧ d.qSize q = 0) then d.landMiss c l.owner
        else
          let d := (d.count (Pg.qeng c) 0xF 0).ptrCheck q
          if input then d.landBody c p q x
          else if l.flit.fromQ = q + 1 then
            -- from the queue's own body into its head
            if (d.qHead q).length < 4 then d.setHead q (d.qHead q ++ [x]) else (d.qSub q 1).qOverrun q
          else if d.qFull q ∨ 4 ≤ (d.qHead q).length then d.qOverrun q
          else (d.qAdd q 1).setHead q (d.qHead q ++ [x])

/-- The body of `q` has room for one more item (R102). -/
def Dev.bodyRoom (d : Dev) (q : Nat) : Bool := d.qMode q == 1 || decide ((d.qBody q).length < perEntry (d.qNet q) * d.qSize q)

/-- First word of the body entry that the next item of `q` is written to. -/
def Dev.bodyWord (d : Dev) (q : Nat) : Nat :=
  4 * (if d.qMode q = 1 then d.lbEntry (d.lbMain q) else (d.bodyAddr q (d.bodyNext q)).1 / 32)

/-! ### Requests on the ports of a B tile (R206 to R210) -/

/-- What a request on a port of a B tile does when it is performed. -/
inductive BAct where
  /-- the oldest item of landing input `p` is written to its body -/
  | land (p : Nat)
  /-- the next output flit of the transposer of port `p` is written -/
  | trans (p : Nat)
  /-- the `i`-th offered body read -/
  | read (i : Nat)
  /-- the `i`-th rescale read -/
  | rescale (i : Nat)
  /-- the next entry of the packet that the bulk port serves -/
  | bulk
  deriving DecidableEq, Repr

/-- A request: port, order within the port (lower first), words. -/
structure BReq where
  port : Nat
  ord : Nat
  word : Nat
  n : Nat
  act : BAct
  deriving DecidableEq, Repr

/-- Banks of words `w` to `w+n−1`. -/
def banksOf (w n : Nat) : List Nat := (List.range n).map (fun i => bankOf (w + i))

/-- Of `n` words from `w`, those before the first repeated bank (R208). -/
def bankRun (w n : Nat) : Nat := ((List.range n).find? (fun i => (banksOf w i).contains (bankOf (w + i)))).getD n

/-- The body write of landing input `p` of core `c`, when one stands on tile `b` in this cycle. An item of a held domain waits, and so does
one whose body has no room (R52, R102). -/
def Dev.landReq (d : Dev) (c b p : Nat) : List BReq :=
  match Tab.get d.qs.land (64 * c + p) [] with
  | [] => []
  | x :: _ =>
    if x.at_ < d.cycle ∧ d.mem.used.contains (2048 + 64 * c + p) = false ∧ d.qTile x.q = b ∧ d.held (d.qDom x.q) = false ∧
        d.fenced c = false ∧ d.bodyRoom x.q = true then
      [⟨chanOfInput p, if p = 58 then 3 else 2, d.bodyWord x.q, 4, .land p⟩]
    else []

/-- The next write of the transposer of input `p`, on the landing input's port; it goes before the landing write of that port
(R225; DESIGN CHOICE, log 145). -/
def Dev.transReq (d : Dev) (c b p : Nat) : List BReq :=
  match Tab.get d.qs.trOut (2 * c + (p - 28)) [] with
  | [] => []
  | x :: _ =>
    if x.at_ < d.cycle ∧ d.qTile x.q = b ∧ d.held (d.qDom x.q) = false ∧ d.fenced c = false ∧ d.bodyRoom x.q = true then
      [⟨chanOfInput p, 0, d.bodyWord x.q, 4, .trans p⟩]
    else []

/-- Word of the entry that a bulk service accesses next on its tile; none while it waits for room in a body (R217). -/
def Dev.bulkWord (d : Dev) (s : Bulk) : Option Nat :=
  if s.kind = 2 then
    (if d.qFull s.q then none else if d.bodyRoom s.q then some (d.bodyWord s.q) else none)
  else if s.kind = 5 then some ((d.bodyAddr s.q s.addr).1 / 32 * 4)
  else some (s.addr / 8)

/-- The requests that stand on the ports of B tile `b` of core `c` in this cycle, in the order of R207 within each port. -/
def Dev.btReqs (d : Dev) (c b : Nat) : List BReq :=
  let reads := d.qs.reads.zipIdx.filterMap (fun r =>
    if r.1.core = c ∧ r.1.done = false ∧ d.qTile r.1.q = b ∧ d.held (d.qDom r.1.q) = false ∧ d.fenced c = false then
      some ⟨min r.1.src 2, 8 + r.2, r.1.word, 4, .read r.2⟩ else none)
  let firsts := d.mem.rsq.zipIdx.filter (fun r => r.1.core == c && r.1.tile == b &&
    !(d.mem.rsq.take r.2).any (fun e => e.core == c && e.unit == r.1.unit && e.tile == b))
  let rescales := firsts.filterMap (fun r =>
    if r.1.since < d.cycle ∧ d.fenced c = false ∧ (match d.coreDom c with | some m => d.held m | none => false) = false then
      some ⟨3, r.1.unit, r.1.word, bankRun r.1.word (if r.1.acc = 0 then min 4 r.1.left else r.1.acc), .rescale r.2⟩ else none)
  let bulk := match Tab.get d.mem.bulk c none with
    | some s => if s.tile = b then (match d.bulkWord s with | some w => [⟨3, 64, w, 4, .bulk⟩] | none => []) else []
    | none => []
  d.transReq c b 28 ++ d.transReq c b 29 ++ d.landReq c b 28 ++ d.landReq c b 29 ++ d.landReq c b 48 ++ d.landReq c b 58 ++
    reads ++ rescales ++ bulk

/-- Port `p` of tile `t` was used in this cycle. -/
def Dev.bUsed (d : Dev) (t p : Nat) : Bool := d.mem.buse.any (fun e => e.1 == t && e.2.1 == p)

/-- The request is the first of its port (R207). -/
def BReq.first (r : BReq) (reqs : List BReq) : Bool := reqs.all (fun x => x.port != r.port || decide (r.ord ≤ x.ord))

/-- A lower-numbered port touches one of the banks in this cycle: with the access it performed, or with its first request (R208). -/
def Dev.bConflict (d : Dev) (t : Nat) (reqs : List BReq) (port : Nat) (banks : List Nat) : Bool :=
  d.mem.buse.any (fun e => e.1 == t && decide (e.2.1 < port) && e.2.2.any (fun k => banks.contains k)) ||
    reqs.any (fun x => decide (x.port < port) && !d.bUsed t x.port && x.first reqs && (banksOf x.word x.n).any (fun k => banks.contains k))

/-- The request is performed in this cycle. -/
def Dev.bGrant (d : Dev) (t : Nat) (reqs : List BReq) (r : BReq) : Bool :=
  !d.bUsed t r.port && r.first reqs && !d.bConflict t reqs r.port (banksOf r.word r.n)

/-- Account for an access performed on port `p` (Table 7.11, event 0). -/
def Dev.bTake (d : Dev) (c b p : Nat) (banks : List Nat) : Dev :=
  ({ d with mem := { d.mem with buse := (4 * c + b, p, banks) :: d.mem.buse } } : Dev).count (Pg.btile c b) 0x3F (16 * p)

/-- BODY_WRITE: the oldest item of the landing buffer of input `p` is written to its body when the body has room and the access is
performed in this cycle; otherwise it waits (R102, R208). Its request stands from the cycle after the landing whether or not the command
comes in that cycle (DESIGN CHOICE, log 145). -/
def Dev.bodyWrite (d : Dev) (c p : Nat) : Dev :=
  match Tab.get d.qs.land (64 * c + p) [] with
  | [] => d
  | x :: rest =>
    let b := d.qTile x.q
    match d.landReq c b p with
    | [] => d
    | r :: _ =>
      if !d.bGrant (4 * c + b) (d.btReqs c b) r then d
      else
        let d1 := d.bTake c b r.port (banksOf r.word r.n)
        let d2 : Dev := { d1 with
          qs := { d1.qs with land := Tab.set d1.qs.land (64 * c + p) rest [] }
          mem := { d1.mem with used := (2048 + 64 * c + p) :: d1.mem.used } }
        if d2.qMode x.q = 1 then d2.lbPut (d2.lbMain x.q) r.port x.item else d2.bodyPut x.q r.port x.item (d2.cycle + 2)

/-! ### The scrubber (R216) -/

/-- Port 3 has no other request on the tile in this cycle, and its banks are free (R210, R216). -/
def Dev.scrubTurn (d : Dev) (c b w n : Nat) : Bool :=
  let t := 4 * c + b
  let reqs := d.btReqs c b
  !d.bUsed t 3 && !reqs.any (fun r => r.port == 3) && !d.bConflict t reqs 3 (banksOf w n)

/-- fa cycles between two scrub accesses: SCRUB_PERIOD ÷ 32,768. -/
def Dev.scrubGap (d : Dev) (c b : Nat) : Nat := usCycles (1000 * max 1 (d.rd (Pg.btile c b) Reg.BTILE.SCRUB_PERIOD)) / 32768

/-- A scrub access of the tile is due (R216, R239). -/
def Dev.scrubDueNow (d : Dev) (c b : Nat) : Bool :=
  let pg := Pg.btile c b
  d.flag pg Reg.BTILE.SCRUB_EN && !d.flag pg Reg.HDR.QUIESCE && d.flag pg Reg.HDR.READY && decide (Tab.get d.mem.scrubDue (4 * c + b) 0 ≤ d.cycle)

/-- One scrub access of 4 words (R216), due once an interval: reads, counts, remembers the corrected words for the write-back. -/
def Dev.btScrub (d : Dev) (c b : Nat) : Dev :=
  let pg := Pg.btile c b
  let t := 4 * c + b
  let due := Tab.get d.mem.scrubDue t 0
  let w0 := Tab.get d.mem.bscrub t 0
  if !d.scrubDueNow c b || !d.scrubTurn c b w0 4 then d
  else
    let d0 := (({ d with mem := { d.mem with
        bscrub := Tab.set d.mem.bscrub t ((w0 + 4) % 0x20000) 0
        scrubDue := Tab.set d.mem.scrubDue t ((if due = 0 then d.cycle else due) + d.scrubGap c b) 0 } } : Dev).bTake c b 3 (banksOf w0 4)).count pg 0xF 4
    let (hit, d1) := (List.range 4).foldl (fun (acc : Bool × Dev) i =>
      let w := w0 + i
      let d := acc.2
      match eccDecode d (Tab.get d.mem.berr (t * 0x20000 + w) 0) (d.bRaw c b w) with
      | (.clean, _, d1) => (acc.1, d1)
      | (.corrected, _, d1) =>
        let d2 := d1.bump pg Reg.BTILE.BT_CORR
        (true, { d2 with mem := { d2.mem with bscrubWb := d2.mem.bscrubWb ++ [(t, w)] } })
      | (.uncorrectable, _, d1) => (acc.1, d1.bUe c b w true .none_)) (false, d0)
    if hit then d1.count pg 0xF 3 else d1

/-- Write the oldest corrected word back in an idle cycle of port 3 (R216). -/
def Dev.btScrubWriteback (d : Dev) (c b : Nat) : Dev :=
  let t := 4 * c + b
  match d.mem.bscrubWb.find? (fun e => e.1 == t) with
  | none => d
  | some e =>
    if !d.scrubTurn c b e.2 1 then d
    else
      (({ d with mem := { d.mem with
          berr := Tab.set d.mem.berr (t * 0x20000 + e.2) 0 0
          bscrubWb := d.mem.bscrubWb.erase e } } : Dev).bTake c b 3 (banksOf e.2 1)).count (Pg.btile c b) 0xF 5

/-! ### Presentation (R102, R104, R221, R226) -/

/-- The head slot has room for a presentation, or the queue-engine counter holds a credit (R102). -/
def Dev.presentRoom (d : Dev) (q : Nat) : Bool :=
  if d.flag (Pg.queue q) Reg.FQ.OUT_CRED then d.creditOk (qCore q) 12 (d.rd (Pg.queue q) Reg.FQ.OUT_CNT) 1
  else decide ((d.qHead q).length + d.headComing q < 4)

/-- The reads offered for `q` after one of its presentations: the read of the item presented is used up (R102). -/
def readsAfter (q : Nat) (l : List PRead) : List PRead :=
  l.filterMap (fun r => if r.q ≠ q then some r else if r.ahead = 0 then none else some { r with ahead := r.ahead - 1 })

/-- Account for one presentation of `q` (R104). -/
def Dev.presented (d : Dev) (q : Nat) : Dev :=
  let d0 := (d.count (Pg.qeng (qCore q)) 0xF 1).ptrCheck q
  let d1 : Dev := { d0 with qs := { d0.qs with reads := readsAfter q d0.qs.reads } }
  if d.flag (Pg.queue q) Reg.FQ.OUT_CRED then
    let d2 := d1.creditTake (qCore q) 12 (d.rd (Pg.queue q) Reg.FQ.OUT_CNT) 1
    if d.qMode q = 1 ∨ d.qMode q = 3 then d2 else (d2.qSub q 1).freeItems q 1
  else d1

/-- A presentation trick that passes unused (R80, R124). -/
def Dev.presentUnused (d : Dev) (q : Nat) (emptyBody : Bool) : Option Flit × Dev :=
  let c := qCore q
  let d1 := d.count (Pg.qeng c) 0xF 5
  (none, if emptyBody then d1.oncePerCycle (64 + c) (Pg.qeng c) Reg.HDR.STALL_IN else d1)

/-- The body read of the item that `q` presents next was offered, and its data have not come by this trick (R102). An item for which no read
was offered was written too recently, and is forwarded. -/
def Dev.readLate (d : Dev) (q : Nat) : Bool :=
  d.qs.reads.any (fun r => r.q == q && r.ahead == 0 && (!r.done || decide (Tab.get d.hold.dcyc (d.qDom q) 0 < r.due)))

/-- Number, among the items of the body's order, of the item `k` places behind the oldest one of a FIFO-like body. -/
def Dev.bodyIndex (d : Dev) (q k : Nat) : Nat :=
  let total := perEntry (d.qNet q) * d.qSize q
  (d.bodyNext q + total - (d.qBody q).length + k) % max 1 total

/-- Byte address and length of item `n` of a replay body (R226). -/
def Dev.rpAddr (d : Dev) (q n : Nat) : Nat × Nat :=
  let k := perEntry (d.qNet q)
  (32 * (d.qBase q + n / k) + 32 / k * (n % k), 32 / k)

/-- First word of the entry that holds the item which `q` presents after `k` others; none: no body read is needed or possible. -/
def Dev.presentWord (d : Dev) (q k : Nat) : Option Nat :=
  if !d.qEn q || d.qSize q == 0 then none
  else match d.qMode q with
    | 1 => (match d.lbNext q k with
      | some (some (n, e)) => if n < (d.lbGet (d.lbMain q)).landed then some (4 * e) else none
      | _ => none)
    | 3 => some ((d.rpAddr q ((Tab.get d.qs.rpPos q 0 + k) % max 1 (d.rpItems q))).1 / 32 * 4)
    | 4 => none
    | _ => if k < (d.qBody q).length then some ((d.bodyAddr q (d.bodyIndex q k)).1 / 32 * 4) else none

/-- Source `s` of the queue engine presents the oldest item of `q` (R102). -/
def Dev.presentItem (d : Dev) (q s : Nat) : Option Flit × Dev :=
  let c := qCore q
  let port := min s 2
  if !d.qEn q || d.qSize q == 0 || !d.presentRoom q then d.presentUnused q false
  else
    let mk (x : Item) : Flit := ⟨x, d.qDom q, false, q + 1⟩
    match d.qMode q with
    | 1 =>
      match d.lbNext q 0 with
      | none => d.presentUnused q true
      | some none =>
        (some (mk (d.lbPad (d.lbBmd q))), ((d.presented q).lbAdvance q).count (Pg.btile c (d.qTile q)) 0xF 9)
      | some (some (n, e)) =>
        if (d.lbGet (d.lbMain q)).landed ≤ n then d.presentUnused q true
        else if d.lbReady q ≤ n ∨ d.readLate q = true then d.presentUnused q false
        else
          let (v, p, d2) := d.bodyRead q port (32 * e) 32
          let side := Tab.get (d2.lbGet (d2.lbMain q)).side e Item.zero
          (some (mk { side with data := BitVec.ofNat 256 v, poison := side.poison || p }), (d2.presented q).lbAdvance q)
    | 3 =>
      if d.readLate q then d.presentUnused q false
      else
        let n := Tab.get d.qs.rpPos q 0
        let (a, w) := d.rpAddr q n
        let (v, p, d2) := d.bodyRead q port a w
        let stamp := match d.bmdOf q with | none => false | some i => bitAt (d.rd (d.qBmd q i) Reg.BMD.MODEARG) 16
        let cnt := Tab.get d.qs.rpStamp q 0
        let v1 := if stamp && d.qNet q == 1 then setBits v 8 4 (cnt % 16) else v
        let x : Item := ⟨BitVec.ofNat 256 v1, true, p, 0, if stamp && d.qNet q == 0 then BitVec.ofNat 4 cnt else 0, false⟩
        let d3 := d2.presented q
        (some (mk x), { d3 with qs := { d3.qs with
          rpPos := Tab.set d3.qs.rpPos q ((n + 1) % d.rpItems q) 0,
          rpStamp := Tab.set d3.qs.rpStamp q ((cnt + 1) % 16) 0 } })
    | 4 => d.presentUnused q false
    | _ =>
      match d.qBody q with
      | [] => d.presentUnused q true
      | b :: rest =>
        if d.cycle < b.at_ ∨ d.readLate q = true then d.presentUnused q false
        else
          let (a, w) := d.bodyAddr q (d.bodyIndex q 0)
          let (v, p, d2) := d.bodyRead q port a w
          let x := { b.item with data := BitVec.ofNat 256 v, poison := b.item.poison || p }
          (some (mk x), ((d2.setBody q rest).presented q).poisonSeen (Pg.qeng c) x.poison)

/-- A credit word for `q` (R104). -/
def Dev.presentCredit (d : Dev) (q : Nat) : Option Flit × Dev :=
  let n := min (Tab.get d.qs.uncred q 0) 0xFFFFF
  if n = 0 then d.presentUnused q false
  else
    let a := Pg.queue q
    let d1 : Dev := { d with qs := { d.qs with uncred := Tab.set d.qs.uncred q (Tab.get d.qs.uncred q 0 - n) 0 } }
    (some ⟨creditWord (d.rd a Reg.FQ.PROD_CNT) (d.rd a Reg.FQ.PROD_UNIT) n, d.qDom q, false, 0⟩,
      d1.count (Pg.qeng (qCore q)) 0xF 2)

/-- What source `s` (0 OUT0, 1 OUT1, 2 SOUT, 3 COUT) of the queue engine of core `c` presents in trick `t` (R101, R104): an item only while the
domain runs (DEDUCED, log 161). -/
def Dev.present (d : Dev) (c s t : Nat) : Option Flit × Dev :=
  let sel := Bank.port c (60 + s)
  let e := Tab.get d.fab.lt (d.bankKey sel sel t false) 0
  let q := entryQueue c e
  if !bitAt e 12 || decide (1920 ≤ e % 2048) then (none, d)
  else if bitAt e 11 then (if s = 2 then d.presentCredit q else (none, d.count (Pg.qeng c) 0xF 5))
  else if d.running (d.qDom q) then d.presentItem q s
  else (none, d)

/-- The presentation entry of source `s` of core `c` in trick `t` names this queue, and is no credit entry. -/
def Dev.presents (d : Dev) (c s t : Nat) : Option Nat :=
  let sel := Bank.port c (60 + s)
  let e := Tab.get d.fab.lt (d.bankKey sel sel t false) 0
  if bitAt e 12 && !bitAt e 11 && decide (e % 2048 < 1920) then some (entryQueue c e) else none

/-- The body reads that the sources of core `c` of domain `m` offer in the next cycle for the tricks 3 cycles later (R102): source `s` reads
the item that its queue will present there after the presentations that the tables hold before it, unless a read of that item stands already
(DEDUCED, log 28). -/
def Dev.newReads (d : Dev) (c m : Nat) : List PRead :=
  let t := d.trickOf c m
  let round := d.rd (Pg.xnode c) Reg.XNODE.ROUND_M1 m + 1
  (List.range 4).filterMap (fun s =>
    match d.presents c s ((t + 3) % round) with
    | none => none
    | some q =>
      let k := ((List.range 12).filter (fun i => d.presents c (i % 4) ((t + i / 4) % round) == some q)).length
      if d.running (d.qDom q) = false ∨ d.qs.reads.any (fun r => r.q == q && r.ahead == k) = true then none
      else (d.presentWord q k).map (fun w => ⟨c, s, q, Tab.get d.hold.dcyc (d.qDom q) 0 + 3, w, false, k⟩))

/-- The reads for the tricks 3 cycles ahead are offered. -/
def Dev.tickReads (d : Dev) : Dev :=
  let new := (List.range 32).flatMap (fun c =>
    match d.coreDom c with
    | some m => if d.frozen m || d.fenced c then [] else d.newReads c m
    | none => [])
  { d with qs := { d.qs with reads := d.qs.reads ++ new } }
/-! ### Emptying (R298, R323, R226) -/

/-- The line buffer of a queue starts again at the first descriptor of its chain with no row landed (R224). -/
def Dev.lbRestart (d : Dev) (q : Nat) : Dev :=
  { d with qs := { d.qs with lb := Tab.set d.qs.lb q LbSt.zero LbSt.zero } }

/-- Empty a fabric queue: head, body, landing places, counts (Table 9.9). -/
def Dev.emptyQueue (d : Dev) (q : Nat) : Dev :=
  let d1 := ((d.wr (Pg.queue q) Reg.FQ.COUNT 0).setUpset (Upset.ptr q) 0).lbRestart q
  { d1 with
    qs := { d1.qs with
      head := Tab.set d1.qs.head q [] []
      body := Tab.set d1.qs.body q [] []
      wIdx := Tab.set d1.qs.wIdx q 0 0
      uncred := Tab.set d1.qs.uncred q 0 0
      rpPos := Tab.set d1.qs.rpPos q 0 0
      rpStamp := Tab.set d1.qs.rpStamp q 0 0
      spSent := Tab.set d1.qs.spSent q 0 0
      spWait := Tab.set d1.qs.spWait q [] []
      winW := Tab.set d1.qs.winW q 0 0
      winWData := Tab.set d1.qs.winWData q 0 0
      winR := Tab.set d1.qs.winR q 0 0
      land := d1.qs.land.filterMap (fun e =>
        let l := e.2.filter (fun b => b.q != q)
        if l = [] then none else some (e.1, l))
      trGrp := d1.qs.trGrp.filter (fun e => match e.2 with | some (q0, _) => q0 != q | none => false)
      trOut := d1.qs.trOut.filterMap (fun e =>
        let l := e.2.filter (fun b => b.q != q)
        if l = [] then none else some (e.1, l))
      pushWait := Tab.set d1.qs.pushWait q [] []
      reads := d1.qs.reads.filter (fun r => r.q != q) }
    mem := { d1.mem with bulk := d1.mem.bulk.filter (fun e => match e.2 with | some s => s.kind != 5 || s.q != q | none => false) } }

end Sys2Proof.Machine
end

