-- ==== Sys2Proof/Machine/Tile.lean ====
section
/-!
DEFINITION. What the sequencers of M and V tiles share (R34 to R39, R158, R171): fetching a step, the firing rule, loops, taking
items cycle by cycle, putting items. Unit u of a core is 0 to 9 for M0 to M9, 10 and 11 for V0 and V1.
-/

namespace Sys2Proof.Machine

/-! ### Registers that both tiles have -/

def isM (u : Nat) : Bool := decide (u < 10)
def tilePg (c u : Nat) : Nat := if isM u then Pg.mtile c u else Pg.vtile c (u - 10)
def fPC (u : Nat) : Fld := if isM u then Reg.MTILE.PC else Reg.VTILE.PC
def fLen (u : Nat) : Fld := if isM u then Reg.MTILE.PROG_LEN_M1 else Reg.VTILE.PROG_LEN_M1
def fDepth (u : Nat) : Fld := if isM u then Reg.MTILE.LOOP_DEPTH else Reg.VTILE.LOOP_DEPTH

/-- Cause bits of the two pages (Tables 5.11, 6.17). -/
def bitIllegal (u : Nat) : Nat := if isM u then 3 else 4

/-- Events of Tables 5.12 and 6.18: steps issued, item put, placeholder put, wait. -/
def evStep (u : Nat) : Nat := if isM u then 1 else 2
def evPut (u : Nat) : Nat := if isM u then 4 else 3
def evPh (u : Nat) : Nat := if isM u then 5 else 4
def evWait (u : Nat) : Nat := if isM u then 7 else 9

/-! ### State of a tile -/

def Dev.mtGet (d : Dev) (c m : Nat) : MTile := Tab.get d.tl.mt (10 * c + m) MTile.zero
def Dev.mtSet (d : Dev) (c m : Nat) (x : MTile) : Dev := { d with tl := { d.tl with mt := Tab.set d.tl.mt (10 * c + m) x MTile.zero } }
def Dev.vtGet (d : Dev) (c v : Nat) : VTile := Tab.get d.tl.vt (2 * c + v) VTile.zero
def Dev.vtSet (d : Dev) (c v : Nat) (x : VTile) : Dev := { d with tl := { d.tl with vt := Tab.set d.tl.vt (2 * c + v) x VTile.zero } }

def Dev.sqGet (d : Dev) (c u : Nat) : Sqr := if isM u then (d.mtGet c u).sq else (d.vtGet c (u - 10)).sq
def Dev.sqSet (d : Dev) (c u : Nat) (s : Sqr) : Dev :=
  if isM u then d.mtSet c u { d.mtGet c u with sq := s } else d.vtSet c (u - 10) { d.vtGet c (u - 10) with sq := s }

/-- Domain cycle of domain `m` (R161, R178). -/
def Dev.dcyc (d : Dev) (m : Nat) : Nat := Tab.get d.hold.dcyc m 0

/-- Instruction `i` of the active program bank. -/
def Dev.instrAt (d : Dev) (c u i : Nat) : Nat :=
  Tab.get d.tl.prog (((16 * c + u) * 2 + d.bank (Bank.tile c u)) * 512 + i) 0

/-- Word `w` of descriptor `i`, active bank. -/
def Dev.descWord (d : Dev) (c u i w : Nat) : Nat :=
  Tab.get d.tl.desc (((16 * c + u) * 2 + d.bank (Bank.tile c u)) * 32 + 2 * i + w) 0

/-- The instruction at `i` of the active program, or a word of the active descriptors, holds a parity error (Tables 5.11, 6.17). -/
def Dev.seqUpset (d : Dev) (c u i : Nat) : Option Nat :=
  let b := (16 * c + u) * 2 + d.bank (Bank.tile c u)
  (Upset.prog (b * 512 + i) :: (List.range 32).map (fun w => Upset.desc (b * 32 + w))).find? (fun k => d.upsetAt k != 0)

/-- The equaliser of latency entry `i` of domain `m` (R162, R200, EQ_LO and EQ_HI). -/
def Dev.equaliser (d : Dev) (m i : Nat) : Nat :=
  bitsOf (d.rd (Pg.ldom m) Reg.LDOM.EQ_LO + 2 ^ 32 * d.rd (Pg.ldom m) Reg.LDOM.EQ_HI) (4 * i) 4

/-! ### Issue -/

/-- The domain for which a tile can act in this cycle: its core's domain, RUNNING or DRAINING, unheld, and the core not fenced
(R36, R48). -/
def Dev.tileDom (d : Dev) (c : Nat) : Option Nat :=
  match d.coreDom c with
  | none => none
  | some m => if d.running m && !d.held m && !d.fenced c then some m else none

/-- What the sequencer makes of the instruction at its PC. -/
inductive Plan where
  /-- it raises ILLEGAL_OP with this ILL_REASON -/
  | bad (reason : Nat)
  /-- it waits for an earlier step (R160, R177); nothing counts -/
  | wait
  /-- it takes these counts (port, slot, items), puts through this output and credit counter, and the next step issues no earlier
  than this many cycles later -/
  | go (takes : List (Nat × Nat × Nat)) (put : Option (Nat × Nat)) (interval : Nat)
  deriving DecidableEq, Repr

/-- Output port of the switch node that leads to input port `p` of unit `u` (Table 3.4). -/
def inPort (u p : Nat) : Nat :=
  if isM u then (if p < 2 then 4 + 2 * u + p else 36 + u)
  else if p < 2 then 24 + 2 * (u - 10) + p else if p = 2 then 46 + (u - 10) else 56 + (u - 10)

/-- Key of the output FIFO of unit `u`, output `o` (0 VO or VO0, 1 VO1, 2 SO, 3 CO): 128·node + 32·network + source. -/
def outKey (c u o : Nat) : Nat :=
  128 * c + (if isM u then 4 + u else if o < 2 then 14 + 2 * (u - 10) + o else if o = 2 then 32 + 4 + (u - 10) else 64 + 4 + (u - 10))

/-- ILLEGAL_OP (R158, R171): the reason is recorded and the sequencer stays at the step. -/
def Dev.illegal (d : Dev) (c u m reason : Nat) : Dev :=
  let pg := tilePg c u
  let d1 := d.sqSet c u { d.sqGet c u with stuck := true }
  let d2 :=
    if isM u then
      (if d1.flag pg Reg.MTILE.ILL_VALID then d1
       else ((d1.wr pg Reg.MTILE.ILL_ADDR (d1.rd pg Reg.MTILE.PC)).wr pg Reg.MTILE.ILL_REASON reason).hit pg Reg.MTILE.ILL_VALID)
    else if d1.flag pg Reg.VTILE.ILL_VALID then d1
    else ((d1.wr pg Reg.VTILE.ILL_ADDR (d1.rd pg Reg.VTILE.PC)).wr pg Reg.VTILE.ILL_REASON reason).hit pg Reg.VTILE.ILL_VALID
  d2.raise pg (bitIllegal u) (.unit m c)

/-- PC after the step at `a` (R158): the return to the top of a loop body takes no cycle. -/
def nextPc (a len : Nat) (loops : List (Nat × Nat × Nat)) : Nat × List (Nat × Nat × Nat) :=
  match loops with
  | [] => ((a + 1) % len, [])
  | (top, e, n) :: r =>
    if a = e then (if 1 < n then (top, (top, e, n - 1) :: r) else nextPc a len r)
    else ((a + 1) % len, (top, e, n) :: r)

/-- Advance PC past the step just issued. -/
def Dev.advancePc (d : Dev) (c u : Nat) : Dev :=
  let pg := tilePg c u
  let s := d.sqGet c u
  let (pc, l) := nextPc (d.rd pg (fPC u)) (d.rd pg (fLen u) + 1) s.loops
  ((d.sqSet c u { s with loops := l }).wr pg (fPC u) pc).wr pg (fDepth u) l.length

/-- Input condition of R36 and R450 for one take. -/
def Dev.headHolds (d : Dev) (c u : Nat) (t : Nat × Nat × Nat) : Bool :=
  t.2.2 == 0 ||
  (match d.queueAtHead c (inPort u t.1) t.2.1 with
    | some q => decide (min t.2.2 4 ≤ (d.qHead q).length)
    | none => false)

/-- A step waits for items of these queues in this cycle (R37, Table 4.3). -/
def Dev.stallQueues (d : Dev) (qs : List Nat) : Dev := d.each qs (fun d q => d.bump (Pg.queue q) Reg.FQ.Q_STALL_IN)

/-- The same, and the tile counts the cycle. -/
def Dev.stallOn (d : Dev) (pg : Nat) (qs : List Nat) : Dev := (d.bump pg Reg.HDR.STALL_IN).stallQueues qs

/-- Merge the counts that one step takes from one slot. -/
def mergeTakes (l : List (Nat × Nat × Nat)) : List (Nat × Nat × Nat) :=
  l.foldl (fun acc t =>
    if acc.any (fun a => a.1 == t.1 && a.2.1 == t.2.1) then
      acc.map (fun a => if a.1 = t.1 ∧ a.2.1 = t.2.1 then (a.1, a.2.1, a.2.2 + t.2.2) else a)
    else acc ++ [t]) []

/-- A tile of the domain issued a step in this cycle (R327). -/
def Dev.markStepped (d : Dev) (m : Nat) : Dev := { d with hold := { d.hold with stepped := Tab.set d.hold.stepped m true false } }

/-- One attempt to issue the step at PC when its opcode is `op` (R36 to R38, R158). Answers whether it issued, the instruction and
its domain; an issued step's PC, interval and put credit are accounted for. A cycle in which the interval of the step before has not
elapsed counts in neither STALL counter (DESIGN CHOICE, log 135). -/
def Dev.tryIssue (d : Dev) (c u op opMax : Nat) (plan : Dev → Nat → Nat → Plan) : Option (Nat × Nat × List (Nat × Nat × Nat)) × Dev :=
  let pg := tilePg c u
  let s := d.sqGet c u
  match d.tileDom c with
  | none => (none, d)
  | some m =>
    let iw := d.instrAt c u (d.rd pg (fPC u))
    let o := bitsOf iw 58 6
    if s.stuck || decide (s.tried = d.cycle + 1) || decide (d.dcyc m < s.readyAt) || d.flag pg Reg.HDR.QUIESCE || (isM u && !s.runs.isEmpty) then
      (none, d)
    else if let some k := d.seqUpset c u (d.rd pg (fPC u)) then
      (none, (d.sqSet c u { s with tried := d.cycle + 1 }).upsetFound k pg 7 [.core c])
    else if opMax < o then (none, (d.sqSet c u { s with tried := d.cycle + 1 }).illegal c u m 0)
    else if o ≠ op then (none, d)
    else
      let d0 := d.sqSet c u { s with tried := d.cycle + 1 }
      match plan d iw m with
      | .bad r => (none, d0.illegal c u m r)
      | .wait => (none, d0)
      | .go takes put interval =>
        if !(mergeTakes takes).all (fun t => d.headHolds c u t) then
          (none, d0.stallOn pg ((mergeTakes takes).filterMap (fun t => if d.headHolds c u t then none else d.queueAtHead c (inPort u t.1) t.2.1)))
        else
          let full := match put with
            | some (key, cnt) => !d.creditOk c u cnt 1 || decide (4 ≤ (Tab.get d.fab.outp key []).length)
            | none => false
          if full then (none, d0.bump pg Reg.HDR.STALL_OUT)
          else
            let d1 := match put with | some (_, cnt) => d0.creditTake c u cnt 1 | none => d0
            let d2 := d1.sqSet c u { d1.sqGet c u with readyAt := d.dcyc m + interval }
            let d3 := ((d2.advancePc c u).count pg 0xF (evStep u)).markStepped m
            (some (iw, m, takes), d3)

/-- Put an item at an output, where it completes `lat` cycles later (R38, R93). -/
def Dev.putOut (d : Dev) (c u o lat : Nat) (x : Item) : Dev :=
  let k := outKey c u o
  let d1 : Dev := { d with fab := { d.fab with outp := Tab.set d.fab.outp k (Tab.get d.fab.outp k [] ++ [⟨x, d.cycle + lat, false⟩]) [] } }
  d1.count (tilePg c u) 0xF (if x.valid then evPut u else evPh u)

/-! ### Loops and other control steps -/

/-- LOOP (R158, R171). -/
def Dev.stepLoop (d : Dev) (c u opMax endBits : Nat) : Dev :=
  let pg := tilePg c u
  let a := d.rd pg (fPC u)
  let s := d.sqGet c u
  let plan (_ : Dev) (iw _m : Nat) : Plan :=
    let e := bitsOf iw 0 endBits
    if bitsOf iw 48 10 ≠ 0 ∨ bitsOf iw endBits (32 - endBits) ≠ 0 then .bad 1
    else if bitsOf iw 32 16 = 0 ∨ e ≤ a ∨ d.rd pg (fLen u) < e ∨ 4 ≤ s.loops.length ∨
        (match s.loops with | (_, e0, _) :: _ => decide (e0 < e) | [] => false) = true then .bad 2
    else .go [] none 1
  match d.tryIssue c u 1 opMax plan with
  | (none, d1) => d1
  | (some (iw, _, _), d1) =>
    let l := (a + 1, bitsOf iw 0 endBits, bitsOf iw 32 16) :: s.loops
    ((d1.sqSet c u { d1.sqGet c u with loops := l }).wr pg (fPC u) (a + 1)).wr pg (fDepth u) l.length

/-- NOP (R159, Table 6.6). -/
def Dev.stepNop (d : Dev) (c u opMax : Nat) : Dev :=
  (d.tryIssue c u 0 opMax (fun _ iw _ => if iw ≠ 0 then .bad 1 else .go [] none 1)).2

/-! ### Taking items -/

/-- Begin the take phase of an issued step. -/
def Dev.beginRun (d : Dev) (c u pc : Nat) (iw m : Nat) (takes : List (Nat × Nat × Nat)) : Dev :=
  let segs := takes.filterMap (fun t =>
    if t.2.2 = 0 then none else (d.queueAtHead c (inPort u t.1) t.2.1).map (fun q => (⟨t.1, q, t.2.2, []⟩ : Seg)))
  let s := d.sqGet c u
  d.sqSet c u { s with runs := s.runs ++ [⟨bitsOf iw 58 6, iw, pc, d.dcyc m, segs, 0, 0, d.dcyc m, false⟩] }

/-- Take one item for the first unfinished segment of port `p`, when it is in the head: the segments, whether an item was
missing. -/
def Dev.takeFrom (d : Dev) (pg p : Nat) (segs : List Seg) : List Seg × Bool × Dev :=
  match segs with
  | [] => ([], false, d)
  | s :: r =>
    if s.port = p ∧ 0 < s.left then
      match d.takeHead s.q with
      | (some x, d1) => ({ s with left := s.left - 1, got := s.got ++ [x] } :: r, false, d1.poisonSeen pg x.poison)
      | (none, d1) => (s :: r, true, d1)
    else
      let (r1, w, d1) := d.takeFrom pg p r
      (s :: r1, w, d1)

/-- The step has taken all its items. -/
def Run.taken (r : Run) : Bool := r.segs.all (fun s => s.left == 0)

/-- One cycle of the take phase of run `i` of a tile: one item per port, ports in use by earlier steps excepted (R142, R176). -/
def Dev.takeCycle (d : Dev) (c u m i : Nat) (waited : Bool := false) : Dev :=
  let pg := tilePg c u
  let s := d.sqGet c u
  match s.runs[i]? with
  | none => d
  | some r =>
    if r.acted = d.cycle + 1 ∨ r.taken then d
    else
      let busy (p : Nat) : Bool := (s.runs.take i).any (fun e => e.segs.any (fun g => g.port == p && g.left != 0)) ||
        Tab.get s.portUse p 0 == d.cycle + 1
      let (segs, miss, used, d1) := (List.range 4).foldl (fun (acc : List Seg × Bool × List Nat × Dev) p =>
        if acc.1.any (fun g => g.port == p && g.left != 0) && !busy p then
          let (sg, w, d2) := acc.2.2.2.takeFrom pg p acc.1
          (sg, acc.2.1 || w, if w then acc.2.2.1 else p :: acc.2.2.1, d2)
        else acc) (r.segs, false, [], d)
      let missQ := segs.filterMap (fun g => if g.left != 0 && (d.qHead g.q).isEmpty && !busy g.port then some g.q else none)
      let d2 := if !miss then d1 else if waited then d1.stallQueues missQ else (d1.stallOn pg missQ).count pg 0xF (evWait u)
      let s2 := d2.sqGet c u
      let r1 := { r with segs := segs, waits := r.waits + (if miss && !waited then 1 else 0), acted := d.cycle + 1, lastTake := d.dcyc m }
      d2.sqSet c u { s2 with
        runs := s2.runs.set i r1
        portUse := used.foldl (fun t p => Tab.set t p (d.cycle + 1) 0) s2.portUse }

/-- Remove run `i`. -/
def Dev.endRun (d : Dev) (c u i : Nat) : Dev :=
  let s := d.sqGet c u
  d.sqSet c u { s with runs := s.runs.eraseIdx i }

/-! ### Values -/

/-- `fmt_sat` (R156): format 0 is A8, 1 is A12. -/
def fmtSat (q : Int) (fmt : Nat) : Int := if fmt = 0 then satI q (-128) 127 else satI q (-2048) 2047

/-- Saturation to int32, and whether it changed the value. -/
def sat32 (x : Int) : Int := satI x (-0x80000000) 0x7FFFFFFF

/-- A rescale table entry (Table 5.5). -/
structure RsEntry where
  bias : Int
  mult : Int
  shift : Nat
  act : Nat
  ozp : Int
  lo : Int
  hi : Int
  deriving DecidableEq, Repr

def RsEntry.ofNat (x : Nat) : RsEntry :=
  ⟨sextN (bitsOf x 0 32) 32, sextN (bitsOf x 32 24) 24, bitsOf x 56 6, bitsOf x 62 2, sextN (bitsOf x 64 12) 12,
    sextN (bitsOf x 76 12) 12, sextN (bitsOf x 88 12) 12⟩

/-- `rescale` (R156). -/
def rescale (acc : Int) (e : RsEntry) (fmt : Nat) : Int :=
  let q := rshiftRound ((acc + e.bias) * e.mult) e.shift + e.ozp
  let lo := if e.act = 2 then -2048 else if e.act = 1 then max e.lo e.ozp else e.lo
  let hi := if e.act = 2 then 2047 else e.hi
  fmtSat (satI q lo hi) fmt

/-- Read rescale entry `k` of the table at word `base` of B tile `b` through port 3: the entry, whether it is poisoned, and whether a symbol was
corrected (R154, R211, R214). Its value is that of the cycle of the issue; the accesses on the port follow (DESIGN CHOICE, log 122). -/
def Dev.rsEntry (d : Dev) (c b m base k : Nat) : RsEntry × Bool × Bool × Dev :=
  let w := base + 2 * k
  if d.bInWindow c b 3 m w 2 then
    let (v, p, f, d1) := d.bReadRun c b w 2 (.unit m c)
    (RsEntry.ofNat v, p, f, d1)
  else (RsEntry.ofNat 0, true, false, d.bWindowMiss c b 3 m w 2)

/-- A step of unit `u` reads `n` rescale entries from entry `k` on through port 3 of B tile `b`, from the next cycle on (R154, R207); slots
`slot` to `slot+slots−1` wait for them. -/
def Dev.rsReads (d : Dev) (c u b base k n slot slots : Nat) : Dev :=
  if n = 0 then d
  else { d with mem := { d.mem with rsq := d.mem.rsq ++ [⟨c, u, b, d.cycle, base + 2 * k, 2 * n, 0, slot, slots⟩] } }

/-- Output width of R138. -/
def outWidth (iw pl pr dil kw s : Nat) : Int :=
  ((iw + pl + pr : Nat) - (dil * (kw - 1) : Nat) - 1 : Int) / (s : Int) + 1

/-- Input positions [xlo, xhi] that a step needs (R139). -/
def needed (iw pl dil kw s xf0 nx : Nat) (ow : Int) : Int × Int :=
  let oxf : Int := (32 * xf0 : Nat)
  let oxl : Int := min ((32 * (xf0 + nx) : Nat) - 1 : Int) (ow - 1)
  (max 0 ((s : Int) * oxf - pl), min ((iw : Int) - 1) ((s : Int) * oxl + (dil * (kw - 1) : Nat) - pl))

/-- Flits that hold positions [xlo, xhi] at `n` values per flit (R139). -/
def flitsOf (x : Int × Int) (n : Nat) : Nat :=
  if x.2 < x.1 then 0 else (x.2 / (n : Int) - x.1 / (n : Int) + 1).toNat

end Sys2Proof.Machine
end

