-- ==== Sys2Proof/Machine/MTile.lean ====
section
/-!
DEFINITION. The steps of the multiplier tiles (05_multiplier_tiles.md). A step that takes items acts over several cycles: the command
of its mnemonic issues it, and in each later cycle goes on with its takes; its arithmetic is done with its last take, and the
cycles of R142, R145, R147 and R159 say from when on later steps may see it.
-/

namespace Sys2Proof.Machine

/-! ### Descriptors (Table 5.10) -/

/-- A decoded M tile descriptor. -/
structure MDesc where
  iw : Nat
  kh : Nat
  kw : Nat
  s : Nat
  dil : Nat
  pl : Nat
  pr : Nat
  izp : Int
  ifmt : Nat
  wfmt : Nat
  ofmt : Nat
  bs : Bool
  ebias : Nat
  vzp : Int
  tlen : Nat
  rsTile : Nat
  rsBase : Nat
  bad : Bool
  deriving DecidableEq, Repr

def MDesc.ofWords (a b : Nat) : MDesc :=
  let str := bitsOf a 18 2
  let tlen := bitsOf b 0 13
  let base := bitsOf b 15 17
  { iw := bitsOf a 0 12 + 1, kh := bitsOf a 12 3 + 1, kw := bitsOf a 15 3 + 1, s := 2 ^ str, dil := bitsOf a 20 2 + 1,
    pl := bitsOf a 22 3, pr := bitsOf a 25 3, izp := sextN (bitsOf a 28 8) 8, ifmt := bitsOf a 36 2, wfmt := bitsOf a 38 2,
    ofmt := bitsOf a 40 1, bs := bitAt a 41, ebias := bitsOf a 42 8, vzp := sextN (bitsOf a 50 8) 8, tlen := tlen,
    rsTile := bitsOf b 13 2, rsBase := base,
    bad := decide (2047 < bitsOf a 0 12 ∨ bitsOf a 12 3 = 7 ∨ bitsOf a 15 3 = 7 ∨ str = 3 ∨ 1 < bitsOf a 36 2 ∨ bitsOf a 38 2 = 3 ∨
      bitsOf a 58 6 ≠ 0 ∨ tlen = 0 ∨ 4096 < tlen ∨ base % 2 = 1 ∨ 131072 < base + 2 * tlen ∨ bitsOf b 32 32 ≠ 0) }

def Dev.mDesc (d : Dev) (c m i : Nat) : MDesc := MDesc.ofWords (d.descWord c m i 0) (d.descWord c m i 1)

def MDesc.ow (x : MDesc) : Int := outWidth x.iw x.pl x.pr x.dil x.kw x.s

/-- Values per flit (Table 5.2). -/
def MDesc.n (x : MDesc) : Nat := if x.ifmt = 0 then 32 else 16

/-! ### The weight store (R132 to R137) -/

/-- Byte address of chunk `k` of half `h` in the weight stores. -/
def wsAddr (c m h k : Nat) : Nat := ((10 * c + m) * 2 + h) * 49152 + 16 * k

/-- One 64-bit word of a weight store: as the lanes use it, whether it is uncorrectable, and the symbols corrected (R137). -/
def Dev.wsWord (d : Dev) (wm : Memory) (a : Nat) : Nat × Bool × Nat × Dev :=
  let v := leNat (Memory.readList wm a 8 0)
  let pat := Tab.get d.tl.werr (a / 8) 0
  let n := symbolsIn 19 pat
  if n = 0 then (v, false, 0, d)
  else if n = 1 then (v, false, 1, d)
  else
    let (k, d1) := if n = 2 then (0, d) else d.choose 2
    if k = 0 then (Nat.xor v (pat % 2 ^ 64), true, 0, d1)
    else
      let (x, d2) := d1.free 64
      (Nat.xor v x, false, 1, d2)

/-- `n` consecutive words. -/
def Dev.wsWords (d : Dev) (wm : Memory) (a n : Nat) : Nat × Bool × Nat × Dev :=
  match n with
  | 0 => (0, false, 0, d)
  | n + 1 =>
    let (v, u, k, d1) := d.wsWord wm a
    let (r, u2, k2, d2) := d1.wsWords wm (a + 8) n
    (v + 2 ^ 64 * r, u || u2, k + k2, d2)

/-- Chunks `k` to `k+n−1` of the active half, as one number; `times` is how often the step reads them, in `reads` accesses each time. A corrected symbol counts in
WS_CORR, an uncorrectable word raises WS_ECC and is reported (R137). -/
def Dev.wsRead (d : Dev) (wm : Memory) (c t m k n reads times : Nat) : Nat × Bool × Dev :=
  let pg := Pg.mtile c t
  let (v, ue, corr, d1) := d.wsWords wm (wsAddr c t (d.rd pg Reg.MTILE.ACTIVE_HALF) k) (2 * n)
  let d2 := (d1.bump pg Reg.MTILE.WS_CORR (corr * times)).count pg 0xF 3 (reads * times)
  if ue then (v, true, (d2.raise pg 5 (.unit m c)).imageUe (some m) (pg / 4096)) else (v, false, d2)

/-- Chunks as stored, for the checks made at issue, without an error pattern (R134; DESIGN CHOICE, log 141). -/
def wsPeek (wm : Memory) (c m h k n : Nat) : Nat := leNat (Memory.readList wm (wsAddr c m h k) (16 * n) 0)

/-- The int8 weights of a W8 vector. -/
def weights8 (x : Nat) : List Int := (List.range 32).map (fun r => sextN (bitsOf x (8 * r) 8) 8)

/-- The weights of a W4 group. -/
def weights4 (x : Nat) : List Int := (List.range 32).map (fun r => sextN (bitsOf x (4 * r) 4) 4)

/-- Escapes of a W4X group (R134). -/
def escapes (x : Nat) : Nat := ((List.range 32).filter (fun r => bitsOf x (4 * r) 4 == 8)).length

/-- A W4X group: the weights of the MAC cycle (codes, and escapes one and two) and of the extra cycle (escapes three and four). -/
def weights4x (x side : Nat) : List Int × List Int :=
  let r := (List.range 32).foldl (fun (acc : List Int × List Int × Nat) r =>
    let code := bitsOf x (4 * r) 4
    if code = 8 then
      let v := sextN (bitsOf side (12 * acc.2.2) 12) 12
      if acc.2.2 < 2 then (v :: acc.1, 0 :: acc.2.1, acc.2.2 + 1) else (0 :: acc.1, v :: acc.2.1, acc.2.2 + 1)
    else (sextN code 4 :: acc.1, 0 :: acc.2.1, acc.2.2)) ([], [], 0)
  (r.1.reverse, r.2.1.reverse)

/-- What one MAC position of a step multiplies with: weights of group 0 and 1, of the extra cycle, and the block shift. -/
structure Tap where
  w0 : List Int
  w1 : List Int
  x0 : List Int
  x1 : List Int
  extra : Bool
  sh : Nat
  deriving DecidableEq, Repr

def zeros32 : List Int := List.replicate 32 0

/-- The tap read from the store as a pair or vector in format `fmt`, at bit offset 0 of `x`. -/
def tapOf (fmt x : Nat) : Tap :=
  if fmt = 0 then ⟨weights8 x, [], [], [], false, 0⟩
  else if fmt = 1 then ⟨weights4 x, weights4 (x >>> 128), [], [], false, 0⟩
  else
    let g0 := weights4x (bitsOf x 0 128) (bitsOf x 256 64)
    let g1 := weights4x (bitsOf x 128 128) (bitsOf x 320 64)
    ⟨g0.1, g1.1, g0.2, g1.2, decide (2 < escapes (bitsOf x 0 128) ∨ 2 < escapes (bitsOf x 128 128)), 0⟩

/-- Chunks per tap (Table 5.3). -/
def chunksPer (fmt : Nat) : Nat := if fmt = 2 then 3 else 2

/-! ### Accumulators (R152, R153) -/

/-- `acc_add` on the lanes of one entry: the new values and the count of saturating sums. -/
def accAdd (old terms : List Int) : List Int × Nat :=
  let old := if old = [] then List.replicate 1024 0 else old
  let s := List.zipWith (· + ·) old terms
  (s.map sat32, (s.filter (fun x => decide (sat32 x ≠ x))).length)

/-- Products of row weights and column operands, row by row. -/
def products (w a : List Int) (sh : Nat) : List Int := w.flatMap (fun x => a.map (fun y => x * y * (2 ^ sh : Nat)))

/-- The terms of one cycle. -/
def terms (w0 w1 a0 a1 : List Int) (sh : Nat) : List Int :=
  if w1 = [] then products w0 a0 sh else List.zipWith (· + ·) (products w0 a0 sh) (products w1 a1 sh)

/-- Both cycles of one MAC position. -/
def macTap (old : List Int) (t : Tap) (a0 a1 : List Int) : List Int × Nat :=
  let r := accAdd old (terms t.w0 t.w1 a0 a1 t.sh)
  if t.extra then
    let r2 := accAdd r.1 (terms t.x0 t.x1 a0 a1 t.sh)
    (r2.1, r.2 + r2.2)
  else r

/-- A value that an operand takes where the step has no flit for it (DESIGN CHOICE, log 21): 12 bits of a free value. -/
def strayOperand (seed x : Nat) : Int := sextN (bitsOf seed (12 * (x % 512)) 12) 12

/-- Operand of position `x` in the flits of a row, the first of which is flit number `fb` (R130, R131, R153); a step that takes no flit has
operands of 0 (R139). -/
def operandAt (de : MDesc) (fl : List Item) (fb seed : Nat) (x : Int) : Int :=
  if x < 0 ∨ (de.iw : Int) ≤ x ∨ fl.isEmpty = true then 0
  else
    let i := x.toNat
    match fl[i / de.n - fb]? with
    | none => strayOperand seed i
    | some f =>
      if i / de.n < fb then strayOperand seed i
      else if !f.valid then 0
      else if de.ifmt = 0 then sextN (bitsOf f.data.toNat (8 * (i % 32)) 8) 8 - de.izp
      else sextN (bitsOf f.data.toNat (16 * (i % 16)) 12) 12

/-- A flit that the step took and uses for none of its entries carries POISON: it poisons them all (R153; DEDUCED, log 15). -/
def unusedPoison (taken : List Item) (used : List (List Item)) : Bool :=
  taken.any (fun x => x.poison && !used.any (fun u => u.contains x))

/-- The flags of entry `e` after a step that used activation flits `used` for it (R153). -/
def MTile.flagEntry (t : MTile) (e : Nat) (used : List Item) (poison : Bool) : MTile :=
  let was := bitAt t.accUsed e
  let pois := bitAt t.accPoison e || poison || used.any (·.poison)
  let ph :=
    if !was then !used.isEmpty && used.all (fun f => !f.valid)
    else if used.any (·.valid) then false else bitAt t.accPh e
  { t with
    accUsed := setBits t.accUsed e 1 1, accPoison := setBits t.accPoison e 1 (if pois then 1 else 0),
    accPh := setBits t.accPh e 1 (if ph then 1 else 0) }

/-- Sums that saturated in a step: the count, and ACC_SAT once (R152). -/
def Dev.accSat (d : Dev) (c t n : Nat) : Dev :=
  let pg := Pg.mtile c t
  if n = 0 then d else (d.bump pg Reg.MTILE.ACC_SAT_CNT n).raise pg 4 .none_

/-- NV_CONSUMED of an M tile (R39, R153). -/
def Dev.mNv (d : Dev) (c t m : Nat) (nv : Bool) : Dev := if nv then d.raise (Pg.mtile c t) 0 (.unit m c) else d

/-- Cycles that `n` extra escape cycles take under the domain's MT_ESC pad (R140, R290, Table 5.8; DESIGN CHOICE, log 149). -/
def Dev.escCycles (d : Dev) (m n : Nat) : Nat := n * (1 + d.equaliser m 5)

/-- Account for the MAC phase of a step (R142, Table 5.12). -/
def Dev.macCount (d : Dev) (c t macs esc : Nat) : Dev :=
  let pg := Pg.mtile c t
  ((d.count pg 0xF 0 macs).count pg 0xF 2 esc).bump pg Reg.MTILE.ESC_CYCLES esc

/-! ### Block-scaled streams (R149 to R151) -/

/-- The block shift of a scale word. -/
def blockShift (de : MDesc) (x : Item) : Nat := (satI ((bitsOf x.data.toNat 0 8 : Int) - de.ebias) 0 15).toNat

/-- The segment of port `p`. -/
def segOf (r : Run) (p : Nat) : Option Seg := r.segs.find? (fun s => s.port == p)

def gotOf (r : Run) (p : Nat) : List Item := ((segOf r p).map (·.got)).getD []

/-- Replace the segment of port `p`. -/
def Run.setSeg (r : Run) (p : Nat) (s : Seg) : Run := { r with segs := r.segs.map (fun g => if g.port = p then s else g) }

/-- One round of `pair_next` (R151) in this cycle, for the run at the front of the tile. -/
def Dev.pairStep (d : Dev) (c t m : Nat) : Dev :=
  let pg := Pg.mtile c t
  let s := d.sqGet c t
  match s.runs with
  | [] => d
  | r :: rest =>
    match segOf r 1, segOf r 2 with
    | some sv, some ss =>
      if r.acted = d.cycle + 1 ∨ sv.left = 0 then d
      else
        let put (d : Dev) (r : Run) : Dev := d.sqSet c t { d.sqGet c t with runs := r :: rest }
        match d.qHead sv.q, d.qHead ss.q with
        | xv :: _, xs :: _ =>
          let dt := xv.btag.toNat
          let st := bitsOf xs.data.toNat 8 4
          let dl := (dt + 16 - st) % 16
          if dl = 0 then
            let d1 := ((d.takeHead sv.q).2.takeHead ss.q).2
            let d2 := (d1.poisonSeen pg xv.poison).poisonSeen pg xs.poison
            put d2 { ((r.setSeg 1 { sv with left := sv.left - 1, got := sv.got ++ [xv] }).setSeg 2
              { ss with left := ss.left - 1, got := ss.got ++ [xs] }) with lastTake := d.dcyc m }
          else
            let d1 := if dl ≤ 7 ∨ dl = 8 then (d.takeHead ss.q).2 else d
            let d2 := if 8 ≤ dl then (d1.takeHead sv.q).2 else d1
            let d3 := (((d2.bump pg Reg.MTILE.SKEW_CNT (if dl = 8 then 2 else 1)).wr pg Reg.MTILE.DTAG dt).wr pg Reg.MTILE.STAG st).hit
              pg Reg.MTILE.SKEW_VALID
            (put d3 { r with skew := true, waits := r.waits + 1 }).raise pg 1 (.unit m c)
        | _, _ => ((put d { r with waits := r.waits + 1 }).stallOn pg ([sv.q, ss.q].filter (fun q => (d.qHead q).isEmpty))).count pg 0xF 7
    | _, _ => d

/-- The step's instruction pairs weight flits with scale words. -/
def pairs (de : MDesc) (op iw : Nat) : Bool :=
  de.bs && ((op == 2 && bitAt iw 44) || (op == 4 && bitsOf iw 43 2 == 1))

/-- Take items for the run of a tile in this cycle. -/
def Dev.mTake (d : Dev) (c t m : Nat) : Dev :=
  match (d.sqGet c t).runs with
  | [] => d
  | r :: _ =>
    if pairs (d.mDesc c t (bitsOf r.iw 54 4)) r.op r.iw then
      let d1 := d.pairStep c t m
      -- the activations of VI0 as usual, the pair of VI1 and SI by tag
      let s1 := d1.sqGet c t
      let waited := match s1.runs with | x :: _ => decide (r.waits < x.waits) | [] => false
      let hide (x : Run) : Run := { x with segs := x.segs.filter (fun g => g.port == 0) }
      let others := match s1.runs with | x :: _ => x.segs.filter (fun g => g.port != 0) | [] => []
      let d2 := (d1.sqSet c t { s1 with runs := s1.runs.map hide }).takeCycle c t m 0 waited
      let s2 := d2.sqGet c t
      d2.sqSet c t { s2 with runs := s2.runs.map (fun x => { x with segs := x.segs ++ others, acted := d.cycle + 1 }) }
    else d.takeCycle c t m 0

/-- The finished run of opcode `op`, when its takes are complete. -/
def Dev.mDone (d : Dev) (c t op : Nat) : Option Run :=
  match (d.sqGet c t).runs with
  | r :: _ => if r.op = op ∧ r.taken then some r else none
  | [] => none

/-- Entries E0 to E0+n−1 become visible: entry e at the end of its MACs (R142), and the interval of the step is settled. -/
def Dev.mSettle (d : Dev) (c t m : Nat) (r : Run) (e0 n start macs nom : Nat) : Dev :=
  let x := d.mtGet c t
  let per := macs / max 1 n
  let lat := 2 + d.equaliser m 0
  let acc := (List.range n).foldl (fun a i => Tab.set a (e0 + i) (start + per * (i + 1) - 1 + lat) 0) x.accAt
  let d1 := d.mtSet c t { x with accAt := acc, macEnd := start + macs - 1 }
  let s := d1.sqGet c t
  (d1.sqSet c t { s with readyAt := r.t0 + nom + r.waits }).endRun c t 0

/-! ### CONV (R138 to R142) -/

/-- Flits of the row that a CONV step takes. -/
def convFlits (de : MDesc) (xf0 nx : Nat) : Nat := flitsOf (needed de.iw de.pl de.dil de.kw de.s xf0 nx de.ow) de.n

def planConv (wm : Memory) (c t : Nat) (d : Dev) (iw _m : Nat) : Plan :=
  let de := d.mDesc c t (bitsOf iw 54 4)
  let wsrc := bitAt iw 44
  let xf0 := bitsOf iw 37 6
  let nx := bitsOf iw 33 4 + 1
  let e0 := bitsOf iw 29 4
  let wp := d.rd (Pg.mtile c t) Reg.MTILE.WP
  let per := chunksPer de.wfmt
  let h := d.rd (Pg.mtile c t) Reg.MTILE.ACTIVE_HALF
  if bitsOf iw 0 29 ≠ 0 ∨ (bitsOf iw 48 3 ≠ 0 ∧ !(wsrc || de.wfmt == 1 || de.wfmt == 2)) then .bad 1
  else if 16 < e0 + nx then .bad 3
  else if de.bad ∨ (wsrc ∧ de.wfmt ≠ 0) then .bad 4
  else if de.ow < 1 ∨ de.ow ≤ (32 * xf0 : Nat) then .bad 7
  else if !wsrc ∧ 3072 < wp + per * de.kw then .bad 5
  else if !wsrc ∧ de.wfmt = 2 ∧ (List.range (2 * de.kw)).any (fun i =>
      decide (4 < escapes (wsPeek wm c t h (wp + 3 * (i / 2) + i % 2) 1))) = true then .bad 6
  else
    let nf := convFlits de xf0 nx
    .go ([(0, bitsOf iw 51 3, nf)] ++ (if wsrc then [(1, bitsOf iw 48 3, de.kw)] else if de.wfmt = 0 then [] else [(1, bitsOf iw 48 3, nf)]) ++
      (if wsrc && de.bs then [(2, bitsOf iw 45 3, de.kw)] else [])) none (max nf 1)

/-- The taps of a step whose weights arrive on VI1. -/
def streamTaps (de : MDesc) (ws scales : List Item) : List Tap :=
  (List.range ws.length).map (fun k =>
    let f := ws.getD k Item.zero
    let sh := match scales[k]? with | some x => if x.valid then blockShift de x else 0 | none => 0
    ⟨if f.valid then weights8 f.data.toNat else zeros32, [], [], [], false, sh⟩)

/-- Activation flits that a step uses for output block `xb` (positions below OW). -/
def usedFlits (de : MDesc) (fl : List Item) (fb xb : Nat) : List Item :=
  let xs := (List.range de.kw).flatMap (fun k => (List.range 32).filterMap (fun j =>
    let ox := 32 * xb + j
    let x : Int := (de.s * ox + de.dil * k : Nat) - (de.pl : Int)
    if (ox : Int) < de.ow ∧ 0 ≤ x ∧ x < de.iw then some (x.toNat / de.n - fb) else none))
  let ks := xs.foldl (fun l k => insertKey k l) []
  ks.filterMap (fun k => fl[k]?)

/-- The MACs of a CONV step for one entry. -/
def convEntry (de : MDesc) (taps : List Tap) (f0 f1 : List Item) (fb xb seed : Nat) (old : List Int) : List Int × Nat :=
  taps.zipIdx.foldl (fun (acc : List Int × Nat) tk =>
    let x (j : Nat) : Int := (de.s * (32 * xb + j) + de.dil * tk.2 : Nat) - (de.pl : Int)
    let a0 := (List.range 32).map (fun j => operandAt de f0 fb seed (x j))
    let a1 := if tk.1.w1 = [] then [] else (List.range 32).map (fun j => operandAt de f1 fb (seed / 2 ^ 6144) (x j))
    let r := macTap acc.1 tk.1 a0 a1
    (r.1, acc.2 + r.2)) (old, 0)

/-- The CONV step is complete: its MACs (R140). WP is 3,072 after the last chunk (R132; DESIGN CHOICE, log 140). -/
def Dev.finishConv (d : Dev) (wm : Memory) (c t m : Nat) (r : Run) : Dev :=
  let pg := Pg.mtile c t
  let iw := r.iw
  let de := d.mDesc c t (bitsOf iw 54 4)
  let wsrc := bitAt iw 44
  let ph := bitAt iw 43
  let xf0 := bitsOf iw 37 6
  let nx := bitsOf iw 33 4 + 1
  let e0 := bitsOf iw 29 4
  let f0 := gotOf r 0
  let f1 := if wsrc then [] else gotOf r 1
  let wf := if wsrc then gotOf r 1 else []
  let sc := if wsrc && de.bs then gotOf r 2 else []
  let nv := ((f0 ++ f1).any (fun x => !x.valid) && !ph) || (wf ++ sc).any (fun x => !x.valid)
  let per := chunksPer de.wfmt
  let wp := d.rd pg Reg.MTILE.WP
  let (store, ue, d1) := if wsrc then (0, false, d) else d.wsRead wm c t m wp (per * de.kw) de.kw nx
  let taps := if wsrc then streamTaps de wf sc
    else (List.range de.kw).map (fun k => tapOf de.wfmt (bitsOf store (128 * per * k) (128 * per)))
  let fb := ((needed de.iw de.pl de.dil de.kw de.s xf0 nx de.ow).1 / (de.n : Int)).toNat
  let usedOf (e : Nat) : List Item := usedFlits de f0 fb (xf0 + e) ++ (if f1 = [] then [] else usedFlits de f1 fb (xf0 + e))
  let poison := nv || ue || r.skew || (wf ++ sc).any (·.poison) || unusedPoison (f0 ++ f1) ((List.range nx).map usedOf)
  let (seed, d2) := d1.free 12288
  let x0 := d2.mtGet c t
  let (x1, sat) := (List.range nx).foldl (fun (acc : MTile × Nat) e =>
    let v := convEntry de taps f0 f1 fb (xf0 + e) seed (Tab.get acc.1.acc (e0 + e) [])
    (({ acc.1 with acc := Tab.set acc.1.acc (e0 + e) v.1 [] }).flagEntry (e0 + e) (usedOf e) poison, acc.2 + v.2)) (x0, 0)
  let esc := d.escCycles m (nx * (taps.filter (·.extra)).length)
  let macs := nx * de.kw + esc
  let nf := convFlits de xf0 nx
  let start := max (r.t0 + nf + r.waits) (x0.macEnd + 1)
  let d3 := ((d2.mtSet c t x1).mNv c t m nv).macCount c t macs esc
  let d4 := if wsrc then d3 else d3.wr pg Reg.MTILE.WP (wp + per * de.kw)
  (d4.mSettle c t m r e0 nx start macs (max nf macs)).accSat c t sat

/-- The command of a step with takes: continue the run, or issue it and begin its takes; finish it when its takes are complete. -/
def Dev.mRunStep (d : Dev) (c t op : Nat) (plan : Dev → Nat → Nat → Plan) (finish : Dev → Nat → Run → Dev) : Dev :=
  match d.tileDom c with
  | none => d
  | some m =>
    let d1 := match (d.sqGet c t).runs with
      | _ :: _ => d
      | [] =>
        match d.tryIssue c t op 0x0A plan with
        | (none, d1) => d1
        | (some (iw, m, takes), d1) => d1.beginRun c t (d.rd (Pg.mtile c t) Reg.MTILE.PC) iw m takes
    let mine := match (d1.sqGet c t).runs with | r :: _ => r.op == op | [] => false
    if mine then
      let d2 := d1.mTake c t m
      match d2.mDone c t op with
      | some r => finish d2 m r
      | none => d2
    else d1

/-- CONV (R140). -/
def Dev.conv (d : Dev) (wm : Memory) (c t : Nat) : Dev :=
  d.mRunStep c t 2 (planConv wm c t) (fun d m r => d.finishConv wm c t m r)

/-! ### WCONV (R143 to R145) -/

/-- Flits of one window row. -/
def wconvFlits (de : MDesc) (xf0 : Nat) : Nat :=
  let lo : Int := (32 * xf0 : Nat) - (de.pl : Int)
  flitsOf (max 0 lo, min ((de.iw : Int) - 1) (lo + 33)) 32

def planWconv (c t : Nat) (d : Dev) (iw _m : Nat) : Plan :=
  let de := d.mDesc c t (bitsOf iw 54 4)
  let ptr := bitsOf iw 39 3
  let pbr := bitsOf iw 36 3
  if bitsOf iw 0 36 ≠ 0 then .bad 1
  else if de.bad ∨ de.kh ≠ 3 ∨ de.kw ≠ 3 ∨ de.s ≠ 1 ∨ de.dil ≠ 1 ∨ de.wfmt ≠ 0 ∨ de.ifmt ≠ 0 ∨ de.izp ≠ 0 then .bad 4
  else if 5 < ptr + pbr then .bad 8
  else if 3072 < d.rd (Pg.mtile c t) Reg.MTILE.WP + 48 then .bad 5
  else
    let n := wconvFlits de (bitsOf iw 42 6)
    let rows := (List.range 6).filter (fun w => decide (ptr ≤ w ∧ w < 6 - pbr))
    .go [(0, bitsOf iw 51 3, n * (rows.filter (fun w => w % 2 == 0)).length),
      (1, bitsOf iw 48 3, n * (rows.filter (fun w => w % 2 == 1)).length)] none 16

/-- 4 × 4 matrices as functions of row and column. -/
def matMul (a b : Nat → Nat → Int) (n : Nat) (i j : Nat) : Int := (List.range n).foldl (fun s k => s + a i k * b k j) 0

def rowsOf (l : List (List Int)) (i j : Nat) : Int := (l.getD i []).getD j 0

/-- Bᵀ and Aᵀ of R143. -/
def winoBt : Nat → Nat → Int := rowsOf [[1, 0, -1, 0], [0, 1, 1, 0], [0, -1, 1, 0], [0, 1, 0, -1]]
def winoAt : Nat → Nat → Int := rowsOf [[1, 1, 1, 0], [0, 1, -1, -1]]

/-- V = Bᵀ d B, points 0 to 15 in order 4i + k. -/
def winoInput (x : Nat → Nat → Int) : List Int :=
  let u := (List.range 16).map (fun p => matMul winoBt x 4 (p / 4) (p % 4))
  let uf (i j : Nat) : Int := u.getD (4 * i + j) 0
  (List.range 16).map (fun p => matMul uf (fun a b => winoBt b a) 4 (p / 4) (p % 4))

/-- Y = (Aᵀ M A) >> 2 at output (i, j) of a tile with points `mp` (R146). -/
def winoOutput (mp : List Int) (i j : Nat) : Int :=
  let mf (a b : Nat) : Int := mp.getD (4 * a + b) 0
  matMul (fun a b => matMul winoAt mf 4 a b) (fun a b => winoAt b a) 4 i j / 4

/-- The WCONV step is complete (R145). -/
def Dev.finishWconv (d : Dev) (wm : Memory) (c t m : Nat) (r : Run) : Dev :=
  let pg := Pg.mtile c t
  let iw := r.iw
  let de := d.mDesc c t (bitsOf iw 54 4)
  let xf0 := bitsOf iw 42 6
  let ptr := bitsOf iw 39 3
  let pbr := bitsOf iw 36 3
  let n := wconvFlits de xf0
  let lo : Int := (32 * xf0 : Nat) - (de.pl : Int)
  let fb := (max 0 lo / 32).toNat
  let fl := [gotOf r 0, gotOf r 1]
  -- window row w is the next group of n flits of its port
  let nth (w : Nat) : Nat := ((List.range w).filter (fun v => decide (ptr ≤ v) && v % 2 == w % 2)).length
  let rows : List (List Item) := (List.range 6).map (fun w =>
    if w < ptr ∨ 6 - pbr ≤ w then [] else ((fl.getD (w % 2) []).drop (n * nth w)).take n)
  let nv := (gotOf r 0 ++ gotOf r 1).any (fun x => !x.valid)
  let wp := d.rd pg Reg.MTILE.WP
  let (store, ue, d1) := d.wsRead wm c t m wp 48 16 1
  let u := (List.range 512).map (fun i => sextN (bitsOf store (12 * i) 12) 12)
  let val (w : Nat) (x : Int) : Int := if rows.getD w [] = [] then 0 else operandAt de (rows.getD w []) fb 0 x
  let x0 := d1.mtGet c t
  let usedOf (g : Nat) : List Item := (List.range 4).flatMap (fun a =>
    let w := 2 * (g / 8) + a
    let ks := (List.range 6).foldl (fun l b =>
      let x := lo + (4 * (g % 8) + b : Nat)
      if 0 ≤ x ∧ x < de.iw then insertKey (x.toNat / 32 - fb) l else l) []
    ks.filterMap (fun k => (rows.getD w [])[k]?))
  let poison := nv || ue || unusedPoison (gotOf r 0 ++ gotOf r 1) ((List.range 16).map usedOf)
  let (x1, sat) := (List.range 16).foldl (fun (acc : MTile × Nat) g =>
    let rr := g / 8
    let vs := (List.range 2).flatMap (fun tt =>
      let cc := 2 * (g % 8) + tt
      winoInput (fun a b => val (2 * rr + a) (lo + (2 * cc + b : Nat))))
    let ts := (List.range 32).flatMap (fun row =>
      (List.range 32).map (fun l => vs.getD l 0 * u.getD (16 * row + l % 16) 0))
    let v := accAdd (Tab.get acc.1.acc g []) ts
    (({ acc.1 with acc := Tab.set acc.1.acc g v.1 [] }).flagEntry g (usedOf g) poison, acc.2 + v.2)) (x0, 0)
  let start := max (r.lastTake + 1 + d.equaliser m 1 + 1) (x0.macEnd + 1)
  let d2 := ((d1.mtSet c t x1).mNv c t m nv).macCount c t 16 0
  ((d2.wr pg Reg.MTILE.WP (wp + 48)).mSettle c t m r 0 16 start 16 16).accSat c t sat

/-- WCONV (R145). -/
def Dev.wconv (d : Dev) (wm : Memory) (c t : Nat) : Dev :=
  d.mRunStep c t 3 (planWconv c t) (fun d m r => d.finishWconv wm c t m r)

/-! ### MMUL (R147) -/

def planMmul (wm : Memory) (c t : Nat) (d : Dev) (iw _m : Nat) : Plan :=
  let de := d.mDesc c t (bitsOf iw 54 4)
  let bsrc := bitsOf iw 43 2
  let nx := bitsOf iw 38 4 + 1
  let e0 := bitsOf iw 34 4
  let wp := d.rd (Pg.mtile c t) Reg.MTILE.WP
  let h := d.rd (Pg.mtile c t) Reg.MTILE.ACTIVE_HALF
  let w8 := de.wfmt == 0
  let adv := if w8 then 64 else if de.wfmt = 1 then 32 else 48
  if bitsOf iw 0 34 ≠ 0 ∨ (bitsOf iw 48 3 ≠ 0 ∧ bsrc = 0 ∧ w8) then .bad 1
  else if bsrc = 3 then .bad 8
  else if 16 < e0 + nx then .bad 3
  else if de.bad ∨ (bsrc ≠ 0 ∧ !w8) then .bad 4
  else if bsrc = 0 ∧ 3072 < wp + adv then .bad 5
  else if bsrc = 0 ∧ de.wfmt = 2 ∧ (List.range 32).any (fun i =>
      decide (4 < escapes (wsPeek wm c t h (wp + 3 * (i / 2) + i % 2) 1))) = true then .bad 6
  else
    let s1 := bitsOf iw 48 3
    .go ([(0, bitsOf iw 51 3, (if w8 then 32 else 16) * nx)] ++
      (if bsrc = 0 then (if w8 then [] else [(1, s1, 16 * nx)]) else [(1, s1, 32)]) ++
      (if bsrc = 1 ∧ de.bs then [(2, bitsOf iw 45 3, 32)] else [])) none 1

/-- Operands of one A flit: 32 positions (R147), those at or beyond IW as well (DESIGN CHOICE, log 139). -/
def mmulOperands (de : MDesc) (f : Item) (seed : Nat) : List Int :=
  (List.range 32).map (fun j =>
    if !f.valid then 0
    else if de.ifmt = 0 then sextN (bitsOf f.data.toNat (8 * j) 8) 8 - de.izp
    else if j < 16 then sextN (bitsOf f.data.toNat (16 * j) 12) 12 else strayOperand seed j)

/-- The MMUL step is complete (R147). Each row of B is read once for each of the NX positions (R137; DESIGN CHOICE, log 143). -/
def Dev.finishMmul (d : Dev) (wm : Memory) (c t m : Nat) (r : Run) : Dev :=
  let pg := Pg.mtile c t
  let iw := r.iw
  let de := d.mDesc c t (bitsOf iw 54 4)
  let bsrc := bitsOf iw 43 2
  let ph := bitAt iw 42
  let nx := bitsOf iw 38 4 + 1
  let e0 := bitsOf iw 34 4
  let w8 := de.wfmt == 0
  let f0 := gotOf r 0
  let f1 := if w8 then [] else gotOf r 1
  let bf := if bsrc = 0 then [] else gotOf r 1
  let sc := if bsrc = 1 ∧ de.bs then gotOf r 2 else []
  let nv := ((f0 ++ f1).any (fun x => !x.valid) && !ph) || (bf ++ sc).any (fun x => !x.valid)
  let wp := d.rd pg Reg.MTILE.WP
  let per := chunksPer de.wfmt
  let ks := if w8 then 32 else 16
  let (store, ue, d1) := if bsrc = 0 then d.wsRead wm c t m wp (per * ks) ks nx else (0, false, d)
  let taps : List Tap :=
    if bsrc = 0 then (List.range ks).map (fun k => tapOf de.wfmt (bitsOf store (128 * per * k) (128 * per)))
    else if bsrc = 1 then streamTaps de bf sc
    else bf.map (fun f => ⟨if f.valid then (weights8 f.data.toNat).map (· - de.vzp) else zeros32, [], [], [], false, 0⟩)
  let poison := nv || ue || r.skew || (bf ++ sc).any (·.poison)
  let (seed, d2) := d1.free 6144
  let x0 := d2.mtGet c t
  let (x1, sat) := (List.range nx).foldl (fun (acc : MTile × Nat) e =>
    let v := taps.zipIdx.foldl (fun (a : List Int × Nat) tk =>
      let a0 := mmulOperands de (f0.getD (tk.2 * nx + e) Item.zero) seed
      let a1 := if tk.1.w1 = [] then [] else mmulOperands de (f1.getD (tk.2 * nx + e) Item.zero) seed
      let q := macTap a.1 tk.1 a0 a1
      (q.1, a.2 + q.2)) (Tab.get acc.1.acc (e0 + e) [], 0)
    let used := (f0.zipIdx.filter (fun x => x.2 % nx == e)).map (·.1) ++ (f1.zipIdx.filter (fun x => x.2 % nx == e)).map (·.1)
    (({ acc.1 with acc := Tab.set acc.1.acc (e0 + e) v.1 [] }).flagEntry (e0 + e) used poison, acc.2 + v.2)) (x0, 0)
  let esc := d.escCycles m (nx * (taps.filter (·.extra)).length)
  let macs := ks * nx + esc
  let d3 := ((d2.mtSet c t x1).mNv c t m nv).macCount c t macs esc
  let d4 := if bsrc = 0 then d3.wr pg Reg.MTILE.WP (wp + per * ks) else d3
  -- every entry receives its last term in the last k, so all become visible with the end of the MAC phase
  let start := max (r.t0 + 1 + r.waits) (x0.macEnd + 1)
  let d5 := (d4.mSettle c t m r e0 nx start macs macs).accSat c t sat
  let y := d5.mtGet c t
  d5.mtSet c t { y with accAt := (List.range nx).foldl (fun a i => Tab.set a (e0 + i) (start + macs - 1 + 2 + d.equaliser m 0) 0) y.accAt }

/-- MMUL (R147). -/
def Dev.mmul (d : Dev) (wm : Memory) (c t : Nat) : Dev :=
  d.mRunStep c t 4 (planMmul wm c t) (fun d m r => d.finishMmul wm c t m r)

/-! ### RSC (R154 to R156) -/

/-- Entries that RSC reads. -/
def rscEntries (iw : Nat) : List Nat :=
  if bitAt iw 45 then List.range 16 else (List.range (bitsOf iw 46 4 + 1)).map (fun e => bitsOf iw 50 4 + e)

def planRsc (c t : Nat) (d : Dev) (iw m : Nat) : Plan :=
  let de := d.mDesc c t (bitsOf iw 54 4)
  let nx := bitsOf iw 46 4 + 1
  let rows := bitsOf iw 43 2 + 1
  let o0 := bitsOf iw 27 4
  let wino := bitAt iw 45
  if bitsOf iw 0 21 ≠ 0 then .bad 1
  else if (wino ∧ 16 < o0 + rows) ∨ (!wino ∧ (16 < o0 + nx ∨ 16 < bitsOf iw 50 4 + nx)) then .bad 3
  else if de.bad then .bad 4
  else if (rscEntries iw).any (fun e => decide (d.dcyc m < Tab.get (d.mtGet c t).accAt e 0 + 1) && Tab.get (d.mtGet c t).accAt e 0 != 0) then .wait
  else .go [] none (32 * (if wino then rows else nx))

/-- The rescale entries of `n` channels from `k` on, two to an access, with poison; none where a channel lies beyond TLEN. -/
def Dev.rsTable (d : Dev) (c m : Nat) (de : MDesc) (k n : Nat) : List (Option (RsEntry × Bool)) × Dev :=
  match n with
  | 0 => ([], d)
  | n + 1 =>
    let (two, d1) := (List.range 2).foldl (fun (acc : (List (Option (RsEntry × Bool)) × Bool) × Dev) i =>
      if de.tlen ≤ k + i then ((acc.1.1 ++ [none], acc.1.2), acc.2)
      else
        let (e, p, f, d1) := acc.2.rsEntry c de.rsTile m de.rsBase (k + i)
        ((acc.1.1 ++ [some (e, p)], acc.1.2 || f), d1)) (([], false), d)
    let d2 := if two.2 then d1.count (Pg.btile c de.rsTile) 0xF 3 else d1
    let (l, d3) := d2.rsTable c m de (k + 2) n
    (two.1 ++ l, d3)

/-- The 32 values of one slot row. -/
def rscRow (de : MDesc) (xb : Nat) (e : Option (RsEntry × Bool)) (acc : List Int) : List Int :=
  match e with
  | none => zeros32
  | some (e, _) => acc.zipIdx.map (fun v =>
      if de.ow ≤ ((32 * xb + v.2 : Nat) : Int) then fmtSat e.ozp de.ofmt else rescale v.1 e de.ofmt)

/-- Store one slot row. -/
def MTile.putRow (x : MTile) (k : Nat) (v : List Int) (poison ph : Bool) (at_ : Nat) : MTile :=
  { x with
    slots := Tab.set x.slots k v [], slotPoison := setBits x.slotPoison k 1 (if poison then 1 else 0),
    slotPh := setBits x.slotPh k 1 (if ph then 1 else 0), slotAt := Tab.set x.slotAt k at_ 0 }

/-- RSC (R154): rescale, fill the slots, clear the entries read. -/
def Dev.rsc (d : Dev) (c t : Nat) : Dev :=
  match d.tryIssue c t 5 0x0A (planRsc c t) with
  | (none, d1) => d1
  | (some (iw, m, _), d1) =>
    let pg := Pg.mtile c t
    let de := d1.mDesc c t (bitsOf iw 54 4)
    let wino := bitAt iw 45
    let o0 := bitsOf iw 27 4
    let xf0 := bitsOf iw 21 6
    let e0 := bitsOf iw 50 4
    let n := if wino then bitsOf iw 43 2 + 1 else bitsOf iw 46 4 + 1
    let t0 := d1.dcyc m
    let k0 := bitsOf iw 31 12
    let (tab, dt) := d1.rsTable c m de k0 16
    let d2 := dt.rsReads c t de.rsTile de.rsBase k0 (min 32 (de.tlen - k0)) (32 * o0) (32 * n)
    let x0 := d2.mtGet c t
    let lat := 24 + d1.equaliser m 2
    let entry (e r : Nat) : List Int :=
      let l := Tab.get x0.acc e []
      if l = [] then zeros32 else (l.drop (32 * r)).take 32
    let rowVals (yy r : Nat) : List Int :=
      if wino then
        (List.range 32).map (fun j =>
          let g := 8 * (yy / 2) + j / 2 / 2
          winoOutput (((entry g r).drop (16 * (j / 2 % 2))).take 16) (yy % 2) (j % 2))
      else entry (e0 + yy) r
    let flags (mask yy : Nat) : Bool :=
      if wino then (List.range 8).any (fun i => bitAt mask (8 * (yy / 2) + i)) else bitAt mask (e0 + yy)
    let allPh (yy : Nat) : Bool :=
      if wino then (List.range 8).all (fun i => bitAt x0.accPh (8 * (yy / 2) + i)) else bitAt x0.accPh (e0 + yy)
    let x1 := (List.range n).foldl (fun x yy =>
      (List.range 32).foldl (fun (x : MTile) r =>
        let e := tab.getD r none
        x.putRow (32 * (o0 + yy) + r) (rscRow de (if wino then xf0 else xf0 + yy) e (rowVals yy r))
          (flags x0.accPoison yy || e.isNone || (match e with | some (_, p) => p | none => false)) (allPh yy) (t0 + 32 * yy + r + lat)) 
        { x with slotA12 := setBits x.slotA12 (o0 + yy) 1 de.ofmt }) x0
    let x2 := (rscEntries iw).foldl (fun (x : MTile) e =>
      { x with acc := Tab.set x.acc e [] [], accPoison := setBits x.accPoison e 1 0, accPh := setBits x.accPh e 1 0,
               accUsed := setBits x.accUsed e 1 0 }) x1
    let d3 := (d2.mtSet c t x2).wr pg Reg.MTILE.EP 0
    if tab.any (fun e => e.isNone) then d3.raise pg 2 (.unit m c) else d3

/-! ### EMIT, PHOLD, WSWAP, WPSET, DROP, NOP, LOOP (R136, R157, R159) -/

/-- Slot, row and half of pattern element `ep` (R157). -/
def emitElement (order o0 ns : Nat) (a12 : Bool) (ep : Nat) : Nat × Nat × Nat :=
  let h := if a12 then 2 else 1
  let i := ep / h
  if order = 0 then (o0 + i % ns, i / ns, ep % h) else (o0 + i / 32, i % 32, ep % h)

/-- A slot row as flit data: 32 A8 values, or the half `h` of the A12 values sign-extended to 16 bits (R130). -/
def emitData (a12 : Bool) (h : Nat) (v : List Int) : Nat :=
  let v := if v = [] then zeros32 else v
  if a12 then (((v.drop (16 * h)).take 16).zipIdx.foldl (fun n x => n + twos x.1 16 * 2 ^ (16 * x.2)) 0)
  else v.zipIdx.foldl (fun n x => n + twos x.1 8 * 2 ^ (8 * x.2)) 0

def planEmit (c t : Nat) (d : Dev) (iw m : Nat) : Plan :=
  let o0 := bitsOf iw 50 4
  let ns := bitsOf iw 46 4 + 1
  let x := d.mtGet c t
  let a12 := bitAt x.slotA12 o0
  let e := emitElement (bitsOf iw 45 1) o0 ns a12 (d.rd (Pg.mtile c t) Reg.MTILE.EP % (32 * ns * (if a12 then 2 else 1)))
  if bitsOf iw 0 45 ≠ 0 then .bad 1
  else if 16 < o0 + ns then .bad 3
  else if Tab.get x.slotAt (32 * e.1 + e.2.1) 0 = 0 ∨ d.dcyc m ≤ Tab.get x.slotAt (32 * e.1 + e.2.1) 0 then .wait
  else .go [] (some (outKey c t 0, bitsOf iw 54 4)) 1

/-- EMIT (R157). -/
def Dev.mEmit (d : Dev) (c t : Nat) : Dev :=
  match d.tryIssue c t 6 0x0A (planEmit c t) with
  | (none, d1) => d1
  | (some (iw, m, _), d1) =>
    let pg := Pg.mtile c t
    let o0 := bitsOf iw 50 4
    let ns := bitsOf iw 46 4 + 1
    let x := d1.mtGet c t
    let a12 := bitAt x.slotA12 o0
    let len := 32 * ns * (if a12 then 2 else 1)
    let ep := d1.rd pg Reg.MTILE.EP % len
    let e := emitElement (bitsOf iw 45 1) o0 ns a12 ep
    let k := 32 * e.1 + e.2.1
    let item : Item := ⟨BitVec.ofNat 256 (emitData a12 e.2.2 (Tab.get x.slots k [])), !bitAt x.slotPh k, bitAt x.slotPoison k, 0, 0, false⟩
    (d1.putOut c t 0 (3 + d1.equaliser m 3) item).wr pg Reg.MTILE.EP ((ep + 1) % len)

/-- PHOLD (R159). -/
def Dev.mPhold (d : Dev) (c t : Nat) : Dev :=
  match d.tryIssue c t 9 0x0A (fun _ iw _ => if bitsOf iw 0 54 ≠ 0 then .bad 1 else .go [] (some (outKey c t 0, bitsOf iw 54 4)) 1) with
  | (none, d1) => d1
  | (some (_, m, _), d1) => d1.putOut c t 0 (3 + d1.equaliser m 3) Item.placeholder

/-- WPSET (R132). -/
def Dev.wpset (d : Dev) (c t : Nat) : Dev :=
  match d.tryIssue c t 8 0x0A (fun _ iw _ =>
    if bitsOf iw 12 46 ≠ 0 then .bad 1 else if 3071 < bitsOf iw 0 12 then .bad 5 else .go [] none 1) with
  | (none, d1) => d1
  | (some (iw, _, _), d1) => d1.wr (Pg.mtile c t) Reg.MTILE.WP (bitsOf iw 0 12)

/-- Take the single item of a step at its issue. -/
def Dev.takeOne (d : Dev) (c u p slot : Nat) : Option Item × Dev :=
  match d.queueAtHead c (inPort u p) slot with
  | none => (none, d)
  | some q =>
    match d.takeHead q with
    | (some x, d1) => (some x, d1.poisonSeen (tilePg c u) x.poison)
    | (none, d1) => (none, d1)

/-- Exchange the halves of an M tile (R136). -/
def Dev.swapHalves (d : Dev) (c t : Nat) : Dev :=
  let pg := Pg.mtile c t
  let d1 := d.wr pg Reg.MTILE.ACTIVE_HALF (1 - d.rd pg Reg.MTILE.ACTIVE_HALF)
  { d1 with ldr := { d1.ldr with shadow := Tab.set d1.ldr.shadow (10 * c + t) false false } }

/-- WSWAP (R136). -/
def Dev.wswap (d : Dev) (c t : Nat) : Dev :=
  match d.tryIssue c t 7 0x0A (fun d iw m => if bitsOf iw 0 55 ≠ 0 then .bad 1 else .go [(2, bitsOf iw 55 3, 1)] none (2 + d.equaliser m 4)) with
  | (none, d1) => d1
  | (some (iw, m, _), d1) =>
    let (x, d2) := d1.takeOne c t 2 (bitsOf iw 55 3)
    (d2.mNv c t m (match x with | some x => !x.valid | none => false)).swapHalves c t

/-- DROP (R159, R39). -/
def Dev.mDrop (d : Dev) (c t : Nat) : Dev :=
  match d.tryIssue c t 10 0x0A (fun _ iw _ =>
    if bitsOf iw 0 53 ≠ 0 then .bad 1 else if bitsOf iw 56 2 = 3 then .bad 8
    else .go [(bitsOf iw 56 2, bitsOf iw 53 3, 1)] none 1) with
  | (none, d1) => d1
  | (some (iw, m, _), d1) =>
    let (x, d2) := d1.takeOne c t (bitsOf iw 56 2) (bitsOf iw 53 3)
    d2.mNv c t m (match x with | some x => !x.valid | none => false)

end Sys2Proof.Machine
end

