-- ==== Sys2Proof/Machine/Sync.lean ====
section
/-!
DEFINITION. Sync objects (R373, R374): values, signals and interrupts.
-/

namespace Sys2Proof.Machine

/-- VALUE of sync object `n`. -/
def Dev.syncValue (d : Dev) (n : Nat) : Nat := d.rd64 (Pg.sync n)

/-- Messages of the vector are held back: its Vector Control or the function masks it (R351, R359, DESIGN CHOICE, log 119). -/
def Dev.msixHeld (d : Dev) (vec : Nat) : Bool := d.hp.cfg.msixMask || bitAt (Tab.get d.hp.msixT (4 * vec + 3) 0) 0


/-- An MSI-X message: sent, or pending while it is held back; a device without PCI Express sends it as a TUNNEL frame (R398). -/
def Dev.msix (d : Dev) (vec : Nat) : Dev :=
  if d.hp.cfg.msixEn = false then d
  else if d.hp.cfg.d3hot || d.msixHeld vec then { d with hp := { d.hp with pba := setBits d.hp.pba vec 1 1 } }
  else (d.emit (.msix vec)).count Pg.host 0xF 3

/-- The pending messages that are no longer held are sent (R351, R359). -/
def Dev.msixRelease (d : Dev) : Dev :=
  d.each ((List.range 512).filter (fun v => bitAt d.hp.pba v && d.hp.cfg.msixEn && !d.hp.cfg.d3hot && !d.msixHeld v)) (fun (d : Dev) v =>
    ({ d with hp := { d.hp with pba := setBits d.hp.pba v 1 0 } } : Dev).msix v)

/-- VALUE reached IRQ_TGT with IRQ_EN 1: the vector is sent once (R373). -/
def Dev.syncIrq (d : Dev) (n : Nat) : Dev :=
  let a := Pg.sync n
  if d.flag a Reg.SYNC.IRQ_EN && decide (d.rd64 (a + 0x18) ≤ d.syncValue n) then
    (d.wr a Reg.SYNC.IRQ_EN 0).msix (d.rd a Reg.SYNC.VEC)
  else d

/-- Apply a signal of amount `n` to object `o` (R374). `direct`: a signal word with ARRIVE 0, which completes generations. -/
def Dev.signal (d : Dev) (o n : Nat) (direct : Bool := false) : Dev :=
  let a := Pg.sync o
  let v := d.syncValue o
  let d0 := d.bump a Reg.SYNC.SIG_CNT
  let d1 :=
    if !d.flag a Reg.SYNC.MODE then d0.wr64 a (min (v + n) (2 ^ 64 - 1))
    else if direct then d0.wr64 a ((v + n) % 2 ^ 64)
    else
      let arr := d.rd a Reg.SYNC.ARRIVED + n
      let par := max 1 (d.rd a Reg.SYNC.PARTIES)
      (d0.wr64 a ((v + arr / par) % 2 ^ 64)).wr a Reg.SYNC.ARRIVED (arr % par)
  d1.syncIrq o

/-- SIGNAL_WORD: the oldest signal word at rank controller `r` is applied; a word for another controller's object is forwarded
on the control bus and applied there (R374). -/
def Dev.signalWord (d : Dev) (r : Nat) : Dev :=
  match Tab.get d.qs.sigIn r [] with
  | [] => d
  | w :: rest =>
    let d1 : Dev := { d with qs := { d.qs with sigIn := Tab.set d.qs.sigIn r rest [] } }
    d1.signal (bitsOf w 0 13) (bitsOf w 14 16) (!bitAt w 13)

end Sys2Proof.Machine
end

