-- ==== Sys2Proof/Machine/Boundary.lean ====
section
/-!
DEFINITION. Boundary queues (R108 to R123), packets and notifications, and what edge blocks present to and take from the grid
(R364, R381, R390, R391, R247).
-/

namespace Sys2Proof.Machine

def Dev.bqGet (d : Dev) (b : Nat) : BqSt := Tab.get d.qs.bq b BqSt.zero
def Dev.bqSet (d : Dev) (b : Nat) (s : BqSt) : Dev := { d with qs := { d.qs with bq := Tab.set d.qs.bq b s BqSt.zero } }

def Dev.bqDom (d : Dev) (b : Nat) : Nat := d.rd (Pg.bq b) Reg.BQD.DOM
def Dev.bqLog (d : Dev) (b : Nat) : Nat := d.rd (Pg.bq b) Reg.BQD.LOG2CAP
def Dev.bqCap (d : Dev) (b : Nat) : Nat := 2 ^ d.bqLog b
def Dev.bqOut (d : Dev) (b : Nat) : Bool := d.flag (Pg.bq b) Reg.BQD.DIR

/-- Enabled, with a capacity from 2^4 to 2^15 (Table 4.6). -/
def Dev.bqEn (d : Dev) (b : Nat) : Bool := d.flag (Pg.bq b) Reg.BQD.EN && decide (4 ≤ d.bqLog b)

/-- Synchroniser stages (R110). -/
def bqStages (b : Nat) : Nat := if b < 1536 then 3 else 2

/-- Pointers count modulo twice the capacity (R110). -/
def Dev.bqMod (d : Dev) (b : Nat) : Nat := 2 * d.bqCap b

/-- Entries present. -/
def Dev.bqCount (d : Dev) (b : Nat) : Nat :=
  let s := d.bqGet b
  (s.w + d.bqMod b - s.r % d.bqMod b) % d.bqMod b

/-- The reader's view of the write pointer and the writer's view of the read pointer (R110). -/
def BqSt.wView (s : BqSt) (b : Nat) : Nat := s.wFf.getD (bqStages b - 1) 0
def BqSt.rView (s : BqSt) (b : Nat) : Nat := s.rFf.getD (bqStages b - 1) 0

/-- The packet format applies: PKT 1 on an outbound queue that the host DMA or a window reads (R114). -/
def Dev.bqPkt (d : Dev) (b : Nat) : Bool :=
  d.flag (Pg.bq b) Reg.BQD.PKT && d.bqOut b && (decide (b < 1536) || d.flag (Pg.bq b) Reg.BQD.WIN)

/-- Ring position of the entry that the reader reads next: its pointer, and what it has read in this cycle beyond it (R111). -/
def BqSt.pos (s : BqSt) : Nat := s.r + s.rel

/-- Entries the reader can see. -/
def Dev.bqVisible (d : Dev) (b : Nat) : Nat :=
  let s := d.bqGet b
  if s.resetting then 0 else (s.wView b + d.bqMod b - s.r % d.bqMod b) % d.bqMod b - s.rel

/-- Entries the writer sees as free, less those that it holds for the next cycles; 0: FULL. -/
def Dev.bqFree (d : Dev) (b : Nat) : Nat :=
  let s := d.bqGet b
  if s.resetting then 0 else d.bqCap b - (s.w + d.bqMod b - s.rView b % d.bqMod b) % d.bqMod b - s.arr.length

/-- Entries of the crossing memory of queue `b` (Table 4.4). -/
def xmemSize (b : Nat) : Nat := if b < 1536 then 65536 else if b < 1792 then 8192 else if b < 2304 then 16384 else 8192

/-- Key of ring entry `i` in the crossing memories. -/
def Dev.bqKey (d : Dev) (b i : Nat) : Nat := (bqBlock b).2.1 * 65536 + (d.rd (Pg.bq b) Reg.BQD.BASE + i % d.bqCap b) % xmemSize b

/-- Store ring entry `i`. -/
def Dev.bqStore (d : Dev) (b i : Nat) (x : Item) : Dev :=
  let k := d.bqKey b i
  let (pat, d1) := d.armedFor 4 ((bqBlock b).1 / 4096)
  { d1 with qs := { d1.qs with xmem := Tab.set d1.qs.xmem k x Item.zero, xerr := Tab.set d1.qs.xerr k pat 0 } }

/-- Load ring entry `i`; an uncorrectable entry is delivered with POISON and BQ_ECC is raised (R108). -/
def Dev.bqLoad (d : Dev) (b i : Nat) : Item × Dev :=
  let k := d.bqKey b i
  let x := Tab.get d.qs.xmem k Item.zero
  match eccDecode d (Tab.get d.qs.xerr k 0) (x.data.toNat % 2 ^ 64) with
  | (.uncorrectable, v, d1) =>
    ({ x with data := BitVec.ofNat 256 (setBits x.data.toNat 0 64 v), poison := true },
      d1.raise (bqBlock b).1 2 (.dom (d.bqDom b)))
  | (_, v, d1) => ({ x with data := BitVec.ofNat 256 (setBits x.data.toNat 0 64 v) }, d1)

/-! ### Notifications (R119) -/

/-- One notification of queue `b`: the ring's vector at the host port, NOTE and the block's sync object elsewhere. -/
def Dev.bqNotify (d : Dev) (b : Nat) : Dev :=
  if b < 1536 then
    if d.flag (Pg.ring b) Reg.RING.VEC_EN then d.msix (d.rd (Pg.ring b) Reg.RING.VEC) else d
  else
    let pg := (bqBlock b).1
    let d1 := d.hit (Pg.bq b) Reg.BQD.NOTE
    if d1.flag pg Reg.BQR.NOTE_EN then d1.signal (d1.rd pg Reg.BQR.NOTE_OBJ) 1 else d1

/-- The count of a queue without packets rose or fell: notify when it rises to THRESH (R119). -/
def Dev.bqThresh (d : Dev) (b : Nat) : Dev :=
  let a := Pg.bq b
  let th := d.rd a Reg.BQD.THRESH
  let s := d.bqGet b
  if d.bqPkt b || !d.flag a Reg.BQD.NOTIFY_EN || th == 0 then d
  else if d.bqCount b < th then (if s.noted then d.bqSet b { s with noted := false } else d)
  else if s.noted then d
  else (d.bqSet b { s with noted := true }).bqNotify b

/-! ### Writing and reading entries -/

/-- The writer's pointer advances over one entry holding `x`. -/
def Dev.bqWrite (d : Dev) (b : Nat) (x : Item) : Dev :=
  let s := d.bqGet b
  let x1 := { x with poison := x.poison || s.nextPoison }
  let d1 := d.bqStore b s.w x1
  let tail := if d.bqCount b = 0 then some d.cycle else s.tail
  (d1.bqSet b { s with w := (s.w + 1) % d.bqMod b, nextPoison := false, tail := tail, lastW := d.cycle + 1 }).bqThresh b

/-- Write one entry (the caller has seen room). A second one in a cycle is held by its writer until the next cycle (R111). -/
def Dev.bqPush (d : Dev) (b : Nat) (x : Item) : Dev :=
  let s0 := d.bqGet b
  let grow (l : List Nat) : List Nat := l.modify (l.length - 1) (· + 1)
  let s := { s0 with spans := grow s0.spans }
  if s.arr.isEmpty && s.lastW != d.cycle + 1 then (d.bqSet b s).bqWrite b x else d.bqSet b { s with arr := s.arr ++ [x] }

/-- The entries that a queue's packets have left after the oldest entry was read. -/
def spansPop (l : List Nat) : List Nat :=
  match l with
  | [] => []
  | n :: r => if n ≤ 1 then r else (n - 1) :: r

/-- A write while the writer sees FULL (R113). -/
def Dev.bqOverrun (d : Dev) (b : Nat) : Dev :=
  let (pg, _, _) := bqBlock b
  let s := d.bqGet b
  let d1 := d.hit (Pg.bq b) Reg.BQD.OVERRUN
  let d2 := if d1.flag pg Reg.BQR.FIRST_OVR_VALID then d1
    else (d1.wr pg Reg.BQR.FIRST_OVR b).hit pg Reg.BQR.FIRST_OVR_VALID
  let pkt := s.pkt.map (fun p => { p with poison := true, overrun := true })
  (d2.bqSet b { s with nextPoison := true, pkt := pkt }).raise pg 1 (.dom (d.bqDom b))

/-- A writer that cannot wait offers an entry (R112, R113): dropped silently during a queue reset, ignored with OVERRUN when FULL.
`start`: the entry begins a stream unit, so that the poisoning after a queue reset ends (R112). -/
def Dev.bqOffer (d : Dev) (b : Nat) (x : Item) (start : Bool) : Dev :=
  let s := d.bqGet b
  if !d.bqEn b || s.resetting then d
  else
    let d1 := if start && s.unitPoison then d.bqSet b { s with unitPoison := false } else d
    let x1 := if (d1.bqGet b).unitPoison then { Item.poisoned with fsb := x.fsb } else x
    if d1.bqFree b = 0 then d1.bqOverrun b else d1.bqPush b x1

/-- The reader is done with its next `n` entries; its pointer advances over one of them in this cycle, and over the others in the next ones (R111). -/
def Dev.bqRelease (d : Dev) (b n : Nat) : Dev :=
  if n = 0 then d
  else
    let s := d.bqGet b
    let left := d.bqCount b - s.rel - n
    let s1 := { s with freed := s.freed + n, tail := if left = 0 then none else some d.cycle, spans := (spansPop^[n]) s.spans }
    if s.lastR = d.cycle + 1 then d.bqSet b { s1 with rel := s.rel + n }
    else (d.bqSet b { s1 with r := (s.r + 1) % d.bqMod b, rel := s.rel + n - 1, lastR := d.cycle + 1 }).bqThresh b

/-- The reader takes the oldest visible entry. -/
def Dev.bqPop (d : Dev) (b : Nat) : Item × Dev :=
  let (x, d1) := d.bqLoad b (d.bqGet b).pos
  (x, d1.bqRelease b 1)

/-- A queue with frame structure (R291, R366, R381, R391): CSI always, a host ring with FLEN above 0, a Gostan queue always. -/
def Dev.bqFramed (d : Dev) (b : Nat) : Bool := if b < 1536 then Tab.get d.qs.flen b 0 != 0 else decide (b < 2304)

/-- A read entry begins a frame of the domain (R32, R310, DEDUCED, log 11). -/
def Dev.frameBegin (d : Dev) (b : Nat) (fsb : Bool) : Dev :=
  if (fsb || !d.bqFramed b) && decide (b < 2304) then
    let s := d.bqGet b
    let m := d.bqDom b
    let d1 := d.bqSet b { s with frames := s.frames + 1 }
    { d1 with ldr := { d1.ldr with inFrames := Tab.set d1.ldr.inFrames m (max (Tab.get d1.ldr.inFrames m 0) (s.frames + 1)) 0 } }
  else d

/-- The oldest visible entry is a frame start, or the input has no frames: an input that is told to stop stops here (R291). -/
def Dev.bqAtFrameStart (d : Dev) (b : Nat) : Bool :=
  !d.bqFramed b || (decide (0 < d.bqVisible b) && (Tab.get d.qs.xmem (d.bqKey b (d.bqGet b).pos) Item.zero).fsb)

/-! ### Packets (R114 to R118) -/

/-- The length slot of Table 4.7. -/
def lengthSlot (len pseq : Nat) (poison aborted overrun : Bool) (bound dom tag frame time : Nat) : Nat :=
  let b (x : Bool) (i : Nat) := if x then 2 ^ i else 0
  len % 2 ^ 32 + (pseq % 2 ^ 32) * 2 ^ 32 + b poison 64 + b aborted 65 + b overrun 66 + (bound % 64) * 2 ^ 72 +
    (dom % 4) * 2 ^ 78 + (tag % 2 ^ 16) * 2 ^ 80 + (frame % 2 ^ 32) * 2 ^ 96 + (time % 2 ^ 64) * 2 ^ 128

/-- A latched cause whose resolution is due marks frame `f` of domain `m` (R310): the packet closes after the cause. -/
def Dev.markPending (d : Dev) (m f : Nat) : Bool :=
  d.flt.occs.any (fun o => d.attrDom o.attr == some m && decide (1 ≤ (d.targetOf o.attr (d.sevOf (o.page * 4096) o.bit)).1 ∧ f < o.frames))

/-- Payload entries of the open packet that are visible to the reader (R117, R118). -/
def Dev.pktVisible (d : Dev) (b : Nat) : Nat :=
  let s := d.bqGet b
  match s.pkt with
  | none => 0
  | some p => d.bqVisible b - ((p.slot + 1 + d.bqMod b - s.pos % d.bqMod b) % d.bqMod b)

/-- Close the open packet (R116, R118): its slot is written at once when it is aborted, over the entries that are visible, and otherwise as soon as
every payload entry is visible. A frame mark poisons packets of frames up to F (R310). -/
def Dev.pktClose (d : Dev) (b : Nat) (aborted : Bool) : Dev :=
  let s := d.bqGet b
  match s.pkt with
  | none => d
  | some p =>
    let m := d.bqDom b
    let pad := if p.lastValid && !aborted && decide (0 < p.written) then d.rd (Pg.bq b) Reg.BQD.PKT_PAD else 0
    let marked := decide (p.frame < Tab.get d.flt.mark m 0) || d.markPending m p.frame
    let slot := lengthSlot (32 * (if aborted then min p.written (d.pktVisible b) else p.written) - pad) s.pseq (p.poison || marked || aborted) aborted
      p.overrun (p.bound ||| d.boundOf m p.frame) m p.tag p.frame d.fs
    let d1 := if aborted then d.bqStore b p.slot (Item.ofNat slot) else d
    let s1 := { d1.bqGet b with pkt := none, pseq := (s.pseq + 1) % 2 ^ 32, closed := s.closed + 1 }
    -- an aborted packet ends with the entries that its reader has seen
    let e := (p.slot + 1 + min p.written (d.pktVisible b)) % d.bqMod b
    let d2 := d1.bqSet b (if aborted then { s1 with w := e, arr := [], wPub := e, wPrev := e, wFf := [e, e, e] } else { s1 with closing := s1.closing ++ [(p.slot, (s.w + s.arr.length) % d.bqMod b, slot)] })
    d2.wr (Pg.ldom m) Reg.LDOM.FRAME (max (d2.rd (Pg.ldom m) Reg.LDOM.FRAME) (s.closed + 1))

/-- The slot of a packet whose first item has just been taken (R114). -/
def Dev.pktOpen (d : Dev) (b : Nat) : Dev :=
  let s := d.bqGet b
  let (tag, d1) := d.free 16
  let slot := (s.w + s.arr.length) % d.bqMod b
  let d2 := (d1.bqSet b { s with spans := s.spans ++ [0] }).bqPush b (Item.ofNat (0xFFFFFFFF + s.pseq * 2 ^ 32))
  d2.bqSet b { d2.bqGet b with pkt := some ⟨slot, 0, 0, false, false, 0, s.closed, tag, false, false⟩ }

/-- An item from the fabric enters an outbound queue that has room (R114 to R116). -/
def Dev.bqFabricItem (d : Dev) (b : Nat) (x : Item) : Dev :=
  if !d.bqPkt b then d.bqPush b x
  else
    let d1 := if (d.bqGet b).pkt = none then d.pktOpen b else d
    let d2 := if x.valid then d1.bqPush b x else d1
    let s := d2.bqGet b
    match s.pkt with
    | none => d2
    | some p =>
      let p1 := { p with taken := p.taken + 1, written := p.written + (if x.valid then 1 else 0), poison := p.poison || x.poison,
                         lastValid := x.valid }
      let d3 := d2.bqSet b { s with pkt := some p1 }
      if d.rd (Pg.bq b) Reg.BQD.PKT_LEN ≤ p1.taken then d3.pktClose b false else d3

/-- Room that the next item of an outbound queue needs: its entry, and the slot of a packet it opens. -/
def Dev.bqNeed (d : Dev) (b : Nat) : Nat :=
  if d.bqPkt b && (d.bqGet b).pkt.isNone then 2 else 1

/-- A scheduled write from the fabric (R50, R105, R113, Table 2.8 bit 13): an item that finds the queue FULL waits, and a hold source
requests hold. -/
def Dev.bqFabricWrite (d : Dev) (b : Nat) (x : Item) : Dev :=
  let s := d.bqGet b
  if !d.bqEn b || s.resetting then d
  else if s.wait.isEmpty && decide (d.bqNeed b ≤ d.bqFree b) then d.bqFabricItem b x
  else
    let d1 := (d.bqSet b { s with wait := s.wait ++ [x] }).bump (Pg.bq b) Reg.BQD.B_STALL
    if d.flag (Pg.bq b) Reg.BQD.HOLD_SRC then
      let d2 : Dev := { d1 with hold := { d1.hold with missed := b :: d1.hold.missed } }
      if b < 2304 then d2.setBound (d.bqDom b) 13 else d2
    else d1

/-- A waiting item enters once there is room. -/
def Dev.bqDrainWait (d : Dev) (b : Nat) : Dev :=
  let s := d.bqGet b
  match s.wait with
  | [] => d
  | x :: rest => if d.bqNeed b ≤ d.bqFree b then (d.bqSet b { s with wait := rest }).bqFabricItem b x else d

/-- Abort the open packet of a queue (R118). -/
def Dev.pktAbort (d : Dev) (b : Nat) : Dev := d.pktClose b true

/-- Enabled boundary queues whose descriptors are listed. -/
def Dev.listedBqs (d : Dev) : List Nat :=
  d.regs.filterMap (fun e =>
    let lo := 0x400000 + 61440 * 8
    if lo ≤ e.1 ∧ e.1 < lo + 4096 * 8 ∧ e.1 % 8 = 0 ∧ bitAt e.2.toNat 4 then some ((e.1 - lo) / 8) else none)

/-- Boundary queues of a domain. -/
def Dev.domBqs (d : Dev) (m : Nat) : List Nat := d.listedBqs.filter (fun b => d.bqDom b == m)

/-- Abort every open packet of a domain (R118, R315). -/
def Dev.abortPackets (d : Dev) (m : Nat) : Dev := d.each (d.domBqs m) (fun d b => d.pktAbort b)

/-- A Gostan queue starts again from empty: an outbound stream counts its items from 0, an inbound one owes a credit record with RST
(R390). -/
def Dev.glRestart (d : Dev) (b : Nat) : Dev :=
  if b < 1792 ∨ 2304 ≤ b then d
  else
    let k := (b - 1792) / 256
    let s := (b - 1792) % 256
    let g := Tab.get d.links.gl k GlSt.zero
    let g1 : GlSt := if d.bqOut b then { g with sent := Tab.set g.sent s 0 0 } else { g with adv := Tab.set g.adv s 0 0 }
    { d with links := { d.links with gl := Tab.set d.links.gl k g1 GlSt.zero } }

/-- Discard the contents of a boundary queue with pointers 0 (R298, Table 9.9). -/
def Dev.bqEmpty (d : Dev) (b : Nat) : Dev :=
  let s := d.bqGet b
  (d.glRestart b).bqSet b { BqSt.zero with
    pseq := s.pseq, closed := s.closed, frames := s.frames, stopWanted := s.stopWanted, stopped := s.stopped, dropping := s.dropping,
    fcnt := s.fcnt }

/-! ### Queue resets (R112) -/

/-- QUEUE_RESET_DONE: RESETTING clears and the writers of an inbound class A queue insert the replacement entries (R112). -/
def Dev.queueResetDone (d : Dev) (b : Nat) : Dev :=
  let s := d.bqGet b
  if !s.resetting then d
  else
    let d1 := d.bqSet b { s with resetting := false, owed := 0 }
    d1.each (List.range s.owed) (fun d _ => d.bqPush b Item.poisoned)

/-! ### Scheduled reads and writes at the edge -/

/-- A scheduled read found EMPTY: the trick passes unused, and a hold source requests hold (R50, Table 4.6). -/
def Dev.bqMissRead (d : Dev) (b : Nat) : Dev :=
  let d1 := (d.bump (Pg.bq b) Reg.BQD.B_STALL).bump (bqBlock b).1 Reg.HDR.STALL_IN (if 1536 ≤ b ∧ b < 1792 then 1 else 0)
  if d.flag (Pg.bq b) Reg.BQD.HOLD_SRC then { d1 with hold := { d1.hold with missed := b :: d1.hold.missed } } else d1

/-- Width of an item on a network (R364). -/
def Item.narrow (x : Item) (net : Nat) : Item :=
  { x with data := BitVec.ofNat 256 (x.data.toNat % 2 ^ (if net = 0 then 256 else if net = 1 then 32 else 16)) }

/-- Edge counter of the attachment core that meters inbound queue `b` (R103, R247, DESIGN CHOICE, log 14): the stream's CNT at a fetch engine; CNT of
the queue's credit target at the host port and the Gostan links; the port-relative index modulo 16 at a CSI port. -/
def Dev.edgeCnt (d : Dev) (b : Nat) : Nat :=
  if 2304 ≤ b then
    let f := (b - 2304) / 224
    let i := (b - 2304) % 224
    match (List.range 64).find? (fun s =>
      let a := Pg.sdesc f s
      let k := d.rd a Reg.SDESC.KIND
      d.flag a Reg.SDESC.EN && ((k == 1 || k == 3) && d.rd a Reg.SDESC.BQ == i || k == 4 && d.rd a Reg.SDESC.BQ + 1 == i)) with
    | some s => d.rd (Pg.sdesc f s) Reg.SDESC.CNT
    | none => 0
  else if 1536 ≤ b ∧ b < 1792 then (b - 1536) % 16
  else bitsOf (Tab.get d.qs.ctgt b 0) 0 4

/-- The attachment node at core `c` reads inbound queue `b` in its trick (R110, R103, R291, R364). -/
def Dev.edgeRead (d : Dev) (c b net : Nat) : Option Flit × Dev :=
  let s := d.bqGet b
  -- at a segment's last frame boundary the attachment stops reading, and nothing is discarded (R58)
  let ends := s.stopWanted || (Tab.get d.ldr.segDrain (d.bqDom b) false && decide (b < 2304))
  if !d.bqEn b || d.bqOut b || s.stopped || (ends && d.bqAtFrameStart b) then (none, d)
  else if d.bqVisible b = 0 then (none, d.bqMissRead b)
  else if !d.creditOk c 13 (d.edgeCnt b) 1 then (none, d)
  else
    let (x, d1) := d.bqPop b
    let d2 := (d1.creditTake c 13 (d.edgeCnt b) 1).frameBegin b x.fsb
    (some ⟨{ x with fsb := false }.narrow net, d.bqDom b, false, 0⟩, d2)

/-- Inbound (or outbound) queues of a fetch engine that serve a network for a domain (R243, R247; the manual names no edge table for
a fetch engine, DEDUCED, log 13). -/
def Dev.fetchQueues (d : Dev) (f m net : Nat) (outbound : Bool) : List Nat :=
  (List.range 64).filterMap (fun s =>
    let a := Pg.sdesc f s
    let k := d.rd a Reg.SDESC.KIND
    if !d.flag a Reg.SDESC.EN || d.rd a Reg.SDESC.DOM != m then none
    else
      let b := 2304 + 224 * f + d.rd a Reg.SDESC.BQ
      if outbound then
        (if k = 5 ∧ net = 0 then some b else if k = 4 ∧ net = 1 then some b else none)
      else
        (if k = 1 ∧ net = 0 then some b else if k = 3 ∧ net = 1 then some b else if k = 4 ∧ net = 0 then some (b + 1) else none))

/-- Table of the edge block and the entry of trick `t`: DIR 0 landing, 1 presentation; none for blocks without tables. -/
def Edge.table (e : Edge) (dir net : Nat) : Option Nat :=
  match e with
  | .host l => some (6 * dir + 3 * l + net)
  | .csi n => if dir = 1 ∧ net = 0 then some (12 + n) else none
  | .gl k => some (16 + 6 * k + 3 * dir + net)
  | .fetch _ | .rank _ => none

def Dev.edgeEntry (d : Dev) (tbl t : Nat) : Nat := Tab.get d.fab.et (d.bankKey (Bank.edge tbl) tbl t false) 0

/-- Domain m's outbound queues of fetch engine f that owe credit words: not hold sources, entries freed (R105). -/
def Dev.fetchCredits (d : Dev) (f m : Nat) : List Nat :=
  (d.fetchQueues f m 0 true ++ d.fetchQueues f m 1 true).filter (fun b =>
    d.bqEn b && d.bqOut b && !d.flag (Pg.bq b) Reg.BQD.HOLD_SRC && decide (0 < (d.bqGet b).freed))

/-- The credit word of outbound fetch queue b: it carries the entries freed since the last one (R105). A fetch engine has no
    credit target of its own, so the counter and the unit that the word names are a free value (log 147, DESIGN CHOICE). -/
def Dev.fetchCredit (d : Dev) (b m : Nat) : Option Flit × Dev :=
  let s := d.bqGet b
  let n := min s.freed 0xFFFFF
  let tgt := Config.free d.fv
  (some ⟨creditWord (bitsOf tgt 0 4) (bitsOf tgt 4 4) n, m, false, 0⟩,
    ({ d with fv := d.fv + 1 } : Dev).bqSet b { s with freed := s.freed - n })

/-- An edge block presents on its attachment link in trick `t` of domain `m` (R364, R385, R391, R247): an item only while the domain runs
(DEDUCED, log 161). -/
def Dev.edgePresent (d : Dev) (e : Edge) (net m t : Nat) : Option Flit × Dev :=
  let c := e.node.1
  match e.table 1 net with
  | some tbl =>
    let ent := d.edgeEntry tbl t
    let b := e.bq (ent % 2048)
    if !bitAt ent 12 then (none, d)
    else if bitAt ent 11 then
      if net ≠ 1 then (none, d)
      else
        let s := d.bqGet b
        let n := min s.freed 0xFFFFF
        if n = 0 ∨ d.bqOut b = false then (none, d)
        else
          let tgt := Tab.get d.qs.ctgt b 0
          (some ⟨creditWord (bitsOf tgt 0 4) (bitsOf tgt 4 4) n, m, false, 0⟩, d.bqSet b { s with freed := s.freed - n })
    else if !d.running m then (none, d)
    else d.edgeRead c b net
  | none =>
    match e with
    | .fetch f =>
      let qs := d.fetchQueues f m net false
      let ready := qs.filter (fun b => d.bqEn b && decide (0 < d.bqVisible b) && d.creditOk c 13 (d.edgeCnt b) 1) ++
        (if net = 1 then d.fetchCredits f m else [])
      if ready.isEmpty then
        let (i, d1) := d.choose qs.length
        (none, match qs[i]? with | some b => if d.bqVisible b = 0 then d1.bqMissRead b else d1 | none => d1)
      else
        let (i, d1) := d.choose ready.length
        match ready[i]? with
        | some b => if d1.bqOut b then d1.fetchCredit b m else d1.edgeRead c b net
        | none => (none, d1)
    | _ => (none, d)

/-- An edge block takes the class A item of its attachment node that arrives in trick `t` of domain `m` (R364, R374, R391, R247). -/
def Dev.edgeLand (d : Dev) (e : Edge) (net m t : Nat) (fl : Flit) : Dev :=
  match e.table 0 net with
  | some tbl =>
    let ent := d.edgeEntry tbl t
    let b := e.bq (ent % 2048)
    let pg := (bqBlock (e.bq 0)).1
    if !bitAt ent 12 then
      (match e with
        | .host _ => d.bump Pg.host Reg.HOSTPORT.LAND_DROP
        | _ => d).raise pg 1 (.dom m)
    else d.bqFabricWrite b (fl.item.narrow net)
  | none =>
    match e with
    | .fetch f =>
      let qs := (d.fetchQueues f m net true).filter (fun b => d.bqEn b)
      let (i, d1) := d.choose qs.length
      match qs[i]? with
      | some b => d1.bqFabricWrite b (fl.item.narrow net)
      | none => d1.raise (Pg.fetch f) 1 (.dom m)
    | .rank r =>
      if net = 1 then
        let w := fl.item.data.toNat % 2 ^ 32
        { d with qs := { d.qs with sigIn := Tab.set d.qs.sigIn r (Tab.get d.qs.sigIn r [] ++ [w]) [] } }
      else d
    | _ => d

/-- INPUT_FRAME_STOP: a class A input that was told to stop has reached its next frame start. The attachment stops reading, what has
arrived of later frames is discarded, and the writer enters frame discard (R291). -/
def Dev.inputFrameStop (d : Dev) (b : Nat) : Dev :=
  let s := d.bqGet b
  if !s.stopWanted || s.stopped || !d.bqAtFrameStart b then d
  else
    let n := d.bqCount b - s.rel
    let starts := if d.bqFramed b then
        ((List.range n).filter (fun i => (Tab.get d.qs.xmem (d.bqKey b (s.pos + i)) Item.zero).fsb)).length + (s.arr.filter (·.fsb)).length
      else n + s.arr.length
    let d1 := (d.bqSet b { s with stopped := true, dropping := true, arr := [] }).bqRelease b n
    d1.bump (Pg.ldom (d.bqDom b)) Reg.LDOM.SKIPPED starts

/-- INPUT_FRAME_RESUME: the domain re-entered RUNNING; the input resumes at its next frame start (R291). -/
def Dev.inputFrameResume (d : Dev) (b : Nat) : Dev :=
  let s := d.bqGet b
  if s.stopped && d.dstate (d.bqDom b) == stRUNNING then
    d.bqSet b { s with stopped := false, stopWanted := false, dropping := d.bqFramed b }
  else d

/-- Class A inputs of a domain from outside the device: CSI, host and Gostan queues (R291). -/
def Dev.domInputs (d : Dev) (m : Nat) : List Nat :=
  (d.domBqs m).filter (fun b => decide (b < 2304) && !d.bqOut b && d.rd (Pg.bq b) Reg.BQD.CLS == 1)

/-- Tell every input of a domain to stop at its next frame start (R291). -/
def Dev.stopInputs (d : Dev) (m : Nat) : Dev :=
  d.each (d.domInputs m) (fun d b => d.bqSet b { d.bqGet b with stopWanted := true })

/-- Every input enters frame discard at once (Tables 9.9 and 10.4). -/
def Dev.discardInputs (d : Dev) (m : Nat) : Dev :=
  d.each (d.domInputs m) (fun d b => d.bqSet b { d.bqGet b with stopWanted := true, stopped := true, dropping := true })

/-- A frame start reaches the writer of an input: whether it is accepted; a discarded frame counts in SKIPPED (R291). -/
def Dev.writerFrameStart (d : Dev) (b : Nat) : Bool × Dev :=
  let s := d.bqGet b
  if s.stopped then (false, (d.bqSet b { s with dropping := true }).bump (Pg.ldom (d.bqDom b)) Reg.LDOM.SKIPPED)
  else (true, if s.dropping then d.bqSet b { s with dropping := false } else d)

end Sys2Proof.Machine
end

