-- ==== Sys2Proof/Machine/Packets.lean ====
section
/-!
DEFINITION. Class B and C packets (R86 to R92): headers, routes, sending at an endpoint, forwarding at a node.
-/

namespace Sys2Proof.Machine

/-! ### Headers (Table 3.7) -/

def Hdr.dest (h : Nat) : Nat := bitsOf h 0 6
def Hdr.waypoint (h : Nat) : Nat := bitsOf h 6 6
def Hdr.wpv (h : Nat) : Bool := bitAt h 12
def Hdr.kind (h : Nat) : Nat := bitsOf h 13 3
def Hdr.len (h : Nat) : Nat := bitsOf h 16 10
def Hdr.srcn (h : Nat) : Nat := bitsOf h 26 6
def Hdr.target (h : Nat) : Nat := bitsOf h 32 16
def Hdr.addr (h : Nat) : Nat := bitsOf h 48 48
def Hdr.txid (h : Nat) : Nat := bitsOf h 96 32
def Hdr.psum (h : Nat) : Bool := bitAt h 128
/-- Class of a packet taken from an endpoint: 0 B, 1 C. -/
def Hdr.cls (h : Nat) : Nat := bitsOf h 255 1

/-- Build a header. -/
def Hdr.mk (dest way : Nat) (wpv : Bool) (kind len srcn target addr txid : Nat) (psum : Bool) : Nat :=
  dest % 64 + (way % 64) * 2 ^ 6 + (if wpv then 2 ^ 12 else 0) + (kind % 8) * 2 ^ 13 + (len % 1024) * 2 ^ 16 + (srcn % 64) * 2 ^ 26 +
    (target % 2 ^ 16) * 2 ^ 32 + (addr % 2 ^ 48) * 2 ^ 48 + (txid % 2 ^ 32) * 2 ^ 96 + (if psum then 2 ^ 128 else 0)

/-- A node code that names an endpoint (Table 3.6). -/
def endpointCode (n : Nat) : Bool := decide (n < 40) || n == 44 || n == 45 || n == 46

/-! ### Routes (R88 to R90) -/

/-- Nodes of a leg in dimension order: east or west first, then north or south. -/
def legNodes (a b : Nat) : List Nat :=
  let fa := fileOf a
  let fb := fileOf b
  let ra := rankOf a
  let rb := rankOf b
  let row := if fa ≤ fb then (List.range (fb - fa + 1)).map (fun i => ra * 8 + fa + i)
    else (List.range (fa - fb + 1)).map (fun i => ra * 8 + fa - i)
  let col := if ra ≤ rb then (List.range (rb - ra)).map (fun i => (ra + 1 + i) * 8 + fb)
    else (List.range (ra - rb)).map (fun i => (ra - 1 - i) * 8 + fb)
  row ++ col

/-- Attachment core of an endpoint; for the host port the one of the given file half (R88). -/
def attachCore (code file : Nat) : Nat :=
  if code < 32 then code
  else if code < 40 then code - 32
  else if code = 45 then 25
  else if code = 46 then 30
  else if file < 4 then 27 else 28

/-- File in which a packet's final leg starts when it has no waypoint. -/
def sourceFile (code : Nat) : Nat :=
  if code < 32 then fileOf code else if code < 40 then code - 32 else if code = 45 then 1 else if code = 46 then 6 else 0

/-- A candidate route: entry core, waypoint, and its nodes. -/
def routeOf (src dest : Nat) (way : Option Nat) : Nat × List Nat :=
  let tgt := attachCore dest (match way with | some w => fileOf w | none => sourceFile src)
  let first := way.getD tgt
  let entry := attachCore src (fileOf first)
  match way with
  | none => (entry, legNodes entry tgt)
  | some w => (entry, legNodes entry w ++ legNodes w tgt)

/-- Candidates of R90 in order. The host port has no file of its own: the source's file of candidate 2 is that of the core, d4 or e4, by
which the packet enters for the destination's file (DESIGN CHOICE, log 129). -/
def wayCandidates (src dest : Nat) : List (Option Nat) :=
  let tgt := attachCore dest (sourceFile src)
  none :: some (rankOf tgt * 8 + fileOf (attachCore src (fileOf tgt))) :: (List.range 32).map some

/-- The first candidate whose legs pass no isolated node, by the endpoint's copy of the map (R90). -/
def chooseWay (map src dest : Nat) : Option (Option Nat) :=
  (wayCandidates src dest).find? (fun w => (routeOf src dest w).2.all (fun n => !bitAt map n))

/-- Node input at which an endpoint's packets enter: 4 for a bulk port, else the direction of its link. -/
def entryInput (code : Nat) : Nat := if code < 32 then 4 else if code < 40 then 2 else 0

/-- Key of a class B or C buffer. -/
def bufKey (c i k lane : Nat) : Nat := ((5 * c + i) * 2 + k) * 2 + lane

/-- A packet that its destination acknowledges or answers: a read request, a B tile write with ACKREQ, a spill packet at a fetch
engine (R217, R249). -/
def Hdr.answered (h : Nat) : Bool :=
  Hdr.kind h == 3 || (Hdr.kind h == 0 && (bitAt (Hdr.target h) 2 || decide (32 ≤ Hdr.dest h ∧ Hdr.dest h < 40)))

/-- Start a packet from endpoint `src` on the route by `way`; its flits enter the first node as places become free (R91). -/
def Dev.launch (d : Dev) (src : Nat) (way : Option Nat) (p : Parked) : Dev :=
  let dest := Hdr.dest p.hdr
  let h := setBits (setBits p.hdr 6 6 (way.getD 0)) 12 1 (if way.isSome then 1 else 0)
  let n := p.items.length
  let hf : BFlit := ⟨{ Item.ofNat h with valid := false, poison := Hdr.psum h }, true, n == 0, p.own⟩
  let fl := p.items.zipIdx.map (fun xi => (⟨xi.1, false, xi.2 + 1 == n, p.own⟩ : BFlit))
  let key := bufKey (routeOf src dest way).1 (entryInput src) p.cls (if way.isSome then 0 else 1)
  let k := 64 * src + dest
  { d with fab := { d.fab with
      send := Tab.set d.fab.send key (Tab.get d.fab.send key [] ++ hf :: fl) []
      way := Tab.set d.fab.way k (some way) none
      owed := if Hdr.answered h then Tab.set d.fab.owed k (Tab.get d.fab.owed k 0 + 1) 0 else d.fab.owed } }

/-- The route that endpoint `src` chooses for a packet by its copy of the isolated-node map; none: ROUTE_ABSENT in the XNODE page of the
core at which the packet would have entered (R90). -/
def Dev.pickWay (d : Dev) (src dest : Nat) (dom : Option Nat) : Option (Option Nat) × Dev :=
  match chooseWay (Tab.get d.fab.isoCopy src 0) src dest with
  | some way => (some way, d)
  | none => (none, d.raise (Pg.xnode (attachCore src (fileOf (attachCore dest (sourceFile src))))) 2 (attrOpt dom))

/-- Packets to the destination wait: the route would change while packets on the old one are not acknowledged or answered (R91). -/
def Dev.mustPark (d : Dev) (src dest : Nat) (way : Option Nat) : Bool :=
  let k := 64 * src + dest
  !(Tab.get d.fab.parked k []).isEmpty ||
    (decide (0 < Tab.get d.fab.owed k 0) && (match Tab.get d.fab.way k none with | some w => w != way | none => false))

/-- Send a packet from endpoint `src` (R87, R90, R91): `cls` 0 for B and 1 for C; `dom` is the domain it is sent for, `own` the fetch stream
(R259). `false`: no route passes. A record of the loader for the host port, whose endpoint it shares (R86), reaches it there (DEDUCED, log 47). -/
def Dev.sendPacket (d : Dev) (src dest kind target addr txid cls : Nat) (payload : List Item) (dom : Option Nat)
    (psum : Bool := false) (own : Nat := 0) : Bool × Dev :=
  let h := Hdr.mk dest 0 false kind payload.length src target addr txid (psum || payload.any (·.poison))
  if src = 44 ∧ dest = 44 then
    let items := { Item.ofNat h with valid := false, fsb := cls == 1 } :: payload
    (true, { d with fab := { d.fab with inPk := Tab.set d.fab.inPk 44 (Tab.get d.fab.inPk 44 [] ++ [items]) [] } })
  else
    let p : Parked := ⟨h, cls, payload, dom, own⟩
    match d.pickWay src dest dom with
    | (none, d1) => (false, d1)
    | (some way, d1) =>
      let k := 64 * src + dest
      (true, if d1.mustPark src dest way then
          { d1 with fab := { d1.fab with parked := Tab.set d1.fab.parked k (Tab.get d1.fab.parked k [] ++ [p]) [] } }
        else d1.launch src way p)

/-- A packet from `src` to `dest` was acknowledged or answered; after the last one the packets that wait go on their new route (R91). -/
def Dev.owedDone (d : Dev) (src dest : Nat) : Dev :=
  let k := 64 * src + dest
  let n := Tab.get d.fab.owed k 0 - 1
  let d1 : Dev := { d with fab := { d.fab with owed := Tab.set d.fab.owed k n 0 } }
  if n = 0 then
    ({ d1 with fab := { d1.fab with parked := Tab.set d1.fab.parked k [] [] } } : Dev).each (Tab.get d1.fab.parked k []) (fun d p =>
      match d.pickWay src dest p.dom with
      | (none, d1) => d1
      | (some way, d1) => d1.launch src way p)
  else d1

/-- The next transaction number of an endpoint. -/
def Dev.nextTxid (d : Dev) (code : Nat) : Nat × Dev :=
  let n := Tab.get d.fab.txid code 0
  (n, { d with fab := { d.fab with txid := Tab.set d.fab.txid code ((n + 1) % 2 ^ 32) 0 } })

/-! ### Forwarding -/

/-- Port 64 stands for the discard of the packet. -/
def dropPort : Nat := 64

/-- Output port and lane for a packet header at node `c` on `lane` (R88, R89). -/
def routeStep (c h lane : Nat) : Nat × Nat :=
  let firstLeg := Hdr.wpv h && lane == 0 && c != Hdr.waypoint h
  let file := if Hdr.wpv h then fileOf (Hdr.waypoint h) else sourceFile (Hdr.srcn h)
  let tgt := if firstLeg then Hdr.waypoint h else attachCore (Hdr.dest h) file
  let out := if firstLeg then 0 else 1
  if fileOf c < fileOf tgt then (1, out)
  else if fileOf tgt < fileOf c then (3, out)
  else if rankOf c < rankOf tgt then (0, out)
  else if rankOf tgt < rankOf c then (2, out)
  else if Hdr.dest h < 32 then (30, out)
  else if Hdr.dest h < 40 then (2, out)
  else (0, out)

/-- Endpoint behind output port `p` of node `c`, when it has one: the bulk port, or the endpoint of an edge block. -/
def endpointAt (c p : Nat) : Option Nat :=
  if p = 30 then some c
  else if p < 4 ∧ (neighbour c p).isNone then
    match edgeAt c p 0 with
    | some (.fetch f) => some (32 + f)
    | some (.host _) => some 44
    | some (.gl k) => some (45 + k)
    | _ => none
  else none

/-- Direction opposite to a mesh direction. -/
def opposite (dir : Nat) : Nat := (dir + 2) % 4

/-- Remove the flits at the front of a buffer up to and including the TAIL, as far as they have arrived. -/
def dropFlits : List BFlit → List BFlit × Bool
  | [] => ([], false)
  | f :: r => if f.tail then (r, true) else dropFlits r

/-- Discard the packet at the front of a buffer. -/
def Dev.dropFront (d : Dev) (key : Nat) : Dev :=
  let (rest, done) := dropFlits (Tab.get d.fab.buf key [])
  { d with fab := { d.fab with
      buf := Tab.set d.fab.buf key rest []
      route := Tab.set d.fab.route key (if done then none else some (dropPort, 0)) none } }

/-- A discard that counts and raises BC_DROP (R87, R90). -/
def Dev.bcDrop (d : Dev) (c : Nat) : Dev := (d.bump (Pg.xnode c) Reg.XNODE.BC_DROP_CNT).raise (Pg.xnode c) 5 .none_

/-- The switch node of a fenced core answers a packet to its bulk port (R85). -/
def Dev.fencedAnswer (d : Dev) (c h cls : Nat) : Dev :=
  let d1 := d.bump (Pg.xnode c) Reg.XNODE.BC_DROP_CNT
  if Hdr.kind h = 3 then
    let rlen := bitsOf (Hdr.target h) 6 10 + 1
    let n := if rlen = 1024 then 0 else rlen
    (d1.sendPacket c (Hdr.srcn h) 4 (Hdr.target h) (Hdr.addr h) (Hdr.txid h) cls
      (List.replicate n Item.poisoned) none true).2
  else if Hdr.kind h = 0 ∧ bitAt (Hdr.target h) 2 then
    (d1.sendPacket c (Hdr.srcn h) 5 (Hdr.target h) (Hdr.addr h) (Hdr.txid h) cls [] none true).2
  else d1

/-- Inputs of node `c` whose front packet waits for lane `out` of port `p` in class `k`, by input then lane. -/
def Dev.waiters (d : Dev) (c p k out : Nat) : List Nat :=
  (List.range 10).filter (fun j =>
    let key := bufKey c (j / 2) k (j % 2)
    (Tab.get d.fab.route key none).isNone &&
      (match Tab.get d.fab.buf key [] with
        | f :: _ => f.head && routeStep c f.item.data.toNat (j % 2) == (p, out)
        | [] => false))

/-- Give the output lane when it is free, round-robin by input. -/
def Dev.grant (d : Dev) (c key i l k p out : Nat) : Dev :=
  let lk := ((64 * c + p) * 2 + k) * 2 + out
  if (Tab.get d.fab.lane lk none).isSome then d
  else
    let ws := d.waiters c p k out
    let r := Tab.get d.fab.rr lk 0
    let next := match ws.find? (fun j => decide (r ≤ j)) with | some j => some j | none => ws.head?
    if next = some (2 * i + l) then
      { d with fab := { d.fab with
          lane := Tab.set d.fab.lane lk (some key) none
          route := Tab.set d.fab.route key (some (p, out)) none
          rr := Tab.set d.fab.rr lk ((2 * i + l + 1) % 10) 0 } }
    else d

/-- LEN disagrees with TAIL, as far as the packet has arrived: TAIL at another flit than the LEN-th, or more flits without it (R87,
log 130). -/
def lenWrong (l : List BFlit) (n : Nat) : Bool :=
  match l.findIdx? (fun f => f.tail) with
  | some j => j != n
  | none => decide (n < l.length)

/-- PACKET_FORWARD: the packet at the front of input `i`, class `k`, lane `l` of node `c` is checked and given an output lane when that is
free and its turn among the waiting inputs has come (R85, R87 to R91). -/
def Dev.packetForward (d : Dev) (c i k l : Nat) : Dev :=
  let key := bufKey c i k l
  if d.isolated c then d
  else match Tab.get d.fab.route key none with
  | some (p, _) => if p = dropPort then d.dropFront key else d
  | none =>
    match Tab.get d.fab.buf key [] with
    | [] => d
    | f :: r =>
      let h := f.item.data.toNat
      if !f.head then d.dropFront key
      else if Hdr.kind h = 7 ∨ lenWrong (f :: r) (Hdr.len h) = true ∨ !endpointCode (Hdr.dest h) then
        (d.dropFront key).bcDrop c
      else
        let (p, out) := routeStep c h l
        match portDir p with
        | some dir =>
          (match neighbour c dir with
            | some n =>
              if d.isolated n then (d.dropFront key).bcDrop c else d.grant c key i l k p out
            | none => d.grant c key i l k p out)
        | none => if d.fenced c then (d.dropFront key).fencedAnswer c h k else d.grant c key i l k p out

/-- Places of a buffer that are taken, by flits in it or on the link to it (R91). -/
def Dev.bufUsed (d : Dev) (key : Nat) : Nat :=
  (Tab.get d.fab.buf key []).length + (d.fab.bufNxt.filter (fun e => e.1 == key)).length

/-- A flit of class `k` on lane `out` may leave port `p` of node `c`: the buffer downstream has a place (R91). One for an isolated
neighbour is discarded there and needs none (R90). -/
def Dev.bcRoom (d : Dev) (c p k out : Nat) : Bool :=
  match portDir p with
  | some dir =>
    (match neighbour c dir with
      | some n => d.isolated n || decide (d.bufUsed (bufKey n (opposite dir) k out) < 4)
      | none => true)
  | none => true

/-- Flits of class `k` that may leave port `p` of node `c` now: buffer keys and lanes (R81). -/
def Dev.eligible (d : Dev) (c p k : Nat) : List (Nat × Nat) :=
  (List.range 2).filterMap (fun out =>
    match Tab.get d.fab.lane (((64 * c + p) * 2 + k) * 2 + out) none with
    | some key => if (Tab.get d.fab.buf key []).isEmpty || !d.bcRoom c p k out then none else some (key, out)
    | none => none)

/-- A flit reaches an endpoint; its last flit makes the packet complete (R92). A packet for the bulk port of a fenced core is answered by its
switch node instead, be it granted the port before the fence (R23, R85). -/
def Dev.endpointFlit (d : Dev) (code k lane : Nat) (f : BFlit) : Dev :=
  let key := (code * 2 + k) * 2 + lane
  -- the class that a packet came in stands in the frame-start bit of its header, which no packet carries
  let items := Tab.get d.fab.inbox key [] ++ [if f.head then { f.item with fsb := k == 1 } else f.item]
  if f.tail then
    let d1 : Dev := { d with fab := { d.fab with inbox := Tab.set d.fab.inbox key [] [] } }
    if code < 32 ∧ d.fenced code = true then d1.fencedAnswer code (items.headD Item.zero).data.toNat k
    else { d1 with fab := { d1.fab with inPk := Tab.set d1.fab.inPk code (Tab.get d1.fab.inPk code [] ++ [items]) [] } }
  else { d with fab := { d.fab with inbox := Tab.set d.fab.inbox key items [] } }

/-- Send the front flit of buffer `key` through port `p` on lane `out` (R81, R91). -/
def Dev.sendFlit (d : Dev) (c p k key out : Nat) : Dev :=
  match Tab.get d.fab.buf key [] with
  | [] => d
  | f :: rest =>
    let d1 : Dev := { d with fab := { d.fab with buf := Tab.set d.fab.buf key rest [], bcSent := c :: d.fab.bcSent } }
    let d2 : Dev := if f.tail then
        { d1 with fab := { d1.fab with
            lane := Tab.set d1.fab.lane (((64 * c + p) * 2 + k) * 2 + out) none none
            route := Tab.set d1.fab.route key none none } }
      else d1
    let d3 := d2.count (Pg.xnode c) 0xCF (2 + k)
    match endpointAt c p with
    | some code => d3.endpointFlit code k out f
    | none =>
      match portDir p with
      | some dir =>
        (match neighbour c dir with
          | some n =>
            if d3.isolated n then
              -- the packet meets an isolated neighbour
              (if f.tail then d3 else
                { d3 with fab := { d3.fab with
                    lane := Tab.set d3.fab.lane (((64 * c + p) * 2 + k) * 2 + out) none none
                    route := Tab.set d3.fab.route key (some (dropPort, 0)) none } }).bcDrop c
            else
              { d3 with fab := { d3.fab with bufNxt := d3.fab.bufNxt ++ [(bufKey n (opposite dir) k out, f)] } }
          | none => d3)
      | none => d3

/-- Deal the cycle of port `p` to classes B and C in the pattern B, B, B, C (R81, R29). -/
def Dev.dealBC (d : Dev) (c p : Nat) : Dev :=
  if portNet p ≠ some 0 then d
  else
    let eb := d.eligible c p 0
    let ec := d.eligible c p 1
    let pos := Tab.get d.fab.deal (64 * c + p) 0
    let pick := if eb.isEmpty then (if ec.isEmpty then none else some 1)
      else if ec.isEmpty then some 0 else some (if pos = 3 then 1 else 0)
    match pick with
    | none => d
    | some k =>
      let es := if k = 0 then eb else ec
      let (i, d1) := d.choose es.length
      let d2 : Dev := { d1 with fab := { d1.fab with deal := Tab.set d1.fab.deal (64 * c + p) ((pos + 1) % 4) 0 } }
      match es[i]? with
      | some (key, out) => d2.sendFlit c p k key out
      | none => d2

/-! ### One cycle on the links -/

/-- A flit enters the buffer of a node input. Its parity is checked there (R73); an isolated node accepts nothing (R85), and a packet that
is cut so is discarded where it was sent. -/
def Dev.bufEnter (d : Dev) (key : Nat) (f : BFlit) : Dev :=
  let c := key / 20
  if d.isolated c then (if f.tail then d.bcDrop c else d)
  else
    let (pat, d1) := d.armedFor 5 (Pg.xnode c / 4096)
    let f1 : BFlit := if pat = 0 then f else { f with item := { f.item with poison := true } }
    let d2 : Dev := { d1 with fab := { d1.fab with buf := Tab.set d1.fab.buf key (Tab.get d1.fab.buf key [] ++ [f1]) [] } }
    if pat = 0 then d2 else d2.raise (Pg.xnode c) 4 .none_

/-- A packet at node `c` holds an output lane, and the flit it would send has no place downstream. -/
def Dev.bcBlocked (d : Dev) (c : Nat) : Bool :=
  d.fab.buf.any (fun e => decide (e.1 / 20 = c) && !e.2.isEmpty &&
    (match Tab.get d.fab.route e.1 none with
      | some (p, out) => decide (p ≠ dropPort) && !d.bcRoom c p (e.1 / 2 % 2) out
      | none => false))

/-- Each endpoint sends one flit into the first node of its link, into a buffer with a place; of several such buffers the turn goes round
with the cycles (R91; DESIGN CHOICE, log 131). -/
def Dev.tickSend (d : Dev) : Dev :=
  let ready := (d.fab.send.filter (fun e => decide (d.bufUsed e.1 < 4) || d.isolated (e.1 / 20))).map (·.1)
  let links := ready.foldl (fun l k => insertKey (k / 4) l) []
  d.each links (fun d a =>
    let ks := ready.filter (fun k => k / 4 == a)
    match ks[d.cycle % ks.length]? with
    | none => d
    | some k =>
      match Tab.get d.fab.send k [] with
      | [] => d
      | f :: rest => ({ d with fab := { d.fab with send := Tab.set d.fab.send k rest [] } } : Dev).bufEnter k f)

/-- Class B and C flits in one cycle: the stall counts of R94, then the flits on the links enter their buffers (R92). -/
def Dev.tickPackets (d : Dev) : Dev :=
  let ns := d.fab.buf.foldl (fun l e => insertKey (e.1 / 20) l) []
  let d1 := d.each ns (fun d c =>
    let d0 := if d.fab.bcSent.contains c then d else d.bump (Pg.xnode c) Reg.HDR.STALL_IN
    if d0.bcBlocked c then d0.bump (Pg.xnode c) Reg.HDR.STALL_OUT else d0)
  let arr := d1.fab.bufNxt
  (({ d1 with fab := { d1.fab with bcSent := [], bufNxt := [] } } : Dev).each arr (fun d e => d.bufEnter e.1 e.2)).tickSend

/-! ### A core is fenced (R23) -/

/-- A flit that has still to be sent for a stream that was cancelled: payload is zero and poisoned, a header carries PSUM (R259). -/
def BFlit.cut (f : BFlit) : BFlit :=
  if f.head then { f with item := { f.item with poison := true, data := f.item.data ||| 1 <<< 128 } }
  else { f with item := Item.poisoned }

/-- The flits of stream `own` that have not been sent are cut: a packet is completed all the same (R259, DESIGN CHOICE, log 153). -/
def Dev.cutPackets (d : Dev) (own : Nat) : Dev :=
  { d with fab := { d.fab with
      send := d.fab.send.map (fun (e : Nat × List BFlit) => (e.1, e.2.map (fun f => if f.own = own then f.cut else f)))
      parked := d.fab.parked.map (fun (e : Nat × List Parked) => (e.1, e.2.map (fun p =>
        if p.own = own then { p with hdr := setBits p.hdr 128 1 1, items := p.items.map (fun _ => Item.poisoned) } else p))) } }

/-- What the bulk port of a fenced core had still to send leaves poisoned, and the packets that waited there are answered by the switch
node (R23, R85). -/
def Dev.fencePackets (d : Dev) (c : Nat) : Dev :=
  let poison (e : Nat × List BFlit) : Nat × List BFlit :=
    if e.1 / 4 = 5 * c + 4 then
      (e.1, e.2.map (fun f => { f with item := { f.item with poison := true, data := if f.head then f.item.data ||| 1 <<< 128 else f.item.data } }))
    else e
  let pk := Tab.get d.fab.inPk c []
  let d1 : Dev := { d with fab := { d.fab with
      buf := d.fab.buf.map poison, send := d.fab.send.map poison, inPk := Tab.set d.fab.inPk c [] [] } }
  -- the packet that the bulk port was serving is answered like those that wait
  let serving : List (List Item) := match Tab.get d.mem.bulk c none with
    | some s => if s.kind = 5 then [] else [[{ Item.ofNat s.hdr with fsb := bitAt s.hdr 255 }]]
    | none => []
  let d1 : Dev := { d1 with
    mem := { d1.mem with bulk := Tab.set d1.mem.bulk c none none, rsq := d1.mem.rsq.filter (fun r => r.core != c) }
    qs := { d1.qs with reads := d1.qs.reads.filter (fun r => r.core != c) } }
  d1.each (serving ++ pk) (fun d items =>
    let h := items.headD Item.zero
    d.fencedAnswer c h.data.toNat (if h.fsb then 1 else 0))

/-- ISO_MAP_UPDATE: the endpoint's copy of the isolated-node map becomes current (R90). -/
def Dev.isoMapUpdate (d : Dev) (code : Nat) : Dev :=
  { d with fab := { d.fab with isoCopy := Tab.set d.fab.isoCopy code d.fab.iso 0 } }

/-- The oldest packet waiting at an endpoint, when it is of kind `k`: header, payload, and the device without it. Nothing reaches a fenced
core (R23). -/
def Dev.popPacket (d : Dev) (code k : Nat) : Option (Nat × List Item × Dev) :=
  if code < 32 ∧ d.fenced code = true then none else
  match Tab.get d.fab.inPk code [] with
  | (h :: payload) :: rest =>
    if Hdr.kind h.data.toNat = k then
      some (h.data.toNat + (if h.fsb then 2 ^ 255 else 0), payload, { d with fab := { d.fab with inPk := Tab.set d.fab.inPk code rest [] } })
    else none
  | _ => none

end Sys2Proof.Machine
end

