-- ==== Sys2Proof/Machine/Fabric.lean ====
section
/-!
DEFINITION. The switch nodes in one cycle (R76 to R85), the swap event (R82, R283), hold (R49 to R55), and the passing of one fa cycle
(R7, DESIGN CHOICE, log 1).
-/

namespace Sys2Proof.Machine

/-! ### Items on the links -/

def passKey (c net dir : Nat) : Nat := (3 * c + net) * 4 + dir

/-- Discard of a class A item, counted in DROP_CNT (R23, R85). -/
def Dev.dropA (d : Dev) (c : Nat) : Dev := d.bump (Pg.xnode c) Reg.XNODE.DROP_CNT

/-- ROUTE_FENCED (R85). -/
def Dev.routeFenced (d : Dev) (c m : Nat) : Dev := (d.dropA c).raise (Pg.xnode c) 1 (.dom m)

/-- ROUTE_ABSENT (R79, R84), raised only in a running domain. -/
def Dev.routeAbsent (d : Dev) (c m : Nat) : Dev := if d.running m then d.raise (Pg.xnode c) 2 (.dom m) else d

/-- SLOT_COLLISION (R83). -/
def Dev.collide (d : Dev) (c m : Nat) : Dev := (d.bump (Pg.xnode c) Reg.XNODE.COLLIDE_CNT).raise (Pg.xnode c) 0 (.dom m)

/-- The trick-table entry that port `p` of node `c` reads for its owner `m`, and its key. -/
def Dev.ttKey (d : Dev) (c p m : Nat) : Nat := d.bankKey (Bank.port c p) (64 * c + p) (d.trickOf c m) false

def Dev.ttEntry (d : Dev) (c p m : Nat) : Nat := Tab.get d.fab.tt (d.ttKey c p m) 0x20

/-- A class A entry (Table 3.5), and its source code. -/
def classA (e : Nat) : Bool := e / 32 == 3

/-- Some port of network `net` at node `c` names mesh source `dir` in its present trick (R83). -/
def Dev.named (d : Dev) (c net dir : Nat) : Bool :=
  (List.range 59).any (fun p =>
    portNet p == some net &&
    (match d.ownerA c p with
      | some m => !d.frozen m && (let e := d.ttEntry c p m; classA e && e % 32 == dir)
      | none => false))

/-- The check of R83, once per node and cycle: items that no entry names are discarded. -/
def Dev.checkNode (d : Dev) (c : Nat) : Dev :=
  if d.fab.nodeDone.contains c then d
  else
    let d0 : Dev := { d with fab := { d.fab with nodeDone := c :: d.fab.nodeDone } }
    d0.each (List.range 12) (fun d k =>
      let key := 12 * c + k
      match Tab.get d.fab.pass key none with
      | none => d
      | some fl =>
        if d.frozen fl.dom || d.named c (k / 4) (k % 4) then d
        else
          let d1 : Dev := { d with fab := { d.fab with pass := Tab.set d.fab.pass key none none } }
          d1.collide c fl.dom)

/-- An item from a local or edge source enters node `c`, where its parity is checked (R73). -/
def Dev.inputParity (d : Dev) (c : Nat) (r : Option Flit) : Option Flit × Dev :=
  match r with
  | none => (none, d)
  | some fl =>
    let (pat, d1) := d.armedFor 5 (Pg.xnode c / 4096)
    if pat = 0 then (some fl, d1)
    else (some { fl with item := { fl.item with poison := true } }, d1.raise (Pg.xnode c) 4 (.dom fl.dom))

/-- What stands at a source of a node in this cycle (R80). The first port that names a local or edge source takes the item; a port
that names it later in the cycle gets a copy. The Bool says that the source exists. -/
def Dev.readSource (d : Dev) (c net src m : Nat) : Bool × Option Flit × Dev :=
  let lk := 128 * c + 32 * net + src
  match Tab.get d.fab.latch lk none with
  | some r => (true, r, d)
  | none =>
    let t := d.trickOf c m
    let keep (r : Option Flit) (d : Dev) : Bool × Option Flit × Dev :=
      let (r1, d1) := d.inputParity c r
      (true, r1, { d1 with fab := { d1.fab with latch := Tab.set d1.fab.latch lk (some r1) none } })
    if src < 4 then
      if linkAbsent c src net then (false, none, d)
      else match edgeAt c src net with
        | some e => if (neighbour c src).isSome then (true, Tab.get d.fab.pass (passKey c net src) none, d)
            else let (r, d1) := d.edgePresent e net m t; keep r d1
        | none =>
          let k := passKey c net src
          match Tab.get d.fab.pass k none with
          | none => (true, none, d)
          | some fl => (true, some fl, { d with fab := { d.fab with sent := insertKey k d.fab.sent } })
    else
      let qe := (net = 0 ∧ (src = 18 ∨ src = 19)) ∨ (net ≠ 0 ∧ src = 6)
      let tile := (net = 0 ∧ src ≤ 17) ∨ (net ≠ 0 ∧ src ≤ 5)
      let bx := (net = 0 ∧ src = 20) ∨ (net = 1 ∧ src = 7)
      if d.fenced c ∧ (qe ∨ tile ∨ bx) then (true, none, d)
      else if qe then
        let (r, d1) := d.present c (if net = 0 then src - 18 else if net = 1 then 2 else 3) t
        keep r d1
      else if tile then
        match Tab.get d.fab.outp lk [] with
        | o :: rest =>
          if o.at_ ≤ d.cycle then
            keep (some ⟨o.item, m, false, 0⟩) { d with fab := { d.fab with outp := Tab.set d.fab.outp lk rest [] } }
          else keep none d
        | [] => keep none d
      else (bx, none, d)

/-- The trick in which an item that node `c` sends in trick `t` of domain `m` arrives at the next node or edge block: one cycle later
(R76, R77; DEDUCED, log 41). -/
def Dev.arrivalTrick (d : Dev) (c m t : Nat) : Nat := if d.rd (Pg.xnode c) Reg.XNODE.ROUND_M1 m ≤ t then 0 else t + 1

/-- Deliver an item on output port `p` of node `c` for owner `m` in trick `t` (R76, R85, R93, R101): whether it was sent. An item reaches the
next node, the edge block or the local port in the next cycle. -/
def Dev.deliver (d : Dev) (c p net m t : Nat) (fl : Flit) : Bool × Dev :=
  let fl := { fl with dom := m }
  match portDir p with
  | some dir =>
    (match neighbour c dir with
      | some n =>
        if d.isolated n then (false, d.routeFenced c m)
        else
          let (pat, d1) := d.armedFor 5 (Pg.xnode n / 4096)
          let k := passKey n net (opposite dir)
          (true, { d1 with fab := { d1.fab with passNxt := Tab.set d1.fab.passNxt k (some { fl with badPar := pat != 0 || fl.badPar }) none } })
      | none =>
        match edgeAt c dir net with
        | some e => (true, { d with fab := { d.fab with edgeNxt := d.fab.edgeNxt ++ [⟨e, net, m, d.arrivalTrick c m t, fl⟩] } })
        | none => (false, d))
  | none =>
    if d.fenced c then (false, d.dropA c)
    else
      let e := Tab.get d.fab.lt (d.bankKey (Bank.port c p) (64 * c + p) t false) 0
      let key := 64 * c + p
      (true, { d with qs := { d.qs with lin := Tab.set d.qs.lin key (Tab.get d.qs.lin key [] ++ [⟨fl, e, m, d.cycle⟩]) [] } })

/-- An edge block whose attachment node is isolated reads and discards what it would have presented in this trick; an item that several
output ports name is one item (R85). -/
def Dev.isolatedEdge (d : Dev) (c p : Nat) : Dev :=
  match portNet p, d.ownerA c p with
  | some net, some m =>
    if d.frozen m then d
    else
      let e := d.ttEntry c p m
      let src := e % 32
      if classA e && decide (src < 4) && (neighbour c src).isNone && (edgeAt c src net).isSome &&
          (Tab.get d.fab.latch (128 * c + 32 * net + src) none).isNone then
        match d.readSource c net src m with
        | (_, some fl, d1) => d1.routeFenced c fl.dom
        | (_, none, d1) => d1
      else d
  | _, _ => d

/-- Classes B and C take a cycle of a port whose owner `m` is held (R81). Event 5 of Table 3.12 counts the cycles given to them on each such
port, and a cycle is given when a flit leaves (DESIGN CHOICE, log 132). -/
def Dev.dealHeld (d : Dev) (c p m : Nat) : Dev :=
  let d1 := d.dealBC c p
  if d.fab.bcSent.length < d1.fab.bcSent.length then d1.count (Pg.xnode c) 0xFF (5 + 16 * m) else d1

/-- TRICK (R80): output port `p` of node `c` in the present cycle. -/
def Dev.trick (d : Dev) (c p : Nat) : Dev :=
  if d.fab.portDone.contains (64 * c + p) then d
  else
    let d0 : Dev := { d with fab := { d.fab with portDone := (64 * c + p) :: d.fab.portDone } }
    match portNet p with
    | none => d0
    | some net =>
      if d0.isolated c then d0.isolatedEdge c p
      else
        let d1 := d0.checkNode c
        let pg := Pg.xnode c
        -- an owner field or an entry in error: TT_ERROR, and nothing leaves in this trick (R95; DESIGN CHOICE, log 134)
        if d1.upsetAt (Upset.owner c p) ≠ 0 then d1.upsetFound (Upset.owner c p) pg 3 [.core c]
        else match d1.ownerA c p with
        | none => d1.dealBC c p
        | some m =>
          if d1.frozen m then d1.dealHeld c p m
          else if d1.upsetAt (Upset.tt (d1.ttKey c p m)) ≠ 0 then d1.upsetFound (Upset.tt (d1.ttKey c p m)) pg 3 [.core c]
          else
            let e := d1.ttEntry c p m
            let t := d1.trickOf c m
            if e = 0x20 then d1.dealBC c p
            else if e = 0 then d1.count pg 0xFF (6 + 16 * m + 64 * net)
            else if !classA e then (d1.routeAbsent c m).count pg 0xFF (6 + 16 * m + 64 * net)
            else
              let absent := match portDir p with | some dir => linkAbsent c dir net | none => false
              match d1.readSource c net (e % 32) m with
              | (false, _, d2) => d2.routeAbsent c m
              | (true, r, d2) =>
                if absent then d2.routeAbsent c m
                else match r with
                  | none => d2.count pg 0xFF (1 + 16 * m + 64 * net)
                  | some fl => (match d2.deliver c p net m t fl with
                    | (true, d3) => d3.count pg 0xFF (16 * m + 64 * net)
                    | (false, d3) => d3)

/-! ### The swap event (R82, R136, R283) -/

/-- Nibble of port `p` in an owner field. -/
def Dev.ownerNib (d : Dev) (F : Fld) (c p : Nat) : Nat := bitsOf (d.rd (Pg.xnode c) F (p / 8)) (4 * (p % 8)) 4

def Dev.setOwnerNib (d : Dev) (F : Fld) (c p v : Nat) : Dev :=
  d.wr (Pg.xnode c) F (setBits (d.rd (Pg.xnode c) F (p / 8)) (4 * (p % 8)) 4 v) (p / 8)

/-- Exchange the banks of one output port. -/
def Dev.swapPort (d : Dev) (c p : Nat) : Dev :=
  let a := d.ownerNib Reg.XNODE.OWNER_A c p
  let s := d.ownerNib Reg.XNODE.OWNER_S c p
  ((d.setOwnerNib Reg.XNODE.OWNER_A c p s).setOwnerNib Reg.XNODE.OWNER_S c p a).flip (Bank.port c p)

/-- Owner of edge table `t` (Bank.edge): of a presentation table its OWNER_A field, of a landing table the output port of the attachment
node that leads to the block. -/
def Dev.edgeOwner (d : Dev) (t : Nat) : Option Nat :=
  let own (v : Nat) : Option Nat := if 4 ≤ v % 8 then some (v % 8 - 4) else none
  let port (c dir net : Nat) : Option Nat := d.ownerA c (if net = 0 then dir else if net = 1 then 32 + dir else 52 + dir)
  if t < 6 then port (27 + t / 3) 0 (t % 3)
  else if t < 12 then own (bitsOf (d.rd Pg.host Reg.HOSTPORT.OWNER_A) (3 * (t - 6)) 3)
  else if t < 16 then own (d.rd (Pg.csi (t - 12)) Reg.INGRESS.OWNER_A)
  else
    let k := (t - 16) / 6
    let i := (t - 16) % 6
    if i < 3 then port (if k = 0 then 25 else 30) 0 i else own (bitsOf (d.rd (Pg.gl k) Reg.GLINK.OWNER_A) (3 * (i - 3)) 3)

/-- Core that a word of the staged capacities and queue map belongs to. -/
def stagedCore (key : Nat) : Nat :=
  let a := 4 * key
  if 0x1000000 ≤ a then (a - 0x1000000) / 32 / 1920 else (a - 0x100000) / 0x20000

/-- Install one staged word: a capacity with its EXEMPT bit, or a descriptor word (R283). -/
def Dev.installWord (d : Dev) (key v : Nat) : Dev :=
  let a := 4 * key
  if 0x1000000 ≤ a then d.setWord a v
  else
    -- the counter word lies 0x40 below its capacity
    let c0 := d.setWord a (v % 2 ^ 20)
    c0.setWord (a - 0x40) (setBits (c0.word (a - 0x40)) 20 1 (bitsOf v 20 1))

/-- The credit counters of persistent queues of a domain: (core, unit, counter) (R103). -/
def Dev.persistCounters (d : Dev) (m : Nat) : List (Nat × Nat × Nat) :=
  (d.listedQueues.filter (fun q => d.qDom q == m && d.flag (Pg.queue q) Reg.FQ.PERSIST)).map (fun q =>
    (d.rd (Pg.queue q) Reg.FQ.PROD_CORE, d.rd (Pg.queue q) Reg.FQ.PROD_UNIT, d.rd (Pg.queue q) Reg.FQ.PROD_CNT))

/-- Set every credit counter of a core to its capacity, but for those in `keep` (R103, R283). -/
def Dev.setCredits (d : Dev) (c : Nat) (keep : List (Nat × Nat × Nat)) : Dev :=
  d.each (List.range (14 * 16)) (fun d k =>
    match counterRef c (k / 16) with
    | none => d
    | some (pg, cnt, _, cap) => if keep.contains (c, k / 16, k % 16) then d else d.wr pg cnt (d.rd pg cap (k % 16)) (k % 16))

/-- Trick counter of domain `m` to 0 in every node and edge block (R77). -/
def Dev.zeroTricks (d : Dev) (m : Nat) : Dev :=
  { d with
    fab := { d.fab with trick := d.fab.trick.filter (fun e => decide (e.1 % 4 ≠ m)) }
    qs := { d.qs with reads := d.qs.reads.filter (fun r => d.qDom r.q != m) } }

/-- The swap event of domain `m` (R82, R283); `halves`: every M tile swaps its halves (step 4 of a segment switch), otherwise those
whose shadow half was written (R136). `load`: the domain's queues are new or were emptied, and every counter is set, those of persistent
queues with them (R103; DESIGN CHOICE, log 146). -/
def Dev.swapEvent (d : Dev) (m : Nat) (halves : Bool) (load : Bool := false) : Dev :=
  let cores := d.domCores m
  let d1 := d.each (List.range 32) (fun d c => d.each (List.range 59) (fun d p =>
    if d.ownerA c p = some m ∨ d.ownerS c p = some m then d.swapPort c p else d))
  let d2 := d1.each cores (fun d c =>
    let a := d.each (List.range 4) (fun d s => d.flip (Bank.port c (60 + s)))
    let b := a.each (List.range 12) (fun d u => d.flip (Bank.tile c u))
    b.each (List.range 4) (fun d t => d.flip (Bank.btile c t)))
  let d3 := d2.each (List.range 28) (fun d t => if d2.edgeOwner t = some m then d.flip (Bank.edge t) else d)
  let due := d3.fab.stg.filter (fun e => cores.contains (stagedCore e.1))
  let d4 := due.foldl (fun (d : Dev) e => match e.2 with | some v => d.installWord e.1 v | none => d) d3
  let d5 : Dev := { d4 with fab := { d4.fab with stg := d4.fab.stg.filter (fun e => !cores.contains (stagedCore e.1)) } }
  let tgts := d5.qs.ctgt.filter (fun e => decide (4096 ≤ e.1) && d5.bqDom (e.1 - 4096) == m)
  let d6 := tgts.foldl (fun (d : Dev) e =>
    { d with qs := { d.qs with ctgt := Tab.set (Tab.set d.qs.ctgt e.1 0 0) (e.1 - 4096) (e.2 - 2 ^ 40) 0 } }) d5
  let d7 := d6.each cores (fun d c => d.each (List.range 10) (fun d t =>
    if halves || Tab.get d.ldr.shadow (10 * c + t) false then d.swapHalves c t else d))
  let keep := if load then [] else d7.persistCounters m
  (d7.each cores (fun d c => d.setCredits c keep)).zeroTricks m

/-- A write to a page of a fenced core is dropped and counted (R25): `true` when the write may proceed. -/
def Dev.coreWrite (d : Dev) (pg : Nat) : Bool × Dev :=
  if 0x100 ≤ pg ∧ pg < 0x500 ∧ d.fenced ((pg - 0x100) / 32) = true then
    let r := Pg.rank (rankOf ((pg - 0x100) / 32))
    (false, (((d.bump r Reg.RANKCTL.WRITE_DROP_CNT).wr r Reg.RANKCTL.DROP_PAGE pg)).raise r 1 .none_)
  else (true, d)

/-- SWAP: a write of the mask to SWAP in the XNODE page of core `c` (R82). -/
def Dev.swapWrite (d : Dev) (c mask : Nat) : Dev :=
  match d.coreWrite (Pg.xnode c / 4096) with
  | (false, d1) => d1
  | (true, d1) => d1.each (List.range 4) (fun d m => if bitAt mask m && !d.running m then d.swapEvent m false else d)

/-! ### Hold (R50 to R55) -/

/-- The cause of a hold request lasts (R50). -/
def Dev.holdCause (d : Dev) (m : Nat) (s : HoldSrc) : Bool :=
  match s with
  | .queue b => d.running m && (if d.bqOut b then !(d.bqGet b).wait.isEmpty else d.bqVisible b == 0)
  | .governor => decide (0 < Tab.get d.hold.win m 0)

/-- HOLD_REQUEST (R50). -/
def Dev.holdRequest (d : Dev) (m : Nat) (s : HoldSrc) : Dev :=
  let ok : Bool := match s with
    | .queue b => d.hold.missed.contains b.val && d.bqDom b == m && d.flag (Pg.bq b) Reg.BQD.HOLD_SRC
    | .governor => d.holdCause m s
  if ok && !d.hold.reqs.contains (m, s) then { d with hold := { d.hold with reqs := d.hold.reqs ++ [(m, s)] } } else d

/-- HOLD_ASSERT: the hold line becomes effective 3 cycles after the first cycle of a request (R51). -/
def Dev.holdAssert (d : Dev) (m : Nat) : Dev :=
  if bitAt (Tab.get d.hold.pipe m 0) 2 && !d.held m then
    { d with hold := { d.hold with held := Tab.set d.hold.held m true false, len := Tab.set d.hold.len m 0 0,
                                   longDone := Tab.set d.hold.longDone m false false } }
  else d

/-- HOLD_RELEASE: it becomes ineffective 3 cycles after the first cycle without a request (R51). -/
def Dev.holdRelease (d : Dev) (m : Nat) : Dev :=
  if !bitAt (Tab.get d.hold.pipe m 0) 2 && d.held m then
    { d with hold := { d.hold with held := Tab.set d.hold.held m false false } }
  else d

/-- HOLD_LONG (R55): raised once for a hold longer than HOLD_LIMIT. -/
def Dev.holdLong (d : Dev) (m : Nat) : Dev :=
  if d.held m && !Tab.get d.hold.longDone m false &&
      decide (usCycles (d.rd (Pg.ldom m) Reg.LDOM.HOLD_LIMIT) < Tab.get d.hold.len m 0) then
    ({ d with hold := { d.hold with longDone := Tab.set d.hold.longDone m true false } }).raise Pg.loader 3 .none_
  else d

/-! ### One fa cycle (DESIGN CHOICE, log 1) -/

/-- Trick counters of domains that are not held advance (R77, R315). -/
def Dev.tickTricks (d : Dev) : Dev :=
  let next (k : Nat) : Nat :=
    let t := Tab.get d.fab.trick k 0
    if d.frozen (k % 4) then t
    else if d.rd (Pg.xnode (k / 4)) Reg.XNODE.ROUND_M1 (k % 4) ≤ t then 0 else t + 1
  { d with fab := { d.fab with trick := (List.range 128).filterMap (fun k => if next k = 0 then none else some (k, next k)) } }

/-- Items on the links enter the pass registers, where their parity is checked (R73, R76); one that finds its register occupied is
discarded (R83), and one for a node that is isolated by now as if it were still to leave (R85; DESIGN CHOICE, log 133). -/
def Dev.tickPass (d : Dev) : Dev :=
  let left := d.fab.pass.filter (fun e => !d.fab.sent.contains e.1)
  let arr := d.fab.passNxt
  let d1 : Dev := { d with fab := { d.fab with pass := left, passNxt := [], sent := [], portDone := [], nodeDone := [], latch := [] } }
  arr.foldl (fun (d : Dev) e =>
    match e.2 with
    | none => d
    | some fl =>
      let c := e.1 / 12
      if d.isolated c then (match neighbour c (e.1 % 4) with | some n => d.routeFenced n fl.dom | none => d)
      else if (Tab.get d.fab.pass e.1 none).isSome then d.collide c fl.dom
      else
        let fl1 : Flit := if fl.badPar then { fl with item := { fl.item with poison := true }, badPar := false } else fl
        let d2 : Dev := { d with fab := { d.fab with pass := Tab.set d.fab.pass e.1 (some fl1) none } }
        if fl.badPar then d2.raise (Pg.xnode c) 4 (.dom fl.dom) else d2) d1

/-- Items that left the last node of their route enter the edge blocks (R93). -/
def Dev.tickEdge (d : Dev) : Dev :=
  let arr := d.fab.edgeNxt
  ({ d with fab := { d.fab with edgeNxt := [] }, hold := { d.hold with missed := [] } } : Dev).each arr (fun d x => d.edgeLand x.edge x.net x.dom x.trick x.flit)

/-- Flits that complete while their domain is held lie in the skid buffer (R52). -/
def Dev.tickSkid (d : Dev) : Dev :=
  { d with fab := { d.fab with outp := d.fab.outp.map (fun e =>
      match d.coreDom (e.1 / 128) with
      | some m => if d.held m then (e.1, e.2.map (fun o => if o.at_ ≤ d.cycle then { o with skid := true } else o)) else e
      | none => e) } }

/-- Credits of the core's own queues reach their counters (R104). -/
def Dev.tickCredits (d : Dev) : Dev :=
  let due := d.qs.credDue
  let d1 : Dev := { d with qs := { d.qs with credDue := [] } }
  d1.each (due.filter (fun e => !d.fenced e.1)) (fun d e => d.creditAdd e.1 e.2.1 e.2.2.1 e.2.2.2 (match d.coreDom e.1 with | some m => .unit m e.1 | none => .none_))

/-- The pointer synchronisers advance (R110). Where the two sides have independent clocks, the first flip-flop takes the published
pointer of this cycle or of the one before: a free choice. -/
def Dev.tickSync (d : Dev) : Dev :=
  d.qs.bq.foldl (fun (d : Dev) e =>
    let s := d.bqGet e.1
    if s.resetting then d
    else
      let indep := decide (e.1 < 2304)
      let (i, d1) := if indep && decide (s.wPub ≠ s.wPrev) then d.choose 2 else (0, d)
      let (j, d2) := if indep && decide (s.rPub ≠ s.rPrev) then d1.choose 2 else (0, d1)
      d2.bqSet e.1 { s with
        wFf := (if i = 0 then s.wPub else s.wPrev) :: s.wFf.take 2, rFf := (if j = 0 then s.rPub else s.rPrev) :: s.rFf.take 2,
        wPrev := s.wPub, rPrev := s.rPub, wPub := s.w, rPub := s.r }) d

/-- Items that wait for room enter their queues (R105). -/
def Dev.tickWait (d : Dev) : Dev :=
  d.qs.bq.foldl (fun (d : Dev) e => if (d.bqGet e.1).wait.isEmpty then d else d.bqDrainWait e.1) d

/-- The hold requests of the cycle enter the delay of 3 cycles, and those whose cause has ended drop (R50, R51). -/
def Dev.tickHold (d : Dev) : Dev :=
  let d1 : Dev := { d with hold := { d.hold with
    win := d.hold.win.filterMap (fun e => if e.2 ≤ 1 then none else some (e.1, e.2 - 1)) } }
  let d2 := d1.each (List.range 4) (fun d m =>
    let req := d.hold.reqs.any (fun r => r.1 == m)
    let p := (2 * Tab.get d.hold.pipe m 0 + (if req then 1 else 0)) % 8
    let h := d.held m
    { d with hold := { d.hold with
        pipe := Tab.set d.hold.pipe m p 0, len := Tab.set d.hold.len m (if h then Tab.get d.hold.len m 0 + 1 else 0) 0,
        dcyc := Tab.set d.hold.dcyc m (d.dcyc m + (if h then 0 else 1)) 0 } })
  { d2 with hold := { d2.hold with reqs := d2.hold.reqs.filter (fun r => d2.holdCause r.1 r.2) } }

/-- Full queues, and the counts of R106 and R327. -/
def Dev.fullQueues (d : Dev) : List (Nat × Nat) :=
  (d.listedQueues.filterMap (fun q => if d.qFull q then some (d.qDom q, q) else none)) ++
    (d.listedBqs.filterMap (fun b => if !(d.bqGet b).resetting && d.bqFree b == 0 then some (d.bqDom b, 61440 + b) else none))

def Dev.tickStale (d : Dev) : Dev :=
  let full := d.fullQueues
  let d1 := d.each full (fun d e => if e.2 < 61440 then d.bump (Pg.queue e.2) Reg.FQ.Q_STALL_FULL else d)
  let d2 := d1.each (List.range 4) (fun d m =>
    if !d.running m then { d with hold := { d.hold with stale := Tab.set d.hold.stale m 0 0 } }
    else if d.held m then d
    else
      let n := Tab.get d.hold.stale m 0
      let n1 := if Tab.get d.hold.stepped m false then 0 else if full.any (fun e => e.1 == m) then n + 1 else n
      { d with hold := { d.hold with stale := Tab.set d.hold.stale m n1 0 } })
  { d2 with hold := { d2.hold with stepped := [] } }

/-- Held-cycle events of the tile and switch-node pages (Tables 3.12, 5.12 and 6.18), for pages whose PERF_SEL selects them, and the sampled sum of PCIe read tags in
use (R377). -/
def Dev.tickPerf (d : Dev) : Dev :=
  d.regs.foldl (fun (d : Dev) e =>
    let a := 4 * e.1
    let pg := a / 4096
    let ev := match pageKind pg with | some (.mtile, _) => 6 | some (.vtile, _) => 5 | some (.xnode, _) => 4 | _ => 0
    if ev ≠ 0 ∧ a % 4096 = Reg.HDR.PERF_SEL.off ∧ e.2.toNat % 16 = ev then
      match (if ev = 4 then some (e.2.toNat / 16 % 4) else d.coreDom ((pg - 0x100) / 32)) with
      | some m => if d.held m then d.count (4096 * pg) 0xF ev else d
      | none => d
    else d) (d.count Pg.host 0xF 5 ((d.mem.reqs.filter (fun r => r.port == 4)).length + d.hp.reads.length))

/-- Time in RUNNING, DRAINING or SWITCHING (R325). -/
def Dev.tickUp (d : Dev) : Dev :=
  d.each (List.range 4) (fun d m =>
    if d.running m || d.dstate m == stSWITCHING then
      { d with flt := { d.flt with upCycles := Tab.set d.flt.upCycles m (Tab.get d.flt.upCycles m 0 + 1) 0 } }
    else d)

/-- The slot of port `p` in this cycle has gone by; after 64 slots that refresh left free a new round begins (R261, R262). -/
def Dev.slotEnd (d : Dev) (p : Nat) : Dev :=
  if d.mem.used.contains (24 + p) then d
  else
    let n := (Tab.get d.mem.round p 0 + 1) % 64
    { d with mem := { d.mem with
        round := Tab.set d.mem.round p n 0
        slots := if n = 0 then d.mem.slots.filter (fun e => e.1 / 8 != p) else d.mem.slots } }

/-- Memory ports: the slot of the cycle ends, and class A requests wait for one (R261, R276). -/
def Dev.tickMem (d : Dev) : Dev :=
  let d1 := d.each (List.range 4) (fun d p =>
    (if d.portWaits p 1 then d.bump (Pg.memport p) Reg.HDR.STALL_IN 2 else d).slotEnd p)
  { d1 with mem := { d1.mem with used := [], buse := [] } }

/-- A new fc cycle, every second fa cycle, begins with no event of its own (R9, R30). -/
def Dev.tickEvents (d : Dev) : Dev :=
  if (d.cycle + 1) % 2 = 0 then { d with regs := d.regs.filter (fun e => decide (e.1 < 2 ^ 27)) } else d

end Sys2Proof.Machine
end

