-- ==== Sys2Proof/Machine/Mmu.lean ====
section
/-!
DEFINITION. Translation (R270 to R275, R278): TLBs, page-table walks, and the operations of the MMU page.
-/

namespace Sys2Proof.Machine

/-! ### TLBs (R271) -/

def TlbEnt.covers (e : TlbEnt) (as va : Nat) : Bool := e.as_ == as && va / 2 ^ e.lg == e.va / 2 ^ e.lg

/-- The entry overlaps `n` pages of 4 KiB from `va`. -/
def TlbEnt.overlaps (e : TlbEnt) (as va n : Nat) : Bool :=
  e.as_ == as && decide (e.va < va + n * 4096 ∧ va < e.va + 2 ^ e.lg)

def Dev.engineTlb (d : Dev) (f : Nat) : List TlbEnt := Tab.get d.mem.tlb f []

def Dev.setEngineTlb (d : Dev) (f : Nat) (l : List TlbEnt) : Dev := { d with mem := { d.mem with tlb := Tab.set d.mem.tlb f l [] } }

/-- Put a copy of an entry into the TLB of engine `f` (64 entries; which one is replaced is free). Only the shared TLB pins. -/
def Dev.engineFill (d : Dev) (f : Nat) (e : TlbEnt) : Dev :=
  let l := (d.engineTlb f).filter (fun x => !x.overlaps e.as_ e.va (2 ^ e.lg / 4096))
  let e1 := { e with pinned := false }
  if l.length < 64 then d.setEngineTlb f (e1 :: l)
  else
    let (i, d1) := d.choose l.length
    d1.setEngineTlb f (e1 :: l.eraseIdx i)

/-- The set of the shared TLB for an entry, of 64 sets of 8 ways. -/
def TlbEnt.set (e : TlbEnt) : Nat := Config.tlbSet e.as_ e.va e.lg % 64

/-- The mapping of an address is locked: a pinned entry translates it (R272). -/
def Dev.pinnedAt (d : Dev) (as va : Nat) : Bool := d.mem.shared.any (fun e => e.pinned && e.covers as va)

/-- The mapping was locked and its entry has been dropped since (R274, R275). -/
def Dev.toRelock (d : Dev) (as va : Nat) : Bool := d.mem.relock.any (fun e => e.covers as va)

/-- Registers that follow from the pinned entries (Table 8.12). -/
def Dev.pinCounts (d : Dev) : Dev :=
  let ps := d.mem.shared.filter (·.pinned)
  (d.each (List.range 5) (fun d a => d.wr Pg.mmu Reg.MMU.PINNED ((ps.filter (fun e => e.as_ == a)).length) a)).wr Pg.mmu Reg.MMU.FREE
    (256 - ps.length)

/-- Put an entry into its set of the shared TLB, 8 ways; a pinned entry is never replaced, and which other one is, is free (R271). -/
def Dev.sharedFill (d : Dev) (e : TlbEnt) : Dev :=
  let hits (x : TlbEnt) : Bool := x.overlaps e.as_ e.va (2 ^ e.lg / 4096)
  let l := d.mem.shared.filter (fun x => x.pinned || !hits x)
  let set (l : List TlbEnt) (d : Dev) : Dev := ({ d with mem := { d.mem with shared := l } } : Dev).pinCounts
  if !e.pinned && l.any (fun x => x.pinned && hits x) then d
  else if (l.filter (fun x => x.set == e.set)).length < 8 then set (e :: l) d
  else
    let loose := l.filter (fun x => x.set == e.set && !x.pinned)
    let (i, d1) := d.choose loose.length
    match loose[i]? with
    | some x => set (e :: l.erase x) d1
    | none => d1

/-- Drop a pinned entry that was found with a parity error; its mapping stays locked (R274). -/
def Dev.tlbParity (d : Dev) (e : TlbEnt) : Dev :=
  let keep (l : List TlbEnt) : List TlbEnt := l.filter (fun x => !(x.as_ == e.as_ && x.va == e.va))
  let d1 : Dev := { d with mem := { d.mem with
      shared := keep d.mem.shared, tlb := d.mem.tlb.filterMap (fun (t : Nat × List TlbEnt) => if keep t.2 = [] then none else some (t.1, keep t.2)),
      relock := if e.pinned then e :: d.mem.relock else d.mem.relock } }
  (if e.pinned then d1.raise Pg.mmu 0 .none_ else d1).pinCounts

/-- Look a translation up in the TLB of engine `f`, then in the shared one, which fills the engine's; an engine miss is event 5 (R277). An
engine's copy with a parity error is dropped. -/
def Dev.tlbLookup (d : Dev) (f as va : Nat) (write : Bool) : Option TlbEnt × Dev :=
  let ok (e : TlbEnt) : Bool := if write then e.wr else e.rd
  let d0 := d.setEngineTlb f ((d.engineTlb f).filter (fun e => !(e.parErr && e.covers as va)))
  match (d0.engineTlb f).find? (fun e => e.covers as va) with
  | some e => (if ok e then some e else none, d0)
  | none =>
    let d1 := d0.count (Pg.fetch f) 0xF 5
    match d1.mem.shared.find? (fun e => e.covers as va) with
    | some e => if e.parErr then (none, d1.tlbParity e) else if ok e then (some e, d1.engineFill f e) else (none, d1)
    | none => (none, d1)

/-! ### Walks (R270, R271) -/

/-- What a walk found. -/
inductive Walk where
  | ok (e : TlbEnt)
  /-- kind 0 not-present, 1 permission, 2 poisoned-table; level 0 L4 to 3 L1 -/
  | fail (kind level : Nat)
  deriving DecidableEq, Repr

/-- Read a table entry: from DDR5, or from host memory, whose answer the command brings. -/
def Dev.pteRead (d : Dev) (pa : Nat) (host : List HostPte) (attr : Attr) : Nat × Bool × List HostPte × Dev :=
  if bitAt pa 47 then
    match host with
    | [] => (0, true, [], d)
    | h :: r => (h.entry.toNat, h.poisoned, r, d)
  else if d.ddrCap < pa + 8 then (0, true, host, d)
  else
    let (bs, ps, d1) := d.ddrRead pa 8 attr
    (leNat bs, ps.any id, host, d1)

/-- `want`: 0 a read, 1 a write, 2 a lock, which either permission serves (DEDUCED, log 31). -/
def Dev.walkFrom (d : Dev) (as va want table level : Nat) (host : List HostPte) (attr : Attr) (fuel : Nat) :
    Walk × List HostPte × Dev :=
  match fuel with
  | 0 => (.fail 2 level, host, d)
  | f + 1 =>
    let idx := bitsOf va (39 - 9 * level) 9
    let (e, p, host1, d1) := d.pteRead (table + 8 * idx) host attr
    if p then (.fail 2 level, host1, d1)
    else if !bitAt e 0 then (.fail 0 level, host1, d1)
    else if bitsOf e 4 8 ≠ 0 ∨ bitsOf e 48 16 ≠ 0 then (.fail 2 level, host1, d1)
    else
      let addr := bitsOf e 12 36 * 4096
      let ps := bitAt e 1
      if ps ∧ level < 2 then (.fail 2 level, host1, d1)
      else if ps ∧ level = 2 ∧ bitsOf e 12 9 ≠ 0 then (.fail 2 level, host1, d1)
      else if level = 3 ∨ (level = 2 ∧ ps) then
        let lg := if level = 3 then 12 else 21
        let rd := bitAt e 2
        let wr := bitAt e 3
        let ok := if want = 0 then rd else if want = 1 then wr else rd || wr
        if ok then (.ok ⟨as, va / 2 ^ lg * 2 ^ lg, addr, lg, rd, wr, false, false⟩, host1, d1) else (.fail 1 level, host1, d1)
      else d1.walkFrom as va want addr (level + 1) host1 attr f

/-- Walk the tables of address space `as`; one that is not enabled has no mapping (DEDUCED, log 31). -/
def Dev.walk (d : Dev) (as va want : Nat) (host : List HostPte) (attr : Attr) : Walk × List HostPte × Dev :=
  if !d.flag Pg.mmu Reg.MMU.EN as ∨ 4 < as then (.fail 0 0, host, d)
  else
    let root := d.rd Pg.mmu Reg.MMU.ROOT_LO as * 4096 + d.rd Pg.mmu Reg.MMU.ROOT_HI as * 2 ^ 32
    d.walkFrom as va want root 0 host attr 4

/-! ### Operations (R272, R275, R278) -/

/-- The domain of an address space is RUNNING or DRAINING; AS4 belongs to none. -/
def Dev.asRunning (d : Dev) (as : Nat) : Bool := decide (as < 4) && d.running as

/-- Remove the entries of a range from every TLB, and the translations that streams hold. -/
def Dev.tlbPurge (d : Dev) (as va n : Nat) : Dev :=
  let keep (l : List TlbEnt) : List TlbEnt := l.filter (fun e => !e.overlaps as va n)
  let mem : Mem := { d.mem with
      shared := keep d.mem.shared
      tlb := d.mem.tlb.filterMap (fun (t : Nat × List TlbEnt) => if keep t.2 = [] then none else some (t.1, keep t.2))
      st := d.mem.st.map (fun (e : Nat × FStream) => (e.1, match e.2.xl with
        | some (v, _) =>
          if d.rd (Pg.sdesc (e.1 / 64) (e.1 % 64)) Reg.SDESC.AS = as ∧ va ≤ v ∧ v < va + n * 4096 then { e.2 with xl := none } else e.2
        | none => e.2)) }
  ({ d with mem := { mem with st := mem.st.filter (fun e => e.2 != FStream.zero) } } : Dev).pinCounts

/-- The range named by OP_VA, OP_AS and OP_LEN. -/
def Dev.opRange (d : Dev) : Nat × Nat × Nat :=
  (d.rd Pg.mmu Reg.MMU.OP_AS, (d.rd Pg.mmu Reg.MMU.OP_VA_LO + d.rd Pg.mmu Reg.MMU.OP_VA_HI * 2 ^ 32) / 4096 * 4096,
    d.rd Pg.mmu Reg.MMU.OP_LEN + 1)

/-- Streams that are in WALK. -/
def Dev.walking (d : Dev) : List Nat :=
  (List.range 512).filter (fun k => d.rd (Pg.fetch (k / 64)) Reg.FETCH.STATE (k % 64) == 2)

/-- INVAL (R275). -/
def Dev.inval (d : Dev) : Dev :=
  if d.flag Pg.mmu Reg.MMU.BUSY then d
  else
    let (as, va, n) := d.opRange
    let touched := d.mem.shared.filter (fun e => e.pinned && e.overlaps as va n)
    let force := d.flag Pg.mmu Reg.MMU.FORCE
    if !touched.isEmpty && d.asRunning as && !force then (d.hit Pg.mmu Reg.MMU.REFUSED).raise Pg.mmu 1 .none_
    else
      let d1 := d.tlbPurge as va n
      let d2 := d1.wr Pg.mmu Reg.MMU.BUSY 1
      { d2 with mem := { d2.mem with
          op := 1, opArg := (as, va, n), opWalks := d.walking
          relock := if force then touched ++ d2.mem.relock else d2.mem.relock } }

/-- INVAL_COMPLETE: no walk begun before it remains; what those walks brought in is removed as well (DEDUCED, log 31). -/
def Dev.invalComplete (d : Dev) : Dev :=
  if d.mem.op ≠ 1 ∨ d.mem.opWalks ≠ [] then d
  else
    let d1 := (d.tlbPurge d.mem.opArg.1 d.mem.opArg.2.1 d.mem.opArg.2.2).wr Pg.mmu Reg.MMU.BUSY 0
    { d1 with mem := { d1.mem with op := 0 } }

/-- LOCK (R272): the walk of the range begins. -/
def Dev.lockStart (d : Dev) : Dev :=
  if d.flag Pg.mmu Reg.MMU.BUSY then d
  else
    let d1 := d.wr Pg.mmu Reg.MMU.BUSY 1
    { d1 with mem := { d1.mem with op := 2, opArg := d.opRange } }

/-- Unpin the entries of a range. -/
def Dev.unpin (d : Dev) (as va n : Nat) : Dev :=
  let f (l : List TlbEnt) : List TlbEnt := l.map (fun e => if e.overlaps as va n then { e with pinned := false } else e)
  ({ d with mem := { d.mem with
      shared := f d.mem.shared
      relock := d.mem.relock.filter (fun e => !e.overlaps as va n) } } : Dev).pinCounts

/-- Walk `n` pages and collect their leaves; a page that the last leaf or a pinned entry covers needs no walk. -/
def Dev.lockWalk (d : Dev) (as va n : Nat) (host : List HostPte) (found : List TlbEnt) : Option Nat × List TlbEnt × List HostPte × Dev :=
  match n with
  | 0 => (none, found, host, d)
  | k + 1 =>
    if found.any (fun e => e.covers as va) || d.pinnedAt as va then
      d.lockWalk as (va + 4096) k host found
    else
      match d.walk as va 2 host .none_ with
      | (.fail kind _, h, d1) => (some kind, found, h, d1)
      | (.ok e, h, d1) => d1.lockWalk as (va + 4096) k h (e :: found)

/-- The entries fit into ways 0 to 3 of their sets, beside the pinned ones and those to be pinned again (R271). -/
def Dev.pinRoom (d : Dev) (found : List TlbEnt) : Bool :=
  let l := found ++ d.mem.shared.filter (·.pinned) ++ d.mem.relock.filter (fun e => !found.any (fun x => x.covers e.as_ e.va))
  found.all (fun e => decide ((l.filter (fun x => x.set == e.set)).length ≤ 4))

/-- Walk and pin a range: none when it succeeded, or the failure kind (3 capacity); nothing of a failed range stays pinned. Answers the
leaves as well. -/
def Dev.lockRange (d : Dev) (as va n : Nat) (host : List HostPte) : Option Nat × List TlbEnt × List HostPte × Dev :=
  let (r, found, h, d1) := d.lockWalk as va n host []
  match r with
  | some k => (some k, [], h, d1.unpin as va n)
  | none =>
    if !d1.pinRoom found then (some 3, [], h, d1.unpin as va n)
    else
      let d2 := d1.each found (fun d e => d.sharedFill { e with pinned := true })
      let d3 : Dev := { d2 with mem := { d2.mem with relock := d2.mem.relock.filter (fun e => !e.overlaps as va n) } }
      (none, d3.mem.shared.filter (fun e => e.overlaps as va n), h, d3)

/-- LOCK_COMPLETE (R272, R278). -/
def Dev.lockComplete (d : Dev) (host : List HostPte) : Dev :=
  if d.mem.op ≠ 2 then d
  else
    let (as, va, n) := d.mem.opArg
    let (r, _, _, d1) := d.lockRange as va n host
    let d2 := d1.wr Pg.mmu Reg.MMU.BUSY 0
    let d3 : Dev := { d2 with mem := { d2.mem with op := 0 } }
    match r with
    | none => d3
    | some k => ((d3.hit Pg.mmu Reg.MMU.FAIL).wr Pg.mmu Reg.MMU.FAIL_KIND k).raise Pg.mmu 2 .none_

/-- UNLOCK (R278). -/
def Dev.unlockRange (d : Dev) : Dev :=
  if d.flag Pg.mmu Reg.MMU.BUSY then d
  else
    let (as, va, n) := d.opRange
    d.unpin as va n

end Sys2Proof.Machine
end

