-- ==== Sys2Proof/Machine/Fetch.lean ====
section
/-!
DEFINITION. Fixed-rate compression (R232 to R236) and the fetch engines (R242 to R259, R273, R276): streams, passes, requests,
returns, cancellation, spill packets. Engine `f` serves file `f`; stream key 64·f + s.
-/

namespace Sys2Proof.Machine

/-! ### Fixed-rate compression (R232 to R234) -/

/-- Smallest shift of R233. -/
def frcShift (range b : Nat) : Nat :=
  ((List.range 8).find? (fun s => (range + (if s = 0 then 0 else 2 ^ (s - 1))) >>> s ≤ 2 ^ b - 1)).getD 7

/-- Encode 16 values of which the first `nv` lie below the row's width (R233); flags by the flit. -/
def frcEncode (v : List Int) (nv b : Nat) (poison ph : Bool) : Nat :=
  let u := v.take (max 1 nv)
  let lo := u.foldl min (u.headD 0)
  let hi := u.foldl max (u.headD 0)
  let s := frcShift (hi - lo).toNat b
  let res (i : Nat) : Nat :=
    if i < nv then min (((v.getD i 0 - lo).toNat + (if s = 0 then 0 else 2 ^ (s - 1))) >>> s) (2 ^ b - 1) else 0
  let body := if hi = lo then 2 ^ 11 else s * 2 ^ 8 + (List.range 16).foldl (fun x i => x + res i <<< (12 + b * i)) 0
  twos lo 8 + body + (if poison then 2 ^ (12 + 16 * b) else 0) + (if ph then 2 ^ (13 + 16 * b) else 0)

/-- Decode a block (R234): 16 codes, PPOISON, PPH. -/
def frcDecode (w b : Nat) (uns : Bool) : List Nat × Bool × Bool :=
  let base : Int := if uns then (bitsOf w 0 8 : Int) else sextN w 8
  let s := bitsOf w 8 3
  let v (i : Nat) : Int :=
    if bitAt w 11 then base
    else satI (base + ((bitsOf w (12 + b * i) b) <<< s : Nat)) (if uns then 0 else -128) (if uns then 255 else 127)
  ((List.range 16).map (fun i => twos (v i) 8), bitAt w (12 + 16 * b), bitAt w (13 + 16 * b))

/-- Residual bits and block bytes of FMT 2 (FRC-½) and 3 (FRC-¾). -/
def frcBits (fmt : Nat) : Nat := if fmt = 2 then 3 else 5
def frcBytes (fmt : Nat) : Nat := if fmt = 2 then 8 else 12

/-! ### Stream descriptors (Table 8.10) -/

def fkey (f s : Nat) : Nat := 64 * f + s
def Dev.stGet (d : Dev) (f s : Nat) : FStream := Tab.get d.mem.st (fkey f s) FStream.zero
def Dev.stSet (d : Dev) (f s : Nat) (x : FStream) : Dev :=
  { d with mem := { d.mem with st := Tab.set d.mem.st (fkey f s) x FStream.zero } }

def Dev.sd (d : Dev) (f s : Nat) (F : Fld) : Nat := d.rd (Pg.sdesc f s) F
def Dev.stState (d : Dev) (f s : Nat) : Nat := d.rd (Pg.fetch f) Reg.FETCH.STATE s
def Dev.setStState (d : Dev) (f s v : Nat) : Dev := d.wr (Pg.fetch f) Reg.FETCH.STATE v s

/-- Bound core (R243). -/
def Dev.stCore (d : Dev) (f s : Nat) : Nat := 8 * d.sd f s Reg.SDESC.BRANK + f
/-- Traffic class of a kind: 1 A, 2 B (Table 8.1). -/
def kindClass (k : Nat) : Nat := if k = 2 ∨ k = 6 ∨ k = 7 then 2 else if k = 0 then 0 else 1

/-- Positions per flit of a format (R244). -/
def fmtPos (fmt : Nat) : Nat := if fmt = 1 then 16 else 32

/-- The descriptor keeps the limits of the chapter (R243, R244, Table 8.10). -/
def Dev.streamLegal (d : Dev) (f s : Nat) : Bool :=
  let a := Pg.sdesc f s
  let g (F : Fld) : Nat := d.rd a F
  let k := g Reg.SDESC.KIND
  let fmt := g Reg.SDESC.FMT
  let n := fmtPos fmt
  let window := k == 1 || k == 2 || k == 5 || k == 6
  decide (0 < k) && g Reg.SDESC.CLS == kindClass k && decide (g Reg.SDESC.AS ≤ 4 ∧ g Reg.SDESC.BQ ≤ 223) &&
  bitsOf (d.word a) 30 2 == 0 && g Reg.SDESC.MAPBASE_LO % 32 == 0 && decide (fmt ≤ 4) &&
  (k != 4 || decide (g Reg.SDESC.BQ ≤ 222)) && (k != 3 || fmt == 4) && (fmt != 4 || k == 1 || k == 3 || k == 5) &&
  (k != 2 || decide (g Reg.SDESC.TQ < 1920)) &&
  (!(window && fmt != 4) ||
    (decide (g Reg.SDESC.X0 ≤ g Reg.SDESC.X1 ∧ g Reg.SDESC.X1 ≤ g Reg.SDESC.MW_M1 ∧ g Reg.SDESC.Y0 ≤ g Reg.SDESC.Y1 ∧
        g Reg.SDESC.Y1 ≤ g Reg.SDESC.H_M1 ∧ g Reg.SDESC.C0 ≤ g Reg.SDESC.C1 ∧ g Reg.SDESC.C1 ≤ g Reg.SDESC.C_M1) &&
      (if fmt = 2 ∨ fmt = 3 then g Reg.SDESC.X0 % 16 == 0 else (k == 1 || k == 2 || g Reg.SDESC.X0 % n == 0)) &&
      bitsOf (d.word (a + 12)) 24 8 == 0 && bitsOf (d.word (a + 16)) 31 1 == 0 && bitsOf (d.word (a + 20)) 24 8 == 0 &&
      bitsOf (d.word (a + 24)) 24 8 == 0))

/-- The stream is enabled, legal, and its domain runs (R243). -/
def Dev.stLive (d : Dev) (f s : Nat) : Bool :=
  let m := d.sd f s Reg.SDESC.DOM
  -- a PREFETCH stream goes on while its domain waits for the next segment (Table 2.4, step 3)
  let waits := d.sd f s Reg.SDESC.KIND == 7 && (d.dstate m == stSWITCHING || d.dstate m == stLOADED)
  d.flag (Pg.sdesc f s) Reg.SDESC.EN && d.streamLegal f s && (d.running m || waits) && !d.fenced (d.stCore f s)

/-- A boundary queue of engine `f`. -/
def fbq (f i : Nat) : Nat := 2304 + 224 * f + i

/-! ### Passes (R244, R245) -/

/-- Flits of a channel-row of the window. -/
def Dev.passNfr (d : Dev) (f s : Nat) : Nat :=
  let n := fmtPos (d.sd f s Reg.SDESC.FMT)
  (d.sd f s Reg.SDESC.X1 - d.sd f s Reg.SDESC.X0 + 1 + n - 1) / n

/-- Items of a pass. -/
def Dev.passItems (d : Dev) (f s : Nat) : Nat :=
  if d.sd f s Reg.SDESC.FMT = 4 then d.sd f s Reg.SDESC.LENF_M1 + 1
  else (d.sd f s Reg.SDESC.Y1 - d.sd f s Reg.SDESC.Y0 + 1) * (d.sd f s Reg.SDESC.C1 - d.sd f s Reg.SDESC.C0 + 1) * d.passNfr f s

/-- Base address of a pass (R245). -/
def Dev.passBase (d : Dev) (f s pass : Nat) : Nat :=
  (d.sd f s Reg.SDESC.MAPBASE_LO + d.sd f s Reg.SDESC.MAPBASE_HI * 2 ^ 32 +
    pass % (d.sd f s Reg.SDESC.NSLOT_M1 + 1) * d.sd f s Reg.SDESC.FSTRIDE * 4096) % 2 ^ 48

/-- Bytes of channel-row (c, y) from column x: address, for `cols` columns the length (R228, R236). -/
def mapBytes (base fmt mw c y cn x cols : Nat) : Nat × Nat :=
  if fmt = 2 ∨ fmt = 3 then
    let bb := frcBytes fmt
    let rb := (mw + 15) / 16 * bb
    (base + (y * cn + c) * rb + x / 16 * bb, (cols + 15) / 16 * bb)
  else
    let n := fmtPos fmt
    let rb := 32 * ((mw + n - 1) / n)
    (base + (y * cn + c) * rb + x * (32 / n), cols * (32 / n))

/-- Columns of item `i` of a pass: row, channel, first column, number of columns. -/
def Dev.itemAt (d : Dev) (f s i : Nat) : Nat × Nat × Nat × Nat :=
  let n := fmtPos (d.sd f s Reg.SDESC.FMT)
  let nfr := max 1 (d.passNfr f s)
  let nc := d.sd f s Reg.SDESC.C1 - d.sd f s Reg.SDESC.C0 + 1
  let x := d.sd f s Reg.SDESC.X0 + n * (i % nfr)
  (d.sd f s Reg.SDESC.Y0 + i / (nfr * nc), d.sd f s Reg.SDESC.C0 + i / nfr % nc, x, min n (d.sd f s Reg.SDESC.X1 + 1 - x))

/-- Address and length of item `i` of pass `pass`. -/
def Dev.itemBytes (d : Dev) (f s pass i : Nat) : Nat × Nat :=
  let base := d.passBase f s pass
  let fmt := d.sd f s Reg.SDESC.FMT
  if d.sd f s Reg.SDESC.KIND = 3 then (base + i, 1)
  else if fmt = 4 then (base + 32 * i, 32)
  else
    let (y, c, x, cols) := d.itemAt f s i
    mapBytes base fmt (d.sd f s Reg.SDESC.MW_M1 + 1) c y (d.sd f s Reg.SDESC.C_M1 + 1) x cols

/-! ### Gather requests (R190, R248) -/

/-- Sample position of R190 for p in 1/64 pixel and width F. -/
def sampAt (p : Int) (F : Nat) : Nat := if p < 0 then 0 else if ((F : Int) - 1) ≤ p / 64 then F - 2 else (p / 64).toNat

/-- Source columns of the 32 samples of a request. -/
def gatherCols (w1 fw : Nat) : List Nat :=
  let xs := sextN w1 18
  let step : Int := (bitsOf w1 18 14 : Nat)
  (List.range 32).map (fun (j : Nat) => sampAt (4 * xs + (j : Int) * step) fw)

/-- The slot a request names: base, format, planes, width, height; none: not enabled or its format refused (Table 8.9). -/
def Dev.gslot (d : Dev) (f w0 : Nat) : Option (Nat × Nat × Nat × Nat × Nat) :=
  let a := Pg.gslot f (bitsOf w0 24 4)
  let fmt := d.rd a Reg.GSLOT.GFMT
  if !d.flag a Reg.GSLOT.GEN || fmt == 1 then none
  else some ((d.rd a Reg.GSLOT.BASE_LO + d.rd a Reg.GSLOT.BASE_HI * 2 ^ 32), fmt, d.rd a Reg.GSLOT.CH_M1 + 1,
    d.rd a Reg.GSLOT.FW_M1 + 1, d.rd a Reg.GSLOT.FH_M1 + 1)

/-- First column read for a request, rounded to a block. -/
def gatherFirst (cols : List Nat) (fmt : Nat) : Nat :=
  let x := cols.foldl min (cols.headD 0)
  if fmt = 0 then x else x / 16 * 16

/-- Address and length of the bytes of row `r` (0 or 1) of the request in service. -/
def Dev.gatherBytes (d : Dev) (f s r : Nat) : Nat × Nat :=
  let g := (d.stGet f s).gath
  let w0 := g.getD 0 0
  match d.gslot f w0 with
  | none => (0, 1)
  | some (base, fmt, ch, fw, _) =>
    let cols := gatherCols (g.getD 1 0) fw
    let x0 := gatherFirst cols fmt
    let x1 := min (cols.foldl max 0 + 1) (fw - 1)
    mapBytes base fmt fw (bitsOf w0 12 12) (bitsOf w0 0 12 + r) ch x0 (x1 + 1 - x0)

/-- Pixels of one row from its bytes: values by column from `x0`, poison of the row's bytes used. -/
def rowPixels (fmt : Nat) (bs : List Byte) : List Nat :=
  if fmt = 0 then bs.map (·.toNat)
  else (chunks (bs.length + 1) (frcBytes fmt) bs).flatMap (fun b => (frcDecode (leNat b) (frcBits fmt) true).1)

/-- A block of the row carries PPOISON. -/
def rowPoison (fmt : Nat) (bs : List Byte) : Bool :=
  fmt != 0 && (chunks (bs.length + 1) (frcBytes fmt) bs).any (fun b => (frcDecode (leNat b) (frcBits fmt) true).2.1)

/-- The four flits TL, TR, BL, BR of a request. How many of the 32 samples lie below OW is not in the request: a free choice (DESIGN CHOICE, log 32). -/
def Dev.gatherFlits (d : Dev) (f s : Nat) (r0 r1 : List Byte) (poison : Bool) : List Item × Dev :=
  let st := d.stGet f s
  let w0 := st.gath.getD 0 0
  match d.gslot f w0 with
  | none => (List.replicate 4 Item.poisoned, d)
  | some (_, fmt, _, fw, _) =>
    let cols := gatherCols (st.gath.getD 1 0) fw
    let x0 := gatherFirst cols fmt
    let (k, d1) := d.choose 32
    let p0 := rowPixels fmt r0
    let p1 := rowPixels fmt r1
    let bad := poison || st.gpoison || rowPoison fmt r0 || rowPoison fmt r1
    let flit (p : List Nat) (dx : Nat) : Item :=
      Item.ofNat (leNat (cols.zipIdx.map (fun xj => if xj.2 < k + 1 then BitVec.ofNat 8 (p.getD (xj.1 + dx - x0) 0) else 0))) bad
    ([flit p0 0, flit p0 1, flit p1 0, flit p1 1], d1)

/-! ### What a stream still reads: one view for all kinds -/

/-- Address and length of item `i` in the stream's present list; none past its end. -/
def Dev.needBytes (d : Dev) (f s i : Nat) : Option (Nat × Nat) :=
  let st := d.stGet f s
  match d.sd f s Reg.SDESC.KIND with
  | 1 | 2 | 3 => if i < d.passItems f s then some (d.itemBytes f s st.pass i) else none
  | 4 => if st.gath.isEmpty || decide (2 ≤ i) then none else some (d.gatherBytes f s i)
  | 7 => if st.ended then none else some (d.passBase f s 0 + 32 * i, 32)
  | _ => none

/-- From item `i`, byte `o`, the position after all bytes that lie in burst `b` (a multiple of 64), and the items completed. -/
def Dev.throughBurst (d : Dev) (f s b : Nat) (fuel i o done : Nat) : Nat × Nat × Nat :=
  match fuel with
  | 0 => (i, o, done)
  | n + 1 =>
    match d.needBytes f s i with
    | none => (i, o, done)
    | some (a, len) =>
      if (a + o) / 64 * 64 ≠ b then (i, o, done)
      else
        let k := min (len - o) (64 - (a + o) % 64)
        if o + k < len then (i, o + k, done) else d.throughBurst f s b n (i + 1) 0 (done + 1)

/-! ### Cancellation (R255 to R257) -/

/-- Outstanding requests of a stream from earlier epochs. -/
def Dev.staleCount (d : Dev) (f s : Nat) : Nat :=
  (d.mem.reqs.filter (fun r => r.f == f && r.st == s && r.epoch != d.rd (Pg.fetch f) Reg.FETCH.EPOCH s)).length

/-- Keep STALE and TAGS_OUT (Table 8.8). -/
def Dev.tagCounts (d : Dev) (f s : Nat) : Dev :=
  (d.wr (Pg.fetch f) Reg.FETCH.STALE (min 511 (d.staleCount f s)) s).wr (Pg.fetch f) Reg.FETCH.TAGS_OUT
    (min 511 (d.mem.reqs.filter (fun r => r.f == f && r.port != 4)).length)

/-- A PREFETCH stream begins its list (R250). -/
def Dev.prefetchBegin (d : Dev) (f s : Nat) : Dev :=
  (d.stSet f s { d.stGet f s with started := true, ended := false, pos := 0, poff := 0, dpos := 0, acc := [], accP := [], rec_ := [],
                                  ackTx := [], again := false }).setStState f s 1

/-- The cancelled stream has no stale tag left: IDLE, and CSYNC is signalled (R257). A PREFETCH stream that waits for this begins its list
again (R251). -/
def Dev.cancelDone (d : Dev) (f s : Nat) : Dev :=
  let st := d.stGet f s
  let d1 := (d.stSet f s { st with csyncDue := false, again := false }).setStState f s 0
  let d2 := if st.csyncDue && d.flag (Pg.fetch f) Reg.FETCH.CSYNC_EN s then d1.signal (d.rd (Pg.fetch f) Reg.FETCH.CSYNC s) 1 else d1
  if st.again then d2.prefetchBegin f s else d2

/-- What a cancel drops; the pass restarts at its start (R256). -/
def FStream.cancelled (x : FStream) : FStream :=
  { FStream.zero with
    pass := x.pass, passDone := x.passDone, stamp := x.stamp, iseq := x.iseq, dseq := x.iseq, spDone := x.spDone, started := false,
    csyncDue := true }

/-- Cancel a stream: the epoch advances, unless that meets the epoch of a tag still outstanding (R255 to R257). What it still had to send of
packets is cut (R259). -/
def Dev.cancelStream (d : Dev) (f s : Nat) : Dev :=
  let pg := Pg.fetch f
  let next := (d.rd pg Reg.FETCH.EPOCH s + 1) % 256
  if d.mem.reqs.any (fun r => r.f == f && r.st == s && r.epoch == next) then
    d.stSet f s { d.stGet f s with cancelWait := true }
  else
    let d1 := ((d.cutPackets (fkey f s + 1)).stSet f s (d.stGet f s).cancelled).wr pg Reg.FETCH.EPOCH next s
    let d2 : Dev := { d1 with mem := { d1.mem with opWalks := d1.mem.opWalks.filter (fun k => k != fkey f s) } }
    let d3 := (d2.tagCounts f s).setStState f s 4
    if d3.staleCount f s = 0 then d3.cancelDone f s else d3

/-- A tag of the stream was freed: a cancel that waited for it goes on. -/
def Dev.tagFreed (d : Dev) (f s : Nat) : Dev :=
  let d1 := d.tagCounts f s
  if (d1.stGet f s).cancelWait then d1.cancelStream f s else d1

/-- CANCEL_COMPLETE (R257). -/
def Dev.cancelComplete (d : Dev) (f s : Nat) : Dev :=
  if d.stState f s = 4 ∧ d.staleCount f s = 0 then d.cancelDone f s else d

/-- A write of CANCEL to the status word (R256); the page of a fetch engine. -/
def Dev.cancelWrite (d : Dev) (f s : Nat) : Dev := d.cancelStream f s

/-- RESOLVE RETRY (R273). -/
def Dev.resolveRetry (d : Dev) (f s : Nat) : Dev := if d.stState f s = 3 then d.setStState f s 2 else d

/-- RESOLVE CANCEL (R273). -/
def Dev.resolveCancel (d : Dev) (f s : Nat) : Dev := if d.stState f s = 3 then d.cancelStream f s else d

/-- XLATE_WAIT expires for a suspended stream; 0 never (R273, Table 8.8), nor while the Dealer reloads (R318). -/
def Dev.xlateWaitExpiry (d : Dev) (f s : Nat) : Dev :=
  let w := d.rd (Pg.fetch f) Reg.FETCH.XLATE_WAIT
  if d.stState f s = 3 ∧ 0 < w ∧ d.flt.dealerDown = false ∧ (d.stGet f s).suspAt + usCycles (1000 * w) ≤ d.cycle then d.cancelStream f s else d

/-- Cancel every stream of a domain (a stop, R256). -/
def Dev.cancelDomain (d : Dev) (m : Nat) : Dev :=
  d.each (List.range 512) (fun d k =>
    if d.flag (Pg.sdesc (k / 64) (k % 64)) Reg.SDESC.EN && d.sd (k / 64) (k % 64) Reg.SDESC.DOM == m then d.cancelStream (k / 64) (k % 64)
    else d)

/-- Cancel every stream bound to a core (R22). -/
def Dev.cancelCore (d : Dev) (c : Nat) : Dev :=
  d.each (List.range 64) (fun d s =>
    if d.flag (Pg.sdesc (fileOf c) s) Reg.SDESC.EN && d.stCore (fileOf c) s == c then d.cancelStream (fileOf c) s else d)

/-- At START and at each segment switch pass counts, stamps and spill offsets are 0 (R245, R246, R237). -/
def Dev.streamsBegin (d : Dev) (m : Nat) : Dev :=
  d.each (List.range 512) (fun d k =>
    let f := k / 64
    let s := k % 64
    if d.flag (Pg.sdesc f s) Reg.SDESC.EN && d.sd f s Reg.SDESC.DOM == m then
      d.stSet f s { d.stGet f s with pass := 0, passDone := 0, stamp := 0, spDone := 0 }
    else d)

/-! ### Delivery -/

/-- STREAM_CFG: the stream stops (R250). -/
def Dev.streamCfg (d : Dev) (f s : Nat) : Dev :=
  ((d.wr (Pg.sdesc f s) Reg.SDESC.EN 0).setStState f s 0).raise (Pg.fetch f) 6 (.dom (d.sd f s Reg.SDESC.DOM))

/-- The flit made from the bytes of an item (R234, R238, R244, R246). -/
def Dev.itemFlit (d : Dev) (f s i : Nat) (bs : List Byte) (p : List Bool) : Item :=
  let fmt := d.sd f s Reg.SDESC.FMT
  let any := p.any id
  if d.sd f s Reg.SDESC.KIND = 3 then Item.ofNat (leNat bs + 256 * ((d.stGet f s).stamp % 16)) any
  else if fmt = 2 ∨ fmt = 3 then
    let (_, _, x, cols) := d.itemAt f s i
    let bl := (chunks (bs.length + 1) (frcBytes fmt) bs).map (fun b => frcDecode (leNat b) (frcBits fmt) (d.flag (Pg.sdesc f s) Reg.SDESC.U))
    let v := bl.flatMap (·.1)
    let data := leNat ((List.range 32).map (fun j => if j < cols ∧ x + j ≤ d.sd f s Reg.SDESC.MW_M1 then BitVec.ofNat 8 (v.getD j 0) else 0))
    { Item.ofNat data (any || bl.any (·.2.1)) with valid := !bl.any (·.2.2) }
  else Item.ofNat (leNat bs) any

/-- The block tag that R246 stamps. -/
def Dev.stamped (d : Dev) (f s : Nat) (x : Item) : Item :=
  if d.flag (Pg.sdesc f s) Reg.SDESC.STAMP && d.sd f s Reg.SDESC.KIND == 1 then { x with btag := BitVec.ofNat 4 (d.stGet f s).stamp }
  else x

/-- The destination can take the next item (R247, R252). -/
def Dev.itemRoom (d : Dev) (f s extra : Nat) : Bool :=
  let b := fbq f (d.sd f s Reg.SDESC.BQ)
  match d.sd f s Reg.SDESC.KIND with
  | 1 | 3 => d.bqEn b && decide (extra < d.bqFree b)
  | 2 => d.creditOk f 13 (d.sd f s Reg.SDESC.CNT) (extra + 1)
  | 4 => d.bqEn (b + 1) && decide (4 ≤ d.bqFree (b + 1))
  | _ => true

/-- A complete prefetch record is sent as a packet (R250). -/
def Dev.prefetchSend (d : Dev) (f s : Nat) : Dev :=
  let st := d.stGet f s
  match st.rec_ with
  | [] => d
  | hf :: payload =>
    let h := hf.data.toNat
    if payload.length < Hdr.len h then d
    else
      let (tx, d1) := d.nextTxid (32 + f)
      let ack := decide (Hdr.kind h = 0) && bitAt (Hdr.target h) 2
      let d2 := d1.stSet f s { st with rec_ := [], ackTx := if ack then tx :: st.ackTx else st.ackTx }
      (d2.sendPacket (32 + f) (Hdr.dest h) (Hdr.kind h) (Hdr.target h) (Hdr.addr h) tx 0 payload (some (d.sd f s Reg.SDESC.DOM))
        (own := fkey f s + 1)).2

/-- A flit of a packet list (R250). -/
def Dev.prefetchFlit (d : Dev) (f s : Nat) (x : Item) : Dev :=
  let st := d.stGet f s
  if st.ended then d
  else if st.rec_.isEmpty then
    let h := x.data.toNat
    let k := Hdr.kind h
    let dest := Hdr.dest h
    if k = 7 then d.stSet f s { st with ended := true }
    else if k = 3 ∨ k = 4 ∨ k = 5 ∨ !(decide (dest < 32) || dest == 44 || dest == 45 || dest == 46) then
      (d.stSet f s { st with ended := true }).streamCfg f s
    else (d.stSet f s { st with rec_ := [x] }).prefetchSend f s
  else (d.stSet f s { st with rec_ := st.rec_ ++ [x] }).prefetchSend f s

/-- Deliver item `i`, made from its bytes. -/
def Dev.deliverItem (d : Dev) (f s i : Nat) (bs : List Byte) (p : List Bool) : Dev :=
  let b := fbq f (d.sd f s Reg.SDESC.BQ)
  let st := d.stGet f s
  let up (d : Dev) : Dev := d.stSet f s { d.stGet f s with stamp := (d.stGet f s).stamp + 1 }
  match d.sd f s Reg.SDESC.KIND with
  | 1 | 3 => up (d.bqPush b (d.stamped f s (d.itemFlit f s i bs p)))
  | 2 =>
    let x := d.itemFlit f s i bs p
    let (tx, d1) := d.nextTxid (32 + f)
    ((d1.creditTake f 13 (d.sd f s Reg.SDESC.CNT) 1).sendPacket (32 + f) (d.stCore f s) 2 (d.sd f s Reg.SDESC.TQ) 0 tx 0 [x]
      (some (d.sd f s Reg.SDESC.DOM)) (own := fkey f s + 1)).2
  | 4 =>
    if i = 0 then d.stSet f s { st with grow := bs, growP := p }
    else
      let (xs, d1) := d.gatherFlits f s st.grow bs (st.growP.any id || p.any id)
      let d2 := xs.foldl (fun (d : Dev) x => d.bqPush (b + 1) x) d1
      d2.stSet f s { d2.stGet f s with gath := [], gpoison := false, grow := [], growP := [], pos := 0, poff := 0, dpos := 0, acc := [],
                                       accP := [] }
  | 7 => d.prefetchFlit f s (Item.ofNat (leNat bs) (p.any id))
  | _ => d

/-- After the last item of a pass was delivered or written: the pass is complete and the stream IDLE (Table 8.6). -/
def Dev.passEnd (d : Dev) (f s : Nat) : Dev :=
  let st := d.stGet f s
  (d.stSet f s { st with pass := st.pass + 1, passDone := st.passDone + 1, pos := 0, poff := 0, dpos := 0, acc := [], accP := [] }).setStState
    f s 0

/-- Use the return at the head of the stream's order as far as its destination has room; `fuel` bounds its items. -/
def Dev.useReturn (d : Dev) (f s : Nat) (r : FetchRet) (fuel : Nat) : Bool × Dev :=
  match fuel with
  | 0 => (true, d)
  | n + 1 =>
    let st := d.stGet f s
    match d.needBytes f s st.dpos with
    | none => (true, d)
    | some (a, len) =>
      let o := st.acc.length
      if (a + o) / 64 * 64 % 2 ^ 48 ≠ r.va then (true, d)
      else
        let k := min (len - o) (64 - (a + o) % 64)
        let fin := decide (len ≤ o + k)
        if fin && !d.itemRoom f s 0 then (false, d)
        else
          let acc := st.acc ++ (r.data.drop ((a + o) % 64)).take k
          let accP := st.accP ++ (r.poison.drop ((a + o) % 64)).take k
          if fin then
            let d1 := d.deliverItem f s st.dpos acc accP
            let st1 := d1.stGet f s
            let d2 := if d.sd f s Reg.SDESC.KIND = 4 ∧ st.dpos = 1 then d1
              else d1.stSet f s { st1 with dpos := st.dpos + 1, acc := [], accP := [] }
            d2.useReturn f s r n
          else (true, d.stSet f s { st with acc := acc, accP := accP })

/-- Deliver returns of a stream in request order as far as its destination has room (R252). -/
def Dev.drainStream (d : Dev) (f s fuel : Nat) : Dev :=
  match fuel with
  | 0 => d
  | n + 1 =>
    let st := d.stGet f s
    match st.rets.find? (fun r => r.seq == st.dseq) with
    | none => d
    | some r =>
      match d.useReturn f s r 80 with
      | (false, d1) => d1
      | (true, d1) =>
        let st1 := d1.stGet f s
        let d2 := d1.stSet f s { st1 with rets := st1.rets.erase r, dseq := st1.dseq + 1 }
        let k := d.sd f s Reg.SDESC.KIND
        let d3 := if (k = 1 ∨ k = 2 ∨ k = 3) ∧ d2.passItems f s ≤ (d2.stGet f s).dpos then d2.passEnd f s else d2
        d3.drainStream f s n

/-! ### Issue (R252, R253) -/

/-- Requests outstanding at a port, in class A or in classes B and C. -/
def Dev.tagsUsed (d : Dev) (port : Nat) (clsA : Bool) : Nat :=
  (d.mem.reqs.filter (fun r => r.port == port && (r.cls == 1) == clsA)).length

/-- PCIe read tags in use, and how many there are (R352, R253). -/
def Dev.pcieTags (d : Dev) : List Nat := (d.mem.reqs.filter (fun r => r.port == 4)).map (·.tag) ++ d.hp.reads.map (·.tag)
def Dev.pcieLimit (d : Dev) : Nat := if d.hp.cfg.tag10 then 512 else if d.hp.cfg.tagExt then 256 else 32
def Dev.pcieRoom (d : Dev) : Bool := decide (d.pcieTags.length < d.pcieLimit) && !d.hp.cfg.d3hot

/-- The lowest free PCIe read tag. -/
def Dev.pcieTag (d : Dev) : Nat := ((List.range 512).find? (fun t => !d.pcieTags.contains t)).getD 0

/-- BAR4 offset at which B tile memory begins (R360). -/
def Dev.aperSplit (d : Dev) : Nat := d.hp.cfg.bar4 - 2 ^ 27

/-- Bytes of a DDR5 aperture access that installed memory serves. -/
def Dev.aperHave (d : Dev) (a : AperReq) : Nat := min a.len (d.ddrCap - a.addr)

/-- The memory port at which the aperture, the one requester of class C, waits for a tag. -/
def Dev.aperPort (d : Dev) : Option Nat :=
  match d.hp.aper with
  | a :: _ => if a.off < d.aperSplit ∧ a.tag = none ∧ a.pos < d.aperHave a then some (d.ddrPort (a.addr + a.pos)) else none
  | [] => none

/-- Free tags of classes B and C at a memory port: what TAGA leaves them, less those in use (R253). -/
def Dev.tagsFree (d : Dev) (port : Nat) : Nat := 256 - d.rd (Pg.memport port) Reg.MEMPORT.TAGA - d.tagsUsed port false

/-- The next tag that classes B and C contend for at a port is class C's: one in four (R253). -/
def Dev.tagTurnC (d : Dev) (port : Nat) : Bool := Tab.get d.mem.deal (72 + port) 0 == 3

/-- A tag of class A or B is free at the port; port 4 is the host port, whose 512 tags carry no class A traffic. The last free tag of classes
B and C goes by turn when both wait (R253, DESIGN CHOICE, log 152). -/
def Dev.tagRoom (d : Dev) (port cls : Nat) : Bool :=
  if port = 4 then cls != 1 && d.pcieRoom
  else if cls = 1 then decide (d.tagsUsed port true < d.rd (Pg.memport port) Reg.MEMPORT.TAGA)
  else decide (2 ≤ d.tagsFree port) || (d.tagsFree port == 1 && (d.aperPort != some port || !d.tagTurnC port))

/-- A tag of classes B and C was given: the turn moves on. -/
def Dev.tagDealt (d : Dev) (port : Nat) : Dev :=
  { d with mem := { d.mem with deal := Tab.set d.mem.deal (72 + port) ((Tab.get d.mem.deal (72 + port) 0 + 1) % 4) 0 } }

/-- The lowest free tag of a port. -/
def Dev.freeTag (d : Dev) (port : Nat) : Nat :=
  if port = 4 then d.pcieTag
  else ((List.range 256).find? (fun t => !d.mem.reqs.any (fun r => r.port == port && r.tag == t))).getD 0

/-- The port of a physical address: 4 for host memory (R260). -/
def Dev.paPort (d : Dev) (pa : Nat) : Nat := if bitAt pa 47 then 4 else d.ddrPort pa

/-- Host bus address of a physical address with bit 47 set (R260). -/
def Dev.hostAddr (d : Dev) (pa : Nat) : Nat :=
  (d.rd Pg.mmu Reg.MMU.HOST_OFFSET 0 + d.rd Pg.mmu Reg.MMU.HOST_OFFSET 1 * 2 ^ 32 + pa % 2 ^ 47) % 2 ^ 64

/-- The physical page that a stream has at hand for an address. -/
def FStream.pageAt (x : FStream) (va : Nat) : Option Nat :=
  match x.xl with
  | some (v, p) => if v / 4096 = va / 4096 then some p else none
  | none => none

/-- The stream's request at `va` uses physical page `p`. A class A or PREFETCH translation that no pinned entry serves sets bound flag 9
(R272). -/
def Dev.translated (d : Dev) (f s va p : Nat) : Option Nat × Dev :=
  let k := d.sd f s Reg.SDESC.KIND
  (some (p + va % 4096),
    if !d.pinnedAt (d.sd f s Reg.SDESC.AS) va && (kindClass k == 1 || k == 7) then d.setBound (d.sd f s Reg.SDESC.DOM) 9 else d)

/-- Translation for address `va` of a stream: at hand, or the stream goes to WALK (Table 8.6). -/
def Dev.translate (d : Dev) (f s va : Nat) (write : Bool) : Option Nat × Dev :=
  let as := d.sd f s Reg.SDESC.AS
  match (d.stGet f s).pageAt va with
  | some p => d.translated f s va p
  | none =>
    match d.tlbLookup f as va write with
    | (some e, d1) =>
      let p := (e.pa + va % 2 ^ e.lg) / 4096 * 4096
      (d1.stSet f s { d1.stGet f s with xl := some (va / 4096 * 4096, p) }).translated f s va p
    | (none, d1) =>
      (none, (d1.stSet f s { d1.stGet f s with walkVa := va, wasLocked := d1.toRelock as va || d1.pinnedAt as va }).setStState f s 2)

/-- Put a request into the crossbar. A write to host memory is a posted write and holds no tag (DEDUCED, log 33). -/
def Dev.sendRequest (d : Dev) (f s pa va len : Nat) (wdata : List (Option Byte)) : Dev :=
  let port := d.paPort pa
  let cls := d.sd f s Reg.SDESC.CLS
  let write := !wdata.isEmpty
  let d0 := d.count (Pg.fetch f) 0xF (if cls = 1 then 0 else if cls = 2 then 1 else 2)
  if port = 4 ∧ write then d0.emit (.hostWrite (d.hostAddr pa) wdata false)
  else
    let tag := d.freeTag port
    let st := d0.stGet f s
    let r : MemReq := { port := port, tag := tag, f := f, st := s, epoch := d.rd (Pg.fetch f) Reg.FETCH.EPOCH s, seq := st.iseq, pa := pa,
                        va := va, len := len, write := write, wdata := wdata, cls := cls, dom := d.sd f s Reg.SDESC.DOM,
                        at_ := d.cycle, done := false, rdata := [], rpoison := [] }
    let d1 := (if port < 4 ∧ cls ≠ 1 then d0.tagDealt port else d0).stSet f s (if write then st else { st with iseq := st.iseq + 1 })
    let d2 := ({ d1 with mem := { d1.mem with reqs := d1.mem.reqs ++ [r] } } : Dev).tagCounts f s
    if port = 4 then d2.emit (.hostRead tag (d.hostAddr pa) len) else d2

/-- Bytes that a flit becomes at the map's address (R228, R233, R244, R249). An FRC block is stored whole; its columns beyond X1 are encoded
like those beyond the width (DESIGN CHOICE, log 151). -/
def Dev.encodeItem (d : Dev) (f s i : Nat) (x : Item) (len : Nat) : List (Option Byte) :=
  let fmt := d.sd f s Reg.SDESC.FMT
  let v := x.data.toNat
  if fmt = 2 ∨ fmt = 3 then
    let (_, _, x0, _) := d.itemAt f s i
    let code (j : Nat) : Int := if d.flag (Pg.sdesc f s) Reg.SDESC.U then (bitsOf v (8 * j) 8 : Nat) else sextN (bitsOf v (8 * j) 8) 8
    let blk (b : Nat) : List Byte :=
      leBytes (frcBytes fmt) (frcEncode ((List.range 16).map (fun j => code (16 * b + j)))
        (min 16 (min (d.sd f s Reg.SDESC.MW_M1) (d.sd f s Reg.SDESC.X1) + 1 - (x0 + 16 * b))) (frcBits fmt) x.poison (!x.valid))
    ((blk 0 ++ blk 1).take len).map some
  else (leBytes len v).map some

/-- Append bytes at `a` to the pieces to be written, cut at burst boundaries. -/
def joinPieces (q : List (Nat × List (Option Byte))) (a : Nat) (bs : List (Option Byte)) : List (Nat × List (Option Byte)) :=
  let n := 64 - a % 64
  let q1 := match q.getLast? with
    | some (wa, wb) => if wa + wb.length = a ∧ a % 64 ≠ 0 then q.dropLast ++ [(wa, wb ++ bs.take n)] else q ++ [(a, bs.take n)]
    | none => [(a, bs.take n)]
  if (bs.drop n).isEmpty then q1 else q1 ++ [(a + n, bs.drop n)]

/-- A WRITE stream fills its next piece from the outbound queue: items at hand that continue one burst are merged (R247, R261). -/
def Dev.fillWrite (d : Dev) (f s fuel : Nat) : Dev :=
  match fuel with
  | 0 => d
  | n + 1 =>
    let st := d.stGet f s
    let b := fbq f (d.sd f s Reg.SDESC.BQ)
    if d.passItems f s ≤ st.pos ∨ d.bqVisible b = 0 ∨ d.bqEn b = false then d
    else
      let (a, len) := d.itemBytes f s st.pass st.pos
      let joins : Bool := match st.wq.getLast? with
        | none => true
        | some (wa, wb) => wa + wb.length == a && a % 64 != 0
      if !joins then d
      else
        let (x, d1) := d.bqPop b
        let st1 := d1.stGet f s
        (d1.stSet f s { st1 with pos := st1.pos + 1, wq := joinPieces st1.wq a (d1.encodeItem f s st1.pos x len) }).fillWrite f s n

/-- A WRITE pass is complete when every item is written and acknowledged. -/
def Dev.writeEnd (d : Dev) (f s : Nat) : Dev :=
  let st := d.stGet f s
  if d.sd f s Reg.SDESC.KIND = 5 ∧ d.stState f s = 1 ∧ d.passItems f s ≤ st.pos ∧ st.wq.isEmpty = true ∧
      d.mem.reqs.any (fun r => r.f == f && r.st == s) = false then d.passEnd f s
  else d

/-- What became of one attempt to issue. -/
inductive Issue where
  | issued
  | notReady
  /-- ready but for a tag -/
  | noTag
  deriving DecidableEq, Repr

/-- The next bytes that a reading stream asks for: their address, and where it stands after the request for their burst. There is room for all
that the request brings beside what is outstanding (R252); a PREFETCH stream reads no further than the record it is in. -/
def Dev.nextRead (d : Dev) (f s : Nat) : Option (Nat × Nat × Nat) :=
  let st := d.stGet f s
  let ahead := st.pos - st.dpos
  match d.needBytes f s st.pos with
  | none => none
  | some (a, _) =>
    let (i, o, done) := d.throughBurst f s ((a + st.poff) / 64 * 64) 80 st.pos st.poff 0
    let ok : Bool := match d.sd f s Reg.SDESC.KIND with
      | 7 => (match st.rec_ with
          | [] => ahead == 0
          | h :: t => decide (ahead < Hdr.len h.data.toNat - t.length))
      | 4 => d.itemRoom f s 0
      | _ => d.itemRoom f s (ahead + max 1 done - 1)
    if ok then some ((a + st.poff) % 2 ^ 48, i, o) else none

/-- A request that a stream would issue: physical and virtual address, length, write data (empty for a read), and the stream after it. -/
structure Want where
  pa : Nat
  va : Nat
  len : Nat
  wdata : List (Option Byte)
  next : FStream

/-- The request for which a stream is ready but for a tag (R252). -/
def Dev.wantOf (d : Dev) (f s : Nat) : Option Want × Dev :=
  if d.stState f s ≠ 1 ∨ d.stLive f s = false then (none, d)
  else
    let k := d.sd f s Reg.SDESC.KIND
    if k = 5 ∨ k = 6 then
      let d0 := if k = 5 then d.fillWrite f s 64 else d
      let st := d0.stGet f s
      match st.wq with
      | [] => (none, d0.writeEnd f s)
      | (a, bs) :: rest =>
        let whole := decide (a % 64 + bs.length = 64) || !rest.isEmpty || k == 6 || decide (d0.passItems f s ≤ st.pos)
        let (w, d1) := if whole then (1, d0) else d0.choose 2
        if w = 0 then (none, d1)
        else match d1.translate f s (a % 2 ^ 48) true with
          | (none, d2) => (none, d2)
          | (some pa, d2) => (some ⟨pa, a % 2 ^ 48, bs.length, bs, { d2.stGet f s with wq := rest }⟩, d2)
    else match d.nextRead f s with
      | none => (none, d)
      | some (va, i, o) =>
        match d.translate f s va false with
        | (none, d1) => (none, d1)
        | (some pa, d1) => (some ⟨pa / 64 * 64, va / 64 * 64, 64, [], { d1.stGet f s with pos := i, poff := o }⟩, d1)

/-- Try to issue one request for a stream (R252). -/
def Dev.tryStream (d : Dev) (f s : Nat) : Issue × Dev :=
  match d.wantOf f s with
  | (none, d1) => (.notReady, d1)
  | (some w, d1) =>
    if !d1.tagRoom (d1.paPort w.pa) (d.sd f s Reg.SDESC.CLS) then (.noTag, d1)
    else (.issued, ((d1.stSet f s w.next).sendRequest f s w.pa w.va w.len w.wdata).writeEnd f s)

/-- The stream lacks only a tag (R276). -/
def Dev.lacksTag (d : Dev) (f s : Nat) : Bool := (d.tryStream f s).1 == .noTag

/-- Try streams in order until one issues; answers that one. -/
def Dev.tryStreams (d : Dev) (f : Nat) (ss : List Nat) : Option Nat × Dev :=
  match ss with
  | [] => (none, d)
  | s :: r =>
    match d.tryStream f s with
    | (.issued, d1) => (some s, d1)
    | (_, d1) => d1.tryStreams f r

/-- Streams of a class in round-robin order. -/
def Dev.rrOrder (d : Dev) (f cls : Nat) : List Nat :=
  let r := Tab.get d.mem.rr (4 * f + cls) 0
  ((List.range 64).map (fun i => (r + i) % 64)).filter (fun s =>
    d.flag (Pg.sdesc f s) Reg.SDESC.EN && d.sd f s Reg.SDESC.CLS == cls && d.stState f s == 1)

/-- Try the classes in order; the one that issues moves its pointer. -/
def Dev.tryClasses (d : Dev) (f : Nat) (cs : List Nat) : Option Nat × Dev :=
  match cs with
  | [] => (none, d)
  | c :: r =>
    match d.tryStreams f (d.rrOrder f c) with
    | (some s, d1) => (some c, { d1 with mem := { d1.mem with rr := Tab.set d1.mem.rr (4 * f + c) ((s + 1) % 64) 0 } })
    | (none, d1) => d1.tryClasses f r

/-- The return that a stream delivers next has arrived and waits for room. -/
def FStream.waitsRoom (x : FStream) : Bool := x.rets.any (fun r => r.seq == x.dseq)

/-- The part of an fm cycle that issues: one request, of class A first, then of B and C by turn (R252, R29); the stall count and the events of
R276 and R277. A capping governor stops classes B and C (R417). -/
def Dev.issueOne (d : Dev) (f : Nat) : Dev :=
  let pg := Pg.fetch f
  let pos := Tab.get d.mem.deal f 0
  let d1 := if (List.range 64).any (d.lacksTag f) then d.bump pg Reg.HDR.STALL_IN else d
  let (r, d2) := d1.tryClasses f (if d.plat.bcStop then [1] else if pos = 3 then [1, 3, 2] else [1, 2, 3])
  match r with
  | some 1 => d2
  | some _ => { d2 with mem := { d2.mem with deal := Tab.set d2.mem.deal f ((pos + 1) % 4) 0 } }
  | none => if (List.range 64).any (fun s => d2.flag (Pg.sdesc f s) Reg.SDESC.EN) then d2.count pg 0xF 4 else d2

/-- FETCH_ISSUE (R252): one fm cycle of the engine, of which an fa cycle has two. Returns that wait are delivered as far as there is room, and
one that still waits counts in STALL_OUT; QUIESCE stops new issue only (R276). -/
def Dev.fetchIssue (d : Dev) (f : Nat) : Dev :=
  if 2 ≤ (d.mem.used.filter (· == 32 + f)).length then d
  else
    let d0 : Dev := { d with mem := { d.mem with used := (32 + f) :: d.mem.used } }
    let d1 := d0.each (List.range 64) (fun d s => if (d.stGet f s).rets.isEmpty then d else d.drainStream f s 600)
    let d2 := if (List.range 64).any (fun s => (d1.stGet f s).waitsRoom) then d1.bump (Pg.fetch f) Reg.HDR.STALL_OUT else d1
    if d2.flag (Pg.fetch f) Reg.HDR.QUIESCE then d2 else d2.issueOne f

/-! ### Memory ports and returns -/

/-- The request that holds a tag. -/
def Dev.reqAt (d : Dev) (port tag : Nat) : Option MemReq := d.mem.reqs.find? (fun r => r.port == port && r.tag == tag)

/-- The request may take the present slot (R28, R29, R261): its own reserved one, or one that no waiting class A request has reserved;
classes B and C alternate 3:1 when both wait, and let a scrub read that is late go first (R268). -/
def Dev.mayAccess (d : Dev) (r : MemReq) : Bool :=
  let turn := Tab.get d.mem.deal (64 + r.port) 0
  (d.reserved r || !d.slotReserved r.port) &&
    (r.cls == 1 || (!d.ddrScrubLate r.port &&
      (if r.cls == 2 then !d.portWaits r.port 3 || turn != 3 else !d.portWaits r.port 2 || turn == 3)))

/-- A request stands before `r` in its stream at the same burst (R261). -/
def Dev.ordered (d : Dev) (r : MemReq) : Bool :=
  !((d.mem.reqs.takeWhile (fun x => x != r)).any (fun x => x.f == r.f && x.st == r.st && !x.done && x.pa / 64 == r.pa / 64))

/-- The address that MEM_ACCESS would reach and that no memory serves (R260). -/
def Dev.memMissing (d : Dev) (p tag : Nat) : Option Nat :=
  match d.reqAt p tag with
  | some r => if !r.done && decide (d.ddrCap < r.pa + r.len) then some r.pa else none
  | none => none

/-- MEM_ACCESS (R261, R265, R267). -/
def Dev.memAccess (d : Dev) (p tag : Nat) : Dev :=
  match d.reqAt p tag with
  | none => d
  | some r =>
    if r.done || d.mem.used.contains (16 + p) || !d.mayAccess r || !d.ordered r || d.flag (Pg.memport p) Reg.HDR.QUIESCE then d
    else
      let attr : Attr := if r.cls = 3 then .none_ else .dom r.dom
      let slots := if d.reserved r then Tab.set d.mem.slots (8 * p + r.dom) (Tab.get d.mem.slots (8 * p + r.dom) 0 + 1) 0 else d.mem.slots
      let deal := if r.cls = 1 then d.mem.deal else Tab.set d.mem.deal (64 + p) ((Tab.get d.mem.deal (64 + p) 0 + 1) % 4) 0
      let d0 : Dev := { d with mem := { d.mem with used := (16 + p) :: d.mem.used, slots := slots, deal := deal } }
      let (bs, ps, d1) := if r.write then ([], [], d0.ddrWriteBurst r.pa r.wdata attr) else d0.ddrRead r.pa r.len attr
      { d1 with mem := { d1.mem with
          reqs := d1.mem.reqs.map (fun x => if x = r then { x with done := true, rdata := bs, rpoison := ps } else x) } }

/-- The stream's data arrive: kept until earlier ones are delivered, then delivered (R252). -/
def Dev.acceptReturn (d : Dev) (r : MemReq) (data : List Byte) (poison : List Bool) : Dev :=
  let st := d.stGet r.f r.st
  (d.stSet r.f r.st { st with rets := st.rets ++ [⟨r.seq, r.va, data, poison⟩] }).drainStream r.f r.st 600

/-- Remove a request; its tag is free. -/
def Dev.dropReq (d : Dev) (r : MemReq) : Dev := { d with mem := { d.mem with reqs := d.mem.reqs.erase r } }

/-- A return goes to the discard sink (R255). -/
def Dev.discardReturn (d : Dev) (f : Nat) : Dev := (d.bump (Pg.fetch f) Reg.FETCH.DISCARD_CNT).count (Pg.fetch f) 0xF 3

/-- FETCH_RETURN (R255): `tag` is 256·port + tag at a memory port, 1024 + tag at the host port. -/
def Dev.fetchReturn (d : Dev) (f tag : Nat) (host : HostRead) : Dev :=
  let port := if tag < 1024 then tag / 256 else 4
  let t := if tag < 1024 then tag % 256 else tag - 1024
  if 2 ≤ (d.mem.used.filter (· == 8 + f)).length then d
  else match d.reqAt port t with
  | some r =>
    if r.f ≠ f ∨ (port ≠ 4 ∧ r.done = false) then d
    else
      let d0 : Dev := ({ d with mem := { d.mem with used := (8 + f) :: d.mem.used } } : Dev).dropReq r
      let rtt := 2 * (d.cycle - r.at_)
      let d1 := if r.cls = 1 ∧ port ≠ 4 then
          d0.wr (Pg.memport port) Reg.MEMPORT.RTT_MAX (min 65535 (max rtt (d0.rd (Pg.memport port) Reg.MEMPORT.RTT_MAX))) else d0
      let d1 := if port = 4 ∧ host.poisoned = true then (d1.raise Pg.host 3 (if r.cls = 3 then .none_ else .dom r.dom)).aer 12 else d1
      if r.epoch ≠ d.rd (Pg.fetch f) Reg.FETCH.EPOCH r.st then (d1.discardReturn f).tagFreed f r.st
      else
        let d2 := d1.tagFreed f r.st
        if r.write then d2.writeEnd f r.st
        else if port = 4 then
          d2.acceptReturn r ((host.data ++ List.replicate 64 0).take 64)
            ((List.replicate host.data.length host.poisoned ++ List.replicate 64 true).take 64)
        else d2.acceptReturn r r.rdata r.rpoison
  | none =>
    match d.mem.late.find? (fun r => r.port == port && r.tag == t && r.f == f) with
    | some r => ({ d with mem := { d.mem with late := d.mem.late.erase r, used := (8 + f) :: d.mem.used } } : Dev).discardReturn f
    -- a completion that no read awaits (R353)
    | none => if port = 4 then d.aer 16 else d

/-- TAG_TIMEOUT (R258): 2 µs are 800 fa cycles. -/
def Dev.tagTimeout (d : Dev) (p tag : Nat) : Dev :=
  match d.reqAt p tag with
  | none => d
  | some r =>
    if d.cycle < r.at_ + 800 then d
    else
      let pg := Pg.fetch r.f
      let d1 := ((d.dropReq r).bump pg Reg.FETCH.TIMEOUT_CNT).raise pg 5 (.dom r.dom)
      let d2 : Dev := { d1 with mem := { d1.mem with late := r :: d1.mem.late } }
      let d3 := d2.tagFreed r.f r.st
      if r.epoch ≠ d.rd pg Reg.FETCH.EPOCH r.st then d3
      else if r.write then d3.writeEnd r.f r.st
      else d3.acceptReturn r (List.replicate 64 0) (List.replicate 64 true)

/-! ### Walks of streams (R271, R273, R274) -/

/-- WALK_DONE. -/
def Dev.walkDone (d : Dev) (f s : Nat) (host : List HostPte) : Dev :=
  if d.stState f s ≠ 2 then d
  else
    let pg := Pg.fetch f
    let st := d.stGet f s
    let k := d.sd f s Reg.SDESC.KIND
    let m := d.sd f s Reg.SDESC.DOM
    let attr : Attr := if d.sd f s Reg.SDESC.CLS = 3 then .none_ else .dom m
    let (r, _, d0) := d.walk (d.sd f s Reg.SDESC.AS) st.walkVa (if k = 5 ∨ k = 6 then 1 else 0) host attr
    let d1 := ({ d0 with mem := { d0.mem with opWalks := d0.mem.opWalks.filter (fun x => x != fkey f s) } } : Dev).count pg 0xF 6
    match r with
    | .ok e =>
      let e1 := { e with pinned := d1.toRelock e.as_ st.walkVa }
      let d2 := (d1.sharedFill e1).engineFill f e1
      let d3 : Dev := { d2 with mem := { d2.mem with relock := d2.mem.relock.filter (fun x => !x.covers e.as_ st.walkVa) } }
      let p := (e.pa + st.walkVa % 2 ^ e.lg) / 4096 * 4096
      (d3.stSet f s { d3.stGet f s with xl := some (st.walkVa / 4096 * 4096, p), wasLocked := false }).setStState f s 1
    | .fail kind level =>
      let d2 := if d1.flag pg Reg.FETCH.FLT_VALID then d1
        else ((((((d1.wr pg Reg.FETCH.FLT_STREAM s).wr pg Reg.FETCH.FLT_KIND kind).wr pg Reg.FETCH.FLT_LEVEL level).wr pg
          Reg.FETCH.FLT_LOCKED (if st.wasLocked then 1 else 0)).hit pg Reg.FETCH.FLT_VALID).wr pg Reg.FETCH.FLT_VA_LO st.walkVa).wr pg
          Reg.FETCH.FLT_VA_HI (st.walkVa / 2 ^ 32)
      let d3 := (d2.stSet f s { d2.stGet f s with suspAt := d.cycle }).setStState f s 3
      if st.wasLocked then d3.raise pg 4 (.core (d.stCore f s)) else d3.raise pg 3 .none_

/-! ### Passes, gathers, prefetch, spills -/

/-- Pass `k` of a stream may begin: stream AFTER has completed its pass `k` (R245). -/
def Dev.passDue (d : Dev) (f s k : Nat) : Bool :=
  !d.flag (Pg.sdesc f s) Reg.SDESC.AFTEN || decide (k < (d.stGet f (d.sd f s Reg.SDESC.AFTER)).passDone)

/-- PASS_START (R245). -/
def Dev.passStart (d : Dev) (f s : Nat) : Dev :=
  let k := d.sd f s Reg.SDESC.KIND
  if d.stState f s = 0 ∧ d.stLive f s = true ∧ (k = 1 ∨ k = 2 ∨ k = 3 ∨ k = 5) ∧ d.passDue f s (d.stGet f s).pass = true then
    d.setStState f s 1
  else d

/-- GATHER_REQUEST (R248): the two words of the oldest request are taken; requests are answered in order, one in service at a time. -/
def Dev.gatherRequest (d : Dev) (f s : Nat) : Dev :=
  let b := fbq f (d.sd f s Reg.SDESC.BQ)
  if d.stLive f s = false ∨ d.sd f s Reg.SDESC.KIND ≠ 4 ∨ (d.stState f s ≠ 0 ∧ d.stState f s ≠ 1) ∨ (d.stGet f s).gath.isEmpty = false ∨
      d.bqVisible b < 2 ∨ d.itemRoom f s 0 = false then d
  else
    let (x0, d1) := d.bqPop b
    let (x1, d2) := d1.bqPop b
    let w0 := x0.data.toNat % 2 ^ 32
    let w1 := x1.data.toNat % 2 ^ 32
    let answer (d : Dev) (x : Item) : Dev := (List.replicate 4 x).foldl (fun (d : Dev) x => d.bqPush (b + 1) x) d
    if bitAt w0 31 then answer d2 Item.placeholder
    else
      let bad : Bool := match d2.gslot f w0 with
        | none => true
        | some (_, _, ch, _, fh) => decide (ch ≤ bitsOf w0 12 12 ∨ fh ≤ bitsOf w0 0 12 + 1)
      if bad then (answer d2 Item.poisoned).raise (Pg.fetch f) 7 (.dom (d.sd f s Reg.SDESC.DOM))
      else
        let st := d2.stGet f s
        (d2.stSet f s { st with gath := [w0, w1], gpoison := x0.poison || x1.poison, pos := 0, poff := 0, dpos := 0, acc := [], accP := [] }).setStState
          f s 1

/-- Start the PREFETCH streams of a domain that are not running; one that is being cancelled starts when that is done (R251). -/
def Dev.prefetchStart (d : Dev) (m : Nat) (again : Bool := false) : Dev :=
  d.each (List.range 512) (fun d k =>
    let f := k / 64
    let s := k % 64
    if d.flag (Pg.sdesc f s) Reg.SDESC.EN && d.sd f s Reg.SDESC.KIND == 7 && d.sd f s Reg.SDESC.DOM == m && d.streamLegal f s &&
        !d.fenced (d.stCore f s) then
      (if d.stState f s = 4 then d.stSet f s { d.stGet f s with again := true }
      else if d.stState f s = 0 ∨ (again = false ∧ d.stState f s = 5) then d.prefetchBegin f s
      else d)
    else d)

/-- PREFETCH_DONE (R250). -/
def Dev.prefetchDone (d : Dev) (f s : Nat) : Dev :=
  let st := d.stGet f s
  if d.sd f s Reg.SDESC.KIND = 7 ∧ d.stState f s = 1 ∧ st.ended = true ∧ st.ackTx.isEmpty = true then
    (d.stSet f s { st with started := false }).setStState f s 5
  else d

/-- Every PREFETCH stream of the domain that the loader started is DONE (R250, R251). -/
def Dev.prefetchAllDone (d : Dev) (m : Nat) : Bool :=
  (List.range 512).all (fun k =>
    let f := k / 64
    let s := k % 64
    !(d.flag (Pg.sdesc f s) Reg.SDESC.EN && d.sd f s Reg.SDESC.KIND == 7 && d.sd f s Reg.SDESC.DOM == m && !d.fenced (d.stCore f s)) ||
      d.stState f s == 5)

/-- SPILL_PACKET (R249): the oldest packet at the engine's endpoint; one for a stream that is no live SPILL stream is discarded, and one whose
last item lies in a pass that may not begin waits (R245). -/
def Dev.spillPacket (d : Dev) (f : Nat) : Dev :=
  match d.popPacket (32 + f) 0 with
  | none => d
  | some (h, payload, d1) =>
    let s := Hdr.target h
    let n := max 1 (d.passItems f s)
    if 64 ≤ s ∨ d1.sd f s Reg.SDESC.KIND ≠ 6 ∨ d1.stLive f s = false then d1
    else if !d.passDue f s ((Hdr.addr h + payload.length - 1) / n) then d
    else
      let st := d1.stGet f s
      let pieces := payload.zipIdx.foldl (fun q xi =>
        let i := Hdr.addr h + xi.2
        let (a, len) := d1.itemBytes f s (i / n) (i % n)
        joinPieces q a (d1.encodeItem f s (i % n) xi.1 len)) st.wq
      let d2 := d1.stSet f s { st with spill := st.spill ++ [(h, payload)], wq := pieces }
      if d2.stState f s = 0 then d2.setStState f s 1 else d2

/-- SPILL_ACK (R249): every write of the packets in service has been accepted by its port. -/
def Dev.spillAck (d : Dev) (f s : Nat) : Dev :=
  let st := d.stGet f s
  match st.spill with
  | [] => d
  | (h, payload) :: rest =>
    if st.wq.isEmpty = false ∨ d.mem.reqs.any (fun r => r.f == f && r.st == s && r.write && !r.done) = true then d
    else
      let done := max st.spDone (Hdr.addr h + payload.length)
      let d1 := d.stSet f s { st with spill := rest, spDone := done, passDone := done / max 1 (d.passItems f s) }
      let d2 := (d1.sendPacket (32 + f) (Hdr.srcn h) 5 (Hdr.target h) (Hdr.addr h) (Hdr.txid h) (Hdr.cls h) [] (some (d.sd f s Reg.SDESC.DOM))).2
      if rest.isEmpty then d2.setStState f s 0 else d2

/-- A KIND 5 acknowledgement reaches a fetch engine (R250). -/
def Dev.fetchAck (d : Dev) (f tx : Nat) : Dev :=
  d.each (List.range 64) (fun d s =>
    let st := d.stGet f s
    if st.ackTx.contains tx then d.stSet f s { st with ackTx := st.ackTx.erase tx } else d)

/-- BLOCK_RESET of a FETCH page (R276): the walks of its streams end with it, for which an INVAL may wait (R275). -/
def Dev.fetchBlockReset (d : Dev) (f : Nat) : Dev :=
  let d1 := d.each (List.range 64) (fun d s =>
    let d1 := ((d.cutPackets (fkey f s + 1)).stSet f s { (d.stGet f s).cancelled with csyncDue := false }).wr (Pg.fetch f) Reg.FETCH.EPOCH
      ((d.rd (Pg.fetch f) Reg.FETCH.EPOCH s + 1) % 256) s
    (d1.setStState f s 0).tagCounts f s)
  let d2 : Dev := { d1 with mem := { d1.mem with opWalks := d1.mem.opWalks.filter (fun k => k / 64 != f) } }
  (d2.setWord (Pg.fetch f + 0x70) 0).setWord (Pg.fetch f + 0x74) 0

end Sys2Proof.Machine
end

