-- ==== Sys2Proof/Machine/Float.lean ====
section
/-!
DEFINITION. Binary16 and binary32 arithmetic (R169): exact rationals, and one rounding to nearest with ties to even after each
operation. Subnormals are kept; there are no exception flags.
-/

namespace Sys2Proof.Machine

/-- A floating-point value: a finite one is ±num ÷ den, and zero keeps its sign. -/
inductive FV where
  | nan
  | inf (neg : Bool)
  | fin (neg : Bool) (num den : Nat)
  deriving DecidableEq, Repr

/-- A format: precision, least exponent of a normal number, greatest exponent, and bits of the exponent field. -/
structure FFmt where
  p : Nat
  emin : Int
  emax : Int
  ebits : Nat
  deriving DecidableEq, Repr

def FFmt.b16 : FFmt := ⟨11, -14, 15, 5⟩
def FFmt.b32 : FFmt := ⟨24, -126, 127, 8⟩

/-- 2^e as a numerator and a denominator. -/
def pow2 (e : Int) : Nat × Nat := if 0 ≤ e then (2 ^ e.toNat, 1) else (1, 2 ^ (-e).toNat)

/-- ⌊log2(num ÷ den)⌋ of a positive rational. -/
def floorLog2 (n d : Nat) : Int :=
  let k : Int := (Nat.log2 n : Int) - (Nat.log2 d : Int)
  let t := pow2 k
  if t.1 * d ≤ n * t.2 then k else k - 1

/-- Round a quotient of naturals to the nearest integer, ties to even. -/
def roundEven (n d : Nat) : Nat :=
  let q := n / d
  let r := n % d
  if 2 * r < d then q else if d < 2 * r then q + 1 else if q % 2 = 0 then q else q + 1

/-- Exponent of the last place that a positive value has in a format. -/
def quantum (f : FFmt) (n d : Nat) : Int := max (floorLog2 n d) f.emin - ((f.p : Int) - 1)

/-- Round to a format, ties to even, overflow to infinity (`f16` and `f32` of R169). -/
def FV.round (f : FFmt) (v : FV) : FV :=
  match v with
  | .nan => .nan
  | .inf s => .inf s
  | .fin s n d =>
    if n = 0 then .fin s 0 1
    else
      let q := quantum f n d
      let t := pow2 q
      let r := roundEven (n * t.2) (d * t.1)
      let lim := pow2 (f.emax + 1)
      if lim.1 * t.2 ≤ r * t.1 * lim.2 then .inf s else .fin s (r * t.1) t.2

/-- Bit pattern of a value that the format holds; NaN is 0x7E00 in binary16 (R169) and the quiet pattern with payload 0 in binary32,
where the caller fills the payload (DESIGN CHOICE, log 22). -/
def FV.encode (f : FFmt) (v : FV) : Nat :=
  let mb := f.p - 1
  let sg (s : Bool) := if s then 2 ^ (mb + f.ebits) else 0
  match v with
  | .nan => (2 ^ f.ebits - 1) * 2 ^ mb + 2 ^ (mb - 1)
  | .inf s => sg s + (2 ^ f.ebits - 1) * 2 ^ mb
  | .fin s n d =>
    if n = 0 then sg s
    else
      let q := quantum f n d
      let t := pow2 q
      let r := roundEven (n * t.2) (d * t.1)
      if r < 2 ^ mb then sg s + r
      else sg s + ((q - (f.emin - (mb : Int))).toNat + 1) * 2 ^ mb + (r - 2 ^ mb)

/-- The value of a bit pattern. -/
def FV.decode (f : FFmt) (x : Nat) : FV :=
  let mb := f.p - 1
  let m := bitsOf x 0 mb
  let e := bitsOf x mb f.ebits
  let s := bitAt x (mb + f.ebits)
  if e = 2 ^ f.ebits - 1 then (if m = 0 then .inf s else .nan)
  else if e = 0 then
    let t := pow2 (f.emin - (mb : Int))
    .fin s (m * t.1) t.2
  else
    let t := pow2 (f.emin - (mb : Int) + (e : Int) - 1)
    .fin s ((m + 2 ^ mb) * t.1) t.2

def FV.isNan : FV → Bool
  | .nan => true
  | _ => false

def FV.neg : FV → FV
  | .nan => .nan
  | .inf s => .inf (!s)
  | .fin s n d => .fin (!s) n d

/-- The exact integer numerator of a finite value over its denominator. -/
def sgn (s : Bool) (n : Nat) : Int := if s then -(n : Int) else n

/-- Exact sum. A zero sum of operands that are not both negative zeros is +0 (IEEE 754, round to nearest). -/
def FV.add (a b : FV) : FV :=
  match a, b with
  | .nan, _ => .nan
  | _, .nan => .nan
  | .inf s, .inf t => if s = t then .inf s else .nan
  | .inf s, _ => .inf s
  | _, .inf t => .inf t
  | .fin s n d, .fin t m e =>
    let x := sgn s n * e + sgn t m * d
    if x = 0 then .fin (s && t) 0 1 else .fin (decide (x < 0)) x.natAbs (d * e)

def FV.sub (a b : FV) : FV := a.add b.neg

/-- Exact product. -/
def FV.mul (a b : FV) : FV :=
  match a, b with
  | .nan, _ => .nan
  | _, .nan => .nan
  | .inf s, .inf t => .inf (s != t)
  | .inf s, .fin t m _ => if m = 0 then .nan else .inf (s != t)
  | .fin s n _, .inf t => if n = 0 then .nan else .inf (s != t)
  | .fin s n d, .fin t m e => .fin (s != t) (n * m) (d * e)

/-- Exact quotient. -/
def FV.div (a b : FV) : FV :=
  match a, b with
  | .nan, _ => .nan
  | _, .nan => .nan
  | .inf _, .inf _ => .nan
  | .inf s, .fin t _ _ => .inf (s != t)
  | .fin s _ _, .inf t => .fin (s != t) 0 1
  | .fin s n d, .fin t m e =>
    if m = 0 then (if n = 0 then .nan else .inf (s != t)) else .fin (s != t) (n * e) (d * m)

/-- Integer square root, bit by bit from bit `k − 1` down. -/
def isqrt (k n acc : Nat) : Nat :=
  match k with
  | 0 => acc
  | k + 1 => if (acc + 2 ^ k) * (acc + 2 ^ k) ≤ n then isqrt k n (acc + 2 ^ k) else isqrt k n acc

/-- Square root, to 64 bits beyond the point of its scaled form, inexact results marked by a last half unit, so that rounding it
once gives the correctly rounded root. -/
def FV.sqrt : FV → FV
  | .nan => .nan
  | .inf s => if s then .nan else .inf false
  | .fin s n d =>
    if n = 0 then .fin s 0 1
    else if s then .nan
    else
      let k := 160 + Nat.log2 d
      let x := n * 2 ^ (2 * k) / d
      let r := isqrt (Nat.log2 x / 2 + 1) x 0
      let exact := decide (r * r * d = n * 2 ^ (2 * k))
      .fin false (2 * r + (if exact then 0 else 1)) (2 ^ (k + 1))

/-- a < b; false when either is NaN. -/
def FV.lt (a b : FV) : Bool :=
  match a, b with
  | .nan, _ => false
  | _, .nan => false
  | .inf s, .inf t => s && !t
  | .inf s, .fin _ _ _ => s
  | .fin _ _ _, .inf t => !t
  | .fin s n d, .fin t m e => decide (sgn s n * e < sgn t m * d)

/-- Equal in value; false when either is NaN. -/
def FV.eqv (a b : FV) : Bool := !a.isNan && !b.isNan && !a.lt b && !b.lt a

/-- Maximum and minimum with NaN propagated, and −0 below +0 (DESIGN CHOICE, log 22). -/
def FV.max (a b : FV) : FV :=
  if a.isNan || b.isNan then .nan
  else if a.lt b then b else if b.lt a then a
  else match a with | .fin true 0 _ => b | _ => a

def FV.min (a b : FV) : FV :=
  if a.isNan || b.isNan then .nan
  else if a.lt b then a else if b.lt a then b
  else match a with | .fin true 0 _ => a | .fin false 0 _ => b | _ => a

def FV.ofInt (x : Int) : FV := .fin (decide (x < 0)) x.natAbs 1

def FV.zero : FV := .fin false 0 1

/-- `rhu` of R169, saturated: round half up; an infinity saturates. NaN is the caller's. -/
def FV.rhuSat (v : FV) (lo hi : Int) : Int :=
  match v with
  | .nan => 0
  | .inf s => if s then lo else hi
  | .fin s n d => satI ((2 * sgn s n + d) / (2 * (d : Int))) lo hi

/-- x × 2^e, exact. -/
def FV.scale (v : FV) (e : Int) : FV :=
  match v with
  | .fin s n d =>
    let t := pow2 e
    .fin s (n * t.1) (d * t.2)
  | v => v

def f16 (v : FV) : FV := v.round .b16
def f32 (v : FV) : FV := v.round .b32

end Sys2Proof.Machine
end

