-- ==== Sys2Proof/Machine/VTile.lean ====
section
/-!
DEFINITION. What the steps of the vector tiles share (06_vector_tiles.md): descriptors, the scratch, values of the three formats, result
slots, units and timing, and the steps that only move items. The scratch memories are given to the operations that read them; SST
answers the new one.
-/

namespace Sys2Proof.Machine

/-! ### Instruction fields (Table 6.2) and descriptors (Tables 6.4 and 6.5) -/

def vDesc (iw : Nat) : Nat := bitsOf iw 54 4
def vSA (iw : Nat) : Nat := bitsOf iw 49 5
def vSB (iw : Nat) : Nat := bitsOf iw 44 5
def vPH (iw : Nat) : Bool := bitAt iw 43
def vADV (iw : Nat) : Bool := bitAt iw 42
def vSUB (iw : Nat) : Nat := bitsOf iw 37 5
def vRD (iw : Nat) : Nat := bitsOf iw 31 6
def vNF (iw : Nat) : Nat := bitsOf iw 24 5 + 1

/-- A nonzero common field that the step does not use (R171). -/
def vUnused (iw : Nat) (desc sa sb ph sub rd : Bool) : Bool :=
  (!desc && !vADV iw && vDesc iw != 0) || (!sa && vSA iw != 0) || (!sb && vSB iw != 0) || (!ph && vPH iw) ||
    (!sub && vSUB iw != 0) || (!rd && vRD iw != 0)

structure VDesc where
  iw : Nat
  kh : Nat
  kw : Nat
  s : Nat
  dil : Nat
  pl : Nat
  pr : Nat
  izp : Int
  ifmt : Nat
  ofmt : Nat
  chn : Nat
  icg : Nat
  /-- word 1 -/
  w1 : Nat
  deriving DecidableEq, Repr

def VDesc.ofWords (a b : Nat) : VDesc :=
  { iw := bitsOf a 0 12 + 1, kh := bitsOf a 12 3 + 1, kw := bitsOf a 15 3 + 1, s := bitsOf a 18 3 + 1, dil := bitsOf a 21 2 + 1,
    pl := bitsOf a 23 3, pr := bitsOf a 26 3, izp := sextN (bitsOf a 29 8) 8, ifmt := bitsOf a 37 2, ofmt := bitsOf a 39 2,
    chn := bitsOf a 41 12 + 1, icg := bitsOf a 53 6 + 1,
    w1 := b }

/-- IFMT, and OFMT, is illegal (R172): a step looks at the formats that its section names, and at no reserved bit. -/
def VDesc.badIn (x : VDesc) : Bool := x.ifmt == 3
def VDesc.badOut (x : VDesc) : Bool := x.ofmt == 3
def VDesc.bad (x : VDesc) : Bool := x.badIn || x.badOut

def Dev.vDescOf (d : Dev) (c v iw : Nat) : VDesc := VDesc.ofWords (d.descWord c (10 + v) (vDesc iw) 0) (d.descWord c (10 + v) (vDesc iw) 1)

def VDesc.tlen (x : VDesc) : Nat := bitsOf x.w1 0 13
def VDesc.rsTile (x : VDesc) : Nat := bitsOf x.w1 13 2
def VDesc.rsBase (x : VDesc) : Nat := bitsOf x.w1 15 17

/-- An illegal rescale table reference. -/
def VDesc.badRs (x : VDesc) : Bool :=
  decide (x.tlen = 0 ∨ 4096 < x.tlen ∨ x.rsBase % 2 = 1 ∨ 131072 < x.rsBase + 2 * x.tlen)

def VDesc.ow (x : VDesc) : Int := outWidth x.iw x.pl x.pr x.dil x.kw x.s

/-- Values per flit of a format (R169). -/
def perFlit (fmt : Nat) : Nat := if fmt = 0 then 32 else 16

/-- CH[d]. -/
def Dev.vCh (d : Dev) (c v i : Nat) : Nat := d.rd (Pg.vtile c v) Reg.VTILE.CH i

/-! ### Values -/

/-- Code of element `j` of a flit: signed for A8 and A12, the bit pattern for F16. -/
def codeAt (fmt : Nat) (data j : Nat) : Int :=
  if fmt = 0 then sextN (bitsOf data (8 * j) 8) 8
  else if fmt = 1 then sextN (bitsOf data (16 * j) 12) 12
  else (bitsOf data (16 * j) 16 : Nat)

/-- The codes of an item; a placeholder supplies zeros. -/
def codes (fmt : Nat) (x : Item) : List Int :=
  (List.range (perFlit fmt)).map (fun j => if x.valid then codeAt fmt x.data.toNat j else 0)

/-- Integer operands: code − zero point for A8 (and `zp` for a second operand), the code for A12; a placeholder gives 0 (R130, R170). -/
def operands (fmt : Nat) (zp : Int) (x : Item) : List Int :=
  (List.range (perFlit fmt)).map (fun j =>
    if x.valid then codeAt fmt x.data.toNat j - (if fmt = 0 then zp else 0) else 0)

def floats (x : Item) : List FV := (codes 2 x).map (fun v => FV.decode .b16 v.toNat)

/-- A result element: bit pattern, placeholder and poison. -/
structure El where
  v : Nat
  ph : Bool
  po : Bool
  deriving DecidableEq, Repr

/-- Pattern of an integer result in a format. -/
def patI (fmt : Nat) (x : Int) : Nat := twos x (if fmt = 0 then 8 else 16)

/-- Pack elements of `n` per slot; each element has 256 ÷ n bits. -/
def packSlots (n : Nat) (l : List El) : List Slot :=
  (chunks 128 n l).map (fun g =>
    ⟨g.zipIdx.foldl (fun a x => a + x.1.v * 2 ^ ((256 / n) * x.2)) 0, !g.any (·.ph), g.any (·.po)⟩)

/-- Flags of what depends on items: placeholder accepted, poison, NV_CONSUMED (R170). -/
def depends (ph : Bool) (l : List Item) : Bool × Bool × Bool :=
  let inval := l.any (fun x => !x.valid)
  (inval && ph, l.any (·.poison) || (inval && !ph), inval && !ph)

/-! ### Faults and counts of the page -/

def Dev.vNv (d : Dev) (c v m : Nat) (nv : Bool) : Dev := if nv then d.raise (Pg.vtile c v) 0 (.unit m c) else d

/-- NaN results (R169). -/
def Dev.vNan (d : Dev) (c v n : Nat) : Dev := if n = 0 then d else d.bump (Pg.vtile c v) Reg.VTILE.NAN_CNT n

/-- Sums that saturated (R152, R179, R184). -/
def Dev.vSat (d : Dev) (c v n : Nat) : Dev :=
  let pg := Pg.vtile c v
  if n = 0 then d else (d.bump pg Reg.VTILE.ACC_SAT_CNT n).raise pg 5 .none_

/-- ILLEGAL_OP for a token of KIND 0b11 (R41): the step completes and the sequencer continues. -/
def Dev.vTokIllegal (d : Dev) (c v m pc : Nat) : Dev :=
  let pg := Pg.vtile c v
  let d1 := if d.flag pg Reg.VTILE.ILL_VALID then d
    else ((d.wr pg Reg.VTILE.ILL_ADDR pc).wr pg Reg.VTILE.ILL_REASON 8).hit pg Reg.VTILE.ILL_VALID
  d1.raise pg 4 (.unit m c)

/-- TOKEN_KIND (R183, R193, R194). -/
def Dev.vTokKind (d : Dev) (c v m : Nat) : Dev := d.raise (Pg.vtile c v) 2 (.unit m c)

def tokKind (x : Nat) : Nat := bitsOf x 14 2

/-- Result slots that a step writes (R174, Table 6.6). -/
def Dev.vSlots (d : Dev) (c v iw : Nat) : Nat :=
  let de := d.vDescOf c v iw
  match bitsOf iw 58 6 with
  | 0x02 | 0x03 => (bitsOf iw 21 4 + 1) * 32 / perFlit de.ofmt
  | 0x04 => (bitsOf iw 21 4 + 1) * perFlit de.ifmt / 16
  | 0x05 | 0x12 => vNF iw * perFlit de.ifmt / perFlit de.ofmt
  | 0x06 | 0x0B | 0x0E => 1
  | 0x07 => vNF iw * 16 / perFlit de.ofmt
  | 0x08 | 0x09 | 0x14 => vNF iw
  | 0x0A => (2 * ((bitsOf iw 15 3 + 1) * (bitsOf de.w1 29 5 + 1)) + 7) / 8
  | 0x0C => if bitsOf iw 29 2 = 1 then 1 else if bitsOf iw 29 2 = 2 then vNF iw else 0
  | 0x0D | 0x11 => bitsOf iw 24 4 + 1
  | 0x0F => if bitAt de.w1 11 then 6 else 3
  | 0x10 => 3
  | _ => 0

/-- Rescale entry `k` for a step; none beyond TLEN, which raises RESCALE_RANGE (R179). -/
def Dev.vRs (d : Dev) (c v m : Nat) (de : VDesc) (iw k : Nat) : Option RsEntry × Bool × Dev :=
  if de.tlen ≤ k then (none, true, d.raise (Pg.vtile c v) 3 (.unit m c))
  else
    let (e, p, f, d1) := d.rsEntry c de.rsTile m de.rsBase k
    let d2 := if f then d1.count (Pg.btile c de.rsTile) 0xF 3 else d1
    (some e, p, d2.rsReads c (10 + v) de.rsTile de.rsBase k 1 (vRD iw) (d.vSlots c v iw))

/-- Rescale with an entry, or 0 where there is none. -/
def rsApply (e : Option RsEntry) (x : Int) (fmt : Nat) : Int :=
  match e with
  | some e => rescale (sat32 x) e fmt
  | none => 0

/-! ### The scratch (R167, R170, R199) -/

def scrAddr (c v e : Nat) : Nat := (2 * c + v) * 65536 + 32 * e

/-- Words of a scratch entry through the code. -/
def Dev.scrWords (d : Dev) (sc : Memory) (a n : Nat) : Nat × Bool × Nat × Dev :=
  match n with
  | 0 => (0, false, 0, d)
  | n + 1 =>
    let (o, v, d1) := eccDecode d (Tab.get d.tl.serr (a / 8) 0) (leNat (Memory.readList sc a 8 0))
    let (r, u, k, d2) := d1.scrWords sc (a + 8) n
    (v + 2 ^ 64 * r, u || o == .uncorrectable, k + (if o = .corrected then 1 else 0), d2)

/-- Read scratch entry `e`: its 256 bits, and whether what reads it is poisoned. -/
def Dev.scrRead (d : Dev) (sc : Memory) (c v m e : Nat) : Nat × Bool × Dev :=
  let pg := Pg.vtile c v
  let (x, ue, k, d1) := d.scrWords sc (scrAddr c v e) 4
  let d2 := d1.bump pg Reg.VTILE.SCR_CORR k
  let p := Tab.get d.tl.spois (2048 * (2 * c + v) + e) false
  if ue then (x, true, (d2.raise pg 6 (.unit m c)).imageUe (some m) (pg / 4096)) else (x, p, d2)

/-- An uncorrectable word of function table memory or the result buffer: SCR_ECC, and the report of R318 (R199). -/
def Dev.codeUe (d : Dev) (c v m : Nat) : Dev := (d.raise (Pg.vtile c v) 6 (.unit m c)).imageUe (some m) (Pg.vtile c v / 4096)

/-- A cell of the V tile with the error pattern of key `k` is read through its code (R199): whether it is uncorrectable. -/
def Dev.codeRead (d : Dev) (c v m k : Nat) : Bool × Dev :=
  if d.upsetAt k = 0 then (false, d)
  else match eccDecode d (d.upsetAt k) 0 with
    | (.clean, _, d1) => (false, d1)
    | (.corrected, _, d1) => (false, d1.bump (Pg.vtile c v) Reg.VTILE.SCR_CORR)
    | (.uncorrectable, _, d1) => (true, d1.codeUe c v m)

/-- Read `n` consecutive entries. -/
def Dev.scrReads (d : Dev) (sc : Memory) (c v m e n : Nat) : List (Nat × Bool) × Dev :=
  match n with
  | 0 => ([], d)
  | n + 1 =>
    let (x, p, d1) := d.scrRead sc c v m e
    let (l, d2) := d1.scrReads sc c v m (e + 1) n
    ((x, p) :: l, d2)

/-! ### Units and results (R176, R177, Table 6.6) -/

/-- Latency entry `i` of Table 9.8 on this stepping (B0), with the domain's pad. -/
def Dev.vLat (d : Dev) (m i : Nat) : Nat :=
  ([3, 2, 24, 3, 2, 1, 3, 24, 5, 3, 8, 4, 2, 2, 4, 3] : List Nat).getD i 0 + d.equaliser m i

/-- Unit of an opcode: 0 lanes, 1 pool, 2 argmax, 3 function, 4 sampler, 5 top-K, 6 steering, 7 scratch; 8: none. -/
def unitOf (op : Nat) : Nat :=
  match op with
  | 0x03 => 1 | 0x04 => 2 | 0x07 => 3 | 0x08 => 3 | 0x09 => 3 | 0x0A => 4 | 0x0B => 4 | 0x0C => 5 | 0x0D => 6 | 0x0E => 6
  | 0x13 => 7 | 0x14 => 7 | 0x02 => 0 | 0x05 => 0 | 0x06 => 0 | 0x0F => 0 | 0x10 => 0 | 0x11 => 0 | 0x12 => 0 | _ => 8

/-- A time later than every cycle: the write is still to come. -/
def laterMark : Nat := 2 ^ 62

/-- An earlier step's unit phase on the same unit has not begun, or a scratch write that the step's entries wait for (R177). -/
def Dev.vWaits (d : Dev) (c v m op : Nat) (reads : Option (Nat × Nat)) : Bool :=
  let x := d.vtGet c v
  let u := unitOf op
  let now := d.dcyc m
  (u != 8 && (x.sq.runs.any (fun r => unitOf r.op == u) || decide (now < Tab.get x.unitBegin u 0))) ||
    (match reads with
      | some (e, n) => x.scrW.any (fun w => decide (w.1 < e + n ∧ e < w.1 + w.2.1 ∧ now ≤ w.2.2))
      | none => false)

/-- The result of a step at its unit phase. -/
structure VRes where
  d : Dev
  slots : List Slot
  u : Nat
  rl : Nat
  deriving DecidableEq, Repr

/-- Mark the result slots of an issued step as still to be written. -/
def Dev.vPend (d : Dev) (c v rd n : Nat) : Dev :=
  let x := d.vtGet c v
  d.vtSet c v { x with slotAt := (List.range n).foldl (fun t i => Tab.set t (rd + i) laterMark 0) x.slotAt }

/-- Result slots that are written hold no error any more (R199). -/
def Dev.slotsWritten (d : Dev) (c v rd n : Nat) : Dev :=
  if d.flt.upset.isEmpty then d else d.each (List.range (4 * n)) (fun d i => d.setUpset (Upset.slot c v (4 * rd + i)) 0)

/-- Write results and account for the unit phase of run `r` (R174, R176). -/
def Dev.vComplete (d : Dev) (c v i : Nat) (r : Run) (res : VRes) : Dev :=
  let x := res.d.vtGet c v
  let u := unitOf r.op
  let t1 := if r.segs.isEmpty then r.t0 else r.lastTake + 1
  let b := max t1 (Tab.get x.unitEnd u 0 + (if Tab.get x.unitEnd u 0 = 0 then 0 else 1))
  let e := b + res.u - 1
  let rd := vRD r.iw
  let at_ := e + res.rl
  let x1 := { x with
    unitBegin := Tab.set x.unitBegin u b 0, unitEnd := Tab.set x.unitEnd u e 0,
    slots := res.slots.zipIdx.foldl (fun t s => Tab.set t (rd + s.2) s.1 Slot.zero) x.slots,
    slotAt := (List.range res.slots.length).foldl (fun t k => Tab.set t (rd + k) at_ 0) x.slotAt,
    scrW := if r.op = 0x13 then x.scrW.map (fun w => if w.2.2 = laterMark then (w.1, w.2.1, at_) else w) else x.scrW }
  let d1 := ((res.d.vtSet c v x1).slotsWritten c v rd res.slots.length).endRun c (10 + v) i
  let de := d.vDescOf c v r.iw
  let pg := Pg.vtile c v
  let d2 := if vADV r.iw then
      d1.wr pg Reg.VTILE.CH (if d1.vCh c v (vDesc r.iw) + 1 < de.chn then d1.vCh c v (vDesc r.iw) + 1 else 0) (vDesc r.iw)
    else d1
  if u = 0 then d2.count pg 0xF 0 res.u else if u = 3 then d2.count pg 0xF 1 res.u else d2

/-- Index of the first run of opcode `op` whose takes are complete. -/
def Dev.vTaken (d : Dev) (c v op : Nat) : Option (Nat × Run) :=
  ((d.vtGet c v).sq.runs.zipIdx.find? (fun r => r.1.op == op && r.1.taken)).map (fun r => (r.2, r.1))

/-- Finish what can be finished of opcode `op`; `finish` answers none while the unit phase must wait (R190, R191). -/
def Dev.vFinish (d : Dev) (c v m op : Nat) (finish : Dev → Nat → Run → Option VRes) : Dev :=
  match d.vTaken c v op with
  | none => d
  | some (i, r) =>
    match finish d m r with
    | none => d
    | some res => d.vComplete c v i r res

/-- Issue the step of opcode `op` when it is the step at the PC: its takes begin, and its slots wait for their results. -/
def Dev.vIssue (d : Dev) (c v op : Nat) (plan : Dev → Nat → Nat → Plan) : Dev :=
  match d.tryIssue c (10 + v) op 0x17 plan with
  | (none, d1) => d1
  | (some (iw, m, takes), d1) =>
    (d1.beginRun c (10 + v) (d.rd (Pg.vtile c v) Reg.VTILE.PC) iw m takes).vPend c v (vRD iw) (d.vSlots c v iw)

/-- The command of a V tile step: issue it when it is the step at the PC, go on with its takes, and finish it. -/
def Dev.vRunStep (d : Dev) (c v op : Nat) (plan : Dev → Nat → Nat → Plan) (finish : Dev → Nat → Run → Option VRes) : Dev :=
  match d.tileDom c with
  | none => d
  | some m =>
    let d1 := d.vIssue c v op plan
    let runs := (d1.vtGet c v).sq.runs
    let d2 := d1.each (List.range runs.length) (fun d i =>
      match (d.vtGet c v).sq.runs[i]? with
      | some r => if r.op = op then d.takeCycle c (10 + v) m i else d
      | none => d)
    (d2.vFinish c v m op finish).vFinish c v m op finish

/-- Items of the segments of a run in order. -/
def Run.items (r : Run) : List Item := r.segs.flatMap (·.got)

/-- Items taken from source code `src`, for a run whose sources differ. -/
def Run.fromSrc (r : Run) (i : Nat) : List Item := ((r.segs[i]?).map (·.got)).getD []

/-- A take of `n` items from a source code. -/
def srcTake (src n : Nat) : Nat × Nat × Nat := (src / 8, src % 8, n)

def onVnet (src : Nat) : Bool := decide (src / 8 < 2)

/-! ### NOP-like steps and puts: EMIT, PHOLD, DROP (R175) -/

/-- EP[p] in the EP register. -/
def Dev.vEp (d : Dev) (c v p : Nat) : Nat := bitsOf (d.rd (Pg.vtile c v) Reg.VTILE.EP) (6 * p) 6

def Dev.setVEp (d : Dev) (c v p x : Nat) : Dev :=
  d.wr (Pg.vtile c v) Reg.VTILE.EP (setBits (d.rd (Pg.vtile c v) Reg.VTILE.EP) (6 * p) 6 x)

/-- The stamp of credit counter `n` for a flit put on VO0 or VO1, and its advance (R175). -/
def Dev.vStamp (d : Dev) (c v n : Nat) : Nat × Dev :=
  let pg := Pg.vtile c v
  let sq := d.rd pg Reg.VTILE.SQ n
  let x := d.vtGet c v
  let k := Tab.get x.sqN n 0 + 1
  let full := decide (d.rd pg Reg.VTILE.SQ_ITEM_M1 n < k)
  let d1 := d.vtSet c v { x with sqN := Tab.set x.sqN n (if full then 0 else k) 0 }
  (if d.flag pg Reg.VTILE.SQ_EN n then sq else 0, if full then d1.wr pg Reg.VTILE.SQ ((sq + 1) % 4) n else d1)

/-- Slot and unit within it of the item that EMIT puts. -/
def vEmitAt (port b ep : Nat) : Nat × Nat :=
  if port < 2 then (b + ep, 0) else if port = 2 then (b + ep / 8, ep % 8) else (b + ep / 16, ep % 16)

/-- What EMIT needs (R175, R177): it waits for its slot to be written: EP at or above LEN is taken modulo LEN first (DESIGN CHOICE, log 144). -/
def planVEmit (c v : Nat) (d : Dev) (iw m : Nat) : Plan :=
  let port := bitsOf iw 29 2
  let b := bitsOf iw 19 6
  let len := bitsOf iw 13 6 + 1
  let slots := if port < 2 then len else if port = 2 then (len + 7) / 8 else (len + 15) / 16
  let x := d.vtGet c v
  let ep := if bitAt iw 12 then 0 else d.vEp c v port % len
  let at_ := Tab.get x.slotAt (vEmitAt port b ep).1 0
  if bitsOf iw 0 12 ≠ 0 ∨ vUnused iw false false false false false false = true then .bad 1
  else if 63 < b + slots - 1 then .bad 3
  else if at_ = 0 ∨ d.dcyc m ≤ at_ then .wait
  else .go [] (some (outKey c (10 + v) port, bitsOf iw 25 4)) 1

/-- Advance CH[DESC] of a step without results (R174). -/
def Dev.vAdvance (d : Dev) (c v iw : Nat) : Dev :=
  if vADV iw then
    let n := d.vCh c v (vDesc iw) + 1
    d.wr (Pg.vtile c v) Reg.VTILE.CH (if n < (d.vDescOf c v iw).chn then n else 0) (vDesc iw)
  else d

/-- EMIT (R175). -/
def Dev.vEmit (d : Dev) (c v : Nat) : Dev :=
  match d.tryIssue c (10 + v) 0x15 0x17 (planVEmit c v) with
  | (none, d1) => d1
  | (some (iw, m, _), d1) =>
    let pg := Pg.vtile c v
    let port := bitsOf iw 29 2
    let cnt := bitsOf iw 25 4
    let len := bitsOf iw 13 6 + 1
    let ep := if bitAt iw 12 then 0 else d1.vEp c v port % len
    let (k, w) := vEmitAt port (bitsOf iw 19 6) ep
    let s0 := Tab.get (d1.vtGet c v).slots k Slot.zero
    -- the words of the slot that the item is put from go through the code (R199)
    let words := if port < 2 then [0, 1, 2, 3] else if port = 2 then [w / 2] else [w / 4]
    let (ue, d1) := words.foldl (fun (acc : Bool × Dev) i =>
      let (u, d2) := acc.2.codeRead c v m (Upset.slot c v (4 * k + i))
      (acc.1 || u, d2)) (false, d1)
    let s := { s0 with poison := s0.poison || ue }
    let d2 := d1.setVEp c v port ((ep + 1) % len)
    let (item, d3) : Item × Dev :=
      if port < 2 then
        let (sq, d3) := d2.vStamp c v cnt
        (⟨BitVec.ofNat 256 s.data, s.valid, s.poison, BitVec.ofNat 2 sq, 0, false⟩, d3)
      else if port = 2 then (⟨BitVec.ofNat 256 (bitsOf s.data (32 * w) 32), s.valid, s.poison, 0, 0, false⟩, d2)
      else
        let sq := d2.rd pg Reg.VTILE.SQ cnt
        (⟨BitVec.ofNat 256 (setBits (bitsOf s.data (16 * w) 16) 12 2 sq), s.valid, s.poison, 0, 0, false⟩,
          d2.wr pg Reg.VTILE.SQ ((sq + 1) % 4) cnt)
    (d3.putOut c (10 + v) port (d3.vLat m 15) item).vAdvance c v iw

/-- PHOLD (R175). -/
def Dev.vPhold (d : Dev) (c v : Nat) : Dev :=
  match d.tryIssue c (10 + v) 0x16 0x17 (fun _ iw _ =>
    if bitsOf iw 0 25 ≠ 0 ∨ vUnused iw false false false false false false = true then .bad 1
    else if 1 < bitsOf iw 29 2 then .bad 9
    else .go [] (some (outKey c (10 + v) (bitsOf iw 29 2), bitsOf iw 25 4)) 1) with
  | (none, d1) => d1
  | (some (iw, m, _), d1) =>
    let (sq, d2) := d1.vStamp c v (bitsOf iw 25 4)
    (d2.putOut c (10 + v) (bitsOf iw 29 2) (d2.vLat m 15) { Item.placeholder with seq := BitVec.ofNat 2 sq }).vAdvance c v iw

/-- DROP: one item of any kind and validity (R176). -/
def Dev.vDrop (d : Dev) (c v : Nat) : Dev :=
  d.vRunStep c v 0x17
    (fun _ iw _ => if bitsOf iw 0 31 ≠ 0 ∨ vUnused iw false true false false false false = true then .bad 1
      else .go [srcTake (vSA iw) 1] none 1)
    (fun d _ _ => some ⟨d, [], 0, 0⟩)

/-! ### SST and SLD (R198) -/

/-- SST: `finish` part; answers the bytes for the scratch. -/
def planSst (c v : Nat) (d : Dev) (iw m : Nat) : Plan :=
  if bitsOf iw 0 13 ≠ 0 ∨ bitsOf iw 29 2 ≠ 0 ∨ vUnused iw false true false true false false = true then .bad 1
  else if 2048 < bitsOf iw 13 11 + vNF iw then .bad 3
  else if !onVnet (vSA iw) then .bad 6
  else if d.vWaits c v m 0x13 none then .wait
  else .go [srcTake (vSA iw) (vNF iw)] none 1

/-- Store the taken flits in the scratch entries, POISON following its flit; an armed corruption of a scratch write applies. -/
def Dev.sstStore (d : Dev) (sc : Memory) (c v m : Nat) (r : Run) : Memory × Dev :=
  let e0 := bitsOf r.iw 13 11
  let (_, _, nv) := depends (vPH r.iw) r.items
  let (pat, d0) := d.armedFor 3 (Pg.vtile c v / 4096)
  r.items.zipIdx.foldl (fun (acc : Memory × Dev) x =>
    let e := e0 + x.2
    let a := scrAddr c v e
    let bs := leBytes 32 (if x.1.valid then x.1.data.toNat else 0)
    let d1 := acc.2
    let errs := (List.range 4).foldl (fun t i => Tab.set t (a / 8 + i) (if x.2 = 0 ∧ i = 0 then pat else 0) 0) d1.tl.serr
    (Memory.writeList acc.1 a bs 0,
      { d1 with tl := { d1.tl with
          serr := errs
          spois := Tab.set d1.tl.spois (2048 * (2 * c + v) + e) (x.1.poison || (!x.1.valid && !vPH r.iw)) false } }))
    (sc, d0.vNv c v m nv)

/-- SST (R198). -/
def Dev.sst (d : Dev) (sc : Memory) (c v : Nat) : Memory × Dev :=
  match d.tileDom c with
  | none => (sc, d)
  | some m =>
    let d1 := d.vRunStep c v 0x13 (planSst c v) (fun _ _ _ => none)
    -- a newly issued step has its entries marked
    let fresh := (d.vtGet c v).sq.runs.length < (d1.vtGet c v).sq.runs.length
    let d2 := if fresh then
        match (d1.vtGet c v).sq.runs.getLast? with
        | some r => d1.vtSet c v { d1.vtGet c v with scrW := (d1.vtGet c v).scrW.filter (fun w => decide (d.dcyc m ≤ w.2.2)) ++ [(bitsOf r.iw 13 11, vNF r.iw, laterMark)] }
        | none => d1
      else d1
    match d2.vTaken c v 0x13 with
    | none => (sc, d2)
    | some (i, r) =>
      let (sc1, d3) := d2.sstStore sc c v m r
      (sc1, d3.vComplete c v i r ⟨d3, [], vNF r.iw, 1⟩)

def planSld (c v : Nat) (d : Dev) (iw m : Nat) : Plan :=
  if bitsOf iw 0 13 ≠ 0 ∨ bitsOf iw 29 2 ≠ 0 ∨ vUnused iw false false false false false true = true then .bad 1
  else if 2048 < bitsOf iw 13 11 + vNF iw ∨ 64 < vRD iw + vNF iw then .bad 3
  else if d.vWaits c v m 0x14 (some (bitsOf iw 13 11, vNF iw)) then .wait
  else .go [] none 1

/-- SLD (R198). -/
def Dev.sld (d : Dev) (sc : Memory) (c v : Nat) : Dev :=
  d.vRunStep c v 0x14 (planSld c v)
    (fun d m r =>
      let (l, d1) := d.scrReads sc c v m (bitsOf r.iw 13 11) (vNF r.iw)
      some ⟨d1, l.map (fun x => ⟨x.1, true, x.2⟩), vNF r.iw, 2⟩)

/-! ### START and segment switches (R174, R175, R192), block reset (R201) -/

/-- What START and step 4 of a segment switch set to their first values. -/
def Dev.vBegin (d : Dev) (c v : Nat) : Dev :=
  let pg := Pg.vtile c v
  let x := d.vtGet c v
  let d1 := d.vtSet c v { x with topk := [], idx := 0, tkPoison := false, sqN := [] }
  let d2 := (((d1.wr pg Reg.VTILE.EP 0).wr pg Reg.VTILE.TOPK_N 0))
  d2.each (List.range 16) (fun d i => (d.wr pg Reg.VTILE.CH 0 i).wr pg Reg.VTILE.SQ 0 i)

/-- A sequencer at step 0 with nothing in progress (R158). -/
def Dev.seqBegin (d : Dev) (c u : Nat) : Dev :=
  (({ d with mem := { d.mem with rsq := d.mem.rsq.filter (fun r => r.core != c || r.unit != u) } } : Dev).sqSet c u Sqr.zero
    |>.wr (tilePg c u) (fPC u) 0).wr (tilePg c u) (fDepth u) 0

/-- BLOCK_RESET of a V tile (R201). -/
def Dev.vBlockReset (d : Dev) (c v : Nat) : Dev :=
  let pg := Pg.vtile c v
  (((d.vtSet c v VTile.zero).vBegin c v).wr pg Reg.VTILE.BOXQ 0).seqBegin c (10 + v)

/-- BLOCK_RESET of an M tile (R163). -/
def Dev.mBlockReset (d : Dev) (c t : Nat) : Dev :=
  let pg := Pg.mtile c t
  ((((d.mtSet c t MTile.zero).wr pg Reg.MTILE.WP 0).wr pg Reg.MTILE.EP 0).wr pg Reg.MTILE.ACTIVE_HALF 0).seqBegin c t

end Sys2Proof.Machine
end

