-- ==== Sys2Proof/Machine/BulkPort.lean ====
section
/-!
DEFINITION. Packets at a core's bulk port (R135, R217, R237, R282): B tile writes and reads, weight-store writes, queue pushes, spills
and configuration writes; and the configuration tables of the host port and the Gostan links (Tables 12.5 and 13.5).
-/

namespace Sys2Proof.Machine

/-- Count a served packet on a B tile's page (Table 7.11). -/
def Dev.bulkServed (d : Dev) (c b : Nat) : Dev := d.count (Pg.btile c b) 0xF 6

/-- The bulk port of core `c` may begin to serve a packet at B tile `b`: it serves one at a time, in arrival order (R217), and QUIESCE stops new
bulk accesses (R239). -/
def Dev.bulkFree (d : Dev) (c b : Nat) : Bool := (Tab.get d.mem.bulk c none).isNone && !d.flag (Pg.btile c b) Reg.HDR.QUIESCE

/-- Offset in its section of the record that the loader sent as packet `tx`. -/
def Dev.recordOff (d : Dev) (tx : Nat) : Nat := match d.hp.ldrSent.find? (fun e => e.1 == tx) with | some e => e.2.2 | none => 0

/-- A record of the loader (SRCN 44, class B) was refused at core `c`: the loader learns of it (R296, DEDUCED, log 46). -/
def Dev.ldrRecordBad (d : Dev) (c h : Nat) (bad : Bool) : Dev :=
  if bad && Hdr.srcn h == 44 && Hdr.cls h == 0 then
    match d.coreDom c with
    | some m => { d with hp := { d.hp with refused := (m, d.recordOff (Hdr.txid h)) :: d.hp.refused } }
    | none => d
  else d

/-- The acknowledgement of a KIND 0 packet with ACKREQ. -/
def Dev.bulkAck (d : Dev) (c h : Nat) (bad : Bool) : Dev :=
  if bitAt (Hdr.target h) 2 then
    (d.sendPacket c (Hdr.srcn h) 5 (Hdr.target h) (Hdr.addr h) (Hdr.txid h) (Hdr.cls h) [] none bad).2
  else d

/-- Port whose window a queue's body keeps: 2 for SNET and CNET, else the one of 0 and 1 whose window of the domain holds the entry
(DEDUCED, log 34). -/
def Dev.channelPort (d : Dev) (q e : Nat) : Nat :=
  if d.qNet q ≠ 0 then 2
  else if d.bInWindow (qCore q) (d.qTile q) 0 (d.qDom q) (4 * e) 4 then 0 else if d.bInWindow (qCore q) (d.qTile q) 1 (d.qDom q) (4 * e) 4 then 1 else 0

/-- Write one item into the body of `q`, which has room; `counted`: COUNT holds it already. -/
def Dev.pushBody (d : Dev) (q : Nat) (x : Item) (counted : Bool) : Dev :=
  let p := d.channelPort q (d.bodyWord q / 4)
  let d1 := if d.qMode q = 1 then d.lbPut (d.lbMain q) p x else d.bodyPut q p x (d.cycle + 1)
  if counted then d1 else d1.qAdd q 1

/-- A window push to a queue with a body, which is not full: the item is counted at once and is written, without use of a port, as soon as the
body has room (R121; DEDUCED, log 34). -/
def Dev.pushItem (d : Dev) (q : Nat) (x : Item) : Dev :=
  let x := x.narrow (d.qNet q)
  if d.qMode q = 3 then d.qOverrun q
  else
    let w := Tab.get d.qs.pushWait q []
    if w.isEmpty && d.bodyRoom q then d.pushBody q x false
    else ({ d with qs := { d.qs with pushWait := Tab.set d.qs.pushWait q (w ++ [x]) [] } } : Dev).qAdd q 1

/-- Window pushes that wait for room enter their bodies. -/
def Dev.tickPush (d : Dev) : Dev :=
  d.qs.pushWait.foldl (fun (d : Dev) e =>
    match Tab.get d.qs.pushWait e.1 [] with
    | x :: rest => if d.bodyRoom e.1 && !d.held (d.qDom e.1) then
        ({ d with qs := { d.qs with pushWait := Tab.set d.qs.pushWait e.1 rest [] } } : Dev).pushBody e.1 x true else d
    | [] => d) d

/-! ### Serving a packet entry by entry (R207, R217, R237) -/

/-- The packet of a service is done: it is acknowledged, answered or, for a spill, sent. -/
def Dev.bulkEnd (d : Dev) (c : Nat) (s : Bulk) : Dev :=
  let d := ({ d with mem := { d.mem with bulk := Tab.set d.mem.bulk c none none } } : Dev)
  match s.kind with
  | 0 => ((d.ldrRecordBad c s.hdr s.bad).bulkAck c s.hdr s.bad).bulkServed c s.tile
  | 3 => ((d.sendPacket c (Hdr.srcn s.hdr) 4 (Hdr.target s.hdr) (Hdr.addr s.hdr) (Hdr.txid s.hdr) (Hdr.cls s.hdr) s.got none false).2).bulkServed c s.tile
  | 2 => d.bulkServed c s.tile
  | _ =>
    let (tx, d1) := d.nextTxid c
    let n := s.got.length
    let d2 := d1.setBody s.q ((d1.qBody s.q).drop n)
    let d3 : Dev := { d2 with qs := { d2.qs with
      spSent := Tab.set d2.qs.spSent s.q (Tab.get d2.qs.spSent s.q 0 + n) 0
      spWait := Tab.set d2.qs.spWait s.q (Tab.get d2.qs.spWait s.q [] ++ [(tx, n)]) [] } }
    (d3.sendPacket c (32 + fileOf c) 0 s.hdr (Tab.get d2.qs.spSent s.q 0) tx 0 s.got (some (d.qDom s.q))).2

/-- Store the service after one more entry, or end it. -/
def Dev.bulkNext (d : Dev) (c : Nat) (s : Bulk) : Dev :=
  if s.left ≤ 1 then d.bulkEnd c { s with left := 0 }
  else { d with mem := { d.mem with bulk := Tab.set d.mem.bulk c (some { s with left := s.left - 1 }) none } }

/-- Perform the access to the next entry of the packet that core `c` serves. A refused entry takes its turn and is not accessed; a bulk read
has no domain (R212, R214). -/
def Dev.bulkAccess (d : Dev) (c : Nat) (s : Bulk) : Dev :=
  let w := s.addr / 8
  match s.kind with
  | 0 =>
    let x := s.payload.headD Item.zero
    let s1 := { s with payload := s.payload.drop 1, addr := s.addr + 32 }
    if d.bBulkOk c s.tile w 4 true then (d.bStore c s.tile s.addr (leBytes 32 x.data.toNat)).bulkNext c s1
    else (d.bBulkMiss c s.tile w).bulkNext c { s1 with bad := true }
  | 3 =>
    if d.bBulkOk c s.tile w 4 false then
      let (v, p, d1) := d.bReadWords c s.tile w 4 .none_
      d1.bulkNext c { s with addr := s.addr + 32, got := s.got ++ [Item.ofNat v p] }
    else (d.bBulkMiss c s.tile w).bulkNext c { s with addr := s.addr + 32, got := s.got ++ [Item.poisoned] }
  | 2 =>
    (d.pushBody s.q ((s.payload.headD Item.zero).narrow (d.qNet s.q)) false).bulkNext c { s with payload := s.payload.drop 1 }
  | _ =>
    let (a, n) := d.bodyAddr s.q s.addr
    let side := (((d.qBody s.q)[s.got.length]?).map (·.item)).getD Item.zero
    let (v, p, d1) := if d.bBulkOk c s.tile (a / 32 * 4) 4 false then d.bReadWords c s.tile (a / 32 * 4) 4 .none_
      else (0, true, d.bBulkMiss c s.tile (a / 32 * 4))
    let x : Item := { side with data := BitVec.ofNat 256 (bitsOf v (8 * (a % 32)) (8 * n)), poison := side.poison || p }
    d1.bulkNext c { s with addr := s.addr + 1, got := s.got ++ [x] }

/-- Serve on: items for a full queue or a replay body are discarded (R106, R226), and the next entry is accessed when port 3 performs it in this cycle. -/
def Dev.bulkTurn (d : Dev) (c : Nat) : Dev :=
  match Tab.get d.mem.bulk c none with
  | none => d
  | some s =>
    if s.kind = 2 ∧ (d.qMode s.q = 3 ∨ d.qFull s.q = true) then (d.qOverrun s.q).bulkNext c { s with payload := s.payload.drop 1 }
    else match (d.btReqs c s.tile).find? (fun r => r.act == .bulk) with
      | none => d
      | some r =>
        if d.bGrant (4 * c + s.tile) (d.btReqs c s.tile) r then (d.bTake c s.tile 3 (banksOf r.word r.n)).bulkAccess c s else d

/-- Begin a service of `n` entries and make its first access if the port allows it in this cycle; one of no entry ends at once. -/
def Dev.bulkStart (d : Dev) (c : Nat) (s : Bulk) : Dev :=
  if s.left = 0 then d.bulkEnd c s
  else ({ d with mem := { d.mem with bulk := Tab.set d.mem.bulk c (some s) none } } : Dev).bulkTurn c

/-- B_TILE_WRITE (R217). -/
def Dev.bTileWrite (d : Dev) (c : Nat) : Dev :=
  match d.popPacket c 0 with
  | none => d
  | some (h, payload, d1) =>
    let b := Hdr.target h % 4
    let a := Hdr.addr h
    if d.bulkFree c b = false then d
    else if a % 32 ≠ 0 then (((d1.bBulkMiss c b (a / 8)).ldrRecordBad c h true).bulkAck c h true).bulkServed c b
    else d1.bulkStart c ⟨0, h, 0, b, a, payload, [], payload.length, false⟩

/-- READ_REQUEST (R217). -/
def Dev.readRequest (d : Dev) (c : Nat) : Dev :=
  match d.popPacket c 3 with
  | none => d
  | some (h, _, d1) =>
    let b := Hdr.target h % 4
    let a := Hdr.addr h
    let n := bitsOf (Hdr.target h) 6 10 + 1
    let refuse (items : List Item) : Dev :=
      (((d1.bBulkMiss c b (a / 8)).sendPacket c (Hdr.srcn h) 4 (Hdr.target h) a (Hdr.txid h) (Hdr.cls h) items none true).2).bulkServed c b
    if d.bulkFree c b = false then d
    else if n = 1024 then refuse []
    else if a % 32 ≠ 0 then refuse (List.replicate n Item.poisoned)
    else d1.bulkStart c ⟨3, h, 0, b, a, [], [], n, false⟩

/-- QUEUE_PUSH at a core: a queue that is not enabled or has no body takes nothing (DEDUCED, log 34). -/
def Dev.queuePushCore (d : Dev) (c : Nat) : Dev :=
  match d.popPacket c 2 with
  | none => d
  | some (h, payload, d1) =>
    let q := 1920 * c + Hdr.target h % 2048
    let b := d1.qTile q
    if 1920 ≤ Hdr.target h % 2048 ∨ d1.qEn q = false ∨ d1.qSize q = 0 then d1.raise (Pg.qeng c) 3 (.unit (d1.qDom q) c)
    else if d.bulkFree c b = false then d
    else d1.bulkStart c ⟨2, h, q, b, 0, payload.map (fun x => { x with fsb := false }), [], payload.length, false⟩

/-! ### Weight-store writes (R135) -/

/-- Bytes of the payload flits. -/
def payloadBytes (payload : List Item) : List Byte := payload.flatMap (fun x => leBytes 32 x.data.toNat)

/-- WEIGHT_STORE_WRITE (R135, R136, Table 9.5). Of a write and a WSWAP in one cycle the first given is the first (DESIGN CHOICE, log 142). -/
def Dev.weightWrite (d : Dev) (wm : Memory) (c : Nat) : Memory × Dev :=
  match d.popPacket c 1 with
  | none => (wm, d)
  | some (h, payload, d1) =>
    let t := Hdr.target h % 16
    let hsel := bitsOf (Hdr.target h) 4 2
    let a := Hdr.addr h
    let n := 32 * payload.length
    let pg := Pg.mtile c t
    if 10 ≤ t then (wm, (d1.bcDrop c).ldrRecordBad c h true)
    else
      let quiet : Bool := match d1.coreDom c with
        | none => true
        | some m => d1.dstate m == stEMPTY || d1.dstate m == stLOADED
      if hsel = 3 ∨ (hsel ≠ 0 ∧ quiet = false) ∨ a % 32 ≠ 0 then (wm, ((d1.bump pg Reg.MTILE.WS_DROP n).raise pg 6 .none_).ldrRecordBad c h true)
      else
        let half := if hsel = 0 then 1 - d1.rd pg Reg.MTILE.ACTIVE_HALF else hsel - 1
        let bs := (payloadBytes payload).take (49152 - a)
        let drop := n - bs.length
        let base := ((10 * c + t) * 2 + half) * 49152 + a
        let (pat, d2) := d1.armedFor 2 (pg / 4096)
        let errs := (List.range (bs.length / 8)).foldl (fun e i => Tab.set e (base / 8 + i) (if i = 0 then pat else 0) 0) d2.tl.werr
        let d3 : Dev := { d2 with
          tl := { d2.tl with werr := errs }
          ldr := { d2.ldr with shadow := if hsel = 0 then Tab.set d2.ldr.shadow (10 * c + t) true false else d2.ldr.shadow } }
        (Memory.writeList wm base bs 0, if drop = 0 then d3 else ((d3.bump pg Reg.MTILE.WS_DROP drop).raise pg 6 .none_).ldrRecordBad c h true)

/-! ### Configuration writes (Table 9.6) -/

/-- Entries of `n` bytes that a payload writes from byte address `a`: number and value. -/
def cfgEntries (a n : Nat) (bs : List Byte) : List (Nat × Nat) :=
  if a % n ≠ 0 then [] else ((chunks (bs.length + 1) n bs).zipIdx).map (fun e => (a / n + e.2, leNat e.1))

/-- Key of the staged half of a table of a tile unit: programs 512, descriptors 32 words per bank. -/
def Dev.stagedUnit (d : Dev) (c u size i : Nat) : Nat := ((16 * c + u) * 2 + (1 - d.bank (Bank.tile c u))) * size + i

def Dev.setTl (d : Dev) (f : Tiles → Tiles) : Dev := { d with tl := f d.tl }

/-- Stage a word that the next swap event installs (R283). -/
def Dev.stageWord (d : Dev) (a v : Nat) : Dev := { d with fab := { d.fab with stg := Tab.set d.fab.stg (a / 4) (some v) none } }

/-- Instructions of a unit's staged program: 256 for an M tile, 512 for a V tile. -/
def progSize (u : Nat) : Nat := if u < 10 then 256 else 512

/-- Word address of the capacity of credit counter `n` of unit `u`. -/
def capAddr (c u n : Nat) : Nat :=
  if u < 10 then Pg.mtile c u + 0xC0 + 4 * n else if u < 12 then Pg.vtile c (u - 10) + 0xC0 + 4 * n
  else Pg.qeng c + 0xC0 + 4 * n

/-- Words 0x00 to 0x08 of a queue descriptor may be written (R107). -/
def Dev.bqWritable (d : Dev) (b : Nat) : Bool :=
  let st := d.dstate (d.bqDom b)
  !d.flag (Pg.bq b) Reg.BQD.EN || st == stEMPTY || st == stLOADED || st == stSWITCHING

/-- Word `w` of boundary descriptor `b` is written under R107; the queue starts empty when word 0 (its layout and EN) changes. When the queue is
enabled its packet sequence starts at 0 (R115) and its packets are numbered on from the domain's frame number (DEDUCED, log 11). -/
def Dev.bqDescWrite (d : Dev) (b w v : Nat) : Dev :=
  if !d.bqWritable b then d
  else
    let v := if w = 2 then setBits v 0 20 (min (bitsOf v 0 20) 1000000) else v
    let d1 := d.setWord (Pg.bq b + 4 * w) v
    let d2 := if w = 0 ∧ d1.word (Pg.bq b) ≠ d.word (Pg.bq b) then d1.bqEmpty b else d1
    if w = 0 ∧ d.flag (Pg.bq b) Reg.BQD.EN = false ∧ d1.flag (Pg.bq b) Reg.BQD.EN = true then
      d2.bqSet b { d2.bqGet b with pseq := 0, closed := d1.rd (Pg.ldom (d1.bqDom b)) Reg.LDOM.FRAME }
    else d2

/-- An entry of an edge table's staged bank. -/
def Dev.stageEdge (d : Dev) (tbl t v : Nat) : Dev :=
  { d with fab := { d.fab with et := Tab.set d.fab.et (d.bankKey (Bank.edge tbl) tbl t true) (v % 2 ^ 16) 0 } }

/-- The owner of a CSI port's presentation table is RUNNING or DRAINING (Table 13.2). -/
def Dev.csiRuns (d : Dev) (n : Nat) : Bool :=
  let o := d.rd (Pg.csi n) Reg.INGRESS.OWNER_A
  decide (4 ≤ o) && d.running (o - 4)

/-- Entry `n` of a table of CSI port `p` (R385). -/
def Dev.cfgCsi (d : Dev) (p table n v : Nat) : Dev :=
  match table with
  | 0 => if n < 256 then d.stageEdge (12 + p) n v else d
  | 1 =>
    if n < 16 ∧ d.csiRuns p = false then
      (d.setWord (Pg.csi p + 0xC0 + 8 * n) (v % 2 ^ 28)).setWord (Pg.csi p + 0xC4 + 8 * n) (bitsOf v 32 12)
    else d
  | 2 => if n / 4 < 64 ∧ n % 4 < 3 then d.bqDescWrite (1536 + 64 * p + n / 4) (n % 4) v else d
  | _ => d

/-- A write of OWNER_S word `i` of node `c`: bit [4j+3] of each nibble is reserved (Table 3.10). -/
def Dev.ownerStage (d : Dev) (c i v : Nat) : Dev :=
  (d.setWord (Pg.xnode c + 0xA0 + 4 * i) (v &&& 0x77777777)).each (List.range 8) (fun d j => d.setUpset (Upset.owner c (8 * i + j)) 0)

/-- One entry of a KIND 6 record to a core; bytes outside the table write nothing. -/
def Dev.cfgEntry (d : Dev) (c unit table bt : Nat) (n v : Nat) : Dev :=
  if unit < 12 then
    match table with
    | 0 =>
      let k := d.stagedUnit c unit 512 n
      if n < progSize unit then (d.setTl (fun t => { t with prog := Tab.set t.prog k v 0 })).setUpset (Upset.prog k) 0 else d
    | 1 =>
      let k := d.stagedUnit c unit 32 n
      if n < 32 then (d.setTl (fun t => { t with desc := Tab.set t.desc k v 0 })).setUpset (Upset.desc k) 0 else d
    | 2 => if n < 16 then d.stageWord (capAddr c unit n) (v % 2 ^ 21) else d
    | 3 =>
      if 10 ≤ unit ∧ n / 65 < 8 then
        let k := ((2 * c + (unit - 10)) * 2 + (1 - d.bank (Bank.tile c unit))) * 1024 + 128 * (n / 65) + n % 65
        (d.setTl (fun t => { t with ftab := Tab.set t.ftab k v 0 })).setUpset (Upset.ftab k) 0
      else d
    | _ => d
  else if unit = 12 then
    match table with
    | 0 =>
      let p := n / 256
      if p < 64 then { d with fab := { d.fab with lt := Tab.set d.fab.lt (d.bankKey (Bank.port c p) (64 * c + p) (n % 256) true) v 0 } }
      else d
    | 1 => if n / 4 < 1920 ∧ n % 4 < 3 then d.stageWord (Pg.queue (1920 * c + n / 4) + 4 * (n % 4)) v else d
    | 2 => if n < 16 then d.stageWord (capAddr c 12 n) (v % 2 ^ 21) else d
    | _ => d
  else if unit = 13 then
    match table with
    | 0 =>
      let p := n / 256
      let k := d.bankKey (Bank.port c p) (64 * c + p) (n % 256) true
      if p < 59 then ({ d with fab := { d.fab with tt := Tab.set d.fab.tt k v 0x20 } } : Dev).setUpset (Upset.tt k) 0 else d
    | 1 => if n < 8 then d.ownerStage c n v else d
    | _ => d
  else if unit = 14 ∧ table = 0 ∧ n / 8 < 16 ∧ n % 8 < 6 then d.setWord (d.bmdAt c bt (n / 8) true + 4 * (n % 8)) v
  else if unit = 15 ∧ fileOf c = 0 then d.cfgCsi (rankOf c) table n v
  else d

/-- Bytes of an entry of a table. -/
def cfgSize (unit table : Nat) : Nat :=
  if unit < 12 then (if table = 2 then 4 else 8)
  else if unit = 12 then (if table = 0 then 2 else 4)
  else if unit = 13 then (if table = 0 then 1 else 4)
  else if unit = 15 then (if table = 0 then 2 else if table = 1 then 8 else 4)
  else 4

/-- The tables that a KIND 6 packet to a core writes, but for the scratch. -/
def Dev.cfgCore (d : Dev) (c h : Nat) (payload : List Item) : Dev :=
  let t := Hdr.target h
  let unit := t % 16
  let table := bitsOf t 4 4
  if unit < 12 ∧ table = 4 then d
  else (cfgEntries (Hdr.addr h) (cfgSize unit table) (payloadBytes payload)).foldl
    (fun (d : Dev) e => d.cfgEntry c unit table (bitsOf t 8 2) e.1 e.2) d

/-- A KIND 6 packet to the scratch of a V tile (table 4), accepted while the domain is not RUNNING or DRAINING. -/
def Dev.cfgScratch (d : Dev) (sc : Memory) (c h : Nat) (payload : List Item) : Memory × Dev :=
  let unit := Hdr.target h % 16
  let v := unit - 10
  let run : Bool := match d.coreDom c with | none => false | some m => d.running m
  if unit < 10 ∨ 12 ≤ unit ∨ bitsOf (Hdr.target h) 4 4 ≠ 4 ∨ run = true ∨ Hdr.addr h % 32 ≠ 0 then (sc, d)
  else
    let a := Hdr.addr h
    let bs := (payloadBytes payload).take (65536 - a)
    let base := (2 * c + v) * 65536 + a
    let (pat, d1) := d.armedFor 3 (Pg.vtile c v / 4096)
    let errs := (List.range (bs.length / 8)).foldl (fun e i => Tab.set e (base / 8 + i) (if i = 0 then pat else 0) 0) d1.tl.serr
    let pois := (List.range (bs.length / 32)).foldl (fun e i => Tab.set e (2048 * (2 * c + v) + a / 32 + i) false false) d1.tl.spois
    (Memory.writeList sc base bs 0, d1.setTl (fun t => { t with serr := errs, spois := pois }))

/-- Stage a credit target of queue `b` (Tables 12.5 and 13.5). -/
def Dev.stageTarget (d : Dev) (b v : Nat) : Dev :=
  { d with qs := { d.qs with ctgt := Tab.set d.qs.ctgt (4096 + b) (v + 2 ^ 40) 0 } }

/-- A KIND 6 record at the host port (Table 12.5). -/
def Dev.cfgHost (d : Dev) (h : Nat) (payload : List Item) : Dev :=
  let bs := payloadBytes payload
  let a := Hdr.addr h
  let each (n : Nat) (f : Dev → Nat × Nat → Dev) : Dev := (cfgEntries a n bs).foldl f d
  match Hdr.target h with
  | 0 => each 2 (fun d e => if e.1 / 256 < 12 then d.stageEdge (e.1 / 256) (e.1 % 256) e.2 else d)
  | 1 => each 2 (fun d e => if e.1 < 1536 then d.stageTarget e.1 (e.2 % 256) else d)
  | 2 => each 4 (fun d e => if e.1 / 4 < 1536 ∧ e.1 % 4 < 3 then d.bqDescWrite (e.1 / 4) (e.1 % 4) e.2 else d)
  | 3 => each 4 (fun d e => if e.1 < 1536 ∧ d.bqWritable e.1 = true then
      { d with qs := { d.qs with flen := Tab.set d.qs.flen e.1 e.2 0 } } else d)
  | _ => d

/-- A KIND 6 record at Gostan link `k` (Table 13.5). -/
def Dev.cfgGl (d : Dev) (k h : Nat) (payload : List Item) : Dev :=
  let bs := payloadBytes payload
  let a := Hdr.addr h
  let each (n : Nat) (f : Dev → Nat × Nat → Dev) : Dev := (cfgEntries a n bs).foldl f d
  let b0 := 1792 + 256 * k
  match Hdr.target h % 16 with
  | 0 => each 2 (fun d e => if e.1 / 256 < 6 then d.stageEdge (16 + 6 * k + e.1 / 256) (e.1 % 256) e.2 else d)
  | 1 => each 4 (fun d e => if e.1 < 256 then d.stageTarget (b0 + e.1) e.2 else d)
  | 2 => each 4 (fun d e => if e.1 / 4 < 256 ∧ e.1 % 4 < 3 then d.bqDescWrite (b0 + e.1 / 4) (e.1 % 4) e.2 else d)
  | _ => d

/-- CONFIGURATION_WRITE (R282) at endpoint `n`; the fetch engines have no table in Table 9.6, so a record to one writes nothing. A
write to a fenced core never gets here: its switch node answers (R85). -/
def Dev.configWrite (d : Dev) (sc : Memory) (n : Nat) : Memory × Dev :=
  match d.popPacket n 6 with
  | none => (sc, d)
  | some (h, payload, d1) =>
    if n < 32 then
      let (sc1, d2) := d1.cfgScratch sc n h payload
      -- the scratch of a running domain takes no record (Table 9.6)
      let running : Bool := match d1.coreDom n with | none => false | some m => d1.running m
      (sc1, (d2.cfgCore n h payload).ldrRecordBad n h (bitsOf (Hdr.target h) 4 4 == 4 && running))
    else if n = 44 then (sc, d1.cfgHost h payload)
    else if n = 45 ∨ n = 46 then (sc, d1.cfgGl (n - 45) h payload)
    else (sc, d1)

/-! ### Spills (R237) -/

/-- SPILL_SEND: the bulk port begins to read the next group of the spill body of BMD `i` of B tile `b` of core `c`. -/
def Dev.spillSend (d : Dev) (c b i : Nat) : Dev :=
  let a := d.bmdAt c b i false
  let q := 1920 * c + d.rd a Reg.BMD.QUEUE
  let m := d.qDom q
  let arg := d.rd a Reg.BMD.MODEARG
  let spkt := bitsOf arg 6 6 + 1
  let ready := ((d.qBody q).filter (fun x => decide (x.at_ ≤ d.cycle))).length
  let rest := d.dstate m == stDRAINING && (Tab.get d.qs.land (64 * c + 28) []).isEmpty && (Tab.get d.qs.land (64 * c + 29) []).isEmpty
  let n := if spkt ≤ ready then spkt else if rest then ready else 0
  if d.rd a Reg.BMD.MODE ≠ 4 ∨ d.qEn q = false ∨ d.running m = false ∨ d.qTile q ≠ b ∨ n = 0 ∨ d.fenced c = true ∨ d.bulkFree c b = false then d
  else d.bulkStart c ⟨5, bitsOf arg 0 6, q, b, d.bodyIndex q 0, [], [], n, false⟩

/-- A KIND 5 acknowledgement reaches a bulk port: the packet's items are free (R237). -/
def Dev.spillFreed (d : Dev) (c tx : Nat) : Dev :=
  match d.qs.spWait.find? (fun e => e.1 / 1920 == c && e.2.any (fun p => p.1 == tx)) with
  | none => d
  | some (q, l) =>
    let n := ((l.find? (fun p => p.1 == tx)).map (·.2)).getD 0
    let d1 : Dev := { d with qs := { d.qs with spWait := Tab.set d.qs.spWait q (l.filter (fun p => p.1 != tx)) [] } }
    (d1.qSub q n).freeItems q n

/-! ### The ports of a B tile at the end of a cycle (R207, R208) -/

/-- A rescale access was performed: `n` words of stream `i` (R154). -/
def Dev.rsAdvance (d : Dev) (i n : Nat) : Dev :=
  { d with mem := { d.mem with rsq := d.mem.rsq.modify i (fun r =>
      let acc := if r.acc = 0 then min 4 r.left else r.acc
      { r with word := r.word + n, left := r.left - n, acc := acc - n }) } }

/-- A cycle that rescale stream `i` lost delays its step: the slots that wait for the entries, and the next issue of an M tile or the unit of a V tile
(Table 5.10; R63). -/
def Dev.rsDelay (d : Dev) (i : Nat) : Dev :=
  match d.mem.rsq[i]? with
  | none => d
  | some r =>
    let late (t : Tab Nat) : Tab Nat := (List.range r.slots).foldl (fun t k =>
      if Tab.get t (r.slot + k) 0 = 0 then t else Tab.set t (r.slot + k) (Tab.get t (r.slot + k) 0 + 1) 0) t
    if isM r.unit then
      let x := d.mtGet r.core r.unit
      d.mtSet r.core r.unit { x with slotAt := late x.slotAt, sq := { x.sq with readyAt := x.sq.readyAt + 1 } }
    else
      let x := d.vtGet r.core (r.unit - 10)
      d.vtSet r.core (r.unit - 10) { x with slotAt := late x.slotAt, unitEnd := Tab.set x.unitEnd 0 (Tab.get x.unitEnd 0 0 + 1) 0 }

/-- One slip on port `p` of a tile (R208). -/
def Dev.slip (d : Dev) (c b p : Nat) : Dev :=
  (d.bump (Pg.btile c b) Reg.BTILE.SLIP_CNT 1 p).count (Pg.btile c b) 0x3F (1 + 16 * p)

/-- One request at the end of a cycle: perform what no command performs, or count the slip or the port wait. Answers whether a port slipped
and whether one recorded a wait. -/
def Dev.portTurn (d : Dev) (c b : Nat) (granted : Bool) (slipped : Bool) (r : BReq) : Bool × Bool × Dev :=
  if granted then
    match r.act with
    | .land _ => (false, false, d)
    | .trans p =>
      (match Tab.get d.qs.trOut (2 * c + (p - 28)) [] with
        | [] => (false, false, d)
        | x :: rest =>
          let d1 := d.bTake c b r.port (banksOf r.word r.n)
          (false, false, ({ d1 with qs := { d1.qs with trOut := Tab.set d1.qs.trOut (2 * c + (p - 28)) rest [] } } : Dev).bodyPut x.q r.port x.item (d.cycle + 1)))
    | .read i =>
      let d1 := d.bTake c b r.port (banksOf r.word r.n)
      (false, false, { d1 with qs := { d1.qs with reads := d1.qs.reads.modify i (fun x => { x with done := true }) } })
    | .rescale i =>
      let d1 := d.bTake c b r.port (banksOf r.word r.n)
      let whole := match d.mem.rsq[i]? with | some x => if x.acc = 0 then min 4 x.left else x.acc | none => 0
      if r.n < whole then (true, false, ((d1.slip c b 3).rsDelay i).rsAdvance i r.n) else (false, false, d1.rsAdvance i r.n)
    | .bulk =>
      (match Tab.get d.mem.bulk c none with
        | some s => (false, false, (d.bTake c b 3 (banksOf r.word r.n)).bulkAccess c s)
        | none => (false, false, d))
  else
    let d1 := match r.act with
      | .read i => ({ d with qs := { d.qs with reads := d.qs.reads.modify i (fun x => { x with due := x.due + 1 }) } } : Dev)
      | .rescale i => d.rsDelay i
      | .land _ => if slipped then d.oncePerCycle (96 + c) (Pg.qeng c) Reg.HDR.STALL_OUT else d
      | _ => d
    if slipped then
      let body := match r.act with | .read _ | .land _ | .trans _ => true | _ => false
      (true, false, if body then (d1.slip c b r.port).count (Pg.qeng c) 0xF 4 else d1.slip c b r.port)
    else (false, true, (d1.bump (Pg.btile c b) Reg.BTILE.PWAIT_CNT).count (Pg.btile c b) 0x3F (2 + 16 * r.port))

/-- The requests that still stand on tile `b` of core `c` at the end of a cycle. A granted one that a command performs only waits; a request that
is the first of an unused port slips, and every other one is passed over (R207, R208); a scrub access that is due comes last on port 3. -/
def Dev.tickTile (d : Dev) (c b : Nat) : Dev :=
  let t := 4 * c + b
  let reqs := d.btReqs c b
  let (s, w, d1) := reqs.foldl (fun (acc : Bool × Bool × Dev) r =>
    let (s, w, d1) := acc.2.2.portTurn c b (d.bGrant t reqs r) (!d.bUsed t r.port && r.first reqs) r
    (acc.1 || s, acc.2.1 || w, d1)) (false, false, d)
  let scrubs := d.scrubDueNow c b
  let (s, w, d1) :=
    if scrubs && (d.bUsed t 3 || reqs.any (fun r => r.port == 3)) then
      (s, true, (d1.bump (Pg.btile c b) Reg.BTILE.PWAIT_CNT).count (Pg.btile c b) 0x3F (2 + 16 * 3))
    else if scrubs && d.bConflict t reqs 3 (banksOf (Tab.get d.mem.bscrub t 0) 4) then (true, w, d1.slip c b 3)
    else (s, w, d1)
  let d2 := if s then d1.bump (Pg.btile c b) Reg.HDR.STALL_IN else d1
  if w then d2.bump (Pg.btile c b) Reg.HDR.STALL_OUT else d2

/-- The B tiles, by 4·core + tile, on which something may stand: the bodies of landed items, of transposer outputs and of offered reads,
rescale tables and bulk accesses. -/
def Dev.busyTiles (d : Dev) : List Nat :=
  let ofQ (q : Nat) : Nat := 4 * qCore q + d.qTile q
  let front (l : Tab (List BodyItem)) : List Nat := l.flatMap (fun e => (e.2.take 1).map (fun x => ofQ x.q))
  let all := front d.qs.land ++ front d.qs.trOut ++ d.qs.reads.map (fun r => ofQ r.q) ++ d.mem.rsq.map (fun r => 4 * r.core + r.tile) ++
    d.mem.bulk.filterMap (fun e => e.2.map (fun s => 4 * e.1 + s.tile))
  all.foldl (fun l t => insertKey t l) []

/-- A landed item waits because its body is full (R102, R124). -/
def Dev.tickLand (d : Dev) : Dev :=
  d.qs.land.foldl (fun (d : Dev) e =>
    match e.2 with
    | x :: _ => if x.at_ < d.cycle ∧ d.bodyRoom x.q = false then d.oncePerCycle (96 + e.1 / 64) (Pg.qeng (e.1 / 64)) Reg.HDR.STALL_OUT else d
    | [] => d) d

/-- The ports of all B tiles at the end of a cycle. -/
def Dev.tickPorts (d : Dev) : Dev :=
  let d1 := (d.tickLand.each d.busyTiles (fun d t => d.tickTile (t / 4) (t % 4))).tickPush
  let d2 := d1.mem.bulk.foldl (fun (d : Dev) e =>
    match e.2 with
    | some s => if s.kind = 2 ∧ (d.qMode s.q = 3 ∨ d.qFull s.q = true) then d.bulkTurn e.1 else d
    | none => d) d1
  { d2 with mem := { d2.mem with rsq := d2.mem.rsq.filter (fun r => decide (0 < r.left)) } }

end Sys2Proof.Machine
end

