-- ==== Sys2Proof/Machine/Rings.lean ====
section
/-!
DEFINITION. Host rings (R365 to R368), events (R372), PCIe read timeouts (R353) and tail notices (R120).
-/

namespace Sys2Proof.Machine

/-! ### Ring contexts (Table 12.6) -/

def Dev.ringRd (d : Dev) (b : Nat) (F : Fld) : Nat := d.rd (Pg.ring b) F
def Dev.hen (d : Dev) (b : Nat) : Bool := d.flag (Pg.ring b) Reg.RING.HEN
def Dev.ringSize (d : Dev) (b : Nat) : Nat := 2 ^ d.ringRd b Reg.RING.HLOG2
def Dev.devIdx (d : Dev) (b : Nat) : Nat := d.ringRd b Reg.RING.DEV_IDX
def Dev.hostIdx (d : Dev) (b : Nat) : Nat := d.ringRd b Reg.RING.HOST_IDX

/-- Difference of two free-running 32-bit counts. -/
def idxSub (a b : Nat) : Nat := (a + 2 ^ 32 - b % 2 ^ 32) % 2 ^ 32

/-- Host bus address of ring entry `i` (R365). -/
def Dev.ringAddr (d : Dev) (b i : Nat) : Nat :=
  d.ringRd b Reg.RING.HBASE_LO + d.ringRd b Reg.RING.HBASE_HI * 2 ^ 32 + 32 * (i % d.ringSize b)

/-- Entries from `i` that one request may carry: to the end of the ring and to the next 4 KiB boundary (R352). -/
def Dev.ringRun (d : Dev) (b i lim : Nat) : Nat :=
  min (lim / 32) (min (d.ringSize b - i % d.ringSize b) ((4096 - d.ringAddr b i % 4096 + 31) / 32))

/-- A load has reserved the host-port queue for a domain (R361, R362). -/
def Dev.hqAllocated (d : Dev) (b : Nat) : Bool :=
  (List.range 4).any (fun m =>
    let h0 := d.rd Pg.host Reg.HOSTPORT.HQ_BASE m
    decide (h0 ≤ b ∧ b < h0 + d.rd Pg.host Reg.HOSTPORT.HQ_N m))

/-- Set DEV_IDX and write it back when the ring has a writeback address (R366, R367). -/
def Dev.setDevIdx (d : Dev) (b v : Nat) : Dev :=
  let d1 := d.wr (Pg.ring b) Reg.RING.DEV_IDX v
  let a := d.ringRd b Reg.RING.IDX_ADDR_LO + d.ringRd b Reg.RING.IDX_ADDR_HI * 2 ^ 32
  if a = 0 then d1 else d1.post a (leBytes 4 v)

/-- RING_ERR (Table 10.3). -/
def Dev.ringErr (d : Dev) : Dev := d.raise Pg.host 5 .none_

/-- Domain that a queue's PCIe error is attributed to. -/
def Dev.ringAttr (d : Dev) (b : Nat) : Attr :=
  if d.hqAllocated b || d.rd (Pg.bq b) Reg.BQD.CLS == 1 then .dom (d.bqDom b) else .none_

/-- RING_ENABLE: a write of HEN 1 (R365). -/
def Dev.ringEnable (d : Dev) (b : Nat) : Dev :=
  let a := Pg.ring b
  let lg := d.rd a Reg.RING.HLOG2
  let role := d.rd a Reg.RING.ROLE
  let ok := decide (4 ≤ lg ∧ lg ≤ 20) &&
    (role == 0 || (role == 1 && decide (b < 64)) ||
      (role == 2 && !d.hqAllocated b && d.bqPkt b))
  if d.hen b || !ok then d
  else
    let d1 := ((d.wr a Reg.RING.HEN 1).wr a Reg.RING.DEV_IDX 0).wr a Reg.RING.HOST_IDX 0
    d1.bqSet b { d1.bqGet b with fcnt := 0, copied := 0, crossed := false }

/-- Drop the command that a disabled ring waits with (R371). -/
def Dev.dropWait (d : Dev) (r : Nat) : Dev :=
  match Tab.get d.hp.cmd r none with
  | some c =>
    let opc := (c.bytes.headD 0).toNat
    if c.stage = 1 ∧ (opc = 0x0B ∨ opc = 0x0C) then
      let o := bitsOf (leNat ((c.bytes.drop 24).take 2)) 0 13
      let a := Pg.sync o
      { d.wr a Reg.SYNC.WAITERS (d.rd a Reg.SYNC.WAITERS - 1) with hp := { d.hp with cmd := Tab.set d.hp.cmd r none none } }
    else if c.stage = 0 ∧ (opc = 0x0B ∨ opc = 0x0C) then { d with hp := { d.hp with cmd := Tab.set d.hp.cmd r none none } }
    else d
  | none => d

/-- RING_DISABLE: a write of HEN 0 (R365). Data of reads still outstanding are not used. -/
def Dev.ringDisable (d : Dev) (b : Nat) : Dev :=
  if !d.hen b then d
  else
    let d1 := d.wr (Pg.ring b) Reg.RING.HEN 0
    let d2 : Dev := { d1 with hp := { d1.hp with reads := d1.hp.reads.map (fun r => if r.b = b then { r with n := 0 } else r) } }
    if b < 64 then d2.dropWait b else d2

/-- DOORBELL (R359, R366, R367). -/
def Dev.doorbell (d : Dev) (b v : Nat) : Dev :=
  let a := Pg.ring b
  let put := d.wr a Reg.RING.HOST_IDX v
  if !d.hen b then put
  else if !d.bqOut b then
    if d.ringSize b < idxSub v (d.devIdx b) ∨ (d.ringRd b Reg.RING.ROLE = 1 ∧ v % 2 = 1) then d.ringErr else put
  else
    let s := d.bqGet b
    -- with a crossed packet open, entries up to its slot may be released
    let lim := if s.crossed then idxSub (d.devIdx b) (1 + s.copied) else d.devIdx b
    if idxSub lim (d.hostIdx b) < idxSub v (d.hostIdx b) then d.ringErr else put

/-! ### Inbound rings (R366) -/

/-- A capping governor stops the class B and C requests of the host DMA engines (R417); class A data queues go on. -/
def Dev.dmaStopped (d : Dev) (b : Nat) : Bool := d.plat.bcStop && d.rd (Pg.bq b) Reg.BQD.CLS != 1

/-- The next read of ring `b`: its first entry and its number of entries, 0 when none can be issued (R366). -/
def Dev.readWanted (d : Dev) (b : Nat) : Nat × Nat :=
  let mine := d.hp.reads.filter (fun r => r.b == b)
  let out := (mine.map (·.n)).foldl (· + ·) 0
  let first := (d.devIdx b + out) % 2 ^ 32
  if !d.hen b || d.bqOut b || !d.bqEn b || !d.pcieRoom || d.dmaStopped b || decide (d.ringSize b < idxSub (d.hostIdx b) (d.devIdx b)) then (first, 0)
  else (first, min (min (idxSub (d.hostIdx b) first) (d.bqFree b - out)) (d.ringRun b first (min d.hp.cfg.mrrs 512)))

/-- The host rings whose context was ever set up. -/
def Dev.listedRings (d : Dev) : List Nat :=
  d.regs.filterMap (fun e =>
    if Pg.ring 0 / 4 ≤ e.1 ∧ e.1 < Pg.ring 1536 / 4 ∧ e.1 % 8 = 2 then some ((e.1 - Pg.ring 0 / 4) / 8) else none)

/-- The first of `l` at or after `k` in cyclic order of `n`. -/
def nextFrom (n k : Nat) (l : List Nat) : Option Nat :=
  l.foldl (fun (o : Option Nat) x => match o with
    | some y => if (x + n - k % n) % n < (y + n - k % n) % n then some x else o
    | none => some x) none

/-- The ring that the DMA engine `e` takes next of those in `ready`: round-robin, rings of class A queues before the others (R368). -/
def Dev.engineRing (d : Dev) (e : Nat) (ready : List Nat) : Option Nat :=
  let mine := ready.filter (fun b => d.ringRd b Reg.RING.DMAE == e)
  let a := mine.filter (fun b => d.rd (Pg.bq b) Reg.BQD.CLS == 1)
  nextFrom 1536 (Tab.get d.hp.dma e 0) (if a.isEmpty then mine else a)

/-- The ring whose turn it is on the link among those in `ready`: the engines share it round-robin (R368). -/
def Dev.dmaTurn (d : Dev) (ready : List Nat) : Option Nat :=
  match nextFrom 4 (Tab.get d.hp.dma 4 0) (ready.map (fun b => d.ringRd b Reg.RING.DMAE)) with
  | some e => d.engineRing e ready
  | none => none

/-- Ring `b` was served: its engine and the link go on to the next. -/
def Dev.dmaServed (d : Dev) (b : Nat) : Dev :=
  let e := d.ringRd b Reg.RING.DMAE
  { d with hp := { d.hp with dma := Tab.set (Tab.set d.hp.dma e ((b + 1) % 1536) 0) 4 ((e + 1) % 4) 0 } }

/-- The rings with a read to issue. -/
def Dev.readsReady (d : Dev) : List Nat := d.listedRings.filter (fun b => decide (0 < (d.readWanted b).2))

/-- RING_READ: ring `b`'s engine issues its next read, when it is the ring's turn. -/
def Dev.ringRead (d : Dev) (b : Nat) : Dev :=
  if d.dmaTurn d.readsReady ≠ some b then d
  else
    let (first, n) := d.readWanted b
    let tag := d.pcieTag
    let d0 := d.dmaServed b
    let d1 : Dev := { d0 with hp := { d0.hp with reads := d.hp.reads ++ [⟨tag, b, first, n, d.cycle⟩] } }
    (d1.emit (.hostRead tag (d.ringAddr b first) (32 * n))).count Pg.host 0xF 1 (32 * n)

/-- One entry taken from the ring into the queue (R366, R291). -/
def Dev.ringEntry (d : Dev) (b : Nat) (bs : List Byte) (poison : Bool) : Dev :=
  let s := d.bqGet b
  let flen := Tab.get d.qs.flen b 0
  let start := decide (flen = 0 ∨ s.fcnt = 0)
  let d0 := d.bqSet b { s with fcnt := if flen = 0 then 0 else (s.fcnt + 1) % flen }
  let x : Item := { Item.ofNat (leNat bs) poison with fsb := decide (0 < flen ∧ s.fcnt = 0) }
  let (ok, d1) := if start then d0.writerFrameStart b else (!s.dropping, d0)
  if ok then d1.bqOffer b x start else d1

/-- The oldest read of ring `b` has its data: `bs` in whole entries. -/
def Dev.ringData (d : Dev) (b : Nat) (r : PcieRead) (bs : List Byte) (bad : Bool) : Dev :=
  let d0 : Dev := { d with hp := { d.hp with reads := d.hp.reads.erase r } }
  if r.n = 0 then d0
  else
    let d1 := d0.each (List.range r.n) (fun d i =>
      let e := (bs.drop (32 * i)).take 32
      d.ringEntry b (e ++ List.replicate (32 - e.length) 0) (bad || decide (e.length < 32)))
    d1.setDevIdx b ((d.devIdx b + r.n) % 2 ^ 32)

/-- RING_READ_COMPLETION (R366, R353). -/
def Dev.ringCompletion (d : Dev) (b : Nat) (h : HostRead) : Dev :=
  match d.hp.reads.find? (fun r => r.b == b) with
  | none => d.aer 16
  | some r => (if h.poisoned then (d.raise Pg.host 3 (d.ringAttr b)).aer 12 else d).ringData b r h.data h.poisoned

/-- Shortest time, in fa cycles, after which a read may time out: 0 means 40 ms; the other values are the lower ends of the ranges
of the PCI Express specification (R353, PRESUMED, log 6). -/
def cplCycles (v : Nat) : Nat :=
  usCycles (match v with
    | 0 => 40000 | 1 => 50 | 2 => 1000 | 5 => 16000 | 6 => 65000 | 9 => 260000 | 10 => 1000000 | 13 => 4000000 | 14 => 17000000
    | _ => 40000)

/-- CPL_TIMEOUT (R353). The reads of a ring time out in order. -/
def Dev.cplTimeout (d : Dev) (tag : Nat) : Dev :=
  let due (t : Nat) : Bool := !d.hp.cfg.ctoOff && decide (t + cplCycles d.hp.cfg.cto ≤ d.cycle)
  match d.hp.reads.find? (fun r => r.tag == tag) with
  | some r =>
    if !due r.at_ || d.hp.reads.find? (fun x => x.b == r.b) != some r then d
    else ((d.raise Pg.host 4 (d.ringAttr r.b)).aer 14).ringData r.b r [] true
  | none =>
    match d.reqAt 4 tag with
    | none => d
    | some r =>
      if !due r.at_ then d
      else
        let d1 := ((d.dropReq r).raise Pg.host 4 (if r.cls = 3 then .none_ else .dom r.dom)).aer 14
        let d2 := d1.tagFreed r.f r.st
        if r.epoch ≠ d.rd (Pg.fetch r.f) Reg.FETCH.EPOCH r.st then d2
        else d2.acceptReturn r (List.replicate 64 0) (List.replicate 64 true)

/-! ### Outbound rings (R367) -/

/-- The bytes of ring entry `i` of a boundary queue. -/
def Dev.bqBytes (d : Dev) (b i : Nat) : List Byte × Dev :=
  let (x, d1) := d.bqLoad b i
  (leBytes 32 x.data.toNat, d1)

/-- The bytes of `n` entries. -/
def Dev.bqRun (d : Dev) (b i n : Nat) : List Byte × Dev :=
  match n with
  | 0 => ([], d)
  | k + 1 =>
    let (x, d1) := d.bqBytes b i
    let (y, d2) := d1.bqRun b (i + 1) k
    (x ++ y, d2)

/-- Room in the host ring for entries from index `i`. -/
def Dev.hostRoom (d : Dev) (b i : Nat) : Nat := d.ringSize b - min (d.ringSize b) (idxSub i (d.hostIdx b))

/-- Payload entries that a closed length slot covers; none: the packet is open. -/
def slotEntries (x : Item) : Option Nat :=
  let l := bitsOf x.data.toNat 0 32
  if l = 0xFFFFFFFF then none else some ((l + 31) / 32)

/-- One write of a ring without packets. -/
def Dev.ringWritePlain (d : Dev) (b : Nat) : Dev :=
  let v := d.bqVisible b
  let i := d.devIdx b
  let room := d.hostRoom b i
  if v = 0 ∨ room = 0 then d
  else
    let n := max 1 (min (min v room) (d.ringRun b i (min d.hp.cfg.mps 512)))
    let (bs, d1) := d.bqRun b (d.bqGet b).pos n
    (((d1.post (d.ringAddr b i) bs true).count Pg.host 0xF 0 (32 * n)).bqRelease b n).setDevIdx b ((i + n) % 2 ^ 32)

/-- One write of a ring with packets: payload first, then the slot, the index, the vector and the signal. A packet that crosses THRESH has its
open slot written at the crossing. -/
def Dev.ringWritePkt (d : Dev) (b : Nat) : Dev :=
  let v := d.bqVisible b
  if v = 0 then d
  else
    let s := d.bqGet b
    let slot := (Tab.get d.qs.xmem (d.bqKey b s.pos) Item.zero)
    let base := if s.crossed then idxSub (d.devIdx b) (1 + s.copied) else d.devIdx b
    let closed := slotEntries slot
    let len := min (v - 1) (closed.getD (v - 1))
    if s.copied < len then
      let i := (base + 1 + s.copied) % 2 ^ 32
      let room := d.hostRoom b i
      if room = 0 then d
      else
        let n := max 1 (min (min (len - s.copied) room) (d.ringRun b i (min d.hp.cfg.mps 512)))
        let (bs, d1) := d.bqRun b (s.pos + 1 + s.copied) n
        let d2 := (d1.post (d.ringAddr b i) bs (d.ringRd b Reg.RING.ROLE != 2)).count Pg.host 0xF 0 (32 * n)
        let c := s.copied + n
        let th := d.rd (Pg.bq b) Reg.BQD.THRESH
        let cross := s.crossed || (decide (0 < th ∧ th ≤ c) && closed.isNone)
        let d3 := d2.bqSet b { d2.bqGet b with copied := c, crossed := cross }
        if s.crossed then d3.setDevIdx b ((base + 1 + c) % 2 ^ 32)
        else if cross then
          -- the host reads the slot as open from the crossing on (R117), so it is written open first (DEDUCED, log 39)
          let (open_, d4) := d3.bqBytes b s.pos
          (((d4.post (d.ringAddr b base) open_).count Pg.host 0xF 0 32).setDevIdx b ((base + 1 + c) % 2 ^ 32)).bqNotify b
        else d3
    else if closed = some s.copied then
      if d.hostRoom b base = 0 then d
      else
        let (bs, d1) := d.bqBytes b s.pos
        let d2 := (d1.post (d.ringAddr b base) bs).count Pg.host 0xF 0 32
        let d3 := (d2.bqSet b { d2.bqGet b with copied := 0, crossed := false }).bqRelease b (1 + s.copied)
        let d4 := (d3.setDevIdx b ((base + 1 + s.copied) % 2 ^ 32)).bqNotify b
        if d4.flag (Pg.ring b) Reg.RING.LINK_EN then d4.signal (d4.ringRd b Reg.RING.LINK) 1 else d4
    else d

/-- An outbound ring that the DMA engines serve; one that was disabled inside a packet finishes it (R365). -/
def Dev.ringServed (d : Dev) (b : Nat) : Bool :=
  let s := d.bqGet b
  (d.hen b || (d.bqPkt b && (decide (0 < s.copied) || s.crossed))) && d.bqOut b && !d.flag (Pg.bq b) Reg.BQD.WIN && d.bqEn b

/-- One write of the ring, whatever turn it is. -/
def Dev.ringPut (d : Dev) (b : Nat) : Dev :=
  if d.ringServed b = false ∨ d.hp.cfg.d3hot = true ∨ d.dmaStopped b = true then d
  else if d.bqPkt b then d.ringWritePkt b else d.ringWritePlain b

/-- Entries that the ring holds for its next write, and the ring entry that it would take (R367). -/
def Dev.writeWanted (d : Dev) (b : Nat) : Nat × Nat :=
  let v := d.bqVisible b
  if d.bqPkt b = false then (v, d.devIdx b)
  else if v = 0 then (0, 0)
  else
    let s := d.bqGet b
    let base := if s.crossed then idxSub (d.devIdx b) (1 + s.copied) else d.devIdx b
    let closed := slotEntries (Tab.get d.qs.xmem (d.bqKey b s.pos) Item.zero)
    if s.copied < min (v - 1) (closed.getD (v - 1)) then (1, (base + 1 + s.copied) % 2 ^ 32)
    else (if closed = some s.copied then 1 else 0, base)

/-- The rings with a write to make, and the outbound rings that hold entries while their host ring is full. -/
def Dev.writesReady (d : Dev) : List Nat :=
  d.listedRings.filter (fun b => d.ringServed b && !d.hp.cfg.d3hot && !d.dmaStopped b &&
    (let w := d.writeWanted b; decide (0 < w.1) && decide (0 < d.hostRoom b w.2)))
def Dev.ringsFull (d : Dev) : Bool :=
  d.listedRings.any (fun b => d.ringServed b && (let w := d.writeWanted b; decide (0 < w.1) && d.hostRoom b w.2 == 0))

/-- RING_WRITE (R367): the next write of ring `b`'s engine, when it is the ring's turn (R368). -/
def Dev.ringWrite (d : Dev) (b : Nat) : Dev :=
  if d.dmaTurn d.writesReady = some b then (d.dmaServed b).ringPut b else d

/-- Cycles in which an outbound ring holds entries while its host ring is full (R377). -/
def Dev.tickRings (d : Dev) : Dev := if d.ringsFull then d.bump Pg.host Reg.HDR.STALL_OUT else d

/-! ### Queue resets and the end of a cycle (R111, R112, R116, R118) -/

/-- The entries of a queue and the slots of its closed packets as they stand once everything on its way has become visible. -/
def Dev.bqSettle (d : Dev) (b : Nat) : Dev :=
  let s := d.bqGet b
  let d1 := (d.bqSet b { s with arr := [], closing := [] }).each s.arr (fun d x => d.bqWrite b x)
  let d2 := d1.each s.closing (fun d e => d.bqStore b e.1 (Item.ofNat e.2.2))
  let s2 := d2.bqGet b
  d2.bqSet b { s2 with wPub := s2.w, wPrev := s2.w, wFf := [s2.w, s2.w, s2.w] }

/-- The host ring of an outbound packet queue takes its closed packets and the slot of an aborted one with the entries it covers (R118, R367), as
far as the ring has room. -/
def Dev.flushRing (d : Dev) (b : Nat) : Dev :=
  if d.bqPkt b && decide (b < 1536) then
    let d1 := d.bqSettle b
    Nat.repeat (fun (d : Dev) => d.ringPut b) (2 * d1.bqCount b + 1) d1
  else d

/-- A pointer differs from its copy: the queue reset starts. The writer owes as many POISON entries as were discarded. -/
def Dev.queueReset (d : Dev) (b : Nat) : Dev :=
  let (pg, _, _) := bqBlock b
  let s := d.bqGet b
  let n := d.bqCount b - s.rel + s.arr.length
  -- the open packet is closed, and its slot reaches the reader before the contents are discarded (R118)
  let d1 := if d.bqPkt b && (d.bqGet b).pkt.isSome then (d.pktAbort b).flushRing b else d
  let inbound := !d.bqOut b
  let pkts := if d.bqPkt b then s.spans.length else if 0 < n then 1 else 0
  let clsA := d.rd (Pg.bq b) Reg.BQD.CLS == 1
  let s1 := d1.bqGet b
  let d2 := d1.bqSet b { BqSt.zero with
    pseq := s1.pseq, closed := s1.closed, frames := s1.frames, stopWanted := s1.stopWanted, stopped := s1.stopped,
    dropping := s1.dropping, fcnt := s1.fcnt, wait := s1.wait, resetting := true,
    owed := if inbound && clsA then n else 0
    unitPoison := inbound && clsA && d.bqFramed b || (inbound && clsA && decide (2304 ≤ b)) }
  let d3 := ((((d2.glRestart b).bump (Pg.bq b) Reg.BQD.LOST_PKT pkts).hit (Pg.bq b) Reg.BQD.MISMATCH).bump pg Reg.BQR.MISMATCH_CNT).bump pg
    Reg.BQR.LOST_TOTAL pkts
  d3.raise pg 0 (.dom (d.bqDom b))

/-- What a queue does at the end of a cycle (R111, R112, R116, R117): a held entry is written, the reader's pointer follows what was read, the slot
of a closed packet whose payload is visible is written, and the reader of a packet window is told of a packet that crosses THRESH or
closes. A pointer that differs from its copy starts a queue reset. -/
def Dev.bqCycle (d : Dev) (b : Nat) : Dev :=
  let s := d.bqGet b
  if s.mismatch then d.queueReset b
  else
    let d1 := match s.arr with
      | x :: rest => if s.lastW = d.cycle + 1 then d else (d.bqSet b { s with arr := rest }).bqWrite b x
      | [] => d
    let s1 := d1.bqGet b
    let d2 := if 0 < s1.rel ∧ s1.lastR ≠ d.cycle + 1 then
        (d1.bqSet b { s1 with r := (s1.r + 1) % d.bqMod b, rel := s1.rel - 1, lastR := d.cycle + 1 }).bqThresh b
      else d1
    let s2 := d2.bqGet b
    let win := d.bqPkt b && d.flag (Pg.bq b) Reg.BQD.WIN
    match s2.closing with
    | (slot, e, v) :: rest =>
      if (e + d.bqMod b - s2.r % d.bqMod b) % d.bqMod b ≤ d2.bqVisible b + s2.rel then
        let d3 := (d2.bqSet b { s2 with closing := rest }).bqStore b slot (Item.ofNat v)
        if win then d3.bqNotify b else d3
      else d2
    | [] =>
      match s2.pkt with
      | some p =>
        let th := d.rd (Pg.bq b) Reg.BQD.THRESH
        if win && !p.crossed && decide (0 < th ∧ th ≤ d2.pktVisible b) then (d2.bqSet b { s2 with pkt := some { p with crossed := true } }).bqNotify b
        else d2
      | none => d2

/-- What every boundary queue does at the end of a cycle (R111, R112, R116). -/
def Dev.tickBqs (d : Dev) : Dev := d.qs.bq.foldl (fun (d : Dev) e => d.bqCycle e.1) d

/-! ### Events (R372) -/

/-- A domain's FRAME. -/
def Dev.frameOf (d : Dev) (m : Nat) : Nat := d.rd (Pg.ldom m) Reg.LDOM.FRAME

/-- The queue is an enabled event ring with room for one event. -/
def Dev.eventRoom (d : Dev) (b : Nat) : Bool :=
  decide (b < 1536) && d.bqEn b && d.bqPkt b && d.hen b && decide (3 ≤ d.bqFree b)

/-- Post one event: a packet of two payload entries. -/
def Dev.postEvent (d : Dev) (b evt dom frame e0 e1 : Nat) : Dev :=
  let s := d.bqGet b
  let slot := lengthSlot 64 s.pseq false false false 0 dom evt frame d.fs
  let d1 := (((d.bqSet b { s with spans := s.spans ++ [0] }).bqPush b (Item.ofNat slot)).bqPush b (Item.ofNat e0)).bqPush b (Item.ofNat e1)
  (d1.bqSet b { d1.bqGet b with pseq := (s.pseq + 1) % 2 ^ 32 }).count Pg.host 0xF 4

/-- Post a DOMAIN, CAUSE or PRIV event; one that finds its ring full or disabled is dropped and counted. -/
def Dev.postOrDrop (d : Dev) (en : Bool) (b evt dom frame e0 : Nat) : Dev :=
  if en && d.eventRoom b then d.postEvent b evt dom frame e0 0 else d.bump Pg.host Reg.HOSTPORT.EV_DROP

/-- A DOMAIN event: reason 0 stop, 1 recovery complete, 2 recovery failed, 3 fold complete, 4 FOLD_NONE. -/
def Dev.domainEvent (d : Dev) (m reason page bit : Nat) : Dev :=
  let e := 2 + d.dstate m * 2 ^ 8 + m * 2 ^ 11 + reason * 2 ^ 13 + (page % 4096) * 2 ^ 16 + (bit % 16) * 2 ^ 28 + d.ldr.epoch * 2 ^ 32
  d.postOrDrop (d.flag Pg.host Reg.HOSTPORT.DEV_EN m) (d.rd Pg.host Reg.HOSTPORT.DOM_EVRING m) 2 m (d.frameOf m) e

/-- A CAUSE event (evt 3: `page` is a page code) or a PRIV event (evt 4: `page` is the source's index). -/
def Dev.causeEvent (d : Dev) (evt sev page bit : Nat) (dom : Option Nat) : Dev :=
  let e := evt + sev * 2 ^ 8 + (page % 4096) * 2 ^ 10 + (bit % 16) * 2 ^ 22 + dom.getD 0 * 2 ^ 26 + (if dom.isSome then 2 ^ 28 else 0)
  d.postOrDrop (d.flag Pg.host Reg.HOSTPORT.FEV_EN) (d.rd Pg.host Reg.HOSTPORT.FAULT_EVRING) evt (dom.getD 0) 0 e

/-! ### Tail notices (R120) -/

/-- TAIL_TIMEOUT: a boundary queue's timer reaches TIMEOUT. -/
def Dev.tailTimeout (d : Dev) (q : Nat) : Dev :=
  if q < 61440 then d
  else
    let b := q - 61440
    let s := d.bqGet b
    let t := d.rd (Pg.bq b) Reg.BQD.TIMEOUT
    match s.tail with
    | none => d
    | some t0 =>
      if t = 0 ∨ d.bqOut b = false ∨ d.bqCount b = 0 ∨ d.cycle < t0 + usCycles t then d
      else ((d.hit (Pg.bq b) Reg.BQD.TAIL).bqSet b { s with tail := none }).bqNotify b

end Sys2Proof.Machine
end

