-- ==== Sys2Proof/Machine/HostPort.lean ====
section
/-!
DEFINITION. Windows (R121 to R123), the command processor (R369 to R371, R375), the aperture (R360) and the host-port reset (R354).
-/

namespace Sys2Proof.Machine

/-! ### Windows -/

/-- VNET sideband of an item (Table 3.2). -/
def Item.side (x : Item) : Nat :=
  (if x.valid then 1 else 0) + (if x.poison then 2 else 0) + x.seq.toNat * 4 + x.btag.toNat * 16

/-- Word `k` of an item as a window word (Table 4.8). -/
def windowWord (x : Item) (net k : Nat) : Nat :=
  let last := net ≠ 0 ∨ k = 7
  bitsOf x.data.toNat (32 * k) (if net = 2 then 16 else 32) + (if net = 0 then x.side else x.side % 4) * 2 ^ 32 + k * 2 ^ 40 +
    (if last then 2 ^ 43 else 0) + 2 ^ 63

/-- The item of a window word (one word of a SNET or CNET item), or of a whole flit's words. -/
def itemOfWindow (data side net : Nat) : Item :=
  { data := BitVec.ofNat 256 data, valid := bitAt side 0, poison := bitAt side 1,
    seq := BitVec.ofNat 2 (if net = 0 then side / 4 else 0), btag := BitVec.ofNat 4 (if net = 0 then side / 16 else 0), fsb := false }

/-- The page that owns a queue, and the domain and core that its reads depend on. -/
def winBlock (q : Nat) : Nat := if q < 61440 then Pg.qeng (qCore q) else (bqBlock (q - 61440)).1

/-- Network of a queue; boundary queues hold whole entries. -/
def Dev.winNet (d : Dev) (q : Nat) : Nat := if q < 61440 then d.qNet q else 0

/-- The window is the queue's reader. -/
def Dev.winReads (d : Dev) (q : Nat) : Bool :=
  if q < 61440 then d.qEn q && d.flag (Pg.queue q) Reg.FQ.WIN_CONS
  else d.bqEn (q - 61440) && d.flag (Pg.queue q) Reg.BQD.WIN && d.bqOut (q - 61440)

def Dev.winWrites (d : Dev) (q : Nat) : Bool :=
  if q < 61440 then d.qEn q && d.flag (Pg.queue q) Reg.FQ.WIN_PROD
  else d.bqEn (q - 61440) && d.flag (Pg.queue q) Reg.BQD.WIN && !d.bqOut (q - 61440)

/-- The oldest item that the window may read, with the device after its removal (R117, R121). -/
def Dev.winPop (d : Dev) (q : Nat) : Option (Item × Dev) :=
  if q < 61440 then
    match d.qHead q with
    | x :: _ => some (x, (d.takeHead q).2)
    | [] =>
      match d.qBody q with
      | [] => none
      | b :: rest =>
        if d.cycle < b.at_ ∨ d.qMode q = 1 ∨ d.qMode q = 3 then none
        else
          let total := perEntry (d.qNet q) * d.qSize q
          let (a, w) := d.bodyAddr q ((d.bodyNext q + total - (rest.length + 1)) % total)
          let (v, p, d1) := d.bodyRead q (if d.qNet q = 0 then 0 else 2) a w
          some ({ b.item with data := BitVec.ofNat 256 v, poison := b.item.poison || p }, ((d1.setBody q rest).qSub q 1).freeItems q 1)
  else
    let b := q - 61440
    let s := d.bqGet b
    if d.bqVisible b = 0 then none
    else if d.bqPkt b && s.copied == 0 then
      match slotEntries (Tab.get d.qs.xmem (d.bqKey b s.pos) Item.zero) with
      | none => none
      | some n =>
        let (x, d1) := d.bqPop b
        some (x, d1.bqSet b { d1.bqGet b with copied := n })
    else
      let (x, d1) := d.bqPop b
      some (x, d1.bqSet b { d1.bqGet b with copied := (d1.bqGet b).copied - 1 })

/-- One window read: the word, and the device after it. A flit is popped by the read of its last word. -/
def Dev.winReadWord (d : Dev) (q : Nat) : Option (Nat × Dev) :=
  match d.winPop q with
  | none => none
  | some (x, d1) =>
    let net := d.winNet q
    let k := if net = 0 then Tab.get d.qs.winR q 0 else 0
    if net ≠ 0 ∨ k = 7 then some (windowWord x net k, { d1 with qs := { d1.qs with winR := Tab.set d1.qs.winR q 0 0 } })
    else some (windowWord x net k, { d with qs := { d.qs with winR := Tab.set d.qs.winR q (k + 1) 0 } })

/-- Byte offset of a queue's window. -/
def winOff (q : Nat) : Nat := Pg.queue q + 0x18

/-- The queue's reads stall on empty (R123). -/
def Dev.winStalls (d : Dev) (q : Nat) : Bool :=
  if q < 61440 then d.flag (Pg.queue q) Reg.FQ.STALL_EMPTY else d.flag (Pg.queue q) Reg.BQD.STALL_EMPTY

/-- What ends a stall at once (R123); a read issued then returns at once as well (DESIGN CHOICE, log 138). -/
def Dev.stallOver (d : Dev) (q : Nat) : Bool :=
  let m := d.rd (Pg.queue q) Reg.FQ.DOM
  !d.running m || (if q < 61440 then d.fenced (qCore q) else (d.bqGet (q - 61440)).resetting)

/-- A read of the requester is stalled at the block, so that its later accesses to the block wait (R123). -/
def Dev.waitsAt (d : Dev) (who : Requester) (block : Nat) : Bool := d.qs.stalls.any (fun e => e.who == who && e.block == block)

/-- An access joins those that wait. -/
def Dev.hold_ (d : Dev) (who : Requester) (block q : Nat) (op : StallOp) : Dev :=
  { d with qs := { d.qs with stalls := d.qs.stalls ++ [⟨who, block, q, d.cycle, op⟩] } }

/-- The value that a window read of `q` returns now, or none when it stalls (R121, R123). -/
def Dev.winValue (d : Dev) (q : Nat) : Option (Nat × Dev) :=
  if !d.winReads q then some (0, if q < 61440 then d.raise (winBlock q) 4 .none_ else d)
  else match d.winReadWord q with
    | some r => some r
    | none => if d.winStalls q && !d.stallOver q then none else some (0, d)

/-- WINDOW_READ (R121 to R123). -/
def Dev.windowRead (d : Dev) (who : Requester) (q : Nat) : Dev :=
  if d.waitsAt who (winBlock q) then d.hold_ who (winBlock q) q .read
  else match d.winValue q with
    | some (v, d1) => d1.emit (.readDone who (winOff q) v)
    | none => d.hold_ who (winBlock q) q .read

/-- A whole item was written to the window: it is pushed, or the queue is full (R121). -/
def Dev.winPush (d : Dev) (q : Nat) (x : Item) : Dev :=
  if q < 61440 then
    let full := d.qFull q || (if d.qSize q = 0 then decide (4 ≤ (d.qHead q).length) else false)
    if full then (d.setOvr q).raise (winBlock q) 4 .none_
    else if d.qSize q = 0 then (d.setHead q (d.qHead q ++ [x])).qAdd q 1
    else d.pushItem q x
  else d.bqOffer (q - 61440) x true

/-- A write of the window acts (R121). Words of a flit that a restart left out are free values (DESIGN CHOICE, log 2). The queue engine of a fenced core takes
nothing (R24). -/
def Dev.windowPut (d : Dev) (q v : Nat) : Dev :=
  let side := bitsOf v 32 8
  if decide (q < 61440) && d.fenced (qCore q) then d
  else if !d.winWrites q then (if q < 61440 then d.raise (winBlock q) 4 .none_ else d)
  else if d.winNet q ≠ 0 then d.winPush q (itemOfWindow (bitsOf v 0 (if d.winNet q = 2 then 16 else 32)) side (d.winNet q))
  else
    let k := bitsOf v 40 3
    -- next word and the word at which the flit began
    let cur := Tab.get d.qs.winW q 0
    let next := cur % 8
    let start := if k = next then cur / 8 else k
    let data := setBits (if k = next then Tab.get d.qs.winWData q 0 else 0) (32 * k) 32 v
    if k = 7 then
      let (f, d1) := if start = 0 then (0, d) else d.free (32 * start)
      let d2 : Dev := { d1 with qs := { d1.qs with winW := Tab.set d1.qs.winW q 0 0, winWData := Tab.set d1.qs.winWData q 0 0 } }
      d2.winPush q (itemOfWindow (data + f) side 0)
    else
      { d with qs := { d.qs with
          winW := Tab.set d.qs.winW q (8 * start + k + 1) 0, winWData := Tab.set d.qs.winWData q data 0 } }

/-- WINDOW_WRITE (R121) by the host. -/
def Dev.windowWrite (d : Dev) (q : Nat) (w : BitVec 64) : Dev :=
  if d.waitsAt .host (winBlock q) then d.hold_ .host (winBlock q) q (.winWrite w.toNat) else d.windowPut q w.toNat

/-! ### Commands (R369 to R371) -/

def RingCmd.opc (c : RingCmd) : Nat := (c.bytes.headD 0).toNat
def RingCmd.field (c : RingCmd) (lo n : Nat) : Nat := leNat ((c.bytes.drop lo).take n)
def RingCmd.dom (c : RingCmd) : Nat := c.field 1 1 % 4
def RingCmd.sigen (c : RingCmd) : Bool := bitAt (c.field 2 1) 0
def RingCmd.noevt (c : RingCmd) : Bool := bitAt (c.field 2 1) 1
def RingCmd.timeout (c : RingCmd) : Nat := c.field 40 4

def Dev.cmdOf (d : Dev) (r : Nat) : Option RingCmd := Tab.get d.hp.cmd r none
def Dev.setCmd (d : Dev) (r : Nat) (c : Option RingCmd) : Dev := { d with hp := { d.hp with cmd := Tab.set d.hp.cmd r c none } }

/-- Parameter bytes that an opcode names: first byte and length (Table 12.8). -/
def cmdParams : Nat → List (Nat × Nat)
  | 0x01 => [(24, 8), (32, 4), (36, 4), (40, 8), (48, 8), (56, 1), (57, 1)]
  | 0x02 => [(24, 1)]
  | 0x06 => [(24, 1)]
  | 0x08 => [(24, 32), (56, 8)]
  | 0x09 => [(24, 1), (32, 8)]
  | 0x0A => [(24, 2), (32, 8)]
  | 0x0B => [(24, 2), (32, 8), (40, 4)]
  | 0x0C => [(24, 2), (40, 4)]
  | _ => []

/-- Reserved bits are 0 and every parameter lies in its range (R369, R370). -/
def RingCmd.legal (c : RingCmd) : Bool :=
  let o := c.opc
  c.field 1 1 < 4 && c.field 2 1 < 4 && c.field 3 1 == 0 && c.field 8 2 < 8192 && c.field 10 6 == 0 &&
    (List.range 40).all (fun i =>
      (cmdParams o).any (fun p => decide (p.1 ≤ 24 + i ∧ 24 + i < p.1 + p.2)) || c.field (24 + i) 1 == 0) &&
    (match o with
      | 0x01 => c.field 24 8 % 32 == 0 && c.field 40 8 % 2 ^ 21 == 0 && c.field 48 8 % 4096 == 0 && c.field 56 1 < 2 &&
          (c.field 57 1 == 0xFF || decide (c.field 57 1 < 32))
      | 0x02 => decide (c.field 24 1 < 16)
      | 0x06 => decide (c.field 24 1 < 32)
      | 0x08 => c.field 56 8 % 64 == 0
      | 0x09 => decide (c.field 24 1 < 2)
      | 0x0A | 0x0B | 0x0C => decide (c.field 24 2 < 8192)
      | _ => true)

/-- The ring's command completes with a result, a detail, AUX and the second payload entry. -/
def Dev.cmdDone (d : Dev) (r result detail aux : Nat) (e1 : Nat := 0) : Dev :=
  match d.cmdOf r with
  | some c => d.setCmd r (some { c with stage := 2, result := result, detail := detail, aux := aux, entry1 := e1 })
  | none => d

/-- A command ring with a whole command and none in execution. -/
def Dev.cmdReady (d : Dev) (r : Nat) : Bool :=
  d.hen r && d.ringRd r Reg.RING.ROLE == 1 && (d.cmdOf r).isNone && d.bqEn r && !d.bqOut r && decide (2 ≤ d.bqVisible r)

/-- COMMAND_DISPATCH: the next command, round-robin by ring (R370). -/
def Dev.commandDispatch (d : Dev) : Dev :=
  match ((List.range 64).map (fun i => (d.hp.next + i) % 64)).find? (fun r => d.cmdReady r) with
  | none => d
  | some r =>
    let (x0, d1) := d.bqPop r
    let (x1, d2) := d1.bqPop r
    let c : RingCmd := { bytes := leBytes 32 x0.data.toNat ++ leBytes 32 x1.data.toNat, stage := 0, result := 0, detail := 0, aux := 0,
                         entry1 := 0, target := 0, at_ := d.cycle, gone := false }
    let d3 : Dev := { d2 with hp := { d2.hp with next := (r + 1) % 64 } }
    let d4 := d3.setCmd r (some c)
    if x0.poison || x1.poison then d4.cmdDone r 0x34 0 0
    else if 0x0D ≤ c.opc then (d4.cmdDone r 0x30 0 0).ringErr
    else if !c.legal then (d4.cmdDone r 0x31 0 0).ringErr
    else d4

/-- The dispatched command of ring `r`, when it is `opc` and has not begun. -/
def Dev.cmdBegin (d : Dev) (r opc : Nat) : Option RingCmd :=
  match d.cmdOf r with
  | some c => if c.stage = 0 ∧ c.opc = opc then some c else none
  | none => none

/-- LOADER_QUEUE_ENTER (R370); the loader accepts commands from boot step 8 on, and host commands queue behind autoload (R412, R415). -/
def Dev.loaderQueueEnter (d : Dev) (r : Nat) : Dev :=
  match d.cmdOf r with
  | some c =>
    if d.plat.step = 4 ∧ d.plat.auto = 4 ∧ c.stage = 0 ∧ 1 ≤ c.opc ∧ c.opc ≤ 6 ∧ d.ldr.queue.length < 16 then
      let d1 := d.setCmd r (some { c with stage := 1 })
      { d1 with ldr := { d1.ldr with queue := d1.ldr.queue ++ [⟨c.opc, c.dom, r, c.bytes.drop 24, false⟩] } }
    else d
  | none => d

/-- NOP. -/
def Dev.cmdNop (d : Dev) (r : Nat) : Dev := if (d.cmdBegin r 0).isSome then d.cmdDone r 0 0 0 else d

/-- READ_KEY waits for the first key (R303, R305). -/
def Dev.cmdReadKey (d : Dev) (r : Nat) : Dev :=
  if (d.cmdBegin r 7).isSome && d.ldr.keyValid then d.cmdDone r 0 0 d.ldr.epoch (leNat (beBytes 32 d.ldr.key.toNat)) else d

/-- SIGNAL (R374). -/
def Dev.cmdSignal (d : Dev) (r : Nat) : Dev :=
  match d.cmdBegin r 0x0A with
  | none => d
  | some c =>
    let o := c.field 24 2
    if d.flag (Pg.sync o) Reg.SYNC.MODE then d.cmdDone r 0x33 0 0 else (d.signal o (c.field 32 8)).cmdDone r 0 0 0

/-- FENCE_WAIT begins to wait (R375). -/
def Dev.cmdFenceWait (d : Dev) (r : Nat) : Dev :=
  match d.cmdBegin r 0x0B with
  | none => d
  | some c =>
    (d.bump (Pg.sync (c.field 24 2)) Reg.SYNC.WAITERS).setCmd r (some { c with stage := 1, target := c.field 32 8, at_ := d.cycle })

/-- BARRIER records one arrival and begins to wait for its generation (R375). -/
def Dev.cmdBarrier (d : Dev) (r : Nat) : Dev :=
  match d.cmdBegin r 0x0C with
  | none => d
  | some c =>
    let o := c.field 24 2
    if !d.flag (Pg.sync o) Reg.SYNC.MODE then d.cmdDone r 0x33 0 0
    else
      let g := d.syncValue o
      ((d.bump (Pg.sync o) Reg.SYNC.WAITERS).signal o 1).setCmd r (some { c with stage := 1, target := g + 1, at_ := d.cycle })

/-- The waiting command of ring `r`, when it is `opc`. -/
def Dev.cmdWaits (d : Dev) (r opc : Nat) : Option RingCmd :=
  match d.cmdOf r with
  | some c => if c.stage = 1 ∧ c.opc = opc then some c else none
  | none => none

/-- The wait ends: its object has one waiter less. -/
def Dev.waitEnd (d : Dev) (r : Nat) (c : RingCmd) (result : Nat) : Dev :=
  let o := c.field 24 2
  let a := Pg.sync o
  (d.wr a Reg.SYNC.WAITERS (d.rd a Reg.SYNC.WAITERS - 1)).cmdDone r result 0 (d.syncValue o % 2 ^ 32)

/-- FENCE_WAIT_COMPLETE and BARRIER_COMPLETE: VALUE has reached the target. -/
def Dev.waitComplete (d : Dev) (r opc : Nat) : Dev :=
  match d.cmdWaits r opc with
  | none => d
  | some c => if c.target ≤ d.syncValue (c.field 24 2) then d.waitEnd r c 0 else d

/-- WAIT_TIMEOUT: TIMEOUT_US passed; 0 is none. -/
def Dev.waitTimeout (d : Dev) (r : Nat) : Dev :=
  match d.cmdOf r with
  | some c =>
    if c.stage = 1 ∧ (c.opc = 0x0B ∨ c.opc = 0x0C) ∧ 0 < c.timeout ∧ c.at_ + usCycles c.timeout ≤ d.cycle ∧
        d.syncValue (c.field 24 2) < c.target then d.waitEnd r c 0x32
    else d
  | none => d

/-- The command of ring `r` ends: its signal is performed and the ring may go on (R371). -/
def Dev.cmdFinish (d : Dev) (r : Nat) (c : RingCmd) : Dev :=
  let d1 := d.setCmd r none
  if c.sigen then d1.signal (c.field 8 2 % 8192) (c.field 16 8) else d1

/-- COMPLETION_EVENT: the event, then the signal; an event that finds its ring full waits (R371). A ring without LINK_EN names no event
ring (DEDUCED, log 35). -/
def Dev.completionEvent (d : Dev) (r : Nat) : Dev :=
  match d.cmdOf r with
  | some c =>
    if c.stage ≠ 2 then d
    else if c.gone then d.cmdFinish r c
    else
      let d1 := d.count Pg.host 0xF 2
      if (c.noevt && c.result == 0) || !d.flag (Pg.ring r) Reg.RING.LINK_EN then d1.cmdFinish r c
      else
        let ev := d.ringRd r Reg.RING.LINK % 2048
        if !d.eventRoom ev then d
        else
          let e0 := 1 + c.opc * 2 ^ 8 + c.result * 2 ^ 16 + r * 2 ^ 24 + c.dom * 2 ^ 30 + c.field 4 4 * 2 ^ 32 + (c.detail % 2 ^ 32) * 2 ^ 64 +
            (c.aux % 2 ^ 32) * 2 ^ 96
          (d1.postEvent ev 1 c.dom 0 e0 c.entry1).cmdFinish r c
  | none => d

/-! ### Sync objects from the host (R373) -/

/-- SYNC_ADD. -/
def Dev.syncAdd (d : Dev) (n v : Nat) : Dev := d.signal n v

/-- SYNC_VALUE_READ: VALUE_LO is returned and VALUE_HI latched for the requester. -/
def Dev.syncValueRead (d : Dev) (who : Requester) (n : Nat) : Dev :=
  let k := (match who with | .host => 0 | .dealer => 8192) + n
  let d1 : Dev := { d with hp := { d.hp with valHi := Tab.set d.hp.valHi k (d.syncValue n / 2 ^ 32) 0 } }
  d1.emit (.readDone who (Pg.sync n) (d.syncValue n % 2 ^ 32))

/-! ### Aperture (R360) -/

/-- DDR5 address of BAR4 offset 0. -/
def Dev.aperBase (d : Dev) : Nat :=
  d.rd Pg.host Reg.HOSTPORT.APER_BASE_LO * 2 ^ 21 + d.rd Pg.host Reg.HOSTPORT.APER_BASE_HI * 2 ^ 32

def Dev.aperErr (d : Dev) : Dev := d.bump Pg.host Reg.HOSTPORT.APER_ERR

/-- The whole entries that an access touches: first byte address and count. -/
def AperReq.span (a : AperReq) : Nat × Nat := (a.addr / 32 * 32, (a.addr + a.len + 31) / 32 - a.addr / 32)

/-- A write of whole aligned entries. -/
def AperReq.whole (a : AperReq) : Bool := a.addr % 32 == 0 && a.len % 32 == 0

def Dev.setAper (d : Dev) (l : List AperReq) : Dev := { d with hp := { d.hp with aper := l } }

/-- Return the data of a BAR4 read. -/
def Dev.aperAnswer (d : Dev) (a : AperReq) (bs : List Byte) (ep : Bool) : Dev := d.emit (.aperDone a.off bs ep)

/-- A class B stream of any engine is ready but for a tag at port `p`. -/
def Dev.bWants (d : Dev) (p : Nat) : Bool :=
  (List.range 512).any (fun k => d.sd (k / 64) (k % 64) Reg.SDESC.CLS == 2 &&
    (match (d.wantOf (k / 64) (k % 64)).1 with | some w => d.paPort w.pa == p | none => false))

/-- A tag of port `p` is free for the aperture; the last free one goes by turn (R253, DESIGN CHOICE, log 152). -/
def Dev.aperRoom (d : Dev) (p : Nat) : Bool :=
  decide (2 ≤ d.tagsFree p) || (d.tagsFree p == 1 && (d.tagTurnC p || !d.bWants p))

/-- Request the next bytes of the DDR5 access at the front, at most one burst, as class C (R253, R260, R360). -/
def Dev.aperPiece (d : Dev) (a : AperReq) (rest : List AperReq) : Dev :=
  let pa := a.addr + a.pos
  let n := min (64 - pa % 64) (d.aperHave a - a.pos)
  let p := d.ddrPort pa
  let t := d.freeTag p
  let r : MemReq := { port := p, tag := t, f := 8, st := 0, epoch := 0, seq := 0, pa := pa, va := pa, len := n, write := a.write,
                      wdata := if a.write then ((a.data.drop a.pos).take n).map some else [], cls := 3, dom := 0, at_ := d.cycle,
                      done := false, rdata := [], rpoison := [] }
  let d1 := (d.setAper ({ a with tag := some (256 * p + t), pos := a.pos + n } :: rest)).tagDealt p
  { d1 with mem := { d1.mem with reqs := d1.mem.reqs ++ [r] } }

/-- The last bytes of a DDR5 access have come or gone: beyond the installed capacity a read gives 0 and a write is lost (R360). -/
def Dev.aperDdrEnd (d : Dev) (a : AperReq) : Dev :=
  if a.write then (if d.aperHave a < a.len then d.aperErr else d)
  else d.aperAnswer a (a.got ++ List.replicate (a.len - a.got.length) 0) a.bad

/-- Send the write packet of whole entries to a B tile; lost when it cannot be sent. -/
def Dev.aperSendWrite (d : Dev) (addr : Nat) (items : List Item) : Dev :=
  let (tx, d1) := d.nextTxid 44
  let (ok, d2) := d1.sendPacket 44 (addr / 2 ^ 22 % 32) 0 (addr / 2 ^ 20 % 4 + 4) (addr % 2 ^ 20) tx 1 items none
  if ok then d2 else d2.aperErr

/-- Begin the accesses at the front of the queue until one must wait for a response. -/
def Dev.aperStart (d : Dev) (fuel : Nat) : Dev :=
  match fuel with
  | 0 => d
  | n + 1 =>
    match d.hp.aper with
    | [] => d
    | a :: rest =>
      if a.tx.isSome then d
      else if a.off < d.aperSplit then
        (if a.tag.isSome then d
        else if d.aperHave a ≤ a.pos then ((d.setAper rest).aperDdrEnd a).aperStart n
        else if d.aperRoom (d.ddrPort (a.addr + a.pos)) then d.aperPiece a rest
        else d)
      else if a.write && a.whole then
        ((d.setAper rest).aperSendWrite a.addr ((chunks (a.len + 1) 32 a.data).map (fun c => Item.ofNat (leNat c)))).aperStart n
      else
        let (base, cnt) := a.span
        let core := a.addr / 2 ^ 22 % 32
        if 8 ≤ Tab.get d.fab.rdOut (64 * 44 + core) 0 then d
        else
        let (tx, d1) := d.nextTxid 44
        let (ok, d2) := d1.sendPacket 44 core 3 (a.addr / 2 ^ 20 % 4 + (cnt - 1) * 64) (base % 2 ^ 20) tx 1 [] none
        if ok then
          let d3 := d2.setAper ({ a with tx := some tx, at_ := d.cycle } :: rest)
          { d3 with fab := { d3.fab with rdOut := Tab.set d3.fab.rdOut (64 * 44 + core) (Tab.get d3.fab.rdOut (64 * 44 + core) 0 + 1) 0 } }
        else if a.write then ((d2.setAper rest).aperErr).aperStart n
        else ((d2.setAper rest).aperAnswer a (List.replicate a.len 0) true).aperStart n

/-- A new access enters the queue. -/
def Dev.aperEnter (d : Dev) (a : AperReq) : Dev := (d.setAper (d.hp.aper ++ [a])).aperStart (d.hp.aper.length + 1)

/-- An access that waited for a tag or a credit begins when it can. -/
def Dev.tickAper (d : Dev) : Dev := d.aperStart (d.hp.aper.length + 1)

/-- A request of the aperture ends: with data and poison, when the port performed it, or with zeros (R258). -/
def Dev.aperReturn (d : Dev) (r : MemReq) (bs : List Byte) (bad : Bool) : Dev :=
  let d1 := d.dropReq r
  match d1.hp.aper with
  | a :: rest =>
    if a.tag = some (256 * r.port + r.tag) then
      (d1.setAper ({ a with tag := none, got := a.got ++ bs, bad := a.bad || bad } :: rest)).tickAper
    else d1
  | [] => d1

/-- MEM_ACCESS at a port; a request of the aperture is answered at once. -/
def Dev.portAccess (d : Dev) (p tag : Nat) : Dev :=
  let d1 := d.memAccess p tag
  match d1.reqAt p tag with
  | some r => if r.f = 8 ∧ r.done = true then d1.aperReturn r r.rdata (r.rpoison.any id) else d1
  | none => d1

/-- TAG_TIMEOUT at a port. A request of the aperture belongs to no fetch engine, so no cause is raised; its read goes on with zeros and EP, and
its write is lost and counted (R258, DESIGN CHOICE, log 152). -/
def Dev.portTimeout (d : Dev) (p tag : Nat) : Dev :=
  match d.reqAt p tag with
  | some r =>
    if r.f ≠ 8 then d.tagTimeout p tag
    else if d.cycle < r.at_ + 800 then d
    else (if r.write then d.aperErr else d).aperReturn r (List.replicate r.len 0) true
  | none => d

/-- BAR4 maps the Dealer's SRAM, 1 MiB, before the firmware runs in a boot by PCIe download (R18, R413). -/
def Dev.aperSram (d : Dev) : Bool := d.plat.step == 2 && d.rd Pg.pins Reg.PINS.BOOT_SRC == 1

/-- An access to the SRAM. -/
def Dev.sramAccess (d : Dev) (off len : Nat) (data : List Byte) (write : Bool) : Dev :=
  let n := min len (2 ^ 20 - off)
  if write then { d with plat := { d.plat with sram := Memory.writeList d.plat.sram off (data.take n) 0 } }
  else d.emit (.aperDone off (Memory.readList d.plat.sram off n 0 ++ List.replicate (len - n) 0) false)

/-- APERTURE_READ and APERTURE_WRITE; an offset beyond the BAR is not the device's. -/
def Dev.aperture (d : Dev) (off len : Nat) (data : List Byte) (write : Bool) : Dev :=
  if d.hp.cfg.bar4 < off + len ∨ len = 0 then d
  else if d.aperSram then d.sramAccess off len data write
  else
    let addr := if off < d.aperSplit then d.aperBase + off else off - d.aperSplit
    d.aperEnter { addr := addr, len := len, data := data, write := write, off := off, tx := none, at_ := 0, tag := none, pos := 0, got := [], bad := false }

/-- The response credit of the front access is free again. -/
def Dev.aperCredit (d : Dev) (core : Nat) : Dev :=
  { d with fab := { d.fab with rdOut := Tab.set d.fab.rdOut (64 * 44 + core) (Tab.get d.fab.rdOut (64 * 44 + core) 0 - 1) 0 } }

/-- The front access has its response: `items` are the entries. -/
def Dev.aperResponse (d : Dev) (a : AperReq) (rest : List AperReq) (items : List Item) (bad : Bool) : Dev :=
  let (base, cnt) := a.span
  let d0 := (d.setAper rest).aperCredit (a.addr / 2 ^ 22 % 32)
  if a.write then
    let merged := (List.range cnt).map (fun i =>
      let x := items.getD i Item.poisoned
      let bs := (leBytes 32 x.data.toNat).zipIdx.map (fun e =>
        let p := base + 32 * i + e.2
        if a.addr ≤ p ∧ p < a.addr + a.len then a.data.getD (p - a.addr) 0 else e.1)
      let covered := decide (a.addr ≤ base + 32 * i ∧ base + 32 * i + 32 ≤ a.addr + a.len)
      Item.ofNat (leNat bs) (x.poison && !covered))
    (d0.aperSendWrite base merged).aperStart (rest.length + 1)
  else
    let bs := items.flatMap (fun x => leBytes 32 x.data.toNat) ++ List.replicate a.len 0
    (d0.aperAnswer a ((bs.drop (a.addr - base)).take a.len) (bad || items.any (·.poison) || decide (items.length < cnt))).aperStart
      (rest.length + 1)

/-- APERTURE_READ_TIMEOUT: no response within 1 ms. -/
def Dev.apertureTimeout (d : Dev) (tx : Nat) : Dev :=
  match d.hp.aper with
  | a :: rest =>
    if a.tx = some tx ∧ a.at_ + usCycles 1000 ≤ d.cycle then
      let core := a.addr / 2 ^ 22 % 32
      let d0 := ((d.setAper rest).aperCredit core).owedDone 44 core
      (if a.write then d0.aperErr else d0.aperAnswer a (List.replicate a.len 0) true).aperStart (rest.length + 1)
    else d
  | [] => d

/-! ### Packets at the other endpoints -/

/-- READ_RESPONSE at endpoint `n` (R87): the aperture is the one requester; other responses, and late ones, are dropped (DESIGN CHOICE, log 36). -/
def Dev.readResponse (d : Dev) (n : Nat) : Dev :=
  match d.popPacket n 4 with
  | none => d
  | some (h, payload, d0) =>
    let d1 := d0.owedDone n (Hdr.srcn h)
    if n ≠ 44 then (if n = 45 ∨ n = 46 then d1.bump (Pg.gl (n - 45)) Reg.GLINK.BC_IGN else d1)
    else match d1.hp.aper with
      | a :: rest => if a.tx = some (Hdr.txid h) then d1.aperResponse a rest payload (Hdr.psum h) else d1
      | [] => d1

/-- WRITE_ACKNOWLEDGEMENT at endpoint `n` (R87, R237, R250, R296, R360). -/
def Dev.writeAck (d : Dev) (n : Nat) : Dev :=
  match d.popPacket n 5 with
  | none => d
  | some (h, _, d0) =>
    let d1 := d0.owedDone n (Hdr.srcn h)
    let tx := Hdr.txid h
    if n < 32 then d1.spillFreed n tx
    else if n < 40 then d1.fetchAck (n - 32) tx
    else if n ≠ 44 then (if n = 45 ∨ n = 46 then d1.bump (Pg.gl (n - 45)) Reg.GLINK.BC_IGN else d1)
    else match d1.hp.ldrTx.find? (fun e => e.1 == tx) with
      | some e =>
        { d1 with hp := { d1.hp with
            ldrTx := d1.hp.ldrTx.erase e, refused := if Hdr.psum h then (e.2, d1.recordOff tx) :: d1.hp.refused else d1.hp.refused } }
      | none => if Hdr.psum h ∧ Hdr.srcn h < 32 ∧ d1.fenced (Hdr.srcn h) = true then d1.aperErr else d1

/-- A KIND 2 packet at a Gostan link: its items enter the outbound queue that TARGET names (R392). -/
def Dev.queuePushGl (d : Dev) (n : Nat) : Dev :=
  match d.popPacket n 2 with
  | none => d
  | some (h, payload, d1) =>
    let b := 1792 + 256 * (n - 45) + Hdr.target h % 256
    if !d1.bqEn b || !d1.bqOut b then d1 else payload.foldl (fun (d : Dev) x => d.bqFabricWrite b x) d1

/-- Discard the packet at the front of an endpoint that has no use for its KIND (R392, DESIGN CHOICE, log 36): a Gostan link counts it. -/
def Dev.endpointIgnore (d : Dev) (n : Nat) (kinds : List Nat) : Dev :=
  match Tab.get d.fab.inPk n [] with
  | (h :: _) :: rest =>
    if kinds.contains (Hdr.kind h.data.toNat) then
      let d1 : Dev := { d with fab := { d.fab with inPk := Tab.set d.fab.inPk n rest [] } }
      if n = 45 ∨ n = 46 then d1.bump (Pg.gl (n - 45)) Reg.GLINK.BC_IGN else d1
    else d
  | _ => d

/-- QUEUE_PUSH at endpoint `n`. The edge endpoints use this turn as well to discard packets of kinds that they do not serve. -/
def Dev.queuePush (d : Dev) (n : Nat) : Dev :=
  if n < 32 then d.queuePushCore n
  else if n < 40 then d.endpointIgnore n [1, 2, 3]
  else if n = 44 then d.endpointIgnore n [0, 1, 2, 3]
  else if n = 45 ∨ n = 46 then (d.endpointIgnore n [0, 1, 3]).queuePushGl n
  else d

/-! ### Host-port reset (R354) -/

/-- Register words of the ring contexts return to reset. -/
def Dev.ringsReset (d : Dev) : Dev :=
  { d with regs := d.regs.filter (fun e => !(decide (Pg.ring 0 / 4 ≤ e.1 ∧ e.1 < Pg.ring 1536 / 4)))
           qs := { d.qs with bq := (d.qs.bq.map (fun (e : Nat × BqSt) =>
             if e.1 < 1536 then (e.1, { e.2 with copied := 0, crossed := false, fcnt := 0 }) else e)).filter (fun e => e.2 != BqSt.zero) } }

/-- HOST_PORT_RESET. -/
def Dev.hostPortReset (d : Dev) : Dev :=
  let d1 := d.each (List.range 64) (fun d r => d.dropWait r)
  let cmds := (d1.hp.cmd.filterMap (fun (e : Nat × Option RingCmd) => match e.2 with
    | some c => if c.stage = 0 then none else some (e.1, some { c with gone := true })
    | none => none))
  let d2 := d1.ringsReset
  { d2 with hp := { d2.hp with cfg := { PcieCfg.reset with ident := d2.hp.cfg.ident }, msixT := [], pba := 0, cmd := cmds, next := 0, dma := [], reads := [], valHi := d2.hp.valHi } }

end Sys2Proof.Machine
end

