-- ==== Sys2Proof/Machine/Faults.lean ====
section
/-!
DEFINITION. Records, reactions, stops, fences and privileged sources (10_faults_and_fencing.md, R338, R22 to R25).
-/

namespace Sys2Proof.Machine

/-! ### Records and journal changes -/

/-- Two words of a 64-bit time, low word first. -/
def timeWords (t : Nat) : List Nat := [t % 2 ^ 32, t / 2 ^ 32 % 2 ^ 32]

/-- Note that a journalled value changed (R345). -/
def Dev.journalDue (d : Dev) (item idx : Nat) : Dev :=
  let k := 256 * item + idx
  if d.sco.jdue.contains k then d else { d with sco := { d.sco with jdue := d.sco.jdue ++ [k] } }

/-- Queue a scoresheet record (R338); answers whether it was queued. -/
def Dev.recordQ (d : Dev) (typ sev : Nat) (inj : Bool) (body : List Nat) (key : Option (Nat × Nat)) (priv : Bool) : Bool × Dev :=
  if d.flag Pg.score Reg.SCORE.NOPART then (false, d)
  else if 64 ≤ d.sco.queue.length then (false, d.bump Pg.score Reg.SCORE.DROP_BUSY)
  else
    let r : RecReq := { typ := typ, sev := sev, inj := inj, pcycle := d.rd Pg.score Reg.SCORE.PCYCLE, opsec := d.rd Pg.score Reg.SCORE.OPSEC,
                        body := body, key := key, priv := priv }
    (true, { d with sco := { d.sco with queue := d.sco.queue ++ [r] } })

def Dev.record (d : Dev) (typ : Nat) (body : List Nat) : Dev := (d.recordQ typ 0 false body none false).2

/-- The first fault of the device (R321). -/
def Dev.firstCapture (d : Dev) (page bit : Nat) (priv : Bool) (dom : Option Nat) (sev time : Nat) : Dev :=
  if d.flag Pg.fault Reg.FAULT.FIRST_VALID then (d.wr Pg.fault Reg.FAULT.OVF 1).bump Pg.fault Reg.FAULT.OVF_CNT
  else
    ((((((((d.wr Pg.fault Reg.FAULT.FIRST_PAGE page).wr Pg.fault Reg.FAULT.FIRST_CAUSE bit).wr Pg.fault Reg.FAULT.FIRST_PRIV
      (if priv then 1 else 0)).wr Pg.fault Reg.FAULT.FIRST_DOM (dom.getD 0)).wr Pg.fault Reg.FAULT.FIRST_DOMV (if dom.isSome then 1 else 0)).wr
      Pg.fault Reg.FAULT.FIRST_SEV sev).hit Pg.fault Reg.FAULT.FIRST_VALID).wr Pg.fault Reg.FAULT.FIRST_TIME_LO time).wr Pg.fault
      Reg.FAULT.FIRST_TIME_HI (time / 2 ^ 32)

/-! ### EVO pins (R316) -/

/-- Pin `i` is mapped to domain `m`. -/
def Dev.evoMapped (d : Dev) (i m : Nat) : Bool :=
  let w := if i < 8 then d.rd Pg.fault Reg.FAULT.EVO_MAP_LO else d.rd Pg.fault Reg.FAULT.EVO_MAP_HI
  bitAt w (3 * (i % 8) + 2) && bitsOf w (3 * (i % 8)) 2 == m

/-- Level of pin EVO i: 2 is high impedance, as for a pin of a domain that was stopped and has not run since, one whose driver is off, and every
pin until the firmware runs (R318, R413, R438). -/
def Dev.evoLevel (d : Dev) (i : Nat) : Nat :=
  if decide (d.plat.step < 3) || d.plat.halted || (List.range 4).any (fun m => d.evoMapped i m && Tab.get d.flt.evoOff m false) || !bitAt (d.rd Pg.pins Reg.PINS.EVO_OE) i then 2
  else if bitAt (d.rd Pg.pins Reg.PINS.EVO_OUT) i then 1 else 0

/-- The pins whose level differs from what it was on `old` move. -/
def Dev.evoMoved (d old : Dev) : Dev :=
  d.each (List.range 16) (fun (d : Dev) i => if d.evoLevel i = old.evoLevel i then d else d.emit (.pin ("EVO" ++ toString i) (d.evoLevel i)))

def Dev.setEvoOff (d : Dev) (m : Nat) (b : Bool) : Dev := { d with flt := { d.flt with evoOff := Tab.set d.flt.evoOff m b false } }

/-- The mapped pins go to high impedance. -/
def Dev.evoSafe (d : Dev) (m : Nat) : Dev :=
  (d.setEvoOff m true).evoMoved d

/-! ### Loader commands end here (R301) -/

/-- The command in front of the loader's queue ends with a result and a detail. -/
def Dev.ldrEnd (d : Dev) (result detail : Nat) : Dev :=
  match d.ldr.queue with
  | [] => d
  | c :: rest =>
    let L := Pg.loader
    let d1 := ((((d.wr L Reg.LOADER.LAST_RESULT result).wr L Reg.LOADER.LAST_DETAIL detail).wr L Reg.LOADER.LAST_DOM c.dom).wr L
      Reg.LOADER.LAST_CMD c.opc).wr L Reg.LOADER.BUSY 0
    let d2 : Dev := { d1 with ldr := { d1.ldr with queue := rest } }
    let d3 := if c.opc = 1 ∧ result ≠ 0 then d2.raise L 0 .none_ else if c.opc = 2 ∧ result ≠ 0 then d2.raise L 1 .none_ else d2
    if c.auto then d3 else d3.cmdDone c.ring result detail 0

/-- The command in front of the queue is being executed. -/
def Dev.ldrBusy (d : Dev) (m : Nat) : Dev := (d.wr Pg.loader Reg.LOADER.BUSY 1).wr Pg.loader Reg.LOADER.CUR_DOM m

def Dev.jobOf (d : Dev) (m : Nat) : LJob := Tab.get d.ldr.job m .idle
def Dev.setJob (d : Dev) (m : Nat) (j : LJob) : Dev := { d with ldr := { d.ldr with job := Tab.set d.ldr.job m j .idle } }

/-- The domain runs, for the sums of R28 and R253. -/
def Dev.active (d : Dev) (m : Nat) : Bool := d.running m || d.dstate m == stSWITCHING

/-- TAGA of every port is the sum of the shares of the running domains (R253). -/
def Dev.tagaUpdate (d : Dev) : Dev :=
  d.each (List.range 4) (fun d p =>
    d.wr (Pg.memport p) Reg.MEMPORT.TAGA (min 192 ((List.range 4).foldl (fun n m => if d.active m then n + Tab.get d.ldr.taga (4 * m + p) 0 else n) 0)))

/-- A stop ends the command that the loader executes for the domain: a failed apply with its own result, others with DOM_STATE. -/
def Dev.jobAbort (d : Dev) (m : Nat) : Dev :=
  match d.jobOf m with
  | .applyWait _ | .applySent _ | .drainWait => (d.setJob m .idle).ldrEnd 1 stSTOPPED
  | .applyRestore r dt => (d.setJob m .idle).ldrEnd r dt
  | _ => d

/-! ### Stops (R315) -/

def Dev.quietCur (d : Dev) (m : Nat) : Nat := d.rd (Pg.fdom m) Reg.FDOM.QUIET_CUR

/-- Start the quiet timer of a domain (R323, R322). -/
def Dev.quietStart (d : Dev) (m : Nat) : Dev :=
  { d with flt := { d.flt with quiet := Tab.set d.flt.quiet m (some (d.cycle + usCycles (1000 * d.quietCur m))) none } }

/-- The domain was stopped and recovers by its quiet timer. -/
def Dev.recovers (d : Dev) (m : Nat) : Bool :=
  d.dstate m == stSTOPPED && !Tab.get d.flt.foldNone m false && !Tab.get d.flt.recFailed m false && !Tab.get d.flt.byStop m false

/-- A STOPPED domain was hit again: the timer restarts; an S3 cause or a fence (`again`) also ends a restore in progress, which is tried again later
(R322, R324); a lesser cause leaves the restore alone, since its timer has expired (DEDUCED, log 159). -/
def Dev.quietRestart (d : Dev) (m : Nat) (again : Bool := true) : Dev :=
  if d.recovers m && (again || !Tab.get d.flt.recovering m false) then
    ({ d with flt := { d.flt with recovering := Tab.set d.flt.recovering m false false } } : Dev).quietStart m
  else d

/-- Double QUIET_CUR when the domain stops again soon after a recovery's START (R325). -/
def Dev.quietDouble (d : Dev) (m : Nat) : Dev :=
  match Tab.get d.flt.recStart m none with
  | some t => if d.cycle < t + usCycles (10000 * d.quietCur m) then d.wr (Pg.fdom m) Reg.FDOM.QUIET_CUR (min 60000 (2 * d.quietCur m)) else d
  | none => d

/-- Stop domain `m` for the cause `bit` of page number `page` (R315): tiles stop, inputs discard frames, EVO pins are released, open
packets are aborted, streams cancelled. `cmd`: by a STOP command, whose quiet period is 0. `reason` of the DOMAIN event. -/
def Dev.stopDomain (d : Dev) (m page bit : Nat) (cmd : Bool) (reason : Nat := 0) : Dev :=
  let st := d.dstate m
  if st = stEMPTY then d
  else if st = stSTOPPED then d.quietRestart m
  else
    let live := decide (st ≠ stLOADED)
    let d1 := (((d.wr (Pg.fdom m) Reg.FDOM.STOP_PAGE page).wr (Pg.fdom m) Reg.FDOM.STOP_BIT bit).wr (Pg.fdom m) Reg.FDOM.STOP_VALID 1)
    let d2 := if live then (d1.discardInputs m) else d1
    let d3 := (d2.setState m stSTOPPED).evoSafe m
    let d4 := (if live then d3.abortPackets m else d3).cancelDomain m
    let d5 := if cmd then d4 else d4.quietDouble m
    let d6 : Dev := { d5 with flt := { d5.flt with
        wasRun := Tab.set d5.flt.wasRun m live false
        byStop := Tab.set d5.flt.byStop m cmd false
        recStart := Tab.set d5.flt.recStart m none none
        upCycles := Tab.set d5.flt.upCycles m 0 0 } }
    let d6 : Dev := { d6 with ldr := { d6.ldr with
        folding := Tab.set d6.ldr.folding m false false
        sent := Tab.set d6.ldr.sent m false false
        segDrain := Tab.set d6.ldr.segDrain m false false
        drainCmd := Tab.set d6.ldr.drainCmd m false false
        applyPend := Tab.set d6.ldr.applyPend m none none
        resume := Tab.set d6.ldr.resume m false false } }
    let d6 := (d6.jobAbort m).tagaUpdate
    let d7 := if cmd then d6 else d6.quietStart m
    let d8 := d7.record 4 ([m + (page % 4096) * 2 ^ 16 + bit * 2 ^ 28, d.frameOf m] ++ timeWords d.fs)
    let d9 := d8.count Pg.fault 0xF 2
    if cmd then d9 else d9.domainEvent m reason page bit

/-! ### Fences (R22, R298, R326) -/

/-- Virtual square of physical core `c` in domain `m`: 8 × virtual rank + virtual file (R281). -/
def Dev.virtSq (d : Dev) (m c : Nat) : Nat :=
  8 * (rankOf c - d.rd (Pg.ldom m) Reg.LDOM.ROFF) + (fileOf c - d.rd (Pg.ldom m) Reg.LDOM.FOFF)

/-- Number and entry of the section of a type with an index. -/
def Dev.sectOf (d : Dev) (m typ index : Nat) : Option (Nat × Sect) :=
  ((Tab.get d.ldr.sects m []).zipIdx.find? (fun e => e.1.typ == typ && e.1.index == index)).map (fun e => (e.2, e.1))

/-- Items of a domain that are still in the fabric are cleared with its queues: pass registers, tile outputs, landings and credits on
their way (R315; DEDUCED, log 44). -/
def Dev.clearFabric (d : Dev) (m : Nat) : Dev :=
  let cs := d.domCores m
  let other (f : Option Flit) : Bool := match f with | some x => x.dom != m | none => true
  { d with
    fab := { d.fab with
      pass := d.fab.pass.filter (fun e => other e.2)
      passNxt := d.fab.passNxt.filter (fun e => other e.2)
      outp := d.fab.outp.filter (fun e => !cs.contains (e.1 / 128)) }
    qs := { d.qs with
      lin := d.qs.lin.filter (fun e => !(e.2.any (fun l => l.owner == m)))
      credIn := d.qs.credIn.filter (fun e => !cs.contains e.1)
      credDue := d.qs.credDue.filter (fun e => !cs.contains e.1) } }

/-- Empty every queue of a domain, with line-buffer, replay and spill state (Table 9.9, R323). The closed and aborted packets of its host
rings reach the host before (DEDUCED, log 40). -/
def Dev.emptyDomain (d : Dev) (m : Nat) : Dev :=
  let qs := d.listedQueues.filter (fun q => d.qDom q == m)
  let d0 := d.each ((d.domBqs m).filter (fun b => decide (b < 1536))) (fun (d : Dev) b => d.flushRing b)
  let d1 := (d0.clearFabric m).each qs (fun d q => d.emptyQueue q)
  d1.each (d1.domBqs m) (fun d b => d.bqEmpty b)

/-- The command that FOLD_NONE for core `c` cuts ends with that code (Table 9.10). -/
def Dev.jobFoldNone (d : Dev) (m c : Nat) : Dev :=
  match d.jobOf m with
  | .applyWait _ | .applySent _ | .drainWait => (d.setJob m .idle).ldrEnd 0x1A c
  | _ => d

/-- Stop with FOLD_NONE for core `c` (R298): the cause is raised, and the domain stays STOPPED until it is unloaded. -/
def Dev.stopFoldNone (d : Dev) (m c : Nat) : Dev :=
  let d1 := ((d.jobFoldNone m c).raise Pg.loader 2 (.dom m)).stopDomain m (Pg.loader / 4096) 2 false 4
  { d1 with flt := { d1.flt with
      foldNone := Tab.set d1.flt.foldNone m true false
      quiet := Tab.set d1.flt.quiet m none none }
            ldr := { d1.ldr with folding := Tab.set d1.ldr.folding m false false } }

/-- A fence during steps 2 to 4 of an apply makes it fail with APPLY_FENCE (R296); one that still waits for its segment switch goes on
waiting (R299). A restore in progress for STOP is written again. -/
def Dev.fenceJob (d : Dev) (m c : Nat) : Dev :=
  let waits := (Tab.get d.ldr.applyPend m none).isSome && d.dstate m != stSWITCHING
  let fail (d : Dev) : Dev :=
    ({ d with ldr := { d.ldr with applyPend := Tab.set d.ldr.applyPend m none none } } : Dev).setJob m (.applyRestore 0x18 c)
  match d.jobOf m with
  | .applyWait _ => if waits then d else fail d
  | .applySent _ => fail d
  | .stopRestore => { d with ldr := { d.ldr with sent := Tab.set d.ldr.sent m false false } }
  | _ => d

/-- The loader continues the domain of a fenced core by its state (R298); an apply that waits for a drain ends with APPLY_FENCE (R296). -/
def Dev.foldStart (d : Dev) (m c : Nat) : Dev :=
  let st := d.dstate m
  let v := d.virtSq m c
  let inForce := (Tab.get d.ldr.foldSq m none).isSome
  let d0 := d.fenceJob m c
  let wasDrain : Bool := match d.jobOf m with | .drainWait => true | _ => false
  if st = stEMPTY then d
  else if st = stSTOPPED then
    if inForce ∨ d.sectOf m 9 v = none then d0.stopFoldNone m c
    else { d0 with ldr := { d0.ldr with foldSq := Tab.set d0.ldr.foldSq m (some v) none } }
  else if inForce ∨ d.sectOf m 9 v = none then d0.stopFoldNone m c
  else
    let d1 : Dev := { d0 with ldr := { d0.ldr with
        foldSq := Tab.set d0.ldr.foldSq m (some v) none
        folding := Tab.set d0.ldr.folding m true false
        sent := Tab.set d0.ldr.sent m false false
        segDrain := Tab.set d0.ldr.segDrain m false false
        drainCmd := Tab.set d0.ldr.drainCmd m (wasDrain || Tab.get d0.ldr.drainCmd m false) false } }
    if st = stLOADED then d1
    else ((((d1.discardInputs m).setState m stSWITCHING).abortPackets m).cancelDomain m).emptyDomain m

/-- Fence core `c` (R22 to R24, R326) for a cause of page number `page`. -/
def Dev.fenceCore (d : Dev) (c page bit : Nat) (host boot node : Bool) : Dev :=
  let d0 : Dev := if node then { d with fab := { d.fab with
      iso := setBits d.fab.iso c 1 1, pass := d.fab.pass.filter (fun e => decide (e.1 / 12 ≠ c)) } } else d
  if d.fenced c then d0
  else
    let dom := d.coreDom c
    let a := Pg.corectl c
    let map := setBits (d.rd Pg.fault Reg.FAULT.FENCE_MAP) c 1 1
    let d1 := d0.wr Pg.fault Reg.FAULT.FENCE_MAP map
    let d2 := (((((((d1.wr a Reg.CORECTL.FPAGE page).wr a Reg.CORECTL.FBIT bit).wr a Reg.CORECTL.FHOST (if host then 1 else 0)).wr a
      Reg.CORECTL.FBOOT (if boot then 1 else 0)).wr a Reg.CORECTL.FVALID 1).wr a Reg.CORECTL.FENCE_TIME_LO d.fs).wr a
      Reg.CORECTL.FENCE_TIME_HI (d.fs / 2 ^ 32))
    let d3 := (d2.cancelCore c).fencePackets c
    let d4 := d3.record 5 ([c + (if host then 32 else 0) + (if boot then 64 else 0) + (page % 4096) * 2 ^ 16 + bit * 2 ^ 28, map] ++ timeWords d.fs)
    if boot then d4
    else
      let d5 : Dev := (({ d4 with flt := { d4.flt with keyDue := true } } : Dev).journalDue 3 0).count Pg.fault 0xF 1
      match dom with
      | none => d5
      | some m => ((d5.setBound m 8).quietRestart m).foldStart m c

/-! ### Resolution (R309 to R312) -/

/-- Frame mark (R310): `f` counts the frames whose first input item had arrived when the cause was latched. -/
def Dev.frameMark (d : Dev) (m f : Nat) : Dev :=
  ({ d with flt := { d.flt with mark := Tab.set d.flt.mark m (max f (Tab.get d.flt.mark m 0)) 0 } } : Dev).bump (Pg.fdom m)
    Reg.FDOM.S1_MARKS

/-- Record, capture, mark and interrupt of one occurrence at its severity. -/
def Dev.resolveRecord (d : Dev) (o : Occ) : Dev :=
  let base := o.page * 4096
  let (sev, _) := d.targetOf o.attr (d.sevOf base o.bit)
  let dom := d.attrDom o.attr
  let d1 := d.firstCapture o.page o.bit false dom sev o.time
  let d2 := if o.rose then
      let w := o.page + o.bit * 2 ^ 12 + dom.getD 0 * 2 ^ 16 + (if dom.isSome then 2 ^ 18 else 0)
      (match d1.recordQ 2 sev o.injected ([w] ++ timeWords o.time ++ [d1.word (base + 0x20)]) (some (o.page, o.bit)) false with
        | (true, d2) => d2.causeEvent 3 sev o.page o.bit dom
        | (false, d2) => d2)
    else d1
  let d3 := if d2.flag Pg.host Reg.HOSTPORT.IRQ_SEV_EN && decide (d2.rd Pg.host Reg.HOSTPORT.IRQ_SEV ≤ sev) then d2.msix 0 else d2
  let d4 := match dom with
    | some m =>
      let a := if 1 ≤ sev then d3.frameMark m o.frames else d3
      let b := if 2 ≤ sev then a.setBound m 8 else a
      b.quietRestart m (sev == 3)
    | none => d3
  d4.count Pg.fault 0xF 0

/-- Occurrences in ascending order of time, then page (R338). -/
def occInsert (o : Occ) : List Occ → List Occ
  | [] => [o]
  | p :: r => if o.time < p.time ∨ (o.time = p.time ∧ o.page < p.page) then o :: p :: r else p :: occInsert o r

/-! ### Privileged sources (R317, R318) -/

def Dev.privReact (d : Dev) (i : Nat) : Nat := d.rd Pg.fault Reg.FAULT.PRIV_REACT i

/-- The reactions of privileged source `i`. -/
def Dev.privReactions (d : Dev) (i react : Nat) : Dev :=
  let d1 := if bitAt react 0 then d.msix 0 else d
  let d2 := if bitAt react 1 then d1.emit .nmi else d1
  let d3 : Dev := if bitAt react 2 ∧ i = 3 then
      (({ d2 with flt := { d2.flt with dealerDown := true, downAt := d2.cycle } } : Dev).wr Pg.dealer Reg.HDR.READY 0) else d2
  let d4 : Dev := if bitAt react 3 then { d3 with flt := { d3.flt with resetDue := (match d3.flt.resetDue with
      | none => some (i, d3.cycle)
      | some x => if i < 2 then some (i, d3.cycle) else some x) } } else d3
  if bitAt react 4 then d4.wr Pg.fault Reg.FAULT.ALIVE_RUN 0 else d4

/-- Privileged source `i` is noted, detected by the page at `base`: its bit, the first fault, its record and its event. -/
def Dev.privNoted (d : Dev) (i base : Nat) (injected : Bool := false) : Dev :=
  let react := d.privReact i
  let d1 := d.hit Pg.fault Reg.FAULT.PRIV_STAT (2 ^ i)
  let d2 := d1.firstCapture (base / 4096) i true none 0 d.fs
  match d2.recordQ 3 0 injected ([i + react * 8] ++ timeWords d.fs) none true with
  | (true, d3) => d3.causeEvent 4 0 i 0 none
  | (false, d3) => d3

/-- Privileged source `i` occurs. -/
def Dev.privOccurs (d : Dev) (i base : Nat) (injected : Bool := false) : Dev := (d.privNoted i base injected).privReactions i (d.privReact i)

/-- CAUSE_RESOLVE: every occurrence that waits is resolved (R309, R312): records and marks in order of detection, then stops, then
fences of ascending cores. An image error stops its domain and occurs as privileged source 5 (R318). -/
def Dev.causeResolve (d : Dev) : Dev :=
  let occs := d.flt.occs.foldl (fun l o => occInsert o l) []
  let imgs := d.flt.imgUe
  let d0 : Dev := { d with flt := { d.flt with occs := [], imgUe := [] } }
  let targets := occs.map (fun o => (o, (d0.targetOf o.attr (d0.sevOf (o.page * 4096) o.bit)).2))
  let d1 := occs.foldl (fun (d : Dev) o => d.resolveRecord o) d0
  let d2 := imgs.foldl (fun (d : Dev) e => 
    let a := d.privOccurs 5 (e.2 * 4096)
    match e.1 with
    | some m => a.stopDomain m e.2 0 false
    | none => a) d1
  let d3 := targets.foldl (fun (d : Dev) t => match t.2 with
    | .stop m => d.stopDomain m t.1.page t.1.bit false
    | _ => d) d2
  (List.range 32).foldl (fun (d : Dev) c =>
    match targets.find? (fun t => t.2 == .fence c) with
    | some t =>
      -- TT_ERROR lies in the switch node itself: the whole node is isolated (R24, R95)
      let node := targets.any (fun t => t.2 == .fence c && t.1.page == Pg.xnode c / 4096 && t.1.bit == 3)
      d.fenceCore c t.1.page t.1.bit (t.1.page == Pg.corectl c / 4096 && t.1.bit == 2) false node
    | none => d) d3

/-! ### Software accesses -/

/-- FENCE_NOW (R326). -/
def Dev.fenceNow (d : Dev) (c : Nat) : Dev := (d.wr Pg.fault Reg.FAULT.FENCE_CORE 0).raise (Pg.corectl c) 2 (.core c)

/-- FIRST_CLEAR (R321); in the fc cycle of the capture it clears nothing (R9). -/
def Dev.firstClear (d : Dev) : Dev :=
  if bitAt (d.events (Pg.fault + 0x40)) 31 then d
  else ((d.wr Pg.fault Reg.FAULT.OVF 0).wr Pg.fault Reg.FAULT.OVF_CNT 0).setWord (Pg.fault + 0x40) 0

/-- A write of ones to FLT_STAT of a page (R313, R320); a cause that occurred in this fc cycle stays set (R9). -/
def Dev.fltStatClear (d : Dev) (pg bits : Nat) : Dev :=
  let base := pg * 4096
  let st := d.rd base Reg.HDR.FLT_STAT
  let clr := bits % 65536 &&& (0xFFFF - d.events (base + Reg.HDR.FLT_STAT.off) % 65536)
  let d1 := (d.wr base Reg.HDR.FLT_STAT (st &&& (0xFFFF - clr))).rearmCapture base
  { d1 with flt := { d1.flt with rearm := d1.flt.rearm.filter (fun e => !(e.1 == pg && bitAt clr e.2.1)) } }

/-- FLT_STAT_CLEAR: by the host, or by the Dealer's fault handling; a write to a page of a fenced core is dropped and counted (R25). -/
def Dev.fltStatWrite (d : Dev) (pg bits : Nat) : Dev :=
  let (ok, d1) := d.coreWrite pg
  if ok then d1.fltStatClear pg bits else d1

/-- REARM_EXPIRY: REARM_MS after its record was committed, the Dealer's fault handling clears the bit (R313). -/
def Dev.rearmExpiry (d : Dev) (pg bit : Nat) : Dev :=
  match d.flt.rearm.find? (fun e => e.1 == pg && e.2.1 == bit) with
  | some e =>
    if e.2.2 + usCycles (1000 * d.rd Pg.fault Reg.FAULT.REARM_MS) ≤ d.cycle ∧ d.flt.dealerDown = false then d.fltStatWrite pg (2 ^ bit) else d
  | none => d

/-- STALEMATE (R327). -/
def Dev.stalemate (d : Dev) (m : Nat) : Dev :=
  let g := d.rd (Pg.fdom m) Reg.FDOM.GRIDLOCK_TIME
  if Tab.get d.hold.stale m 0 < g ∨ d.running m = false then d
  else
    let q := ((d.fullQueues.filter (fun e => e.1 == m)).map (·.2)).foldl min 65535
    let d1 := (d.wr (Pg.fdom m) Reg.FDOM.STALE_Q q).hit (Pg.fdom m) Reg.FDOM.STALE_VALID
    ({ d1 with hold := { d1.hold with stale := Tab.set d1.hold.stale m 0 0 } } : Dev).raise Pg.fault 0 (.dom m)

/-- QUIET_MS_WRITE (R325, Table 10.8). -/
def Dev.quietMsWrite (d : Dev) (m v : Nat) : Dev :=
  let ms := max 1 (min 60000 (bitsOf v 0 16))
  ((d.wr (Pg.fdom m) Reg.FDOM.QUIET_MS ms).wr (Pg.fdom m) Reg.FDOM.AUTO_RESTART (bitsOf v 16 1)).wr (Pg.fdom m) Reg.FDOM.QUIET_CUR ms

/-- QUIET_CUR_RESET: 60 s accumulated without a stop (R325). -/
def Dev.quietCurReset (d : Dev) (m : Nat) : Dev :=
  if usCycles 60000000 ≤ Tab.get d.flt.upCycles m 0 then d.wr (Pg.fdom m) Reg.FDOM.QUIET_CUR (d.rd (Pg.fdom m) Reg.FDOM.QUIET_MS) else d

/-- PRIV_LOCK. -/
def Dev.privLock (d : Dev) : Dev := d.wr Pg.fault Reg.FAULT.PRIV_LOCK 1

/-- Test mode is active (R329). -/
def Dev.testMode (d : Dev) : Bool := d.flag Pg.fault Reg.FAULT.TM

/-- INJ_GO: the cause named by INJ_PAGE and INJ_BIT is raised; it is attributed to the core of a core page, else to none (DEDUCED, log 37). -/
def Dev.injGo (d : Dev) : Dev :=
  if !d.testMode then d
  else
    let pg := d.rd Pg.fault Reg.FAULT.INJ_PAGE
    let attr : Attr := if 0x100 ≤ pg ∧ pg < 0x500 then .core ((pg - 0x100) / 32) else .none_
    d.raiseFull (pg * 4096) (d.rd Pg.fault Reg.FAULT.INJ_BIT) attr true

/-- ARM: the next write of ECC_KIND at INJ_PAGE is corrupted (R329). -/
def Dev.arm (d : Dev) : Dev :=
  if !d.testMode then d
  else
    let f (F : Fld) : Nat := d.rd Pg.fault F
    let x := f Reg.FAULT.XORVAL
    let pat := Nat.xor (x <<< (4 * f Reg.FAULT.SYM_A)) (if f Reg.FAULT.TWO = 1 then x <<< (4 * f Reg.FAULT.SYM_B) else 0)
    let d1 := d.wr Pg.fault Reg.FAULT.ARM 1
    { d1 with flt := { d1.flt with armed := some (f Reg.FAULT.ECC_KIND, f Reg.FAULT.INJ_PAGE, pat) } }

/-- INJ_PRIV. -/
def Dev.injPriv (d : Dev) (mask : Nat) : Dev :=
  if !d.testMode then d
  else d.each (List.range 8) (fun d i => if bitAt mask i then d.privOccurs i Pg.fault true else d)

/-- LOCKSTEP (R318). -/
def Dev.lockstep (d : Dev) : Dev := d.privOccurs 3 Pg.dealer

/-- The POWER_ON record: reset reason, journal, firmware digest bytes 0 to 15 (Table 11.4). -/
def Dev.powerOnRecord (d : Dev) (reason : Nat) : Dev :=
  let J := Pg.journal
  d.record 1 ([reason + 16 * d.rd J Reg.JOURNAL.JRESET + 32 * d.rd J Reg.JOURNAL.TORN_SEEN, d.rd J Reg.JOURNAL.SEQ] ++
    (List.range 4).map (fun i => d.rd Pg.loader Reg.LOADER.FW_DIGEST i))

/-- DEALER_RELOAD_DONE: the Dealer runs again, with a POWER_ON record of reason 3. -/
def Dev.dealerReloadDone (d : Dev) : Dev :=
  if d.flt.dealerDown then
    let wait (x : FStream) : FStream := { x with suspAt := x.suspAt + (d.cycle - max x.suspAt d.flt.downAt) }
    let d1 := d.each ((List.range 512).filter (fun k => d.stState (k / 64) (k % 64) == 3)) (fun d k =>
      d.stSet (k / 64) (k % 64) (wait (d.stGet (k / 64) (k % 64))))
    (({ d1 with flt := { d1.flt with dealerDown := false } } : Dev).wr Pg.dealer Reg.HDR.READY 1).powerOnRecord 3
  else d

/-- ALIVE_TOGGLE: every 25,000 fs cycles, while ALIVE runs (R319). -/
def Dev.aliveToggle (d : Dev) : Dev :=
  if !d.flag Pg.fault Reg.FAULT.ALIVE_RUN || decide (d.fs < d.flt.aliveNext) then d
  else
    let l := 1 - d.rd Pg.fault Reg.FAULT.ALIVE_LEVEL
    let d1 := (d.wr Pg.fault Reg.FAULT.ALIVE_LEVEL l).emit (.pin "ALIVE" l)
    { d1 with flt := { d1.flt with aliveNext := d.flt.aliveNext + 25000 } }

/-- ALIVE starts to toggle. -/
def Dev.aliveStart (d : Dev) : Dev :=
  let d1 := d.wr Pg.fault Reg.FAULT.ALIVE_RUN 1
  { d1 with flt := { d1.flt with aliveNext := d.fs + 25000 } }

/-- ALIVE_RESTART (R319). -/
def Dev.aliveRestart (d : Dev) : Dev :=
  let st := d.rd Pg.fault Reg.FAULT.PRIV_STAT
  if (List.range 8).any (fun i => bitAt st i && bitAt (d.privReact i) 4) || d.flag Pg.fault Reg.FAULT.ALIVE_RUN || decide (d.plat.step < 3) then d
  else d.aliveStart

end Sys2Proof.Machine
end

