-- ==== Sys2Proof/Machine/Csi.lean ====
section
/-!
DEFINITION. The camera ports (R378 to R384): packets, conversion of pixels to flits, frames and errors.
-/

namespace Sys2Proof.Machine

/-- Bits per sample and planes of a data type (Table 13.1); none: not accepted. -/
def csiFormat (dt : Nat) : Option (Nat × Nat) :=
  match dt with
  | 0x2A => some (8, 1) | 0x2B => some (10, 1) | 0x2C => some (12, 1) | 0x1E => some (8, 3) | 0x24 => some (8, 3) | _ => none

/-- Width of plane `p` of a line of `w` pixels. -/
def csiPlaneW (dt p w : Nat) : Nat := if dt = 0x1E ∧ p ≠ 0 then w / 2 else w

/-- Bytes of a line of `w` pixels. -/
def csiBytes (dt w : Nat) : Nat :=
  match dt with
  | 0x2B => (w + 3) / 4 * 5 | 0x2C => (w + 1) / 2 * 3 | 0x1E => 2 * w | 0x24 => 3 * w | _ => w

/-- Sample `i` of plane `p` of a line; none: the line is too short (Table 13.1). -/
def csiSample (bs : Array Byte) (dt p i : Nat) : Option Nat :=
  let at_ (k : Nat) : Option Nat := (bs[k]?).map (·.toNat)
  match dt with
  | 0x2B => do
    let hi ← at_ (i / 4 * 5 + i % 4)
    let lo ← at_ (i / 4 * 5 + 4)
    return hi * 4 + bitsOf lo (2 * (i % 4)) 2
  | 0x2C => do
    let hi ← at_ (i / 2 * 3 + i % 2)
    let lo ← at_ (i / 2 * 3 + 2)
    return hi * 16 + bitsOf lo (4 * (i % 2)) 4
  | 0x1E => at_ (if p = 0 then 2 * i + 1 else if p = 1 then 4 * i else 4 * i + 2)
  | 0x24 => at_ (3 * i + (2 - p))
  | _ => at_ i

/-- A sample of `b` bits as a value of a flit: a byte, or the halfword of an A12 value (R380). -/
def csiValue (b x : Nat) (depth osgn : Bool) : Nat :=
  if depth then ((x * 2 ^ (12 - b) : Nat) + 0x10000 - 2048) % 0x10000
  else
    let s := x / 2 ^ (b - 8)
    if osgn then (s + 128) % 256 else s % 256

/-- Positions per flit. -/
def csiPerFlit (depth : Bool) : Nat := if depth then 16 else 32

/-- A VC context as its words hold it. -/
structure CsiCtx where
  dt : Nat
  depth : Bool
  osgn : Bool
  qbase : Nat
  w : Nat
  lines : Nat
  deriving DecidableEq, Repr

/-- Whether a context of these fields may be enabled (R385). -/
def csiCtxOk (dt w qbase : Nat) (depth : Bool) : Bool :=
  match csiFormat dt with
  | none => false
  | some (b, planes) => !(dt == 0x1E && w % 2 == 1) && !(depth && b == 8) && decide (qbase + planes ≤ 64)

/-- The context of virtual channel `v` of port `n`, when port and context are enabled. -/
def Dev.csiCtx (d : Dev) (n v : Nat) : Option CsiCtx :=
  let P := Pg.csi n
  let c : CsiCtx := { dt := d.rd P Reg.INGRESS.DT v, depth := d.flag P Reg.INGRESS.DEPTH v, osgn := d.flag P Reg.INGRESS.OSGN v
                      qbase := d.rd P Reg.INGRESS.QBASE v, w := d.rd P Reg.INGRESS.WIDTH_M1 v + 1, lines := d.rd P Reg.INGRESS.LINES_M1 v + 1 }
  if d.flag P Reg.INGRESS.EN && d.rd P Reg.INGRESS.LANES != 3 && d.flag P Reg.INGRESS.VC_EN v && csiCtxOk c.dt c.w c.qbase c.depth then some c else none

/-- Boundary queue of plane `p`. -/
def CsiCtx.queue (c : CsiCtx) (n p : Nat) : Nat := 1536 + 64 * n + c.qbase + p

def CsiCtx.planes (c : CsiCtx) : Nat := match csiFormat c.dt with | some (_, k) => k | none => 0

/-- Flits per channel-row of a plane. -/
def CsiCtx.fpr (c : CsiCtx) (p : Nat) : Nat := (csiPlaneW c.dt p c.w + csiPerFlit c.depth - 1) / csiPerFlit c.depth

def Dev.csiGet (d : Dev) (n v : Nat) : CsiVc := Tab.get d.links.csi (16 * n + v) CsiVc.zero
def Dev.csiSet (d : Dev) (n v : Nat) (s : CsiVc) : Dev :=
  { d with links := { d.links with csi := Tab.set d.links.csi (16 * n + v) s CsiVc.zero } }

/-- Domain of a virtual channel: that of its queues; for a channel that is not enabled, none. -/
def Dev.csiAttr (d : Dev) (n v : Nat) : Attr :=
  match d.csiCtx n v with
  | some c => .dom (d.bqDom (c.queue n 0))
  | none => .none_

/-- Domain of a port whose channel is unknown: every channel of a port feeds one domain (R385). -/
def Dev.csiPortAttr (d : Dev) (n : Nat) : Attr :=
  match (List.range 16).find? (fun v => (d.csiCtx n v).isSome) with
  | some v => d.csiAttr n v
  | none => .none_

/-- Write one flit of a plane, unless the frame is discarded (R291); an entry lost to FULL counts in STALL_OUT (R399). -/
def Dev.csiWrite (d : Dev) (n b : Nat) (x : Item) : Dev :=
  let s := d.bqGet b
  if s.dropping then d
  else
    let d1 := if d.bqEn b && !s.resetting && d.bqFree b == 0 then d.bump (Pg.csi n) Reg.HDR.STALL_OUT else d
    (d1.bqOffer b x x.fsb).count (Pg.csi n) 0xF 1

/-- Flit `j` of plane `p`: its samples, or zero data with POISON when one of them is missing. -/
def csiFlit (c : CsiCtx) (bs : Array Byte) (p j : Nat) : Item :=
  let n := csiPerFlit c.depth
  let b := match csiFormat c.dt with | some (b, _) => b | none => 8
  let wp := csiPlaneW c.dt p c.w
  let xs := (List.range n).map (fun i => if n * j + i < wp then csiSample bs c.dt p (n * j + i) else none)
  let missing := ((List.range n).zip xs).any (fun e => decide (n * j + e.1 < wp) && e.2.isNone)
  if missing then Item.poisoned
  else Item.ofNat (leNat ((xs.map (fun x => match x with | some v => csiValue b v c.depth c.osgn | none => 0)).flatMap
    (fun v => leBytes (if c.depth then 2 else 1) v)))

/-- Write line `y` of every plane; `bad`: zero data with POISON. -/
def Dev.csiLine (d : Dev) (n : Nat) (c : CsiCtx) (y : Nat) (bs : Array Byte) (bad : Bool) : Dev :=
  d.each (List.range c.planes) (fun d p =>
    d.each (List.range (c.fpr p)) (fun d j =>
      let x := if bad then Item.poisoned else csiFlit c bs p j
      d.csiWrite n (c.queue n p) { x with fsb := decide (y = 0 ∧ j = 0) }))

/-- The open frame of a channel is dropped (R383). -/
def Dev.csiDrop (d : Dev) (n v : Nat) : Dev :=
  let s := d.csiGet n v
  if !s.open_ || s.dropped then d
  else ((d.csiSet n v { s with dropped := true }).bump (Pg.csi n) Reg.INGRESS.FRAMES_BAD 1 v).count (Pg.csi n) 0xF 3

/-- Every open frame of the port is dropped. -/
def Dev.csiDropAll (d : Dev) (n : Nat) : Dev := d.each (List.range 16) (fun d v => d.csiDrop n v)

/-- CSI_PROTO on a channel, whose open frame is dropped. -/
def Dev.csiProto (d : Dev) (n v : Nat) : Dev := (d.raise (Pg.csi n) 3 (d.csiAttr n v)).csiDrop n v

/-- Close the open frame (R382): the missing lines are zero data with POISON. `early`: an FS found it open. -/
def Dev.csiClose (d : Dev) (n v : Nat) (c : CsiCtx) (early : Bool) : Dev :=
  let s := d.csiGet n v
  if !s.open_ then d
  else
    let miss := c.lines - s.line
    let d1 := d.each (List.range miss) (fun d i => d.csiLine n c (s.line + i) #[] true)
    let d2 := if 0 < miss ∨ early = true then (d1.bump (Pg.csi n) Reg.INGRESS.LINES_FIXED miss v).csiProto n v else d1
    let d3 := if (d2.csiGet n v).dropped then d2 else d2.bump (Pg.csi n) Reg.INGRESS.FRAMES_OK 1 v
    (d3.csiSet n v { d3.csiGet n v with open_ := false, dropped := false, line := 0 }).count (Pg.csi n) 0xF 2

/-- A burst arrives on a port: a lane in use whose skew exceeds SKEW_MAX raises CSI_TIMING (R384). -/
def Dev.csiBurst (d : Dev) (n v : Nat) : Dev :=
  let P := Pg.csi n
  let tooFar (l : Nat) : Bool :=
    let s := d.rd P Reg.INGRESS.SKEW l
    d.flag P Reg.INGRESS.SKEW_VALID l && decide (d.rd P Reg.INGRESS.SKEW_MAX < (if 2048 ≤ s then 4096 - s else s))
  if d.flag P Reg.INGRESS.EN && d.rd P Reg.INGRESS.LANES != 3 && (List.range (2 ^ d.rd P Reg.INGRESS.LANES)).any tooFar then
    (d.raise P 4 (d.csiAttr n v)).csiDrop n v
  else d

/-- CSI_FS (R379, R382, R291). -/
def Dev.csiFs (d : Dev) (n v fnum : Nat) : Dev :=
  let P := Pg.csi n
  match d.csiCtx n v with
  | none => d
  | some c =>
    let d1 := (d.csiBurst n v).csiClose n v c true
    let s := d1.csiGet n v
    let prev := d1.rd P Reg.INGRESS.LAST_FNUM v
    let d2 := if d1.flag P Reg.INGRESS.FNUM_CHK v && s.seen && fnum != (prev + 1) % 65536 && fnum != 1 then d1.bump P Reg.INGRESS.FNUM_ERR 1 v else d1
    let d3 := (d2.wr P Reg.INGRESS.LAST_FNUM fnum v).csiSet n v { s with seen := true }
    let qs := (List.range c.planes).map (fun p => c.queue n p)
    if qs.any (fun b => (d3.bqGet b).stopped) then
      let d4 := d3.each qs (fun d b => d.bqSet b { d.bqGet b with dropping := true })
      (d4.bump (Pg.ldom (d4.bqDom (c.queue n 0))) Reg.LDOM.SKIPPED).count P 0xF 4
    else
      let d4 := d3.each qs (fun d b => d.bqSet b { d.bqGet b with dropping := false })
      d4.csiSet n v { d4.csiGet n v with open_ := true, dropped := false, line := 0 }

/-- CSI_FE. -/
def Dev.csiFe (d : Dev) (n v : Nat) : Dev :=
  match d.csiCtx n v with
  | none => d
  | some c => (d.csiBurst n v).csiClose n v c false

/-- An accepted long packet: one line of the open frame (R379, R382). A payload error is known at the packet's end, after its flits. -/
def Dev.csiAccept (d : Dev) (n v : Nat) (c : CsiCtx) (bs : List Byte) (crcOk : Bool) : Dev :=
  let P := Pg.csi n
  let crc (d : Dev) : Dev := if crcOk then d else (d.bump P Reg.INGRESS.CRC_ERR).csiProto n v
  let s := d.csiGet n v
  let d0 := d.count P 0xF 0
  if !s.open_ then crc d0
  else if c.lines ≤ s.line then crc (d0.bump P Reg.INGRESS.LINES_FIXED 1 v)
  else
    let d1 := (d0.csiLine n c s.line bs.toArray s.dropped).csiSet n v { s with line := s.line + 1 }
    let d2 := if bs.length = csiBytes c.dt c.w then d1 else (d1.bump P Reg.INGRESS.LINES_FIXED 1 v).csiProto n v
    crc d2

/-- CSI_LONG_PACKET (R379). -/
def Dev.csiLong (d : Dev) (n : Nat) (hdr : CsiHdr) (v dt : Nat) (bs : List Byte) (crcOk : Bool) : Dev :=
  let P := Pg.csi n
  if !d.flag P Reg.INGRESS.EN || d.rd P Reg.INGRESS.LANES == 3 then d
  else
    let d0 := d.csiBurst n v
    match hdr with
    | .bad true => (d0.bump P Reg.INGRESS.HDR_UE).csiProto n v
    | .bad false => ((d0.bump P Reg.INGRESS.HDR_UE).raise P 3 (d0.csiPortAttr n)).csiDropAll n
    | _ =>
      let d1 := if hdr = .corrected then d0.bump P Reg.INGRESS.ECC_CORR else d0
      if 0x10 ≤ dt ∧ dt ≤ 0x12 then d1
      else if dt ≠ d1.rd P Reg.INGRESS.DT v then
        let d2 := d1.bump P Reg.INGRESS.DT_IGN
        if crcOk then d2 else (d2.bump P Reg.INGRESS.CRC_ERR).raise P 3 (d2.csiAttr n v)
      else match d1.csiCtx n v with
        | none => d1
        | some c => d1.csiAccept n v c bs crcOk

/-- CSI_TIMING (R383): on the clock lane the open frame of every channel is dropped. -/
def Dev.csiTiming (d : Dev) (n : Nat) (why : CsiTimingKind) (lane v : Nat) : Dev :=
  let P := Pg.csi n
  if !d.flag P Reg.INGRESS.EN || d.rd P Reg.INGRESS.LANES == 3 then d
  else
    let d1 := d.bump P Reg.INGRESS.TIM_ERR
    if lane = 4 ∨ why = .clockLoss then (d1.raise P 4 (d1.csiPortAttr n)).csiDropAll n else (d1.raise P 4 (d1.csiAttr n v)).csiDrop n v

/-- CSI_DESKEW (R384). -/
def Dev.csiDeskew (d : Dev) (n : Nat) (skew : List Nat) : Dev :=
  let P := Pg.csi n
  if !d.flag P Reg.INGRESS.EN || d.rd P Reg.INGRESS.LANES == 3 then d
  else
    (d.wr P Reg.INGRESS.DESKEWED 1).each (List.range (2 ^ d.rd P Reg.INGRESS.LANES)) (fun d l =>
      (d.wr P Reg.INGRESS.SKEW (skew.getD l 0) l).wr P Reg.INGRESS.SKEW_VALID 1 l)

end Sys2Proof.Machine
end

