-- ==== Sys2Proof/Machine/RowsCsi.lean ====
section
/-!
DEFINITION. The commands of the camera ports: what each does (exec).
-/

namespace Sys2Proof.Machine

/-- CSI_LONG_PACKET (R381). -/
def execCsiLongPacket (n : Fin 4) (hdr : CsiHdr) (vc : Fin 16) (dt : BitVec 6) (payload : List Byte) (crcOk : Bool) (s : State) : Host.Outcome State Fault Refusal :=
  .next { s with dev := s.dev.csiLong n hdr vc dt.toNat payload crcOk }

/-- CSI_FS (R382). -/
def execCsiFs (n : Fin 4) (vc : Fin 16) (fnum : BitVec 16) (s : State) : Host.Outcome State Fault Refusal :=
  .next { s with dev := s.dev.csiFs n vc fnum.toNat }

/-- CSI_FE (R382). -/
def execCsiFe (n : Fin 4) (vc : Fin 16) (s : State) : Host.Outcome State Fault Refusal :=
  .next { s with dev := s.dev.csiFe n vc }

/-- CSI_TIMING (R383). -/
def execCsiTiming (n : Fin 4) (why : CsiTimingKind) (lane : Fin 5) (vc : Fin 16) (s : State) : Host.Outcome State Fault Refusal :=
  .next { s with dev := s.dev.csiTiming n why lane vc }

/-- CSI_DESKEW (R384). -/
def execCsiDeskew (n : Fin 4) (skew : List (BitVec 12)) (s : State) : Host.Outcome State Fault Refusal :=
  .next { s with dev := s.dev.csiDeskew n (skew.map (·.toNat)) }

end Sys2Proof.Machine
end

