-- ==== Sys2Proof/Machine/RowsFabric.lean ====
section
/-!
DEFINITION. The commands of the fabric, the queues, hold and packet forwarding: what each does to the device (exec).
-/

namespace Sys2Proof.Machine

/-- SWAP (R82, R25). -/
def execSwap (c : Fin 32) (mask : BitVec 4) (s : State) : Host.Outcome State Fault Refusal :=
  .next { s with dev := s.dev.swapWrite c mask.toNat }

/-- TRICK (R80). -/
def execTrick (c : Fin 32) (p : Fin 59) (s : State) : Host.Outcome State Fault Refusal :=
  .next { s with dev := s.dev.trick c p }

/-- ITEM_LAND (R101). -/
def execItemLand (c : Fin 32) (p : Fin 59) (s : State) : Host.Outcome State Fault Refusal :=
  .next { s with dev := s.dev.itemLand c p }

/-- BODY_WRITE (R102). -/
def execBodyWrite (c : Fin 32) (p : Fin 59) (s : State) : Host.Outcome State Fault Refusal :=
  .next { s with dev := s.dev.bodyWrite c p }

/-- CREDIT_WORD (R104). -/
def execCreditWord (c : Fin 32) (s : State) : Host.Outcome State Fault Refusal :=
  .next { s with dev := s.dev.creditWordIn c }

/-- HOLD_REQUEST (R50). -/
def execHoldRequest (d : Fin 4) (src : HoldSrc) (s : State) : Host.Outcome State Fault Refusal :=
  .next { s with dev := s.dev.holdRequest d src }

/-- HOLD_ASSERT (R51). -/
def execHoldAssert (d : Fin 4) (s : State) : Host.Outcome State Fault Refusal :=
  .next { s with dev := s.dev.holdAssert d }

/-- HOLD_RELEASE (R51). -/
def execHoldRelease (d : Fin 4) (s : State) : Host.Outcome State Fault Refusal :=
  .next { s with dev := s.dev.holdRelease d }

/-- HOLD_LONG (R55). -/
def execHoldLong (d : Fin 4) (s : State) : Host.Outcome State Fault Refusal :=
  .next { s with dev := s.dev.holdLong d }

/-- PACKET_FORWARD (R88). -/
def execPacketForward (c : Fin 32) (i : Fin 5) (k : PktCls) (lane : Fin 2) (s : State) : Host.Outcome State Fault Refusal :=
  .next { s with dev := s.dev.packetForward c i (match k with | .b => 0 | .c => 1) lane }

/-- ISO_MAP_UPDATE (R90). -/
def execIsoMapUpdate (n : Fin 64) (s : State) : Host.Outcome State Fault Refusal :=
  .next { s with dev := s.dev.isoMapUpdate n }

/-- INPUT_FRAME_STOP (R291). -/
def execInputFrameStop (b : Fin 4096) (s : State) : Host.Outcome State Fault Refusal :=
  .next { s with dev := s.dev.inputFrameStop b }

/-- INPUT_FRAME_RESUME (R291). -/
def execInputFrameResume (b : Fin 4096) (s : State) : Host.Outcome State Fault Refusal :=
  .next { s with dev := s.dev.inputFrameResume b }

/-- QUEUE_RESET_DONE (R112). -/
def execQueueResetDone (b : Fin 4096) (s : State) : Host.Outcome State Fault Refusal :=
  .next { s with dev := s.dev.queueResetDone b }

/-- SIGNAL_WORD (R374). -/
def execSignalWord (r : Fin 4) (s : State) : Host.Outcome State Fault Refusal :=
  .next { s with dev := s.dev.signalWord r }

/-- BT_SCRUB (R216). -/
def execBtScrub (c : Fin 32) (b : Fin 4) (s : State) : Host.Outcome State Fault Refusal :=
  .next { s with dev := s.dev.btScrub c b }

/-- BT_SCRUB_WRITEBACK (R216). -/
def execBtScrubWriteback (c : Fin 32) (b : Fin 4) (s : State) : Host.Outcome State Fault Refusal :=
  .next { s with dev := s.dev.btScrubWriteback c b }

/-- BT_INIT_DONE (R215). -/
def execBtInitDone (c : Fin 32) (b : Fin 4) (s : State) : Host.Outcome State Fault Refusal :=
  .next { s with dev := s.dev.btInitDone c b }

end Sys2Proof.Machine
end

