-- ==== Sys2Proof/Machine/RowsFaults.lean ====
section
/-!
DEFINITION. The commands of faults, fences and fault injection: what each does (exec).
-/

namespace Sys2Proof.Machine

/-- CAUSE_RESOLVE (R309). -/
def execCauseResolve (s : State) : Host.Outcome State Fault Refusal :=
  .next { s with dev := s.dev.causeResolve }

/-- FENCE_NOW (R326). -/
def execFenceNow (c : Fin 32) (s : State) : Host.Outcome State Fault Refusal :=
  .next { s with dev := s.dev.fenceNow c }

/-- FIRST_CLEAR (R321). -/
def execFirstClear (s : State) : Host.Outcome State Fault Refusal :=
  .next { s with dev := s.dev.firstClear }

/-- FLT_STAT_CLEAR (R313). -/
def execFltStatClear (pg : Fin 16384) (bits : BitVec 16) (s : State) : Host.Outcome State Fault Refusal :=
  .next { s with dev := s.dev.fltStatWrite pg bits.toNat }

/-- REARM_EXPIRY (R313). -/
def execRearmExpiry (pg : Fin 16384) (bit : Fin 16) (s : State) : Host.Outcome State Fault Refusal :=
  .next { s with dev := s.dev.rearmExpiry pg bit }

/-- STALEMATE (R327). -/
def execStalemate (d : Fin 4) (s : State) : Host.Outcome State Fault Refusal :=
  .next { s with dev := s.dev.stalemate d }

/-- QUIET_MS_WRITE (R325). -/
def execQuietMsWrite (d : Fin 4) (v : Word) (s : State) : Host.Outcome State Fault Refusal :=
  .next { s with dev := s.dev.quietMsWrite d v.toNat }

/-- QUIET_CUR_RESET (R325). -/
def execQuietCurReset (d : Fin 4) (s : State) : Host.Outcome State Fault Refusal :=
  .next { s with dev := s.dev.quietCurReset d }

/-- LOCKSTEP (R318). -/
def execLockstep (s : State) : Host.Outcome State Fault Refusal :=
  .next { s with dev := s.dev.lockstep }

/-- DEALER_RELOAD_DONE (R318). -/
def execDealerReloadDone (s : State) : Host.Outcome State Fault Refusal :=
  .next { s with dev := s.dev.dealerReloadDone }

/-- ALIVE_TOGGLE (R319). -/
def execAliveToggle (s : State) : Host.Outcome State Fault Refusal :=
  .next { s with dev := s.dev.aliveToggle }

/-- ALIVE_RESTART (R319). -/
def execAliveRestart (s : State) : Host.Outcome State Fault Refusal :=
  .next { s with dev := s.dev.aliveRestart }

/-- PRIV_LOCK (R317). -/
def execPrivLock (s : State) : Host.Outcome State Fault Refusal :=
  .next { s with dev := s.dev.privLock }

/-- INJ_GO (R329). -/
def execInjGo (s : State) : Host.Outcome State Fault Refusal :=
  .next { s with dev := s.dev.injGo }

/-- ARM (R329). -/
def execArm (s : State) : Host.Outcome State Fault Refusal :=
  .next { s with dev := s.dev.arm }

/-- INJ_PRIV (R329). -/
def execInjPriv (mask : BitVec 8) (s : State) : Host.Outcome State Fault Refusal :=
  .next { s with dev := s.dev.injPriv mask.toNat }

end Sys2Proof.Machine
end

