-- ==== Sys2Proof/Machine/Crypto.lean ====
section
/-!
DEFINITION. The algorithms that the manual names and that their own standards define (PRESUMED, log 7): SHA-256 (FIPS 180-4), ECDSA on the curve
P-256 (FIPS 186-4) with the deterministic nonces of RFC 6979, CRC-32 (R334) and CRC-16 (R387).
-/

namespace Sys2Proof.Machine

/-! ### SHA-256 -/

/-- The 32-bit words of a number of `n` words, most significant first. -/
def shaWords (n x : Nat) : List (BitVec 32) := (List.range n).map (fun i => BitVec.ofNat 32 (x >>> (32 * (n - 1 - i))))

/-- The round constants, eight words to a number. -/
def shaConsts : List (BitVec 32) :=
  shaWords 8 0x428a2f9871374491b5c0fbcfe9b5dba53956c25b59f111f1923f82a4ab1c5ed5 ++
  shaWords 8 0xd807aa9812835b01243185be550c7dc372be5d7480deb1fe9bdc06a7c19bf174 ++
  shaWords 8 0xe49b69c1efbe47860fc19dc6240ca1cc2de92c6f4a7484aa5cb0a9dc76f988da ++
  shaWords 8 0x983e5152a831c66db00327c8bf597fc7c6e00bf3d5a7914706ca635114292967 ++
  shaWords 8 0x27b70a852e1b21384d2c6dfc53380d13650a7354766a0abb81c2c92e92722c85 ++
  shaWords 8 0xa2bfe8a1a81a664bc24b8b70c76c51a3d192e819d6990624f40e3585106aa070 ++
  shaWords 8 0x19a4c1161e376c082748774c34b0bcb5391c0cb34ed8aa4a5b9cca4f682e6ff3 ++
  shaWords 8 0x748f82ee78a5636f84c878148cc7020890befffaa4506cebbef9a3f7c67178f2

/-- The chaining value before the first block. -/
def shaStart : List (BitVec 32) := shaWords 8 0x6a09e667bb67ae853c6ef372a54ff53a510e527f9b05688c1f83d9ab5be0cd19

/-- The sum of two rotations of a word and a third term. -/
def shaMix (x : BitVec 32) (i j : Nat) (third : BitVec 32) : BitVec 32 := x.rotateRight i ^^^ x.rotateRight j ^^^ third

/-- The message schedule, newest word first; `n` words are added. -/
def shaSched (w : List (BitVec 32)) : Nat → List (BitVec 32)
  | 0 => w
  | n + 1 =>
    let back (i : Nat) : BitVec 32 := w.getD (i - 1) 0
    shaSched ((shaMix (back 2) 17 19 (back 2 >>> 10) + back 7 + shaMix (back 15) 7 18 (back 15 >>> 3) + back 16) :: w) n

/-- The working variables a to h. -/
structure ShaRegs where
  a : BitVec 32
  b : BitVec 32
  c : BitVec 32
  d : BitVec 32
  e : BitVec 32
  f : BitVec 32
  g : BitVec 32
  h : BitVec 32
  deriving DecidableEq, Repr

def ShaRegs.ofList (l : List (BitVec 32)) : ShaRegs :=
  let at_ (i : Nat) : BitVec 32 := l.getD i 0
  ⟨at_ 0, at_ 1, at_ 2, at_ 3, at_ 4, at_ 5, at_ 6, at_ 7⟩

def ShaRegs.toList (r : ShaRegs) : List (BitVec 32) := [r.a, r.b, r.c, r.d, r.e, r.f, r.g, r.h]

/-- One round, with the constant and the schedule word added. -/
def ShaRegs.round (r : ShaRegs) (kw : BitVec 32) : ShaRegs :=
  let choose := r.g ^^^ (r.e &&& (r.f ^^^ r.g))
  let major := (r.a &&& r.b) ||| (r.c &&& (r.a ||| r.b))
  let fresh := kw + choose + shaMix r.e 6 11 (r.e.rotateRight 25) + r.h
  { a := fresh + major + shaMix r.a 2 13 (r.a.rotateRight 22), b := r.a, c := r.b, d := r.c, e := fresh + r.d, f := r.e, g := r.f, h := r.g }

/-- Compress one block of 64 bytes. -/
def shaBlock (h : List (BitVec 32)) (blk : List Byte) : List (BitVec 32) :=
  let w := ((chunks 16 4 blk).map (fun c => BitVec.ofNat 32 (beNat c))).reverse
  let ws := (shaSched w 48).reverse
  let v := (List.zipWith (· + ·) shaConsts ws).foldl ShaRegs.round (ShaRegs.ofList h)
  List.zipWith (· + ·) h v.toList

/-- SHA-256: 32 bytes. -/
def sha256 (m : List Byte) : List Byte :=
  let pad := (119 - m.length % 64) % 64
  let full := m ++ [0x80] ++ List.replicate pad 0 ++ beBytes 8 (8 * m.length)
  ((chunks (full.length / 64 + 1) 64 full).foldl shaBlock shaStart).flatMap (fun x => beBytes 4 x.toNat)

/-- The digest as a 256-bit number, first byte most significant. -/
def shaNat (m : List Byte) : Nat := beNat (sha256 m)

/-- HMAC with SHA-256. -/
def hmac (key m : List Byte) : List Byte :=
  let k := key ++ List.replicate (64 - key.length) 0
  sha256 (k.map (fun b => b ^^^ 0x5C) ++ sha256 (k.map (fun b => b ^^^ 0x36) ++ m))

/-! ### P-256 -/

def ecP : Nat := 0xffffffff00000001000000000000000000000000ffffffffffffffffffffffff
def ecN : Nat := 0xffffffff00000000ffffffffffffffffbce6faada7179e84f3b9cac2fc632551
def ecB : Nat := 0x5ac635d8aa3a93e7b3ebbd55769886bc651d06b0cc53b0f63bce3c3e27d2604b
def ecGx : Nat := 0x6b17d1f2e12c4247f8bce6e563a440f277037d812deb33a0f4a13945d898c296
def ecGy : Nat := 0x4fe342e2fe1a7f9b8ee7eb4a7c0f9e162bce33576b315ececbb6406837bf51f5

/-- `a^e mod m`, over the low `n` bits of `e`. -/
def powMod (a e m : Nat) : Nat → Nat
  | 0 => 1 % m
  | n + 1 =>
    let r := powMod (a * a % m) (e / 2) m n
    if e % 2 = 1 then a * r % m else r

/-- Inverse modulo a prime below 2^256. -/
def invMod (a m : Nat) : Nat := powMod (a % m) (m - 2) m 256

/-- Sum of two points; `none` is the point at infinity. -/
def ecAdd (a b : Option (Nat × Nat)) : Option (Nat × Nat) :=
  match a, b with
  | none, q => q
  | p, none => p
  | some (x1, y1), some (x2, y2) =>
    if x1 = x2 ∧ (y1 + y2) % ecP = 0 then none
    else
      let l := if x1 = x2 then (3 * x1 * x1 + ecP - 3) * invMod (2 * y1) ecP % ecP
        else (y2 + ecP - y1) * invMod (x2 + ecP - x1) ecP % ecP
      let x3 := (l * l + 2 * ecP - x1 - x2) % ecP
      some (x3, (l * (x1 + ecP - x3) + ecP - y1) % ecP)

/-- `k` times a point, over the low `n` bits of `k`. -/
def ecMul (p : Option (Nat × Nat)) (k : Nat) : Nat → Option (Nat × Nat)
  | 0 => none
  | n + 1 =>
    let r := ecMul (ecAdd p p) (k / 2) n
    if k % 2 = 1 then ecAdd p r else r

def ecG : Option (Nat × Nat) := some (ecGx, ecGy)

/-- The point lies on the curve, with coordinates in range. -/
def ecOn (x y : Nat) : Bool := decide (x < ecP ∧ y < ecP ∧ (y * y) % ecP = (x * x * x + (ecP - 3) * x + ecB) % ecP)

/-- ECDSA verification of (r, s) over digest `e` with a public key of 64 bytes, X then Y. -/
def ecdsaVerify (pub sig digest : List Byte) : Bool :=
  let x := beNat (pub.take 32)
  let y := beNat ((pub.drop 32).take 32)
  let r := beNat (sig.take 32)
  let s := beNat ((sig.drop 32).take 32)
  let e := beNat digest
  if !ecOn x y || decide (r = 0 ∨ s = 0 ∨ ecN ≤ r ∨ ecN ≤ s) then false
  else
    let w := invMod s ecN
    match ecAdd (ecMul ecG (e * w % ecN) 256) (ecMul (some (x, y)) (r * w % ecN) 256) with
    | none => false
    | some (x1, _) => x1 % ecN == r

/-- A square root modulo the field's prime, which is 3 modulo 4. -/
def ecSqrt (a : Nat) : Nat := powMod (a % ecP) ((ecP + 1) / 4) ecP 256

/-- The public keys under which (r, s) is a signature of a digest: each point whose first coordinate is r modulo the group's order. -/
def ecdsaKeys (sig digest : List Byte) : List (List Byte) :=
  let r := beNat (sig.take 32)
  let s := beNat ((sig.drop 32).take 32)
  let e := beNat digest % ecN
  if r = 0 ∨ s = 0 ∨ ecN ≤ r ∨ ecN ≤ s then []
  else
    let w := invMod r ecN
    [r, r + ecN].flatMap (fun x =>
      let y := ecSqrt (x * x * x + (ecP - 3) * x + ecB)
      if !ecOn x y then []
      else [y, (ecP - y) % ecP].filterMap (fun y =>
        match ecAdd (ecMul (some (x, y)) (s * w % ecN) 256) (ecMul ecG ((ecN - e) * w % ecN) 256) with
        | none => none
        | some (qx, qy) => some (beBytes 32 qx ++ beBytes 32 qy)))

/-- The signature verifies with the public key whose SHA-256 is `hash`: only the hash is in the fuses, and (r, s) fixes the keys that it
verifies with. -/
def ecdsaVerifyHash (hash : Nat) (sig digest : List Byte) : Bool :=
  (ecdsaKeys sig digest).any (fun q => shaNat q == hash && ecdsaVerify q sig digest)

/-- Public key of a private key: 64 bytes, X then Y. -/
def ecPublic (k : Nat) : List Byte :=
  match ecMul ecG k 256 with
  | none => List.replicate 64 0
  | some (x, y) => beBytes 32 x ++ beBytes 32 y

/-- The nonces of RFC 6979 in turn, each with its signature, until one serves; `fuel` bounds them. -/
def ecTry (priv e : Nat) (k v : List Byte) : Nat → List Byte
  | 0 => List.replicate 64 0
  | n + 1 =>
    let v1 := hmac k v
    let t := beNat v1
    let next : List Byte :=
      let k2 := hmac k (v1 ++ [0])
      ecTry priv e k2 (hmac k2 v1) n
    if t = 0 ∨ ecN ≤ t then next
    else match ecMul ecG t 256 with
      | none => next
      | some (x, _) =>
        let r := x % ecN
        let s := invMod t ecN * (e + r * priv) % ecN
        if r = 0 ∨ s = 0 then next else beBytes 32 r ++ beBytes 32 s

/-- ECDSA signature of a digest: r then s. -/
def ecdsaSign (priv : Nat) (digest : List Byte) : List Byte :=
  let e := beNat digest
  let x := beBytes 32 priv ++ beBytes 32 (e % ecN)
  let v0 := List.replicate 32 (1 : Byte)
  let k0 := List.replicate 32 (0 : Byte)
  let k1 := hmac k0 (v0 ++ [0] ++ x)
  let v1 := hmac k1 v0
  let k2 := hmac k1 (v1 ++ [1] ++ x)
  ecTry priv e k2 (hmac k2 v1) 8

/-! ### Cyclic redundancy checks -/

/-- One bit of a reflected CRC-32. -/
def crc32Bit (c : Nat) : Nat → Nat
  | 0 => c
  | n + 1 => crc32Bit (if c % 2 = 1 then Nat.xor (c / 2) 0xEDB88320 else c / 2) n

/-- CRC-32 of R334. -/
def crc32 (bs : List Byte) : Nat :=
  Nat.xor (bs.foldl (fun c b => crc32Bit (Nat.xor c b.toNat) 8) 0xFFFFFFFF) 0xFFFFFFFF

def crc16Bit (c : Nat) : Nat → Nat
  | 0 => c
  | n + 1 => crc16Bit (if c.testBit 15 then Nat.xor (c * 2 % 65536) 0x1021 else c * 2 % 65536) n

/-- CRC-16 of R387: polynomial 0x1021, initial value 0xFFFF, most significant bit first. -/
def crc16 (bs : List Byte) : Nat := bs.foldl (fun c b => crc16Bit (Nat.xor c (b.toNat * 256)) 8) 0xFFFF

end Sys2Proof.Machine
end

