-- ==== Sys2Proof/Machine/Gostan.lean ====
section
/-!
DEFINITION. The Gostan links (R387 to R398): frames, replay, streams and credits, training, and the registers that start tunnel
accesses. Link k is GLk; stream s is boundary queue 1,792 + 256k + s.
-/

namespace Sys2Proof.Machine

def Dev.glGet (d : Dev) (k : Nat) : GlSt := Tab.get d.links.gl k GlSt.zero
def Dev.glSet (d : Dev) (k : Nat) (g : GlSt) : Dev := { d with links := { d.links with gl := Tab.set d.links.gl k g GlSt.zero } }

def glB (k s : Nat) : Nat := 1792 + 256 * k + s

/-- Training state (Table 13.6); 5 is ACTIVE. -/
def Dev.lstate (d : Dev) (k : Nat) : Nat := d.rd (Pg.gl k) Reg.GLINK.LSTATE

/-- Enabled streams of the link in one direction, ascending. -/
def Dev.glStreams (d : Dev) (k : Nat) (outbound : Bool) : List Nat :=
  (d.listedBqs.filter (fun b => decide (glB k 0 ≤ b ∧ b < glB k 256) && d.bqEn b && d.bqOut b == outbound)).map (fun b => b - glB k 0)

/-- Raise a cause against each domain with a stream on the link (Table 10.3). -/
def Dev.glRaiseDoms (d : Dev) (k bit : Nat) : Dev :=
  let ss := d.glStreams k false ++ d.glStreams k true
  let doms := (List.range 4).filter (fun m => ss.any (fun s => d.bqDom (glB k s) == m))
  if doms.isEmpty then d.raise (Pg.gl k) bit .none_ else d.each doms (fun d m => d.raise (Pg.gl k) bit (.dom m))

/-! ### Frames (R387) -/

/-- A frame of 38 bytes: header word, payload and CRC. -/
def glFrame (hdr : Nat) (payload : List Byte) : List Byte :=
  let b := leBytes 4 hdr ++ (payload ++ List.replicate 32 (0 : Byte)).take 32
  b ++ beBytes 2 (crc16 b)

/-- The frame has its 38 bytes and its CRC. -/
def glFrameOk (f : List Byte) : Bool := decide (f.length = 38) && beNat (f.drop 36) == crc16 (f.take 36)

def glHdr (f : List Byte) : Nat := leNat (f.take 4)

/-- Sequence number to acknowledge. -/
def GlSt.ack (g : GlSt) : Nat := (g.rxSeq + 255) % 256

/-- Network of the items of an outbound stream: that of the landing table that names it; items from elsewhere are VNET flits. -/
def Dev.glNet (d : Dev) (k s : Nat) : Nat :=
  ((List.range 3).find? (fun net => (List.range 256).any (fun t =>
    let e := d.edgeEntry (16 + 6 * k + net) t
    bitAt e 12 && e % 256 == s))).getD 0

/-! ### Credits (R390) -/

/-- CRED of an inbound stream: capacity − S, and one for each entry read. -/
def Dev.glCred (d : Dev) (k s : Nat) : Nat := (d.bqCap (glB k s) - bqStages (glB k s) + (d.bqGet (glB k s)).freed) % 65536

/-- Inbound streams with a credit record to send. -/
def Dev.glCredDue (d : Dev) (k : Nat) : List Nat :=
  (d.glStreams k false).filter (fun s => Tab.get (d.glGet k).adv s 0 != d.glCred k s + 1)

/-- The transmitter may send the next item of stream `s`. -/
def GlSt.mayItem (g : GlSt) (s : Nat) : Bool :=
  let x := (Tab.get g.cred s 0 + 65536 - Tab.get g.sent s 0 % 65536) % 65536
  decide (1 ≤ x ∧ x ≤ 32768)

/-- An entry of an inbound stream has left or will never enter: one more credit. -/
def Dev.glFreed (d : Dev) (b : Nat) : Dev := d.bqSet b { d.bqGet b with freed := (d.bqGet b).freed + 1 }

/-! ### Transmission (R388, R389) -/

/-- A CTRL frame of SUB `sub`. It carries the acknowledgement. -/
def Dev.glCtrl (d : Dev) (k sub : Nat) (body : List Byte) : Dev :=
  let g := d.glGet k
  let f := glFrame 2 (leBytes 2 (g.ack + (if g.nakDue then 256 else 0)) ++ leBytes 1 sub ++ [0] ++ body)
  let d1 := d.glSet k { g with nakDue := false, ackCnt := 0, ackSentAt := d.cycle }
  (d1.emit (.frame k f)).count (Pg.gl k) 0xF 2

/-- Bytes of SUB 1 (Table 13.4). -/
def Dev.glCaps (d : Dev) (k : Nat) : List Byte :=
  leBytes 2 0x3240 ++ leBytes 1 (d.rd (Pg.gl k) Reg.HDR.STEPPING) ++ leBytes 1 (d.rd Pg.pins Reg.PINS.POS) ++
    leBytes 1 (d.rd Pg.pins Reg.PINS.GL_ROLE) ++ leBytes 1 (d.rd (Pg.gl k) Reg.GLINK.HPOS) ++ leBytes 1 k ++ [0] ++ leBytes 4 d.ldr.epoch

/-- Send the CTRL frame that is due: capabilities and key first, then up to seven credit records. -/
def Dev.glSendCtrl (d : Dev) (k : Nat) : Dev :=
  let g := d.glGet k
  match g.caps with
  | n :: rest =>
    let d1 := d.glSet k { g with caps := rest }
    let key := beBytes 32 d.ldr.key.toNat
    d1.glCtrl k n (if n = 1 then d.glCaps k else if n = 2 then key.take 16 else key.drop 16)
  | [] =>
    let ss := (d.glCredDue k).take 7
    let recs := ss.flatMap (fun s =>
      leBytes 4 (s + d.glCred k s * 2 ^ 8 + 2 ^ 24 + (if Tab.get g.adv s 0 = 0 then 2 ^ 25 else 0)))
    let adv := ss.foldl (fun t s => Tab.set t s (d.glCred k s + 1) 0) g.adv
    (d.glSet k { g with adv := adv }).glCtrl k 0 recs

/-- A CTRL frame is due. -/
def Dev.glCtrlDue (d : Dev) (k : Nat) : Bool :=
  let g := d.glGet k
  g.nakDue || decide (16 ≤ g.ackCnt) || decide (g.ackSentAt + 40 ≤ d.cycle) || !g.caps.isEmpty || !(d.glCredDue k).isEmpty

/-- Send a sequenced frame and keep it for replay; the time without ACK progress begins with the first frame of the buffer. -/
def Dev.glSequenced (d : Dev) (k hdr : Nat) (payload : List Byte) : Dev :=
  let g := d.glGet k
  let f := glFrame (hdr + g.txSeq * 4) payload
  (d.glSet k { g with
    txSeq := (g.txSeq + 1) % 256, buf := g.buf ++ [(g.txSeq, f)], ackAt := if g.buf.isEmpty then d.cycle else g.ackAt }).emit (.frame k f)

/-- Send the next item of outbound stream `s` (R390, R391). -/
def Dev.glSendItem (d : Dev) (k s : Nat) : Dev :=
  let b := glB k s
  let (x, d1) := d.bqPop b
  let g := d1.glGet k
  let net := d.glNet k s
  let flen := Tab.get d.qs.ctgt b 0 / 256
  let n := Tab.get g.fcnt s 0
  let fsb := decide (0 < flen ∧ n % flen = 0)
  let side := if net = 0 then x.side else x.side % 4
  let d2 := d1.glSet k { g with
    sent := Tab.set g.sent s ((Tab.get g.sent s 0 + 1) % 65536) 0
    fcnt := Tab.set g.fcnt s (if flen = 0 then 0 else (n + 1) % flen) 0
    rr := if d.rd (Pg.bq b) Reg.BQD.CLS = 1 then (s + 1) % 256 else g.rr }
  (d2.glSequenced k (1 + s * 2 ^ 10 + net * 2 ^ 18 + side * 2 ^ 20 + (if fsb then 2 ^ 28 else 0))
    (leBytes 32 (x.narrow net).data.toNat)).count (Pg.gl k) 0xF 0

/-- Send the oldest TUNNEL payload. -/
def Dev.glSendTunnel (d : Dev) (k : Nat) : Dev :=
  let g := d.glGet k
  match g.tun with
  | [] => d
  | p :: rest => ((d.glSet k { g with tun := rest }).glSequenced k 3 p).count (Pg.gl k) 0xF 4

/-- Outbound streams of a class that hold an item and a credit, from the round-robin position on. -/
def Dev.glReady (d : Dev) (k cls : Nat) : List Nat :=
  let g := d.glGet k
  let ss := (d.glStreams k true).filter (fun s =>
    let b := glB k s
    d.rd (Pg.bq b) Reg.BQD.CLS == cls && !d.flag (Pg.bq b) Reg.BQD.WIN && decide (0 < d.bqVisible b) && g.mayItem s)
  ss.filter (fun s => decide (g.rr ≤ s)) ++ ss.filter (fun s => decide (s < g.rr))

/-- An outbound stream holds an item without credit (R400). -/
def Dev.glNoCredit (d : Dev) (k : Nat) : Bool :=
  (d.glStreams k true).any (fun s => decide (0 < d.bqVisible (glB k s)) && !(d.glGet k).mayItem s)

/-- Class B items, and class C items with TUNNEL frames, dealt 3:1 (R29, R388); none to send: IDLE. -/
def Dev.glSendLow (d : Dev) (k : Nat) : Dev :=
  let g := d.glGet k
  let b := d.glReady k 2
  let c := d.glReady k 3
  let turnC := decide (g.deal = 3) && (!c.isEmpty || !g.tun.isEmpty)
  let next (d : Dev) : Dev := d.glSet k { d.glGet k with deal := (g.deal + 1) % 4 }
  if !turnC && !b.isEmpty then (next d).glSendItem k (b.headD 0)
  else if !g.tun.isEmpty then (next d).glSendTunnel k
  else if !c.isEmpty then (next d).glSendItem k (c.headD 0)
  else (d.emit (.frame k (glFrame 0 []))).count (Pg.gl k) 0xF 5

/-- GL_TRANSMIT: the next frame (R388). In EXCH only CTRL frames flow. -/
def Dev.glTransmit (d : Dev) (k : Nat) : Dev :=
  let g := d.glGet k
  let P := Pg.gl k
  if d.lstate k = 4 then (if g.caps.isEmpty then d else d.glSendCtrl k)
  else if d.lstate k ≠ 5 then d
  else
    let full := decide (64 ≤ g.buf.length)
    match g.buf.drop (g.buf.length - g.resend) with
    | (_, f) :: _ => ((d.glSet k { g with resend := g.resend - 1 }).emit (.frame k f)).count P 0xF 3
    | [] =>
      if d.glCtrlDue k then d.glSendCtrl k
      else if full then (d.emit (.frame k (glFrame 0 []))).count P 0xF 5
      else match d.glReady k 1 with
        | s :: _ => d.glSendItem k s
        | [] => d.glSendLow k

/-- GL_REPLAY: after a NAK, or 1 µs without ACK progress, every unacknowledged frame is sent again (R389). -/
def Dev.glReplay (d : Dev) (k : Nat) : Dev :=
  let g := d.glGet k
  if d.lstate k ≠ 5 then d
  else if g.buf.isEmpty then d.glSet k { g with nakRx := false }
  else if !g.nakRx && decide (d.cycle < g.ackAt + 400) then d
  else
    let d1 := d.glSet k { g with resend := g.buf.length, nakRx := false, ackAt := d.cycle, replays := g.replays + 1 }
    (d1.bump (Pg.gl k) Reg.GLINK.REPLAY_CNT).raise (Pg.gl k) 3 .none_

/-! ### Reception (R389) -/

/-- A frame with an error, or ahead of the expected one, is answered with one NAK. -/
def Dev.glNak (d : Dev) (k : Nat) : Dev :=
  let g := d.glGet k
  if g.nakSent then d else d.glSet k { g with nakDue := true, nakSent := true }

/-- The replay in progress at the receiver covers a frame: of a class A stream it counts once for the stream's domain; the second one
within a frame of that domain raises GL_REPLAY2. -/
def Dev.glCovered (d : Dev) (k : Nat) (f : List Byte) : Dev :=
  let h := glHdr f
  let b := glB k (bitsOf h 10 8)
  let g := d.glGet k
  let m := d.bqDom b
  if h % 4 ≠ 1 ∨ d.bqEn b = false ∨ d.bqOut b = true ∨ d.rd (Pg.bq b) Reg.BQD.CLS ≠ 1 ∨ Tab.get g.rep (4 + m) (0, 0) ≠ (0, 0) then d
  else
    let cur := Tab.get d.ldr.inFrames m 0
    let r := Tab.get g.rep m (0, 0)
    let n := if r.1 = cur then r.2 + 1 else 1
    let d1 := d.glSet k { g with rep := Tab.set (Tab.set g.rep m (cur, n) (0, 0)) (4 + m) (1, 0) (0, 0) }
    if n < 2 then d1 else (d1.raise (Pg.gl k) 4 .none_).setBound m 11

/-- The frame belongs to a replay, which begins now if none is in progress. -/
def Dev.glInReplay (d : Dev) (k : Nat) (f : List Byte) : Dev :=
  let g := d.glGet k
  let g1 : GlSt := if g.inReplay then g else { g with inReplay := true, rep := g.rep.filter (fun e => decide (e.1 < 4)) }
  (d.glSet k g1).glCovered k f

/-- A sequenced frame arrives: whether it is accepted. -/
def Dev.glSeqIn (d : Dev) (k : Nat) (f : List Byte) : Bool × Dev :=
  let g := d.glGet k
  if !glFrameOk f then
    (false, ((d.glSet k { g with repEnd := max g.repEnd 1 }).bump (Pg.gl k) Reg.GLINK.CRC_CNT).glNak k)
  else
    let ahead := (bitsOf (glHdr f) 2 8 + 256 - g.rxSeq) % 256
    if ahead = 0 then
      let d1 := if 0 < g.repEnd then d.glInReplay k f else d.glSet k { g with inReplay := false }
      let g1 := d1.glGet k
      (true, d1.glSet k { g1 with rxSeq := (g.rxSeq + 1) % 256, ackCnt := g.ackCnt + 1, nakSent := false, repEnd := g.repEnd - 1 })
    else if 192 ≤ ahead then (false, d.glInReplay k f)
    else (false, (d.glSet k { g with repEnd := max g.repEnd (ahead + 1) }).glNak k)

/-- The item of a DATA frame. -/
def glItem (f : List Byte) : Item :=
  let h := glHdr f
  let net := bitsOf h 18 2
  let side := bitsOf h 20 8
  { (itemOfWindow (leNat ((f.drop 4).take 32)) side net).narrow net with fsb := bitAt h 28 }

/-- The first entry of an inbound queue of class B or C goes on as a KIND 2 packet to DQUEUE of DCORE (R392). -/
def Dev.glForward (d : Dev) (k s : Nat) : Dev :=
  let b := glB k s
  if d.bqVisible b = 0 ∨ d.rd (Pg.bq b) Reg.BQD.CLS = 1 then d
  else
    let (x, d1) := d.bqPop b
    let tgt := Tab.get d1.qs.ctgt b 0
    let (tx, d2) := d1.nextTxid (45 + k)
    (d2.sendPacket (45 + k) (bitsOf tgt 0 5) 2 (bitsOf tgt 5 11) 0 tx (if d1.rd (Pg.bq b) Reg.BQD.CLS = 2 then 0 else 1)
      [{ x with fsb := false }] none).2

/-- Cycles in which an outbound stream of the link held an item without credit, and in which its replay buffer was full (R400). -/
def Dev.glStalls (d : Dev) (k : Nat) : Dev :=
  let d1 := d.bump (Pg.gl k) Reg.HDR.STALL_IN (if d.glNoCredit k then 1 else 0)
  d1.bump (Pg.gl k) Reg.HDR.STALL_OUT (if 64 ≤ (d.glGet k).buf.length then 1 else 0)

/-- The links forward what their inbound queues of class B and C show: one entry of each queue in a cycle (R111, R392). -/
def Dev.tickGl (d : Dev) : Dev :=
  d.each [0, 1] (fun d k => (d.glStalls k).each (d.glStreams k false) (fun d s => d.glForward k s))

/-- GL_DATA_FRAME: the item enters the inbound queue of its stream, whatever its class (R31, R392). -/
def Dev.glDataFrame (d : Dev) (k : Nat) (f : List Byte) : Dev :=
  if d.lstate k ≠ 5 ∨ (glFrameOk f && glHdr f % 4 != 1) = true then d
  else
    let (ok, d1) := d.glSeqIn k f
    if !ok then d1
    else
      let b := glB k (bitsOf (glHdr f) 10 8)
      let x := glItem f
      let d2 := d1.count (Pg.gl k) 0xF 1
      let cls := d2.rd (Pg.bq b) Reg.BQD.CLS
      if !d2.bqEn b || d2.bqOut b then d2
      else if cls ≠ 1 then d2.bqOffer b x false
      else
        let (take, d3) := if x.fsb then d2.writerFrameStart b else (!(d2.bqGet b).dropping, d2)
        if take then d3.bqOffer b x x.fsb else d3.glFreed b

/-- The acknowledgement of a CTRL frame. -/
def Dev.glAckIn (d : Dev) (k a : Nat) : Dev :=
  let g := d.glGet k
  let base := match g.buf with | (s, _) :: _ => s | [] => g.txSeq
  let n := (a % 256 + 257 - base) % 256
  if n = 0 ∨ g.buf.length < n then d
  else
    let buf := g.buf.drop n
    d.glSet k { g with buf := buf, resend := min g.resend buf.length, replays := 0, ackAt := d.cycle }

/-- GL_PARTNER by the capabilities of the partner (R394). -/
def Dev.glPartnerBad (d : Dev) (k : Nat) : Bool :=
  let P := Pg.gl k
  let pos := d.rd P Reg.GLINK.P_POS
  d.rd P Reg.GLINK.P_PART != 0x3240 || pos == d.rd Pg.pins Reg.PINS.POS || (d.flag P Reg.GLINK.EXP_EN && pos != d.rd P Reg.GLINK.EXP_POS)

/-- SUB 1: the capabilities are stored and checked. A device without PCIe learns HPOS from its GL0 partner. -/
def Dev.glCapsIn (d : Dev) (k : Nat) (p : List Byte) : Dev :=
  let P := Pg.gl k
  let u (o n : Nat) : Nat := leNat ((p.drop o).take n)
  let d1 := (((((((d.wr P Reg.GLINK.P_PART (u 4 2)).wr P Reg.GLINK.P_STEP (u 6 1)).wr P Reg.GLINK.P_POS (u 7 1)).wr P Reg.GLINK.P_ROLE (u 8 1)).wr P
    Reg.GLINK.P_HPOS (u 9 1)).wr P Reg.GLINK.P_EPOCH (u 12 4)).wr P Reg.GLINK.P_VALID 1)
  let d2 := if k = 0 ∧ d.flag Pg.pins Reg.PINS.PCIE_PRESENT = false then
      (d1.wr (Pg.gl 0) Reg.GLINK.HPOS (u 9 1)).wr (Pg.gl 1) Reg.GLINK.HPOS (u 9 1) else d1
  if d2.glPartnerBad k then d2.glRaiseDoms k 6 else d2

/-- SUB 2 and 3: the key is stored; a whole key that differs from EXP_KEY under KEY_CHK raises GL_PARTNER. -/
def Dev.glKeyIn (d : Dev) (k half : Nat) (p : List Byte) : Dev :=
  let P := Pg.gl k
  let d1 := (List.range 4).foldl (fun (d : Dev) i => d.wr P Reg.GLINK.P_KEY (leNat ((p.drop (4 + 4 * i)).take 4)) (4 * half + i)) d
  if half = 1 && d1.flag P Reg.GLINK.KEY_CHK && (List.range 8).any (fun i => d1.rd P Reg.GLINK.P_KEY i != d1.rd P Reg.GLINK.EXP_KEY i) then
    d1.glRaiseDoms k 6
  else d1

/-- One credit record (R390). -/
def Dev.glCreditIn (d : Dev) (k r : Nat) : Dev :=
  let g := d.glGet k
  let s := bitsOf r 0 8
  if !bitAt r 24 then d
  else d.glSet k { g with
    cred := Tab.set g.cred s (bitsOf r 8 16) 0, sent := if bitAt r 25 then Tab.set g.sent s 0 0 else g.sent }

/-- GL_CTRL_FRAME (R387, R389). -/
def Dev.glCtrlFrame (d : Dev) (k : Nat) (f : List Byte) : Dev :=
  if d.lstate k < 4 ∨ (glFrameOk f && glHdr f % 4 != 2) = true then d
  else if !glFrameOk f then d.bump (Pg.gl k) Reg.GLINK.CRC_CNT
  else
    let p := f.drop 4
    let d1 := d.glAckIn k (leNat (p.take 1))
    let d2 := if bitAt (leNat ((p.drop 1).take 1)) 0 then d1.glSet k { d1.glGet k with nakRx := true } else d1
    match leNat ((p.drop 2).take 1) with
    | 0 => (List.range 7).foldl (fun (d : Dev) i => d.glCreditIn k (leNat ((p.drop (4 + 4 * i)).take 4))) d2
    | 1 => d2.glCapsIn k p
    | 2 => d2.glKeyIn k 0 p
    | 3 => d2.glKeyIn k 1 p
    | _ => d2

/-! ### Training and failures (R393 to R395) -/

/-- The state after training fails or the link goes down. -/
def Dev.glRestartTraining (d : Dev) (k : Nat) : Dev :=
  let P := Pg.gl k
  (d.glSet k { d.glGet k with resend := 0, nakDue := false, nakSent := false, nakRx := false, replays := 0, caps := [], inReplay := false, repEnd := 0 }).wr P
    Reg.GLINK.LSTATE (if d.flag P Reg.GLINK.EN then 1 else 0)

/-- The link goes down: GL_DOWN, and it retrains. -/
def Dev.glGoDown (d : Dev) (k : Nat) : Dev :=
  ((d.glRaiseDoms k 5).bump (Pg.gl k) Reg.GLINK.RETRAIN_CNT).glRestartTraining k

/-- Leave the present training state; an ACTIVE link goes down. -/
def Dev.glDrop (d : Dev) (k : Nat) : Dev := if d.lstate k = 5 then d.glGoDown k else d.glRestartTraining k

/-- GL_DOWN: four replays without ACK progress, or a lost lane (R386, R389). -/
def Dev.glDown (d : Dev) (k : Nat) (why : DownWhy) : Dev :=
  let P := Pg.gl k
  match why with
  | .replays => if d.lstate k = 5 ∧ 4 ≤ (d.glGet k).replays then (d.wr P Reg.GLINK.FAIL 5).glGoDown k else d
  | .laneLost => if 2 ≤ d.lstate k then (d.wr P Reg.GLINK.FAIL 6).glDrop k else d

/-- The partner was reset: sequences restart, unacknowledged frames are lost, and every inbound queue takes a queue reset (R395). -/
def Dev.glNewPartner (d : Dev) (k : Nat) : Dev :=
  let g := d.glGet k
  let d1 := d.glSet k { g with
    txSeq := 0, rxSeq := 0, buf := [], resend := 0, ackCnt := 0, sent := [], cred := [], adv := [], rep := [] }
  d1.each (d1.glStreams k false) (fun d s => d.queueReset (glB k s))

/-- EQ measured the channel's loss in 0.1 dB (R393). EQ_LEN is in mm, rounded down; with LOSS_PER_MM 0 it is a free value (DESIGN CHOICE, log 2). -/
def Dev.glLoss (d : Dev) (k loss : Nat) : Dev :=
  let P := Pg.gl k
  let per := d.rd P Reg.GLINK.LOSS_PER_MM
  let (len, d1) := if per = 0 then d.free 10 else (min 1023 (100 * loss / per), d)
  (d1.wr P Reg.GLINK.LOSS loss).wr P Reg.GLINK.EQ_LEN len

/-- GL_TRAIN_ADVANCE (Table 13.6). The code that FAIL takes when EQ fails otherwise than by its loss is a free value (DESIGN CHOICE, log 2). -/
def Dev.glTrain (d : Dev) (k : Nat) (e : TrainEvent) : Dev :=
  let P := Pg.gl k
  let st := d.lstate k
  if !d.flag P Reg.GLINK.EN then d
  else match e with
    | .detected => if st < 2 then d.wr P Reg.GLINK.LSTATE 2 else d
    | .locked rev pol =>
      if st = 2 then ((d.wr P Reg.GLINK.REVERSED (if rev then 1 else 0)).wr P Reg.GLINK.POL pol.toNat).wr P Reg.GLINK.LSTATE 3 else d
    | .equalised loss =>
      if st ≠ 3 then d
      else
        let d1 := d.glLoss k loss.toNat
        if 300 < loss.toNat then (d1.wr P Reg.GLINK.FAIL 3).glRestartTraining k
        else (d1.wr P Reg.GLINK.LSTATE 4).glSet k { d1.glGet k with caps := [1, 2, 3] }
    | .exchanged same =>
      if st ≠ 4 then d
      else
        let d1 := if same then d.glSet k { d.glGet k with resend := (d.glGet k).buf.length } else d.glNewPartner k
        let d2 := d1.glSet k { d1.glGet k with ackAt := d.cycle, ackSentAt := d.cycle }
        let lead := d.flag P Reg.GLINK.P_VALID && decide (d.rd Pg.pins Reg.PINS.POS < d.rd P Reg.GLINK.P_POS)
        (d2.wr P Reg.GLINK.LEAD (if lead then 1 else 0)).wr P Reg.GLINK.LSTATE 5
    | .failed =>
      if st = 5 then d
      else if st = 3 then
        let (c, d1) := d.free 3
        (d1.wr P Reg.GLINK.FAIL c).glRestartTraining k
      else (d.wr P Reg.GLINK.FAIL (if st = 4 then 4 else if st = 2 then 2 else 1)).glRestartTraining k

/-- RETRAIN (Table 13.9). -/
def Dev.glRetrain (d : Dev) (k : Nat) : Dev := if d.lstate k = 0 then d else d.glDrop k

/-- GL_KEY_UPDATE: the position key changed, and the partner is told (R394). -/
def Dev.glKeyUpdate (d : Dev) (k : Nat) : Dev := if d.lstate k = 5 then d.glSet k { d.glGet k with caps := [1, 2, 3] } else d

/-! ### Tunnel accesses of the registers (R398) -/

/-- TUN_WR: a BAR write leaves; nothing answers it. -/
def Dev.tunWr (d : Dev) (k : Nat) : Dev :=
  let P := Pg.gl k
  if d.flag P Reg.GLINK.TUN_BUSY then d
  else
    let op := if d.flag P Reg.GLINK.TUN_SPACE then 2 else 0
    let g := d.glGet k
    let p := tunPayload (d.rd P Reg.GLINK.TUN_TPOS) (d.rd Pg.pins Reg.PINS.POS) op g.tunTag 0xF (d.rd P Reg.GLINK.TUN_OFFSET)
      (leBytes 4 (d.rd P Reg.GLINK.TUN_WDATA))
    (d.glSet k { g with tunTag := (g.tunTag + 1) % 32 }).tunSend k [p]

/-- TUN_RD: a BAR0 read leaves and waits. No OP reads BAR2: such an access fails at once. -/
def Dev.tunRd (d : Dev) (k : Nat) : Dev :=
  let P := Pg.gl k
  if d.flag P Reg.GLINK.TUN_BUSY then d
  else if d.flag P Reg.GLINK.TUN_SPACE then (d.hit P Reg.GLINK.TERR).wr P Reg.GLINK.TUN_RDATA 0
  else
    let g := d.glGet k
    let p := tunPayload (d.rd P Reg.GLINK.TUN_TPOS) (d.rd Pg.pins Reg.PINS.POS) 1 g.tunTag 0xF (d.rd P Reg.GLINK.TUN_OFFSET) []
    ((d.glSet k { g with tunTag := (g.tunTag + 1) % 32, tunOut := some (d.cycle, g.tunTag, true) }).wr P Reg.GLINK.TUN_BUSY 1).tunSend k [p]

/-- The outstanding access ends. -/
def Dev.tunEnd (d : Dev) (k v : Nat) (terr : Bool) : Dev :=
  let P := Pg.gl k
  let d1 := (d.glSet k { d.glGet k with tunOut := none }).wr P Reg.GLINK.TUN_BUSY 0
  (d1.wr P Reg.GLINK.TUN_RDATA v).wr P Reg.GLINK.TERR (if terr then 1 else 0)

/-- TUN_TIMEOUT: 1 ms without an answer. -/
def Dev.tunTimeout (d : Dev) (k : Nat) : Dev :=
  match (d.glGet k).tunOut with
  | some (t, _, _) => if t + usCycles 1000 ≤ d.cycle then d.tunEnd k 0 true else d
  | none => d

end Sys2Proof.Machine
end

