-- ==== Sys2Proof/Machine/Score.lean ====
section
/-!
DEFINITION. The scoresheet and the journal in the flash (R333 to R348). An erased byte of the flash reads 0xFF.
-/

namespace Sys2Proof.Machine

/-! ### Flash -/

/-- A word of the flash. -/
def flashWord (m : Memory) (a : Nat) : Nat := leNat (Memory.readList m a 4 0xFF)

/-- Program bytes: a bit goes from 1 to 0 only. -/
def flashProgram (m : Memory) (a : Nat) (bs : List Byte) : Memory :=
  Memory.writeList m a (List.zipWith (· &&& ·) (Memory.readList m a bs.length 0xFF) bs) 0xFF

/-- Erase `n` bytes. -/
def flashErase (m : Memory) (a n : Nat) : Memory := m.filter (fun e => !(decide (a ≤ e.1 ∧ e.1 < a + n)))

/-- The bytes of words. -/
def wordsBytes (ws : List Nat) : List Byte := ws.flatMap (fun w => leBytes 4 w)

/-- A string as bytes. -/
def strBytes (s : String) : List Byte := s.toList.map (fun c => BitVec.ofNat 8 c.toNat)

/-! ### Scoresheet records (R336 to R340) -/

/-- LENGTH of a record. -/
def RecReq.length (r : RecReq) : Nat := 4 * (5 + r.body.length)

/-- Header, body and CRC. -/
def RecReq.bytes (r : RecReq) : List Byte :=
  let b := wordsBytes ([r.length + r.typ * 2 ^ 12 + r.sev * 2 ^ 20 + (if r.inj then 2 ^ 22 else 0), r.pcycle, r.opsec] ++ r.body)
  b ++ leBytes 4 (crc32 b)

def Dev.headBytes (d : Dev) : List Byte := (List.range 8).flatMap (fun i => leBytes 4 (d.rd Pg.score Reg.SCORE.HEAD i))

def Dev.setHeadDigest (d : Dev) (h : List Byte) : Dev :=
  d.each (List.range 8) (fun d i => d.wr Pg.score Reg.SCORE.HEAD (leNat ((h.drop (4 * i)).take 4)) i)

/-- HEAD of an empty scoresheet. -/
def scoreHead0 : List Byte := sha256 (strBytes "THN-3240 SCORE v1")

/-- Write and commit one record at WRPTR, or drop it when it does not fit (R338, R339). -/
def Dev.writeRecord (d : Dev) (fl : Memory) (r : RecReq) : Memory × Dev :=
  let S := Pg.score
  let p := d.rd S Reg.SCORE.WRPTR
  if d.flag S Reg.SCORE.FULL || decide (d.rd S Reg.SCORE.SIZE < p + r.length) then
    let d1 := d.bump S Reg.SCORE.DROP_FULL
    (fl, if d.flag S Reg.SCORE.FULL then d1 else (d1.wr S Reg.SCORE.FULL 1).raise S 0 .none_)
  else
    let b := r.bytes
    let d1 := ((d.setHeadDigest (sha256 (d.headBytes ++ b))).bump S Reg.SCORE.COUNT).wr S Reg.SCORE.WRPTR (p + r.length)
    let d2 : Dev := match r.key with
      | some k => { d1 with flt := { d1.flt with rearm := d1.flt.rearm ++ [(k.1, k.2, d.cycle)] } }
      | none => d1
    (flashProgram fl (d.sco.base + p) (b ++ [0, 0, 0, 0]), d2)

/-- RECORD_COMMIT. The journal takes PCYCLE before the boot's first record (R335); a clear stops the engine (R342). -/
def Dev.recordCommit (d : Dev) (fl : Memory) : Memory × Dev :=
  match d.sco.queue with
  | [] => (fl, d)
  | r :: rest =>
    if d.flag Pg.score Reg.SCORE.NOPART || !d.flag Pg.score Reg.SCORE.READY || d.sco.clr.isSome ||
        (d.sco.jdue.contains 0x200 && !d.flag Pg.journal Reg.JOURNAL.JSTOP) then (fl, d)
    else ({ d with sco := { d.sco with queue := rest } } : Dev).writeRecord fl r

/-- Write a list of records in turn. -/
def Dev.writeRecords (d : Dev) (fl : Memory) : List RecReq → Memory × Dev
  | [] => (fl, d)
  | r :: rest =>
    let (f1, d1) := d.writeRecord fl r
    d1.writeRecords f1 rest

/-- What the boot scan finds (R341). -/
structure Scan where
  pos : Nat
  head : List Byte
  count : Nat
  torn : List (Nat × Nat)
  deriving DecidableEq, Repr

/-- Scan the partition at `base` of `size` bytes; `fuel` bounds the records. -/
def scanFrom (fl : Memory) (base size : Nat) (s : Scan) : Nat → Scan
  | 0 => s
  | f + 1 =>
    let w := flashWord fl (base + s.pos)
    if size < s.pos + 4 ∨ w = 0xFFFFFFFF then s
    else
      let n := w % 4096
      if n % 4 = 0 ∧ 20 ≤ n ∧ n ≤ 4092 ∧ s.pos + n ≤ size then
        let b := Memory.readList fl (base + s.pos) (n - 8) 0xFF
        let crc := flashWord fl (base + s.pos + n - 8)
        if crc = crc32 b ∧ flashWord fl (base + s.pos + n - 4) = 0 then
          scanFrom fl base size { s with pos := s.pos + n, head := sha256 (s.head ++ b ++ leBytes 4 crc), count := s.count + 1 } f
        else scanFrom fl base size { s with pos := s.pos + n, torn := s.torn ++ [(s.pos, n)] } f
      else
        let next := (s.pos / 4096 + 1) * 4096
        scanFrom fl base size { s with pos := min size next, torn := s.torn ++ [(s.pos, min size next - s.pos)] } f

/-- A record of the engine itself, with the present counts. -/
def Dev.mkRec (d : Dev) (typ : Nat) (body : List Nat) : RecReq :=
  { typ := typ, sev := 0, inj := false, pcycle := d.rd Pg.score Reg.SCORE.PCYCLE, opsec := d.rd Pg.score Reg.SCORE.OPSEC, body := body,
    key := none, priv := false }

/-- Eight words of a digest, low byte first. -/
def digestWords (h : List Byte) : List Nat := (chunks 8 4 h).map leNat

/-- SCORESHEET_SCAN: the boot scan, after the journal was selected. A clear that a power loss interrupted is completed first; its key
slot is not in the journal and is a free value (R342, DESIGN CHOICE, log 2). -/
def Dev.scoreScan (d : Dev) (fl : Memory) : Memory × Dev :=
  let S := Pg.score
  if d.flag S Reg.SCORE.READY || !d.flag Pg.journal Reg.JOURNAL.READY then (fl, d)
  else if d.flag S Reg.SCORE.NOPART then (fl, d.wr S Reg.SCORE.READY 1)
  else
    let size := d.rd S Reg.SCORE.SIZE
    match Tab.get d.sco.jcopy 0x700 [] with
    | [] =>
      let s := scanFrom fl d.sco.base size ⟨0, scoreHead0, 0, []⟩ (size / 4 + 1)
      let d1 := ((((d.setHeadDigest s.head).wr S Reg.SCORE.COUNT s.count).wr S Reg.SCORE.WRPTR s.pos).wr S Reg.SCORE.TORN_CNT
        (min 65535 s.torn.length)).wr S Reg.SCORE.READY 1
      d1.writeRecords fl (s.torn.map (fun t => d1.mkRec 0x0B [t.1, t.2]))
    | v =>
      let (k, d0) := d.free 2
      let r := d0.mkRec 0x0A (v ++ [d0.rd S Reg.SCORE.DROP_FULL, d0.rd S Reg.SCORE.DROP_BUSY, k])
      let d1 := ((((((d0.setHeadDigest scoreHead0).wr S Reg.SCORE.COUNT 0).wr S Reg.SCORE.WRPTR 0).wr S Reg.SCORE.DROP_FULL 0).wr S
        Reg.SCORE.DROP_BUSY 0).wr S Reg.SCORE.READY 1).journalDue 7 0
      d1.writeRecord (flashErase fl d.sco.base size) r

/-! ### Clearing (R342) -/

/-- Hash of an owner slot that may sign: fused and not revoked. -/
def Fuses.slotHash (f : Fuses) (k : Nat) : Option Nat :=
  if k = 0 then (if bitAt f.rev 0 then none else f.slot0.map (·.toNat))
  else if k = 1 then (if bitAt f.rev 1 then none else f.slot1.map (·.toNat)) else none

/-- Fused hash of a slot, revoked or not. -/
def Fuses.slotFused (f : Fuses) (k : Nat) : Option Nat := if k = 0 then f.slot0.map (·.toNat) else if k = 1 then f.slot1.map (·.toNat) else none

/-- CLEAR_SCORESHEET: verification and step 1; then CLEAR_PENDING waits for the journal. -/
def Dev.clearScore (d : Dev) (fl : Memory) (r : Nat) (sig : HostRead) : Memory × Dev :=
  match d.cmdBegin r 9 with
  | none => (fl, d)
  | some c =>
    let S := Pg.score
    if !d.flag S Reg.SCORE.READY || d.sco.clr.isSome then (fl, d)
    else if sig.poisoned || decide (sig.data.length < 64) then (fl, (if sig.poisoned then (d.raise Pg.host 3 .none_).aer 12 else d).cmdDone r 0x34 0 0)
    else if d.plat.fuse.life ≠ 2 then (fl, d.cmdDone r 0x20 0 0)
    else
      let msg := strBytes "THN-3240 CLEAR v1" ++ d.headBytes ++ leBytes 4 (d.rd S Reg.SCORE.COUNT)
      let ok : Bool := match d.plat.fuse.slotFused (c.field 24 1) with
        | some h => ecdsaVerifyHash h (sig.data.take 64) (sha256 msg)
        | none => false
      if !ok then (fl, d.cmdDone r 0x21 0 0)
      else
        let (f1, d1) := ({ d with sco := { d.sco with queue := [] } } : Dev).writeRecords fl d.sco.queue
        let cl : ClrSt := { ring := r, slot := c.field 24 1, head := d1.headBytes, count := d1.rd S Reg.SCORE.COUNT,
                            dropFull := d1.rd S Reg.SCORE.DROP_FULL, dropBusy := d1.rd S Reg.SCORE.DROP_BUSY }
        let d2 := ({ d1 with sco := { d1.sco with clr := some cl } } : Dev).wr S Reg.SCORE.CLEARING 1
        (f1, (d2.journalDue 7 0).setCmd r (some { c with stage := 1 }))

/-- SCORESHEET_ERASE_DONE: steps 3 to 5, once CLEAR_PENDING is journalled. -/
def Dev.scoreErased (d : Dev) (fl : Memory) : Memory × Dev :=
  match d.sco.clr with
  | none => (fl, d)
  | some c =>
    let S := Pg.score
    if d.sco.jdue.contains 0x700 && !d.flag Pg.journal Reg.JOURNAL.JSTOP then (fl, d)
    else
      let d1 := (((((((d.setHeadDigest scoreHead0).wr S Reg.SCORE.COUNT 0).wr S Reg.SCORE.WRPTR 0).wr S Reg.SCORE.FULL 0).wr S
        Reg.SCORE.DROP_FULL 0).wr S Reg.SCORE.DROP_BUSY (d.rd S Reg.SCORE.DROP_BUSY - c.dropBusy)).wr S Reg.SCORE.CLEARING 0)
      let rec_ := d1.mkRec 0x0A (digestWords c.head ++ [c.count, c.dropFull, c.dropBusy, c.slot])
      let d2 := ({ d1 with sco := { d1.sco with clr := none } } : Dev).journalDue 7 0
      let (f1, d3) := d2.writeRecord (flashErase fl d.sco.base (d.rd S Reg.SCORE.SIZE)) rec_
      (f1, d3.cmdDone c.ring 0 0 0)

/-! ### The journal (R343 to R348) -/

/-- The live value of a journal item: key 256·item + index (Table 11.6). -/
def Dev.jval (d : Dev) (k : Nat) : List Nat :=
  let i := k % 256
  match k / 256 with
  | 1 => [d.rd Pg.score Reg.SCORE.OPSEC]
  | 2 => [d.rd Pg.score Reg.SCORE.PCYCLE]
  | 3 => [d.rd Pg.fault Reg.FAULT.FENCE_MAP]
  | 4 => [d.rd (Pg.fdom i) Reg.FDOM.RECOVERY_CNT]
  | 5 => [d.rd Pg.journal Reg.JOURNAL.WEAR]
  | 6 => [d.rd Pg.score Reg.SCORE.DROP_FULL, d.rd Pg.score Reg.SCORE.DROP_BUSY]
  | 7 => (match d.sco.clr with | some c => digestWords c.head ++ [c.count] | none => [])
  | 8 => [d.rd Pg.journal Reg.JOURNAL.USER i]
  | _ => []

/-- Bytes of a committed journal record. -/
def jRecord (k : Nat) (v : List Nat) : List Byte :=
  let b := wordsBytes ((k / 256 + (k % 256) * 2 ^ 8 + v.length * 2 ^ 16) :: v)
  b ++ leBytes 4 (crc32 b) ++ [0, 0, 0, 0]

/-- Byte offset of partition `p` in the flash. -/
def Dev.jPart (d : Dev) (p : Nat) : Nat := if p = 0 then d.sco.jbase.1 else d.sco.jbase.2

/-- A failed program or erase (R348). -/
def Dev.journalFail (d : Dev) : Dev := (d.bump Pg.journal Reg.JOURNAL.FAIL_CNT).privOccurs 6 Pg.journal

/-- JOURNAL_RECORD: the first change that waits (R345); it starts a compaction when it does not fit below the threshold (R347) or the flash
reports a failure. -/
def Dev.journalRecord (d : Dev) (fl : Memory) (fails : Bool) : Memory × Dev :=
  let J := Pg.journal
  match d.sco.jdue with
  | [] => (fl, d)
  | k :: rest =>
    if !d.flag J Reg.JOURNAL.READY || d.flag J Reg.JOURNAL.JSTOP || d.flag J Reg.JOURNAL.COMPACTING then (fl, d)
    else
      let v := d.jval k
      let drop : Dev := { d with sco := { d.sco with jdue := rest } }
      if Tab.get d.sco.jcopy k [] = v then (fl, drop)
      else
        let b := jRecord k v
        let p := d.rd J Reg.JOURNAL.WRPTR
        if 196608 < p + b.length then (fl, d.wr J Reg.JOURNAL.COMPACTING 1)
        else if fails then (fl, (d.wr J Reg.JOURNAL.COMPACTING 1).journalFail)
        else
          let d1 : Dev := { drop with sco := { drop.sco with jcopy := Tab.set d.sco.jcopy k v [] } }
          let d2 := d1.wr J Reg.JOURNAL.WRPTR (p + b.length)
          (flashProgram fl (d.jPart (d.rd J Reg.JOURNAL.PART) + p) b, if k / 256 = 1 then d2.wr J Reg.JOURNAL.OPSEC_J (v.headD 0) else d2)

/-- Items of a snapshot. -/
def snapKeys : List Nat :=
  [0x100, 0x200, 0x300, 0x400, 0x401, 0x402, 0x403, 0x500, 0x600] ++ (List.range 16).map (fun i => 0x800 + i)

/-- A snapshot: header, one record per item, SNAP_END. -/
def Dev.snapshot (d : Dev) (seq : Nat) : List Byte :=
  let h := [0x56, 0x4A, 0x4E, 0x4C] ++ leBytes 4 seq ++ List.replicate 16 (0 : Byte)
  let pend := Tab.get d.sco.jcopy 0x700 []
  h ++ leBytes 4 (crc32 h) ++ [0xFF, 0xFF, 0xFF, 0xFF] ++
    snapKeys.flatMap (fun k =>
      let v := Tab.get d.sco.jcopy k []
      jRecord k (if v.isEmpty then (if k = 0x600 then [0, 0] else [0]) else v)) ++
    (if pend.isEmpty then [] else jRecord 0x700 pend) ++ jRecord 0xFE00 [seq]

/-- Write a snapshot into partition `p` and select it. -/
def Dev.takeSnapshot (d : Dev) (fl : Memory) (p seq : Nat) : Memory × Dev :=
  let J := Pg.journal
  let b := d.snapshot seq
  (flashProgram (flashErase fl (d.jPart p) 0x40000) (d.jPart p) b,
    ((d.wr J Reg.JOURNAL.PART p).wr J Reg.JOURNAL.SEQ seq).wr J Reg.JOURNAL.WRPTR b.length)

/-- COMPACTION_DONE (R347); a compaction that fails stops the journal (R348). -/
def Dev.compactionDone (d : Dev) (fl : Memory) (fails : Bool) : Memory × Dev :=
  let J := Pg.journal
  if !d.flag J Reg.JOURNAL.COMPACTING || d.flag J Reg.JOURNAL.JSTOP then (fl, d)
  else if fails then (fl, ((d.wr J Reg.JOURNAL.COMPACTING 0).wr J Reg.JOURNAL.JSTOP 1).journalFail)
  else
    let p := d.rd J Reg.JOURNAL.PART
    let (f1, d1) := d.takeSnapshot fl (1 - p) ((d.rd J Reg.JOURNAL.SEQ + 1) % 2 ^ 32)
    (flashErase f1 (d.jPart p) 0x40000, (d1.wr J Reg.JOURNAL.COMPACTING 0).bump J Reg.JOURNAL.COMPACT_CNT)

/-- What a replay of one partition finds. -/
structure Replay where
  vals : Tab (List Nat)
  /-- SNAP_END with the header's SEQ was met -/
  ok : Bool
  pos : Nat
  torn : Bool
  deriving DecidableEq, Repr

/-- Replay the records of the partition at `base` from `r.pos` (R343, R346). -/
def replayFrom (fl : Memory) (base seq : Nat) (r : Replay) : Nat → Replay
  | 0 => r
  | f + 1 =>
    let w := flashWord fl (base + r.pos)
    if 0x40000 < r.pos + 4 ∨ w = 0xFFFFFFFF then r
    else
      let n := bitsOf w 16 8
      let len := 4 * (n + 3)
      let b := Memory.readList fl (base + r.pos) (4 * (n + 1)) 0xFF
      if 0x40000 < r.pos + len ∨ flashWord fl (base + r.pos + len - 8) ≠ crc32 b ∨ flashWord fl (base + r.pos + len - 4) ≠ 0 then
        { r with torn := true }
      else
        let v := (List.range n).map (fun i => flashWord fl (base + r.pos + 4 + 4 * i))
        let k := 256 * (w % 256) + bitsOf w 8 8
        let known := decide (1 ≤ w % 256 ∧ w % 256 ≤ 8)
        replayFrom fl base seq
          { r with pos := r.pos + len, ok := r.ok || (w % 256 == 0xFE && v == [seq])
                   vals := if known then Tab.set r.vals k v [] else r.vals } f

/-- The replay of partition `p`, when it is valid, with its SEQ. -/
def Dev.journalRead (d : Dev) (fl : Memory) (p : Nat) : Option (Nat × Replay) :=
  let base := d.jPart p
  if flashWord fl (base + 24) ≠ crc32 (Memory.readList fl base 24 0xFF) then none
  else
    let seq := flashWord fl (base + 4)
    let r := replayFrom fl base seq ⟨[], false, 32, false⟩ 22000
    if r.ok then some (seq, r) else none

/-- Put the journalled values into their registers. -/
def Dev.journalApply (d : Dev) (t : Tab (List Nat)) : Dev :=
  let v (k i : Nat) : Nat := (Tab.get t k []).getD i 0
  let d1 := ((((d.wr Pg.score Reg.SCORE.OPSEC (v 0x100 0)).wr Pg.journal Reg.JOURNAL.OPSEC_J (v 0x100 0)).wr Pg.score Reg.SCORE.PCYCLE
    (v 0x200 0)).wr Pg.journal Reg.JOURNAL.WEAR (v 0x500 0))
  let d2 := (d1.wr Pg.score Reg.SCORE.DROP_FULL (v 0x600 0)).wr Pg.score Reg.SCORE.DROP_BUSY (v 0x600 1)
  let d3 := d2.each (List.range 4) (fun d m => d.wr (Pg.fdom m) Reg.FDOM.RECOVERY_CNT (v (0x400 + m) 0))
  let d4 := d3.each (List.range 16) (fun d i => d.wr Pg.journal Reg.JOURNAL.USER (v (0x800 + i) 0) i)
  { d4 with sco := { d4.sco with jcopy := t, jdue := [] } }

/-- The journal is selected and replayed at boot (R346, Table 11.8), and PCYCLE counts the boot (R335). The fences of the journalled map
are applied by the boot. -/
def Dev.journalSelect (d : Dev) (fl : Memory) : Memory × Dev :=
  let J := Pg.journal
  let a := d.journalRead fl 0
  let b := d.journalRead fl 1
  let sel : Option (Nat × Nat × Replay) := match a, b with
    | none, none => none
    | some x, none => some (0, x)
    | none, some y => some (1, y)
    | some x, some y => if 0 < (x.1 + 2 ^ 32 - y.1) % 2 ^ 32 ∧ (x.1 + 2 ^ 32 - y.1) % 2 ^ 32 < 2 ^ 31 then some (0, x) else some (1, y)
  let (f1, d1) : Memory × Dev := match sel with
    | none =>
      let d0 := (d.journalApply []).wr J Reg.JOURNAL.JRESET 1
      d0.takeSnapshot fl 0 1
    | some (p, seq, r) =>
      let d0 := ((((d.journalApply r.vals).wr J Reg.JOURNAL.PART p).wr J Reg.JOURNAL.SEQ seq).wr J Reg.JOURNAL.WRPTR r.pos).wr J
        Reg.JOURNAL.TORN_SEEN (if r.torn then 1 else 0)
      (if a.isSome && b.isSome then flashErase fl (d.jPart (1 - p)) 0x40000 else fl,
        if r.torn then d0.wr J Reg.JOURNAL.COMPACTING 1 else d0)
  let d2 := ((d1.wr J Reg.JOURNAL.READY 1).bump Pg.score Reg.SCORE.PCYCLE).journalDue 2 0
  (f1, { d2 with sco := { d2.sco with secAt := d.cycle } })

/-! ### Operating time (R335, R419) -/

/-- OPSEC_TICK: one second of operation; `wear` of its 1 ms samples show VDD above 40 A with Tj above 95 °C. -/
def Dev.opsecTick (d : Dev) (wear : Nat) : Dev :=
  if !d.flag Pg.journal Reg.JOURNAL.READY || decide (d.cycle < d.sco.secAt + usCycles 1000000) then d
  else
    let d1 := d.wr Pg.score Reg.SCORE.OPSEC (d.rd Pg.score Reg.SCORE.OPSEC + 1)
    let d2 := if 500 < wear then d1.wr Pg.journal Reg.JOURNAL.WEAR (d.rd Pg.journal Reg.JOURNAL.WEAR + 1) else d1
    { d2 with sco := { d2.sco with secAt := d.sco.secAt + usCycles 1000000 } }

/-- OPSEC_JOURNAL: every 60 s of operating time (Table 11.7). -/
def Dev.opsecJournal (d : Dev) : Dev :=
  if d.rd Pg.score Reg.SCORE.OPSEC < d.rd Pg.journal Reg.JOURNAL.OPSEC_J + 60 then d
  else ((d.journalDue 1 0).journalDue 5 0).journalDue 6 0

/-- USER_WRITE. -/
def Dev.userWrite (d : Dev) (i v : Nat) : Dev := (d.wr Pg.journal Reg.JOURNAL.USER v i).journalDue 8 i

end Sys2Proof.Machine
end

