-- ==== Sys2Proof/Machine/Image.lean ====
section
/-!
DEFINITION. The Ovend image as bytes: header, section table, configuration records, and the checks of them that need no placement
(R280 to R285, R293, Tables 9.1 to 9.6, 12.5, 13.2 and 13.5).
-/

namespace Sys2Proof.Machine

/-! ### Fields -/

/-- `n` bytes of an image from offset `off`, little-endian. -/
def imgU (bs : List Byte) (off n : Nat) : Nat := leNat ((bs.drop off).take n)

/-- The bytes of a section. -/
def Sect.bytes (s : Sect) (bs : List Byte) : List Byte := (bs.drop s.off).take s.len

/-- A result code of Table 9.10 with its detail, when the condition holds. -/
def failIf (c : Bool) (code detail : Nat) : Option (Nat × Nat) := if c then some (code, detail) else none

def zeroBytes (bs : List Byte) (off n : Nat) : Bool := ((bs.drop off).take n).all (· == 0)

/-- The section table (Table 9.2). -/
def imgSects (bs : List Byte) : List Sect :=
  (List.range (imgU bs 0x1A 2)).map (fun i =>
    let o := 0x100 + 64 * i
    { typ := imgU bs o 2, index := imgU bs (o + 2) 1, seg := imgU bs (o + 3) 1, off := imgU bs (o + 4) 4, len := imgU bs (o + 8) 4,
      digest := (bs.drop (o + 0x20)).take 32 })

/-- Header checks of step 2 in the order of Table 9.7; `n` is the IMG_LEN of the command. -/
def imgHeadCheck (bs : List Byte) (n : Nat) : Option (Nat × Nat) :=
  let u := imgU bs
  let len := u 0x1C 4
  (failIf (bs.take 4 != [0x4F, 0x56, 0x4E, 0x44]) 2 0) <|>
  (failIf (u 4 2 != 1) 3 4) <|>
  (failIf (u 8 4 != 0x3240) 4 (u 8 4)) <|>
  (failIf (u 0xC 1 != 1) 3 0xC) <|>
  (failIf (len != n || decide (2 ^ 26 < len) || len % 32 != 0) 5 len) <|>
  (failIf (decide (2 < u 0xE 1)) 6 (u 0xE 1)) <|>
  (failIf (u 0xF 1 != 0) 3 0xF) <|>
  (failIf (decide (u 0x10 1 < 1 ∨ 8 < u 0x10 1)) 3 0x10) <|>
  (failIf (decide (u 0x11 1 < 1 ∨ 4 < u 0x11 1)) 3 0x11) <|>
  (failIf (decide (u 0x16 1 < 1 ∨ 8 < u 0x16 1)) 3 0x16) <|>
  (failIf (decide (15 < u 0x17 1)) 3 0x17) <|>
  (failIf (decide (32 < u 0x18 1)) 3 0x18) <|>
  (failIf (u 0x19 1 != 0) 3 0x19) <|>
  (failIf (decide (len < 0x100 + 64 * u 0x1A 2 + 64)) 3 0x1A) <|>
  (failIf (!zeroBytes bs 0x28 24) 3 0x28) <|>
  (failIf (!zeroBytes bs 0x80 128) 3 0x80)

/-- Each section table entry (R281); a failure names the entry. -/
def imgSectCheck (bs : List Byte) : Option (Nat × Nat) :=
  let ss := imgSects bs
  let nseg := imgU bs 0x16 1
  let len := imgU bs 0x1C 4
  let first := 0x100 + 64 * ss.length
  ss.zipIdx.findSome? (fun (e : Sect × Nat) =>
    let s := e.1
    let i := e.2
    let prev := if i = 0 then first else match ss[i - 1]? with | some p => p.off + p.len | none => first
    let perSeg := s.typ == 5 || s.typ == 6 || s.typ == 7
    let idxOk := if s.typ = 8 then decide (1 ≤ s.index ∧ s.index ≤ 15) else if s.typ = 9 then decide (s.index < 32) else s.index == 0
    -- the segment byte of a MODE section is ignored (R293)
    let segOk := if perSeg then decide (s.seg < nseg) else decide (s.seg < nseg) || s.seg == 0xFF || s.typ == 8
    let dup := (ss.take i).any (fun p => p.typ == s.typ && (if perSeg then p.seg == s.seg else p.index == s.index) && s.typ != 10)
    failIf (decide (s.typ < 1 ∨ 10 < s.typ) || !idxOk || !segOk || dup || s.off % 32 != 0 || s.len % 32 != 0 ||
      decide (s.off < first ∨ s.off < prev ∨ len < s.off + s.len + 64) || !zeroBytes bs (0x100 + 64 * i + 0xC) 20 ||
      (s.typ == 7 && s.seg == 0)) 3 i)

/-- Counts of the section types (Table 9.3); a wrong count names the header's NSECT. -/
def imgCountCheck (bs : List Byte) : Option (Nat × Nat) :=
  let ss := imgSects bs
  let n (t : Nat) : Nat := (ss.filter (fun s => s.typ == t)).length
  let nseg := imgU bs 0x16 1
  failIf (n 1 != 1 || n 2 != 1 || n 3 != 1 || decide (1 < n 4 ∨ 1 < n 10) || n 5 != nseg || n 6 != nseg || n 7 != nseg - 1 ||
    n 8 != imgU bs 0x17 1 || n 9 != imgU bs 0x18 1) 3 0x1A

/-- The one section of a type, empty when there is none. -/
def imgSection (bs : List Byte) (t : Nat) : List Byte :=
  match (imgSects bs).find? (fun s => s.typ == t) with | some s => s.bytes bs | none => []

/-- Virtual cores of the domain (USED). -/
def imgUsed (bs : List Byte) : List Nat := (List.range 32).filter (fun v => bitAt (imgU (imgSection bs 1) 0 4) v)

/-- Fields and reserved bytes of RESOURCES, LATENCY, MAP and LOCKS (R281); a failure names the section. -/
def imgContentCheck (bs : List Byte) : Option (Nat × Nat) :=
  (imgSects bs).zipIdx.findSome? (fun (e : Sect × Nat) =>
    let s := e.1
    let b := s.bytes bs
    let u := imgU b
    let bad : Bool := match s.typ with
      | 1 =>
        s.len != 64 || (imgUsed bs).any (fun v => decide (imgU bs 0x10 1 ≤ v % 8 ∨ imgU bs 0x11 1 ≤ v / 8)) || decide (u 4 1 < 15) ||
        decide (u 5 2 < 1 ∨ 256 < u 5 2) || decide (1472 < u 16 2) || (List.range 4).any (fun i => decide (64 < u (18 + i) 1)) ||
        (List.range 2).any (fun i => decide (128 < u (22 + i) 1)) || u 7 1 != 0 || !zeroBytes b 36 28
      | 2 => s.len != 32 || !zeroBytes b 16 16
      | 3 => (chunks (b.length + 1) 32 b).any (fun r => !zeroBytes r 6 2 || decide (15 < imgU r 16 1) || !zeroBytes r 17 15)
      | 4 => (chunks (b.length + 1) 16 b).any (fun r => !zeroBytes r 6 2 || !zeroBytes r 12 4)
      | _ => false
    failIf bad 3 e.2)

/-- Section digests (step 3). -/
def imgDigestCheck (bs : List Byte) : Option (Nat × Nat) :=
  (imgSects bs).zipIdx.findSome? (fun (e : Sect × Nat) => failIf (sha256 (e.1.bytes bs) != e.1.digest) 8 e.2)

/-- The base digest (R285). -/
def imgDigest (bs : List Byte) : List Byte := sha256 (bs.take (imgU bs 0x1C 4 - 64))

/-- The signature (R285). -/
def imgSigCheck (bs : List Byte) : Option (Nat × Nat) :=
  failIf (!ecdsaVerify ((bs.drop 0x40).take 64) ((bs.drop (imgU bs 0x1C 4 - 64)).take 64) (imgDigest bs)) 7 0

/-- Key hash that SIGNER names, when the lifecycle state lets it sign images (R285, Table 14.7). -/
def Fuses.signerHash (f : Fuses) (signer : Nat) : Option Nat :=
  if signer = 0 then (if f.life = 2 then none else some Config.vendorKeyHash.toNat)
  else if f.life = 2 then f.slotHash (signer - 1) else none

/-! ### Configuration records (R282) -/

/-- A configuration record: byte offset in its section, header and payload bytes. -/
structure CRec where
  off : Nat
  hdr : Nat
  data : List Byte
  deriving DecidableEq, Repr

def CRec.dest (r : CRec) : Nat := Hdr.dest r.hdr
def CRec.kind (r : CRec) : Nat := Hdr.kind r.hdr
def CRec.unit (r : CRec) : Nat := Hdr.target r.hdr % 16
def CRec.table (r : CRec) : Nat := bitsOf (Hdr.target r.hdr) 4 4

/-- A list of records up to its KIND 7 record: the records, the offset after the list, and whether it was well formed. -/
def recList (bs : List Byte) (off : Nat) : Nat → List CRec × Nat × Bool
  | 0 => ([], off, false)
  | f + 1 =>
    if bs.length < off + 32 then ([], off, false)
    else
      let h := imgU bs off 32
      if Hdr.kind h = 7 then ([], off + 32, true)
      else
        let n := 32 * Hdr.len h
        if bs.length < off + 32 + n then ([], off, false)
        else
          let (r, o, ok) := recList bs (off + 32 + n) f
          (⟨off, h, (bs.drop (off + 32)).take n⟩ :: r, o, ok)

/-- `n` lists in a row. -/
def recGroups (bs : List Byte) (off : Nat) : Nat → List (List CRec) × Bool
  | 0 => ([], true)
  | n + 1 =>
    let (r, o, ok) := recList bs off (bs.length / 32 + 1)
    let (rs, ok2) := recGroups bs o n
    (r :: rs, ok && ok2)

/-- A variant of a MODE or FOLD section: fold square, and its records by segment; `none` for a malformed directory (R293). -/
def variants (b : List Byte) (nseg : Nat) : Option (List (Nat × Nat × List (List CRec))) :=
  let n := imgU b 0 1
  if n < 1 ∨ 33 < n ∨ b.length < 32 + 16 * n then none
  else (List.range n).mapM (fun i =>
    let o := 32 + 16 * i
    let off := imgU b (o + 4) 4
    let len := imgU b (o + 8) 4
    if off % 32 = 0 ∧ off + len ≤ b.length then
      let (gs, ok) := recGroups (b.take (off + len)) off nseg
      if ok then some (imgU b o 1, len, gs) else none
    else none)

/-- Bytes of table `t` of unit `u` of a core (Table 9.6); 0: there is no such table. -/
def cfgBytes (u t : Nat) : Nat :=
  match t with
  | 0 => if u < 10 then 2048 else if u < 12 then 4096 else if u = 12 then 32768 else if u = 13 then 59 * 256 else if u = 14 then 512 else 512
  | 1 => if u < 12 then 256 else if u = 12 then 30720 else if u = 13 then 32 else if u = 15 then 128 else 0
  | 2 => if u < 13 then 64 else if u = 15 then 1024 else 0
  | 3 => if u = 10 ∨ u = 11 then 4160 else 0
  | 4 => if u = 10 ∨ u = 11 then 65536 else 0
  | _ => 0

/-- Size of an entry of a table. -/
def cfgUnitSize (u t : Nat) : Nat :=
  if u = 15 then (if t = 0 then 2 else if t = 1 then 8 else 4) else if t = 4 then 32 else cfgSize u t

/-- A trick-table entry is legal (R79). -/
def ttLegal (e : Nat) : Bool := e == 0x20 || e == 0 || e / 32 == 3

/-- Sample widths and planes of a data type: number of planes, bits (Table 13.1); `none`: not accepted. -/
def csiType (dt : Nat) : Option (Nat × Nat) :=
  match dt with
  | 0x2A => some (1, 8) | 0x2B => some (1, 10) | 0x2C => some (1, 12) | 0x1E => some (3, 8) | 0x24 => some (3, 8) | _ => none

/-- A VC context may be enabled (R385). -/
def csiLegal (w : Nat) : Bool :=
  match csiType (bitsOf w 0 6) with
  | none => false
  | some (planes, bits) => !(bitsOf w 0 6 == 0x1E && bitsOf w 16 12 % 2 == 0) && !(bitAt w 8 && bits == 8) && decide (bitsOf w 9 6 + planes - 1 ≤ 63)

/-- The bytes of a record to a core lie inside its target and hold legal values (Tables 9.5, 9.6, 7.3, 13.2). -/
def CRec.coreOk (r : CRec) : Bool :=
  let a := Hdr.addr r.hdr
  let t := Hdr.target r.hdr
  let n := r.data.length
  match r.kind with
  | 0 => decide (t < 8) && a % 32 == 0 && decide (a + n ≤ 0x100000)
  | 1 => decide (t % 16 < 10) && bitsOf t 4 2 != 3 && t / 64 == 0 && a % 32 == 0 && decide (a + n ≤ 49152)
  | 6 =>
    let size := cfgBytes r.unit r.table
    let es := cfgEntries a (cfgUnitSize r.unit r.table) r.data
    t / 1024 == 0 && decide (a + n ≤ size) && a % cfgUnitSize r.unit r.table == 0 &&
      (if r.unit = 13 ∧ r.table = 0 then es.all (fun e => ttLegal e.2 && (portNet (e.1 / 256)).isSome)
       else if r.unit = 12 ∧ r.table = 0 then es.all (fun e => decide (60 ≤ e.1 / 256) || (portNet (e.1 / 256)).isSome)
       else if r.unit = 15 ∧ r.table = 0 then es.all (fun e => !bitAt e.2 12 || (decide (e.2 % 2048 < 64) && !bitAt e.2 11))
       else if r.unit = 15 ∧ r.table = 1 then es.all (fun e => !bitAt e.2 6 || csiLegal e.2)
       else true)
  | _ => false

/-- The bytes of a record to the host port or a Gostan link lie inside its target; `hq` is the number of host-port queues of the image. -/
def CRec.edgeOk (r : CRec) (hq : Nat) : Bool :=
  let a := Hdr.addr r.hdr
  let t := Hdr.target r.hdr
  let n := r.data.length
  r.kind == 6 && decide (t < 16) &&
  (if r.dest = 44 then
    (match t with
      | 0 => a % 2 == 0 && decide (a + n ≤ 12 * 512) && (cfgEntries a 2 r.data).all (fun e => !bitAt e.2 12 || decide (e.2 % 2048 < hq))
      | 1 => a % 2 == 0 && decide (a < 2 * hq)
      | 2 => a % 4 == 0 && decide (a < 16 * hq)
      | 3 => a % 4 == 0 && decide (a < 4 * hq)
      | _ => false)
   else
    (match t with
      | 0 => a % 2 == 0 && decide (a + n ≤ 6 * 512) && (cfgEntries a 2 r.data).all (fun e => !bitAt e.2 12 || decide (e.2 % 2048 < 256))
      | 1 => a % 4 == 0 && decide (a + n ≤ 1024)
      | 2 => a % 4 == 0 && decide (a + n ≤ 4096)
      | _ => false))

/-- The bytes of a record to a fetch engine lie inside its target. The manual names these records and gives them no table: table 0 holds the
words of its stream descriptors (32s + 4w), and table 2 those of its boundary descriptors (16j + 4w), as at the other edge blocks (DESIGN
CHOICE, DESIGN CHOICE, log 71). -/
def CRec.fetchOk (r : CRec) : Bool :=
  let a := Hdr.addr r.hdr
  r.kind == 6 && a % 4 == 0 &&
  (match Hdr.target r.hdr with
    | 0 => decide (a + r.data.length ≤ 2048)
    | 2 => decide (a + r.data.length ≤ 3584)
    | _ => false)

/-- The record goes to a fetch engine. -/
def CRec.toEngine (r : CRec) : Bool := decide (32 ≤ r.dest ∧ r.dest < 40)

/-- A record of an image is in range: `prefetch` for one of a PREFETCH section, `fold` the square that a FOLD must not touch (R282, R297). The
tables of a switch node outside the domain may be written, for its through-routes (R24, R78). -/
def CRec.ok (r : CRec) (bs : List Byte) (prefetch : Bool) (fold : Option Nat) : Bool :=
  let hq := imgU (imgSection bs 1) 16 2
  if r.dest < 32 then
    ((imgUsed bs).contains r.dest || (r.kind == 6 && r.unit == 13)) && fold != some r.dest && r.coreOk &&
      !(r.kind == 6 && r.unit == 15 && r.dest % 8 != 0)
  else if r.toEngine then !prefetch && r.fetchOk && decide (r.dest - 32 < imgU bs 0x10 1)
  else if r.dest = 44 ∨ r.dest = 45 ∨ r.dest = 46 then r.edgeOk hq && (!prefetch || decide (Hdr.target r.hdr < 2))
  else false

/-- REGS records (R283): value, offset, page, core, chip bit and the rest; padding left out. -/
structure RegRec where
  value : Nat
  off : Nat
  page : Nat
  vcore : Nat
  chip : Bool
  rest : Nat
  deriving DecidableEq, Repr

def regRecs (b : List Byte) : List RegRec :=
  (chunks (b.length + 1) 8 b).filterMap (fun c =>
    let x := leNat c
    if x = 0 then none
    else
      let chip := bitAt x 54
      some { value := bitsOf x 0 32, off := bitsOf x 32 12, page := if chip then bitsOf x 44 10 else bitsOf x 44 5, vcore := bitsOf x 49 5,
             chip := chip, rest := bitsOf x 55 9 })

/-- A REGS record addresses what its segment may (R283). -/
def RegRec.ok (r : RegRec) (bs : List Byte) (seg : Nat) : Bool :=
  r.off % 4 == 0 && decide (0x40 ≤ r.off) && r.rest == 0 &&
  (if r.chip then
    (decide (0x10 ≤ r.page ∧ r.page < 0x10 + imgU bs 0x10 1)) ||
      (decide (0x19 ≤ r.page ∧ r.page < 0x1D) && decide (0x44 ≤ r.off ∧ r.off ≤ 0x54))
   else seg == 0 && decide (r.page ≤ 18) && (imgUsed bs).contains r.vcore)

/-- CONFIG_RANGE (R282, R283, R293): every record of every section; the detail is the section. -/
def imgRangeCheck (bs : List Byte) : Option (Nat × Nat) :=
  let nseg := imgU bs 0x16 1
  (imgSects bs).zipIdx.findSome? (fun (e : Sect × Nat) =>
    let s := e.1
    let b := s.bytes bs
    let bad : Bool := match s.typ with
      | 5 => (match recGroups b 0 1 with | (g, ok) => !ok || g.any (fun l => l.any (fun r => !r.ok bs false none)))
      | 6 => (regRecs b).any (fun r => !r.ok bs s.seg) || (s.seg != 0 && decide (1024 < (regRecs b).length))
      | 7 => (match recGroups b 0 1 with | (g, ok) => !ok || g.any (fun l => l.any (fun r => !r.ok bs true none)))
      | 8 | 9 =>
        (match variants b nseg with
          | none => true
          | some vs =>
            (s.typ == 9 && (vs.length != 1 || vs.any (fun v => v.1 != s.index))) ||
            vs.any (fun v => v.2.2.any (fun g => g.any (fun r => !r.ok bs false (if s.typ = 9 then some s.index else none)))))
      | _ => false
    failIf bad 0x1B e.2)

/-- The records of one section that is a single list. -/
def sectRecs (b : List Byte) : List CRec := (recList b 0 (b.length / 32 + 1)).1

/-- The records of the section of a type for a segment, with its number. -/
def segList (bs : List Byte) (typ g : Nat) : Option (Nat × List CRec) :=
  ((imgSects bs).zipIdx.find? (fun e => e.1.typ == typ && e.1.seg == g)).map (fun e => (e.2, sectRecs (e.1.bytes bs)))

/-- What an image can put over its base configuration: each fold, and each overlay variant over its fold, as the section and the records by
segment. -/
def imgOvers (bs : List Byte) : List (Nat × List (List CRec)) :=
  let nseg := imgU bs 0x16 1
  let vars (t : Nat) : List (Nat × Nat × List (List CRec)) := ((imgSects bs).zipIdx.filter (fun e => e.1.typ == t)).flatMap (fun e =>
    ((variants (e.1.bytes bs) nseg).getD []).map (fun v => (e.2, v.1, v.2.2)))
  let fold (sq : Nat) : List (List CRec) := match (vars 9).find? (fun v => v.2.1 == sq) with | some v => v.2.2 | none => []
  (vars 9).map (fun v => (v.1, v.2.2)) ++
    (vars 8).map (fun v => (v.1, (List.range nseg).map (fun g => (fold v.2.1).getD g [] ++ v.2.2.getD g [])))

/-- A configuration that an image can bring about: section it ends in, segment, and its records in order (base, fold, overlay). -/
def imgConfigs (bs : List Byte) : List (Nat × Nat × List CRec) :=
  (List.range (imgU bs 0x16 1)).flatMap (fun g =>
    match segList bs 5 g with
    | some (i, base) => (i, g, base) :: (imgOvers bs).map (fun v => (v.1, g, base ++ v.2.getD g []))
    | none => [])

/-- What the segment switches of a running image stage in turn (Table 2.4): the CONFIG records of segment 0 and the PREFETCH records of the
others, alone and with each fold and overlay variant. -/
def imgRounds (bs : List Byte) : List (List (List CRec)) :=
  let base (g : Nat) : List CRec := ((segList bs (if g = 0 then 5 else 7) g).map (·.2)).getD []
  let round (ov : List (List CRec)) : List (List CRec) := (List.range (imgU bs 0x16 1)).map (fun g => base g ++ ov.getD g [])
  if imgU bs 0x16 1 ≤ 1 then [] else round [] :: (imgOvers bs).map (fun v => round v.2)

/-- Every record of an image's CONFIG, PREFETCH, MODE and FOLD sections. -/
def imgRecs (bs : List Byte) : List CRec := (imgConfigs bs).flatMap (·.2.2) ++ (imgRounds bs).flatMap (·.flatten)

/-- Class A tricks that a configuration lands at (`dir` 0) or presents from (1) link `k` must not pass 15/16 of the round (R388). -/
def glRate (recs : List CRec) (code dir round : Nat) : Bool :=
  let n := recs.foldl (fun n r =>
    if r.dest = code ∧ r.kind = 6 ∧ Hdr.target r.hdr = 0 then
      n + ((cfgEntries (Hdr.addr r.hdr) 2 r.data).filter (fun e => e.1 / 256 / 3 == dir && decide (e.1 % 256 < round) && bitAt e.2 12)).length
    else n) 0
  decide (16 * n ≤ 15 * round)

/-- R388 for every configuration. -/
def imgGlCheck (bs : List Byte) : Option (Nat × Nat) :=
  let round := imgU (imgSection bs 1) 4 1 + 1
  (imgConfigs bs).findSome? (fun (c : Nat × Nat × List CRec) =>
    failIf (!([45, 46].all (fun code => glRate c.2.2 code 0 round && glRate c.2.2 code 1 round))) 0x1B c.1)

end Sys2Proof.Machine
end

