-- ==== Sys2Proof/Machine/RegStore.lean ====
section
/-!
DEFINITION. Writes of register words (R8, R9): which fields a word holds, what a write stores in them, and the words of core pages, fetch
pages and memory ports whose writes depend on a domain's state or address a table (Tables 3.10, 4.9, 5.9, 6.16, 7.9, 8.8, 8.13, 12.13).
-/

namespace Sys2Proof.Machine

/-! ### Fields and stores -/

/-- The register group that holds the word at BAR0 byte offset `a`: its fields and its base. -/
def regGroup (a : Nat) : Option (List Fld × Nat) :=
  if 0x1000000 ≤ a ∧ a < 0x1200000 then
    some (if a < Pg.queue 61440 then Reg.FQ.all else Reg.BQD.all, a / 32 * 32)
  else if 0x2000000 ≤ a ∧ a < 0x2080000 then some (Reg.SYNC.all, a / 64 * 64)
  else if 0x60000 ≤ a ∧ a < 0x6C000 then some (Reg.RING.all, a / 32 * 32)
  else match pageKind (a / 4096) with
    | none => none
    | some (k, _) =>
      let o := a % 4096
      let b := a - o
      if o < 0x40 then some (Reg.HDR.all, b)
      else if k = .loader ∧ 0x100 ≤ o ∧ o < 0x300 then some (Reg.LDOM.all, a / 0x80 * 0x80)
      else if k = .fault ∧ 0xA0 ≤ o ∧ o < 0x120 then some (Reg.FDOM.all, a / 0x20 * 0x20)
      else if k = .fetch ∧ 0x500 ≤ o ∧ o < 0x600 then some (Reg.GSLOT.all, a / 16 * 16)
      else if k = .fetch ∧ 0x800 ≤ o then some (Reg.SDESC.all, a / 32 * 32)
      else if k = .btile ∧ 0x200 ≤ o ∧ o < 0x400 then some (Reg.BMD.all, a / 32 * 32)
      else some (k.fields, b)

/-- The field has an element in the word at offset `o` of its group. -/
def Fld.hits (F : Fld) (o : Nat) : Bool :=
  decide (F.off ≤ o) &&
    (if F.stride = 0 then o == F.off else (o - F.off) % F.stride == 0 && decide ((o - F.off) / F.stride < F.cnt))

/-- The word after a write of `v` to the field (Table 0.5). -/
def Fld.store (F : Fld) (old v : Nat) : Nat :=
  let x := bitsOf v F.lo F.w
  match F.acc with
  | .rw => setBits old F.lo F.w (if F.clampHi = 0 then x else max F.clampLo (min F.clampHi x))
  | .w1c => setBits old F.lo F.w (bitsOf old F.lo F.w &&& (2 ^ F.w - 1 - x))
  | .w1s => setBits old F.lo F.w (bitsOf old F.lo F.w ||| x)
  | .ro | .rov | .wo => old

/-- A write of `v` to the fields of a word, by their access codes. -/
def storeFields (fs : List Fld) (o old v : Nat) : Nat := fs.foldl (fun w F => if F.hits o then F.store w v else w) old

/-- A write of the word at `a` with no condition of its own; `at_` is where the word is kept. -/
def Dev.storeAt (d : Dev) (a at_ v : Nat) : Dev :=
  match regGroup a with
  | none => d
  | some (fs, b) =>
    -- a bit that hardware set in this fc cycle stays set (R9)
    d.setWord at_ (storeFields fs (a - b) (d.word at_) v ||| (d.word at_ &&& d.events at_))

def Dev.storeReg (d : Dev) (a v : Nat) : Dev := d.storeAt a a v

/-- A write that keeps bits [w−1:0] of the word as they are. -/
def Dev.storeKeep (d : Dev) (a v w : Nat) : Dev := d.storeReg a (setBits v 0 w (d.word a))

/-! ### Tables behind an index register -/

/-- The domain of a core is RUNNING or DRAINING. -/
def Dev.coreRuns (d : Dev) (c : Nat) : Bool := match d.coreDom c with | some m => d.running m | none => false

/-- An owner is RUNNING or DRAINING. -/
def Dev.ownerRuns (d : Dev) (o : Option Nat) : Bool := match o with | some m => d.running m | none => false

/-- Advance TRICK of an index word, and the table number above it at the wrap. -/
def Dev.advanceTrick (d : Dev) (a tblBits : Nat) : Dev :=
  let w := d.word a
  if !bitAt w 31 then d
  else
    let t := w % 256
    if t < 255 then d.setWord a (setBits w 0 8 (t + 1))
    else d.setWord a (setBits (setBits w 0 8 0) 8 tblBits (bitsOf w 8 tblBits + 1))

/-- TT_DATA (R94): `some v` writes the addressed entry, `none` reads it. -/
def Dev.ttData (d : Dev) (c : Nat) (w : Option Nat) : Dev :=
  let pg := Pg.xnode c
  let p := d.rd pg Reg.XNODE.TT_PORT
  let st := d.flag pg Reg.XNODE.TT_STAGED
  let ok := (portNet p).isSome
  let key := d.bankKey (Bank.port c p) (64 * c + p) (d.rd pg Reg.XNODE.TT_TRICK) st
  let d1 : Dev := match w with
    | some v =>
      if ok && (st || !d.ownerRuns (d.ownerA c p)) then
        ({ d with fab := { d.fab with tt := Tab.set d.fab.tt key (v % 256) 0x20 } } : Dev).setUpset (Upset.tt key) 0
      else d
    | none => d.emit (.readDone .host (pg + 0x84) (if ok then Tab.get d.fab.tt key 0x20 else 0))
  d1.advanceTrick (pg + 0x80) 6

/-- LT_DATA (R124). -/
def Dev.ltData (d : Dev) (c : Nat) (w : Option Nat) : Dev :=
  let pg := Pg.qeng c
  let p := d.rd pg Reg.QENG.PORT
  let st := d.flag pg Reg.QENG.STAGED
  let key := d.bankKey (Bank.port c p) (64 * c + p) (d.rd pg Reg.QENG.TRICK) st
  let d1 : Dev := match w with
    | some v =>
      if st || !d.coreRuns c then { d with fab := { d.fab with lt := Tab.set d.fab.lt key (v % 2 ^ 16) 0 } } else d
    | none => d.emit (.readDone .host (pg + 0x48) (Tab.get d.fab.lt key 0))
  d1.advanceTrick (pg + 0x44) 6

/-- An access of edge table `tbl` (Bank.edge) at the trick of index word `a`; the data register lies behind it. -/
def Dev.edgeData (d : Dev) (tbl a : Nat) (w : Option Nat) : Dev :=
  let ix := d.word a
  let st := bitAt ix 30
  let key := d.bankKey (Bank.edge tbl) tbl (ix % 256) st
  match w with
  | some v =>
    if st || !d.ownerRuns (d.edgeOwner tbl) then { d with fab := { d.fab with et := Tab.set d.fab.et key (v % 2 ^ 16) 0 } } else d
  | none => d.emit (.readDone .host (a + 4) (Tab.get d.fab.et key 0))

/-- ET_DATA of the host port (R377); a table above 11 does not exist. -/
def Dev.hostEt (d : Dev) (w : Option Nat) : Dev :=
  let t := d.rd Pg.host Reg.HOSTPORT.TBL
  let a := Pg.host + 0xA0
  (if t < 12 then d.edgeData t a w else if w.isNone then d.emit (.readDone .host (a + 4) 0) else d).advanceTrick a 4

/-- PT_DATA of a CSI port (R399). -/
def Dev.csiPt (d : Dev) (n : Nat) (w : Option Nat) : Dev := (d.edgeData (12 + n) (Pg.csi n + 0xA0) w).advanceTrick (Pg.csi n + 0xA0) 0

/-- ET_DATA of a Gostan link (R400). -/
def Dev.glEt (d : Dev) (k : Nat) (w : Option Nat) : Dev :=
  let t := d.rd (Pg.gl k) Reg.GLINK.TBL
  let a := Pg.gl k + 0x100
  (if t < 6 then d.edgeData (16 + 6 * k + t) a w else if w.isNone then d.emit (.readDone .host (a + 4) 0) else d).advanceTrick a 3

/-- CT_DATA (R377): the staged credit target of the addressed queue. -/
def Dev.hostCt (d : Dev) (v : Nat) : Dev :=
  let q := d.rd Pg.host Reg.HOSTPORT.CT_INDEX
  if q < 1536 then d.stageTarget q (v % 256) else d

/-- Bank of unit `u` of core `c` that an index register names; `none`: the active bank of a running domain, which is not written. -/
def Dev.unitBank (d : Dev) (c u : Nat) (staged : Bool) : Option Nat :=
  let b := d.bank (Bank.tile c u)
  if staged then some (1 - b) else if d.coreRuns c then none else some b

/-- Commit instruction `i` of a unit. -/
def Dev.putProg (d : Dev) (c u i v : Nat) (staged : Bool) : Dev :=
  match d.unitBank c u staged with
  | some b =>
    let k := ((16 * c + u) * 2 + b) * 512 + i
    (d.setTl (fun t => { t with prog := Tab.set t.prog k v 0 })).setUpset (Upset.prog k) 0
  | none => d

/-- Commit word `w` of descriptor `i` of a unit. -/
def Dev.putDesc (d : Dev) (c u i w v : Nat) (staged : Bool) : Dev :=
  match d.unitBank c u staged with
  | some b =>
    let k := ((16 * c + u) * 2 + b) * 32 + 2 * i + w
    (d.setTl (fun t => { t with desc := Tab.set t.desc k v 0 })).setUpset (Upset.desc k) 0
  | none => d

/-- Advance DI_WORD, then DI_INDEX, of the index word at `a` when AUTOINC is set. -/
def Dev.advanceDesc (d : Dev) (a : Nat) : Dev :=
  let w := d.word a
  if bitAt w 31 then
    let n := (2 * (w % 16) + bitsOf w 4 1 + 1) % 32
    d.setWord a (setBits (setBits w 0 4 (n / 2)) 4 1 n)
  else d

/-- PI_HI of an M tile (R163). -/
def Dev.mPiHi (d : Dev) (c m v : Nat) : Dev :=
  let pg := Pg.mtile c m
  let i := d.rd pg Reg.MTILE.PI_INDEX
  let d1 := (d.wr pg Reg.MTILE.PI_HI v).putProg c m i (d.rd pg Reg.MTILE.PI_LO + v * 2 ^ 32) (d.flag pg Reg.MTILE.PI_STAGED)
  if d.flag pg Reg.MTILE.PI_AUTOINC then d1.wr pg Reg.MTILE.PI_INDEX ((i + 1) % 256) else d1

/-- DI_HI of an M tile (R163). -/
def Dev.mDiHi (d : Dev) (c m v : Nat) : Dev :=
  let pg := Pg.mtile c m
  ((d.wr pg Reg.MTILE.DI_HI v).putDesc c m (d.rd pg Reg.MTILE.DI_INDEX) (d.rd pg Reg.MTILE.DI_WORD)
    (d.rd pg Reg.MTILE.DI_LO + v * 2 ^ 32) (d.flag pg Reg.MTILE.DI_STAGED)).advanceDesc (pg + 0x10C)

/-- PI_HI of a V tile (R201). -/
def Dev.vPiHi (d : Dev) (c u v : Nat) : Dev :=
  let pg := Pg.vtile c u
  let i := d.rd pg Reg.VTILE.PI_INDEX
  let d1 := (d.wr pg Reg.VTILE.PI_HI v).putProg c (10 + u) i (d.rd pg Reg.VTILE.PI_LO + v * 2 ^ 32) (d.flag pg Reg.VTILE.PI_STAGED)
  if d.flag pg Reg.VTILE.PI_AUTOINC then d1.wr pg Reg.VTILE.PI_INDEX ((i + 1) % 512) else d1

/-- DI_HI of a V tile (R201). -/
def Dev.vDiHi (d : Dev) (c u v : Nat) : Dev :=
  let pg := Pg.vtile c u
  ((d.wr pg Reg.VTILE.DI_HI v).putDesc c (10 + u) (d.rd pg Reg.VTILE.DI_INDEX) (d.rd pg Reg.VTILE.DI_WORD)
    (d.rd pg Reg.VTILE.DI_LO + v * 2 ^ 32) (d.flag pg Reg.VTILE.DI_STAGED)).advanceDesc (pg + 0x14C)

/-- FT_HI (R201); an entry above 64 does not exist. -/
def Dev.ftHi (d : Dev) (c u v : Nat) : Dev :=
  let pg := Pg.vtile c u
  let t := d.rd pg Reg.VTILE.FT_TABLE
  let e := d.rd pg Reg.VTILE.FT_ENTRY
  let d0 := d.wr pg Reg.VTILE.FT_HI v
  let d1 := match d.unitBank c (10 + u) (d.flag pg Reg.VTILE.FT_STAGED) with
    | some b =>
      if e ≤ 64 then
        let k := ((2 * c + u) * 2 + b) * 1024 + 128 * t + e
        (d0.setTl (fun x => { x with ftab := Tab.set x.ftab k (d.rd pg Reg.VTILE.FT_LO + v * 2 ^ 32) 0 })).setUpset (Upset.ftab k) 0
      else d0
    | none => d0
  if !d.flag pg Reg.VTILE.FT_AUTOINC then d1
  else if e < 64 then d1.wr pg Reg.VTILE.FT_ENTRY (e + 1)
  else (d1.wr pg Reg.VTILE.FT_ENTRY 0).wr pg Reg.VTILE.FT_TABLE ((t + 1) % 8)

/-! ### Descriptors -/

/-- Words 0x00, 0x04 and 0x08 of a fabric queue's descriptor may be written (R107). -/
def Dev.qWritable (d : Dev) (q : Nat) : Bool :=
  let st := d.dstate (d.qDom q)
  !d.qEn q || st == stEMPTY || st == stLOADED || st == stSWITCHING

/-- Enabled outbound host-port queues with PKT 1 (R361). -/
def Dev.pktQueues (d : Dev) : Nat :=
  (d.listedBqs.filter (fun b => decide (b < 1536) && d.bqPkt b)).length

/-- A write of a word of the queue descriptor table (R97, R107, R361). -/
def Dev.queueWord (d : Dev) (a v : Nat) : Dev :=
  let q := (a - Pg.queue 0) / 32
  let w := a % 32 / 4
  if q < 61440 then
    if 3 ≤ w then d.storeReg a v
    else if d.qWritable q then
      let d1 := d.storeReg a v
      if w = 0 ∧ d.qEn q = false ∧ d1.qEn q = true then d1.emptyQueue q else d1
    else d
  else
    let b := q - 61440
    if 3 ≤ w then d.storeReg a v
    else
      let new := storeFields Reg.BQD.all (4 * w) (d.word a) v
      let isOn (x : Nat) : Bool := bitAt x 4 && bitAt x 7 && bitAt x 9
      if b < 1536 ∧ w = 0 ∧ isOn new = true ∧ isOn (d.word a) = false ∧ 1024 ≤ d.pktQueues then d
      else d.bqDescWrite b w new

/-- A write of a descriptor word of a stream (R243, R256): ignored while the stream is enabled and its domain RUNNING or DRAINING. A change of
an enabled stream's descriptor cancels the stream (DEDUCED, log 150). -/
def Dev.sdescStore (d : Dev) (f s a v : Nat) : Dev :=
  let on := d.flag (Pg.sdesc f s) Reg.SDESC.EN
  if on && d.running (d.sd f s Reg.SDESC.DOM) then d
  else
    let d1 := d.storeReg a v
    if on && d1.word a != d.word a then d1.cancelStream f s else d1

/-- The stream is enabled with a descriptor that breaks a limit (R243). -/
def Dev.streamFaulty (d : Dev) (f s : Nat) : Bool := d.flag (Pg.sdesc f s) Reg.SDESC.EN && !d.streamLegal f s

/-- Software's write of a descriptor word: one that leaves an enabled stream with a fault it did not have raises STREAM_CFG, and the stream
stays idle (R243). -/
def Dev.sdescWrite (d : Dev) (f s a v : Nat) : Dev :=
  let d1 := d.sdescStore f s a v
  if d1.streamFaulty f s && !d.streamFaulty f s then d1.raise (Pg.fetch f) 6 (.dom (d1.sd f s Reg.SDESC.DOM)) else d1

/-- A write of a fetch page beyond the header (Tables 8.8 to 8.10, R243, R256, R273). -/
def Dev.fetchWord (d : Dev) (f a v : Nat) : Dev :=
  let o := a % 4096
  if 0x800 ≤ o then d.sdescWrite f ((o - 0x800) / 32) a v
  else if 0x600 ≤ o ∧ o % 8 = 0 then
    let s := (o - 0x600) / 8
    let d1 := if bitAt v 21 then d.cancelWrite f s else d
    match bitsOf v 22 2 with
    | 1 => d1.resolveRetry f s
    | 2 => d1.resolveCancel f s
    | _ => d1
  else d.storeReg a v

/-- RTT_CLR (R279). -/
def Dev.rttClr (d : Dev) (p : Nat) : Dev := d.wr (Pg.memport p) Reg.MEMPORT.RTT_MAX 0

/-- A write of a memory port's page beyond the header (Table 8.13). -/
def Dev.memportWord (d : Dev) (p a v : Nat) : Dev :=
  let o := a % 4096
  if 0x44 ≤ o ∧ o ≤ 0x50 then (if d.running ((o - 0x44) / 4) then d else d.storeReg a v)
  else if o = 0xD4 then (if bitAt v 31 then d.rttClr p else d)
  else d.storeReg a v

/-- A write of a core's page beyond the header, the core not fenced. -/
def Dev.corePageWord (d : Dev) (k : PageKind) (c a v : Nat) : Dev :=
  let o := a % 4096
  let cnt : Bool := decide (0x80 ≤ o ∧ o < 0xC0)
  match k with
  | .xnode =>
    if o = 0x84 then d.ttData c (some v)
    else if o = 0x88 then d.each (List.range 4) (fun d m => if bitAt v m && !d.running m then d.swapEvent m false else d)
    else if 0xA0 ≤ o ∧ o < 0xC0 then d.ownerStage c ((o - 0xA0) / 4) v
    else d.storeReg a v
  | .qeng =>
    if o = 0x48 then d.ltData c (some v)
    else if (cnt || decide (0x100 ≤ o ∧ o < 0x140)) && d.coreRuns c then d.storeKeep a v 20
    else d.storeReg a v
  | .mtile =>
    let m := a / 4096 % 32 - 3
    if o = 0x108 then d.mPiHi c m v
    else if o = 0x114 then d.mDiHi c m v
    else if cnt && d.coreRuns c then d.storeKeep a v 20
    else d.storeReg a v
  | .vtile =>
    let u := a / 4096 % 32 - 13
    if o = 0x148 then d.vPiHi c u v
    else if o = 0x154 then d.vDiHi c u v
    else if o = 0x160 then d.ftHi c u v
    else if cnt && d.coreRuns c then d.storeKeep a v 20
    else d.storeReg a v
  | .btile =>
    let b := a / 4096 % 32 - 15
    if 0x80 ≤ o ∧ o < 0x100 then (if d.running ((o - 0x80) / 8 % 4) then d else d.storeReg a v)
    else if 0x200 ≤ o ∧ o < 0x400 then
      let st := d.flag (Pg.btile c b) Reg.BTILE.STAGED
      let i := (o - 0x200) / 32
      let base := d.bmdAt c b i st
      if !st && d.running (d.qDom (1920 * c + d.rd base Reg.BMD.QUEUE)) then d
      else d.storeAt a (base + o % 32) v
    else d.storeReg a v
  | _ => d.storeReg a v

end Sys2Proof.Machine
end

