-- ==== Sys2Proof/Machine/LoadCheck.lean ====
section
/-!
DEFINITION. Steps 4 to 6 of a load (Table 9.7): equaliser pads, placement, and the resource checks, which are made on the configuration
that the image's records would bring about (R15, R28, R107, R164, R173, R218 to R226, R243, R253, R282 to R290, R361 to R363, R385, R391).
-/

namespace Sys2Proof.Machine

/-- Field of a loader command's parameters; offset 0 is byte 24 of the command (Table 12.8). -/
def LCmd.u (c : LCmd) (off n : Nat) : Nat := leNat ((c.params.drop off).take n)

/-! ### Equaliser pads (R290) -/

/-- Pads of the sixteen entries as one number of 64 bits, or the entry that does not match. -/
def Dev.pads (d : Dev) (bs : List Byte) : Except Nat Nat :=
  let lat := imgSection bs 2
  (List.range 16).foldl (fun (acc : Except Nat Nat) c =>
    match acc with
    | .error e => .error e
    | .ok v =>
      let i := imgU lat c 1
      let h := d.rd Pg.loader Reg.LOADER.LAT_CHIP c
      if h ≤ i ∧ i - h ≤ 8 then .ok (v + (i - h) * 16 ^ c) else .error c) (.ok 0)

/-! ### Placement (R287) -/

/-- Where a load puts an image: file and rank offset, first host-port queue, first entry of crossing memory. -/
structure Place where
  foff : Nat
  roff : Nat
  h0 : Nat
  m0 : Nat
  deriving DecidableEq, Repr

/-- Physical core of a virtual one. -/
def Place.core (p : Place) (v : Nat) : Nat := (v / 8 + p.roff) * 8 + v % 8 + p.foff

/-- Every used core lands on a core that exists, is not fenced and belongs to no domain. -/
def Dev.placeOk (d : Dev) (used : List Nat) (p : Place) : Bool :=
  used.all (fun v => decide (v % 8 + p.foff < 8 ∧ v / 8 + p.roff < 4) && !d.fenced (p.core v) && (d.coreDom (p.core v)).isNone)

/-- The offsets chosen: automatically in order, or the explicit ones when the image accepts them. -/
def Dev.choosePlace (d : Dev) (bs : List Byte) (place : Nat) : Option Place :=
  let u := imgU bs
  let used := imgUsed bs
  let span (lo hi : Nat) : List Nat := (List.range (hi + 1 - lo)).map (· + lo)
  let all := (span (u 0x14 1) (u 0x15 1)).flatMap (fun r => (span (u 0x12 1) (u 0x13 1)).map (fun f => (⟨f, r, 0, 0⟩ : Place)))
  (all.filter (fun p => place == 0xFF || (p.foff == place % 8 && p.roff == place / 8 % 4))).find? (fun p => d.placeOk used p)

/-- Payload flits of a record. -/
def CRec.items (r : CRec) : List Item := (chunks (r.data.length + 1) 32 r.data).map (fun b => Item.ofNat (leNat b))

/-- A record with its destination and the indices of Table 12.5 translated. -/
def CRec.placed (r : CRec) (p : Place) : CRec :=
  let a := Hdr.addr r.hdr
  let go (dest addr : Nat) (data : List Byte) : CRec :=
    { r with hdr := setBits (setBits r.hdr 0 6 dest) 48 48 addr, data := data }
  if r.dest < 32 then go (p.core r.dest) a r.data
  else if r.toEngine then go (r.dest + p.foff) a r.data
  else if r.dest = 44 then
    match Hdr.target r.hdr with
    | 0 => go 44 a ((cfgEntries a 2 r.data).flatMap (fun e =>
        leBytes 2 (if bitAt e.2 12 then setBits e.2 0 11 (e.2 % 2048 + p.h0) else e.2)))
    | 1 => go 44 (a + 2 * p.h0) r.data
    | 2 => go 44 (a + 16 * p.h0) ((cfgEntries a 4 r.data).flatMap (fun e =>
        leBytes 4 (if e.1 % 4 = 0 then setBits e.2 16 16 (bitsOf e.2 16 16 + p.m0) else e.2)))
    | 3 => go 44 (a + 4 * p.h0) r.data
    | _ => r
  else r

/-! ### The configuration that records bring about -/

/-- Enable the pages of a core for domain `m`, or take it out of its domain. -/
def Dev.setCorePages (d : Dev) (c m : Nat) (on : Bool) : Dev :=
  d.each (List.range 19) (fun d p =>
    (d.wr (Pg.core c p) Reg.HDR.ENABLE (if on then 1 else 0)).wr (Pg.core c p) Reg.HDR.DOMAIN (if on then m else 0))

/-- Presentation tables of edge blocks in which a placed record has a valid entry: Bank.edge numbers. -/
def CRec.edgeTables (r : CRec) : List Nat :=
  let valid := (cfgEntries (Hdr.addr r.hdr) 2 r.data).filter (fun e => bitAt e.2 12)
  if r.kind ≠ 6 then []
  else if r.dest < 32 then (if r.unit = 15 ∧ r.table = 0 ∧ valid.isEmpty = false then [12 + r.dest / 8] else [])
  else if Hdr.target r.hdr ≠ 0 then []
  else if r.dest = 44 then (valid.map (fun e => e.1 / 256)).filter (fun t => decide (6 ≤ t))
  else if r.dest = 45 ∨ r.dest = 46 then ((valid.map (fun e => e.1 / 256)).filter (fun t => decide (3 ≤ t))).map (fun t => 16 + 6 * (r.dest - 45) + t)
  else []

/-- Set OWNER_A of an edge block's presentation table (Bank.edge number): `some m`, or no owner. -/
def Dev.setEdgeOwner (d : Dev) (t : Nat) (o : Option Nat) : Dev :=
  let v := match o with | some m => 4 + m | none => 0
  if t < 12 then d.wr Pg.host Reg.HOSTPORT.OWNER_A (setBits (d.rd Pg.host Reg.HOSTPORT.OWNER_A) (3 * (t - 6)) 3 v)
  else if t < 16 then d.wr (Pg.csi (t - 12)) Reg.INGRESS.OWNER_A v
  else
    let k := (t - 16) / 6
    d.wr (Pg.gl k) Reg.GLINK.OWNER_A (setBits (d.rd (Pg.gl k) Reg.GLINK.OWNER_A) (3 * ((t - 16) % 6 - 3)) 3 v)

/-- Write a placed record to fetch engine `f` (DESIGN CHOICE, log 71). -/
def Dev.cfgFetch (d : Dev) (f : Nat) (r : CRec) : Dev :=
  (cfgEntries (Hdr.addr r.hdr) 4 r.data).foldl (fun (d : Dev) e =>
    match Hdr.target r.hdr with
    | 0 => if e.1 / 8 < 64 then d.sdescStore f (e.1 / 8) (Pg.sdesc f 0 + 4 * e.1) e.2 else d
    | 2 => if e.1 / 4 < 224 ∧ e.1 % 4 < 3 then d.bqDescWrite (fbq f (e.1 / 4)) (e.1 % 4) e.2 else d
    | _ => d) d

/-- Write a placed KIND 6 record. -/
def Dev.putRec (d : Dev) (r : CRec) : Dev :=
  if r.kind ≠ 6 then d
  else if r.toEngine then d.cfgFetch (r.dest - 32) r
  else if r.dest < 32 then d.cfgCore r.dest r.hdr r.items
  else if r.dest = 44 then d.cfgHost r.hdr r.items
  else if r.dest = 45 ∨ r.dest = 46 then d.cfgGl (r.dest - 45) r.hdr r.items
  else d

/-- Address that a REGS record writes under a placement. -/
def RegRec.addr (r : RegRec) (p : Place) : Nat :=
  if r.chip then (if r.page < 0x18 then r.page + p.foff else r.page) * 4096 + r.off else Pg.core (p.core r.vcore) r.page + r.off

/-- Write placed records and take the swap event. -/
def Dev.stageSwap (d : Dev) (m : Nat) (recs : List CRec) : Dev :=
  (recs.foldl (fun (d : Dev) r => (r.edgeTables.foldl (fun (d : Dev) t => d.setEdgeOwner t (some m)) d).putRec r) d).swapEvent m false

/-- Write the REGS records that address pages of cores. -/
def Dev.putCoreRegs (d : Dev) (p : Place) (regs : List RegRec) : Dev :=
  regs.foldl (fun (d : Dev) (r : RegRec) =>
    if r.chip then d
    else match pageKind (r.addr p / 4096) with
      | some (k, _) => d.corePageWord k (p.core r.vcore) (r.addr p) r.value
      | none => d) d

/-- A device with nothing but the domain's cores, after REGS records, placed records and their swap event. -/
def whatIf (m : Nat) (cores : List Nat) (p : Place) (regs : List RegRec) (recs : List CRec) : Dev :=
  let d0 := cores.foldl (fun (d : Dev) c => d.setCorePages c m true) Dev.reset
  let d1 := (d0.wr (Pg.ldom m) Reg.LDOM.FOFF p.foff).wr (Pg.ldom m) Reg.LDOM.ROFF p.roff
  (d1.putCoreRegs p regs).stageSwap m recs

/-- The devices that a round of segment switches passes through, from the one of the first list on. -/
def worldsOf (m : Nat) (d : Dev) : List (List CRec) → List Dev
  | [] => [d]
  | r :: rs => d :: worldsOf m (d.stageSwap m r) rs

/-! ### QUEUE_MAP -/

/-- `q` and `r` are the two queues of a split line buffer (R222). -/
def Dev.dualPair (d : Dev) (q r : Nat) : Bool :=
  match d.bmdOf q with
  | some i =>
    let a := d.qBmd q i
    d.rd a Reg.BMD.MODE == 1 && d.rd a Reg.BMD.DUAL != 0 &&
      ([d.rd a Reg.BMD.QUEUE, d.rd a Reg.BMD.QUEUE2] == [qLocal q, qLocal r] || [d.rd a Reg.BMD.QUEUE2, d.rd a Reg.BMD.QUEUE] == [qLocal q, qLocal r])
  | none => false

/-- The queue is read at a head of its own. -/
def Dev.headUsed (d : Dev) (q : Nat) : Bool :=
  !d.flag (Pg.queue q) Reg.FQ.WIN_CONS && !d.flag (Pg.queue q) Reg.FQ.OUT_CRED && d.qMode q != 4

/-- A descriptor breaks R107 among the enabled queues of its core. -/
def Dev.queueBad (d : Dev) (qs : List Nat) (q : Nat) : Bool :=
  let hp (x : Nat) : Nat := d.rd (Pg.queue x) Reg.FQ.HEAD_PORT
  let hs (x : Nat) : Nat := d.rd (Pg.queue x) Reg.FQ.HEAD_SLOT
  decide (d.qEn q = true ∧ d.qNet q = 3) ||
  decide (0 < d.qSize q ∧ 32768 < d.qBase q + d.qSize q) ||
  qs.any (fun r => decide (r < q ∧ 0 < d.qSize q ∧ 0 < d.qSize r ∧ d.qBase q < d.qBase r + d.qSize r ∧ d.qBase r < d.qBase q + d.qSize q) &&
    d.qTile r == d.qTile q && !d.dualPair q r) ||
  (d.headUsed q &&
    (portNet (hp q) != some (d.qNet q) || (portDir (hp q)).isSome ||
      qs.any (fun r => decide (r < q) && d.headUsed r && hp r == hp q && hs r == hs q)))

/-- A valid entry of a landing table (port below 59) or presentation table (60 to 63) of core `c` breaks R107. -/
def Dev.landBad (d : Dev) (c p e : Nat) : Bool :=
  let q := 1920 * c + e % 2048
  bitAt e 12 &&
    (if p < 59 then
      !bitAt e 11 && (decide (1920 ≤ e % 2048) || !d.qEn q || some (d.qNet q) != portNet p || ((p == 28 || p == 29 || p == 48 || p == 58) && d.qSize q == 0))
     else bitAt e 11 && p != 62)

/-- Body mode descriptor `i` of tile `b` of core `c` breaks R218 to R226. -/
def Dev.bmdBad (d : Dev) (c b i : Nat) : Bool :=
  let a := d.bmdAt c b i false
  let g (F : Fld) : Nat := d.rd a F
  let q := 1920 * c + g Reg.BMD.QUEUE
  let arg := g Reg.BMD.MODEARG
  let mode := g Reg.BMD.MODE
  let wrongQ (x : Nat) : Bool := decide (1920 ≤ g Reg.BMD.QUEUE) || d.qTile x != b || d.qSize x == 0
  let ih := g Reg.BMD.IH_M1 + 1
  let ch := g Reg.BMD.CH_M1 + 1
  let fpr := g Reg.BMD.FPR_M1 + 1
  let reach := (g Reg.BMD.DV_M1 + 1) * g Reg.BMD.KH_M1
  let same (F : Fld) : Bool := d.rd (d.bmdAt c b (g Reg.BMD.NEXT) false) F == g F
  if mode = 0 then arg != 0
  else
    (decide (5 ≤ mode) || wrongQ q ||
      (match mode with
        | 1 =>
          let q2 := 1920 * c + g Reg.BMD.QUEUE2
          g Reg.BMD.DUAL == 3 || arg != 0 || decide (ih + g Reg.BMD.PT + g Reg.BMD.PB < reach + 1) || decide (g Reg.BMD.NR < reach + 1) ||
            decide (d.qSize q < g Reg.BMD.NR * ch * fpr) || decide (fpr ≤ g Reg.BMD.LASTF) ||
            (g Reg.BMD.DUAL != 0 && (decide (1920 ≤ g Reg.BMD.QUEUE2) || d.qTile q2 != b || d.qBase q2 != d.qBase q || d.qSize q2 != d.qSize q)) ||
            (g Reg.BMD.CHAIN == 1 && !([Reg.BMD.QUEUE, Reg.BMD.QUEUE2, Reg.BMD.DUAL, Reg.BMD.CH_M1, Reg.BMD.FPR_M1, Reg.BMD.NR].all same))
        | 2 => decide (32 ≤ arg)
        | 3 => decide (2 ^ 17 ≤ arg ∨ perEntry (d.qNet q) * d.qSize q < arg % 2 ^ 16 + 1) || !d.flag (Pg.queue q) Reg.FQ.CRED_NONE
        | 4 => decide (2 ^ 12 ≤ arg) || d.flag (Pg.queue q) Reg.FQ.WIN_CONS
        | _ => false))

/-- The first fault of the queue map of core `c`: a local queue. -/
def Dev.coreQueueBad (d : Dev) (c : Nat) : Option Nat :=
  let qs := d.listedQueues.filter (fun q => qCore q == c)
  ((qs.find? (fun q => d.queueBad qs q)).map qLocal) <|>
  ((d.fab.lt.find? (fun (e : Nat × Nat) =>
      let k := e.1 / 512
      k / 64 == c && e.1 / 256 % 2 == d.bank (Bank.port c (k % 64)) && d.landBad c (k % 64) e.2)).map (fun e => e.2 % 2048)) <|>
  ((List.range 64).findSome? (fun k =>
    if d.bmdBad c (k / 16) (k % 16) then some (d.rd (d.bmdAt c (k / 16) (k % 16) false) Reg.BMD.QUEUE) else none))

/-- An edge presentation table of VNET or CNET has an entry with CRED 1 (R364, R391): the queue. -/
def edgeCredBad (recs : List CRec) : Option Nat :=
  recs.findSome? (fun r =>
    if r.kind = 6 ∧ Hdr.target r.hdr = 0 ∧ (r.dest = 44 ∨ r.dest = 45 ∨ r.dest = 46) then
      ((cfgEntries (Hdr.addr r.hdr) 2 r.data).find? (fun e =>
        let t := e.1 / 256
        bitAt e.2 12 && bitAt e.2 11 && decide (t % 3 ≠ 1 ∧ (if r.dest = 44 then 6 else 3) ≤ t))).map (fun e => e.2 % 2048)
    else none)

/-- A record enables a Gostan queue that is enabled already (R391). -/
def Dev.glHeld (d : Dev) (recs : List CRec) : Option Nat :=
  recs.findSome? (fun r =>
    if r.kind = 6 ∧ Hdr.target r.hdr = 2 ∧ (r.dest = 45 ∨ r.dest = 46) then
      ((cfgEntries (Hdr.addr r.hdr) 4 r.data).find? (fun e =>
        e.1 % 4 == 0 && bitAt e.2 4 && d.flag (Pg.bq (1792 + 256 * (r.dest - 45) + e.1 / 4)) Reg.BQD.EN)).map (fun e => e.1 / 4)
    else none)

/-! ### KERNEL_SIZE -/

/-- A record that writes an M tile descriptor whose kernel is too large, be it in force or not (R164): core, tile and descriptor. -/
def kernelRec (recs : List CRec) : Option (Nat × Nat × Nat) :=
  recs.findSome? (fun r =>
    if r.dest < 32 ∧ r.kind = 6 ∧ r.unit < 10 ∧ r.table = 1 then
      ((cfgEntries (Hdr.addr r.hdr) 8 r.data).find? (fun e => e.1 % 2 == 0 && (bitsOf e.2 12 3 == 7 || bitsOf e.2 15 3 == 7))).map
        (fun e => (r.dest, r.unit, e.1 / 2))
    else none)

/-- A descriptor in force whose kernel is too large (R164, R173): tile and descriptor. -/
def Dev.kernelBad (d : Dev) (c : Nat) : Option (Nat × Nat) :=
  ((List.range 160).findSome? (fun k =>
    let w := d.descWord c (k / 16) (k % 16) 0
    if bitsOf w 12 3 = 7 ∨ bitsOf w 15 3 = 7 then some (k / 16, k % 16) else none)) <|>
  ((List.range 1024).findSome? (fun k =>
    let u := 10 + k / 512
    let iw := d.instrAt c u (k % 512)
    let w := d.descWord c u (vDesc iw) 0
    if bitsOf iw 58 6 = 2 ∧ (bitsOf w 12 3 = 7 ∨ bitsOf w 15 3 = 7) then some (u, vDesc iw) else none))

/-! ### Boundary queues, reservations and claims -/

/-- The rings of boundary queues `b` of `w` and `r` of `x` share entries of one crossing memory. -/
def Dev.ringsMeet (w x : Dev) (b r : Nat) : Bool :=
  let lo (y : Dev) (q : Nat) : Nat := y.rd (Pg.bq q) Reg.BQD.BASE
  (bqBlock b).2.1 == (bqBlock r).2.1 && x.bqEn r && decide (lo w b < lo x r + x.bqCap r ∧ lo x r < lo w b + w.bqCap b)

/-- Boundary descriptor `b` of the image's configuration `w` is refused on device `d` (R108, R113): BASE no multiple of the capacity, ring outside
its block's memory, packets without a length or as long as the ring, or a ring that meets another of the image or, outside the host port, where
every image gets entries of its own (R362), one in use. -/
def Dev.ringBad (w d : Dev) (b : Nat) : Bool :=
  let base := w.rd (Pg.bq b) Reg.BQD.BASE
  let len := w.rd (Pg.bq b) Reg.BQD.PKT_LEN
  w.bqEn b &&
    (decide (base % w.bqCap b ≠ 0 ∨ xmemSize b < base + w.bqCap b) ||
      (w.flag (Pg.bq b) Reg.BQD.PKT && decide (len = 0 ∨ w.bqCap b ≤ len)) ||
      w.listedBqs.any (fun r => decide (r < b) && w.ringsMeet w b r) ||
      (decide (1536 ≤ b) && d.listedBqs.any (fun r => r != b && w.ringsMeet d b r)))

/-- Largest capacity and length of crossing memory that the host-port queues of the image use, before relocation. -/
def hostNeed (w : Dev) (n : Nat) : Nat × Nat :=
  (List.range n).foldl (fun acc b =>
    if w.bqEn b then (max acc.1 (w.bqCap b), max acc.2 (w.rd (Pg.bq b) Reg.BQD.BASE + w.bqCap b)) else acc) (0, 0)

/-- Length of a domain's reservation of crossing memory: kept beside its class A reservations. -/
def Dev.cmLen (d : Dev) (m : Nat) : Nat := Tab.get d.ldr.maxRsv (32 + m) 0

/-- The lowest run of `n` host-port queues that are not enabled and not reserved (R362). -/
def Dev.hostRun (d : Dev) (n : Nat) : Option Nat :=
  ((List.range (1536 - 64)).map (· + 64)).find? (fun h =>
    decide (h + n ≤ 1536) && (List.range n).all (fun i => !d.flag (Pg.bq (h + i)) Reg.BQD.EN && !d.hqAllocated (h + i)))

/-- The lowest aligned run of `len` entries of the host port's crossing memory that nothing uses (R362). -/
def Dev.crossRun (d : Dev) (align len : Nat) : Option Nat :=
  let taken : List (Nat × Nat) :=
    ((d.listedBqs.filter (fun b => decide (b < 1536))).map (fun b => (d.rd (Pg.bq b) Reg.BQD.BASE, d.bqCap b))) ++
    ((List.range 4).map (fun m => (d.rd Pg.host Reg.HOSTPORT.HQ_CMBASE m, d.cmLen m)))
  ((List.range (65536 / max 1 align)).map (· * max 1 align)).find? (fun a =>
    decide (a + len ≤ 65536) && taken.all (fun t => t.2 == 0 || decide (a + len ≤ t.1 ∨ t.1 + t.2 ≤ a)))

/-- REGS records of segment `g`. -/
def segRegs (bs : List Byte) (g : Nat) : List RegRec :=
  match (imgSects bs).find? (fun s => s.typ == 6 && s.seg == g) with | some s => regRecs (s.bytes bs) | none => []

/-- RSV of this domain that segment `g` names at port `p`: its REGS record, else RESOURCES; and the share of TAGA. -/
def rsvFrom (regs : List RegRec) (res : List Byte) (m p : Nat) (tag : Bool) : Nat :=
  let off := if tag then 0x54 else 0x44 + 4 * m
  match (regs.filter (fun r => r.chip && r.page == 0x19 + p && r.off == off)).getLast? with
  | some r => r.value % (if tag then 256 else 64)
  | none => imgU res ((if tag then 28 else 24) + p) 1

/-- The largest over the segments. -/
def maxSegRsv (bs : List Byte) (m p : Nat) (tag : Bool) : Nat :=
  (List.range (imgU bs 0x16 1)).foldl (fun n g => max n (rsvFrom (segRegs bs g) (imgSection bs 1) m p tag)) 0

/-- R28 and R253 with domain `m` added at the given largest reservations: port 0 to 3, or 4 for tags. -/
def Dev.reserveBad (d : Dev) (m : Nat) (rsv tags : Nat → Nat) : Option Nat :=
  let others := (List.range 4).filter (fun n => n != m && d.active n)
  let sum (f : Nat → Nat) : Nat := (others.map f).foldl (· + ·) 0
  ((List.range 4).find? (fun p => decide (48 < rsv p + sum (fun n => Tab.get d.ldr.maxRsv (8 * n + p) 0)))) <|>
  ((List.range 4).findSome? (fun p => if 192 < tags p + sum (fun n => Tab.get d.ldr.maxRsv (8 * n + 4 + p) 0) then some 4 else none))

/-- Ports that placed records give class A entries on (R288): 64·node code + port. -/
def recClaims (recs : List CRec) : List Nat :=
  recs.flatMap (fun r =>
    if r.kind ≠ 6 then []
    else if r.dest < 32 then
      (if r.unit = 13 ∧ r.table = 0 then ((cfgEntries (Hdr.addr r.hdr) 1 r.data).filter (fun e => e.2 / 32 == 3)).map (fun e => 64 * r.dest + e.1 / 256)
       else [])
    else r.edgeTables.map (fun t => 64 * r.dest + (if r.dest = 44 then t else (t - 16) % 6)))

/-- A set of ports as a bit map. -/
def claimMap (l : List Nat) : Nat := l.foldl (fun m k => m ||| 2 ^ k) 0

/-- The lowest claimed port that another domain that is not EMPTY claims. -/
def Dev.claimClash (d : Dev) (m mine : Nat) : Option Nat :=
  let others := ((List.range 4).filter (fun n => n != m && d.dstate n != stEMPTY)).foldl (fun v n => v ||| Tab.get d.ldr.claims n 0) 0
  (List.range (64 * 47)).find? (fun k => bitAt (mine &&& others) k)

/-! ### Step 6 -/

/-- Registers of the fetch engines as the REGS records of segments 0 to `g` leave them. -/
def Dev.putRegs (d : Dev) (bs : List Byte) (p : Place) (g : Nat) : Dev :=
  (List.range (g + 1)).foldl (fun (d : Dev) i =>
    (segRegs bs i).foldl
      (fun (d : Dev) (r : RegRec) => if r.chip && decide (r.page < 0x18) then d.storeReg (r.addr p) r.value else d) d) d

/-- The records to fetch engines among placed ones. -/
def Dev.putEngines (d : Dev) (recs : List CRec) : Dev := (recs.filter CRec.toEngine).foldl (fun (d : Dev) r => d.putRec r) d

/-- An enabled stream that breaks a limit: file and stream. -/
def Dev.streamBad (d : Dev) : Option (Nat × Nat) :=
  (List.range 512).findSome? (fun k =>
    if d.flag (Pg.sdesc (k / 64) (k % 64)) Reg.SDESC.EN && !d.streamLegal (k / 64) (k % 64) then some (k / 64, k % 64) else none)

/-- Virtual core of a physical one under a placement. -/
def Place.virt (p : Place) (c : Nat) : Nat := (rankOf c - p.roff) * 8 + (fileOf c - p.foff)

/-- The switch node that a record names exists under the placement. -/
def CRec.nodeThere (r : CRec) (p : Place) : Bool := decide (32 ≤ r.dest ∨ (r.dest % 8 + p.foff < 8 ∧ r.dest / 8 + p.roff < 4))

/-- Step 6 of a load: the place with its host-port run, or a result and detail. -/
def Dev.resources (d : Dev) (bs : List Byte) (m : Nat) (p0 : Place) : Except (Nat × Nat) Place :=
  let used := imgUsed bs
  let cores := used.map p0.core
  let hq := imgU (imgSection bs 1) 16 2
  let cfgs := imgConfigs bs
  let here (l : List CRec) : List CRec := l.map (fun r => r.placed p0)
  let world (l : List CRec) : Dev := whatIf m cores p0 (segRegs bs 0) (here l)
  -- a running image also stages each segment in the banks that the segment before last left
  let worlds := cfgs.map (fun c => world c.2.2) ++
    (imgRounds bs).flatMap (fun r => worldsOf m (world (r.headD [])) ((r.drop 1).map here))
  let need := worlds.foldl (fun acc w => let n := hostNeed w hq; (max acc.1 n.1, max acc.2 n.2)) (0, 0)
  let pkts := worlds.foldl (fun n w => max n w.pktQueues) 0
  let place : Option Place :=
    if hq = 0 then some p0
    else match d.hostRun hq, d.crossRun need.1 need.2 with
      | some h, some a => some { p0 with h0 := h, m0 := a }
      | _, _ => none
  match place with
  | none => .error (0xC, 44)
  | some p =>
    let recs := (imgRecs bs).map (fun r => r.placed p)
    let mine := claimMap (recClaims recs)
    let bad : Option (Nat × Nat) :=
      (failIf (decide (1024 < d.pktQueues + pkts)) 0xC 44) <|>
      ((d.reserveBad m (fun i => maxSegRsv bs m i false) (fun i => maxSegRsv bs m i true)).map (fun i => (0xD, i))) <|>
      ((d.claimClash m mine).map (fun k => (0xE, k / 64 + 256 * (k % 64)))) <|>
      (worlds.findSome? (fun w => cores.findSome? (fun c => (w.coreQueueBad c).map (fun q => (0xF, p.virt c + 32 * q))))) <|>
      ((edgeCredBad recs).map (fun q => (0xF, 32 * q))) <|>
      (worlds.findSome? (fun w => (w.listedBqs.find? (fun b => w.ringBad d b)).map (fun b => (0xF, 32 * (b - (bqBlock b).2.2))))) <|>
      ((d.glHeld recs).map (fun q => (0xF, 32 * q))) <|>
      (cfgs.findSome? (fun c =>
        ((Dev.reset.putRegs bs p c.2.1).putEngines (here c.2.2)).streamBad.map (fun s => (0x10, s.1 - p.foff + 8 * s.2)))) <|>
      ((kernelRec (imgRecs bs)).map (fun k => (0x11, k.1 + 32 * k.2.1 + 512 * k.2.2))) <|>
      (worlds.findSome? (fun w => cores.findSome? (fun c => (w.kernelBad c).map (fun k => (0x11, p.virt c + 32 * k.1 + 512 * k.2))))) <|>
      (cfgs.findSome? (fun c => failIf (c.2.2.any (fun r => !r.nodeThere p)) 0x1B c.1)) <|>
      imgRangeCheck bs <|> imgGlCheck bs
    match bad with
    | some e => .error e
    | none => .ok p

/-! ### Mode overlays (R294) -/

/-- Ports that placed records of the base configuration own: 64·core + output port, and 4,096 + Bank.edge number of an edge block's
presentation table. -/
def imgOwned (recs : List CRec) : List Nat :=
  recs.flatMap (fun r =>
    (if r.dest < 32 ∧ r.kind = 6 ∧ r.unit = 13 ∧ r.table = 1 then
      (cfgEntries (Hdr.addr r.hdr) 4 r.data).flatMap (fun e => (List.range 8).filterMap (fun j =>
        if bitAt e.2 (4 * j + 2) then some (64 * r.dest + 8 * e.1 + j) else none))
    else []) ++ r.edgeTables.map (· + 4096))

/-- Key of edge table `t` (Bank.edge number): a presentation table, or the node output that a landing table receives from. -/
def edgeKey (t : Nat) : Nat :=
  let north (c net : Nat) : Nat := 64 * c + (if net = 0 then 0 else if net = 1 then 32 else 52)
  if t < 6 then north (27 + t / 3) (t % 3)
  else if t < 16 then 4096 + t
  else if (t - 16) % 6 < 3 then north (if t < 22 then 25 else 30) ((t - 16) % 6)
  else 4096 + t

/-- Windows of the image's B tiles from segment 0's REGS: (core, tile, first word, last word). -/
def imgWindows (rs : List RegRec) (p : Place) : List (Nat × Nat × Nat × Nat) :=
  rs.filterMap (fun r =>
    if !r.chip && decide (15 ≤ r.page ∧ r.page ≤ 18) && decide (0x80 ≤ r.off ∧ r.off < 0x100) && r.off % 8 == 0 then
      match rs.find? (fun h => !h.chip && h.vcore == r.vcore && h.page == r.page && h.off == r.off + 4) with
      | some h => some (p.core r.vcore, r.page - 15, r.value % 2 ^ 17, h.value % 2 ^ 17)
      | none => none
    else none)

/-- What one placed record of a mode overlay may write (R294, R363): weights, words in the windows, programs, descriptors and function tables,
and entries of ports that the base configuration owns. -/
def CRec.inScope (r : CRec) (owned : List Nat) (wins : List (Nat × Nat × Nat × Nat)) : Bool :=
  let a := Hdr.addr r.hdr
  let n := r.data.length
  let edge (b : Nat) : Bool := (cfgEntries a 2 r.data).all (fun e => owned.contains (edgeKey (b + e.1 / 256)))
  match r.kind with
  | 0 => wins.any (fun w => w.1 == r.dest && w.2.1 == Hdr.target r.hdr % 4 && decide (w.2.2.1 ≤ a / 8 ∧ a / 8 + n / 8 ≤ w.2.2.2 + 1))
  | 1 => bitsOf (Hdr.target r.hdr) 4 2 == 0
  | 6 =>
    if r.dest = 44 then Hdr.target r.hdr == 0 && edge 0
    else if r.dest = 45 ∨ r.dest = 46 then Hdr.target r.hdr == 0 && edge (16 + 6 * (r.dest - 45))
    else if 32 ≤ r.dest then false
    else if r.unit < 12 then r.table == 0 || r.table == 1 || r.table == 3 || r.table == 4
    else if r.unit = 12 then
      r.table == 0 && (cfgEntries a 2 r.data).all (fun e => decide (60 ≤ e.1 / 256) || owned.contains (64 * r.dest + e.1 / 256))
    else if r.unit = 13 then r.table == 0 && (cfgEntries a 1 r.data).all (fun e => owned.contains (64 * r.dest + e.1 / 256))
    else if r.unit = 15 then r.table == 0 && owned.contains (4096 + 12 + rankOf r.dest)
    else false
  | _ => false

/-- Every M tile that the records write gets each of the 1,536 pieces of its half exactly once (R294). -/
def halvesWhole (recs : List CRec) : Option Nat :=
  let ws := recs.filter (fun r => r.kind == 1)
  (ws.find? (fun r =>
    let mine := (ws.filter (fun x => x.dest == r.dest && Hdr.target x.hdr % 16 == Hdr.target r.hdr % 16)).flatMap (fun x =>
      (List.range (x.data.length / 32)).map (fun i => Hdr.addr x.hdr / 32 + i))
    !(mine.length == 1536 && (List.range 1536).all (fun i => mine.contains i)))).map (·.off)

/-- OVL_SCOPE of a variant under a placement: offset of the first record out of scope. `regs` are the REGS records of segment 0, `confs` the
CONFIG records of each segment. -/
def scopeCheck (p : Place) (regs : List RegRec) (confs : List (List CRec)) (groups : List (List CRec)) : Option Nat :=
  let wins := imgWindows regs p
  groups.zipIdx.findSome? (fun (g : List CRec × Nat) =>
    let owned := imgOwned ((confs.getD g.2 []).map (fun r => r.placed p))
    match (g.1.map (fun r => r.placed p)).find? (fun r => !r.inScope owned wins) with
    | some r => some r.off
    | none => halvesWhole g.1)

end Sys2Proof.Machine
end

