-- ==== Sys2Proof/Machine/Loader.lean ====
section
/-!
DEFINITION. The loader (09_images_and_overlays.md): loading and unloading, starting, draining and stopping, segment switches, overlays,
folds, recovery and the position key. A row that writes configuration acts twice: its first execution sends the records, a later one, when
the fabric has delivered them, takes the swap event.
-/

namespace Sys2Proof.Machine

def Dev.ldr_ (d : Dev) (f : Ldr → Ldr) : Dev := { d with ldr := f d.ldr }

/-! ### The position key (R302 to R305) -/

/-- The fold that the fence map requires: the square of the domain's core that is fenced, or that another domain holds. -/
def Dev.requiredFold (d : Dev) (m : Nat) : Option Nat :=
  ((List.range 32).find? (fun c => bitAt (Tab.get d.ldr.cores m 0) c &&
    (d.fenced c || (match d.coreDom c with | some n => n != m | none => false)))).map (fun c => d.virtSq m c)

/-- What domain `m` contributes to the key. -/
def Dev.keyDomain (d : Dev) (h : List Byte) (m : Nat) : List Byte :=
  let P := Pg.ldom m
  let u (n : Nat) : List Byte := leBytes 1 n
  if d.dstate m = stEMPTY then sha256 (h ++ u m ++ u 0)
  else
    let base := (List.range 8).flatMap (fun i => leBytes 4 (d.rd P Reg.LDOM.BASE_DIGEST i))
    let h1 := sha256 (h ++ u m ++ u 1 ++ base ++ u (d.rd P Reg.LDOM.FOFF) ++ u (d.rd P Reg.LDOM.ROFF))
    let stopped := d.dstate m == stSTOPPED
    -- what recovery will reload stands in the key of a STOPPED domain
    let fold : Option Nat := if stopped then d.requiredFold m
      else if d.flag P Reg.LDOM.FOLDED then some (d.rd P Reg.LDOM.FOLD_SQ) else none
    let dig (typ i : Nat) : List Byte := match d.sectOf m typ i with | some (_, s) => s.digest | none => []
    let h2 := match fold with
      | some v => sha256 (h1 ++ u 2 ++ u v ++ dig 9 v)
      | none => h1
    let mode := d.rd P Reg.LDOM.MODE
    if mode = 0 ∨ stopped = true then h2 else sha256 (h2 ++ u 3 ++ u mode ++ u (Tab.get d.ldr.variantSq m 0xFF) ++ dig 8 mode)

/-- The position key of R302. -/
def Dev.positionKey (d : Dev) : List Byte :=
  let h1 := (List.range 4).foldl (fun h m => d.keyDomain h m) (sha256 (strBytes "THN-3240 PKEY v1"))
  let h2 := sha256 (h1 ++ leBytes 4 (d.rd Pg.fault Reg.FAULT.FENCE_MAP))
  let h3 := sha256 (h2 ++ (List.range 8).flatMap (fun i => leBytes 4 (d.rd Pg.loader Reg.LOADER.FW_DIGEST i)))
  (List.range 4).foldl (fun h m =>
    sha256 (h ++ leBytes 4 (d.rd (Pg.ldom m) Reg.LDOM.EQ_LO) ++ leBytes 4 (d.rd (Pg.ldom m) Reg.LDOM.EQ_HI))) h3

/-- The key and its epoch change together (R303). Before the first key of a boot nothing changes. -/
def Dev.keyChange (d : Dev) : Dev :=
  if d.ldr.keyValid then d.ldr_ (fun l => { l with key := BitVec.ofNat 256 (beNat d.positionKey), epoch := (l.epoch + 1) % 2 ^ 32 }) else d

/-- The first key of a boot, with epoch 0 (R303). -/
def Dev.firstKey (d : Dev) : Dev :=
  d.ldr_ (fun l => { l with key := BitVec.ofNat 256 (beNat d.positionKey), epoch := 0, keyValid := true })

/-- KEY_UPDATE: the fence map changed (R303). -/
def Dev.keyUpdate (d : Dev) : Dev :=
  if d.flt.keyDue then ({ d with flt := { d.flt with keyDue := false } } : Dev).keyChange else d

/-- KEY_LATCH (R305): the key and the epoch, or zeros before the first key. -/
def Dev.keyLatch (d : Dev) : Dev :=
  let k := if d.ldr.keyValid then beBytes 32 d.ldr.key.toNat else List.replicate 32 0
  let d1 := d.wr Pg.loader Reg.LOADER.KEY_EPOCH (if d.ldr.keyValid then d.ldr.epoch else 0)
  d1.each (List.range 8) (fun d i => d.wr Pg.loader Reg.LOADER.KEY (leNat ((k.drop (4 * i)).take 4)) i)

/-! ### Ends of commands -/

/-- Key bytes as eight words, byte 4i lowest in word i. -/
def Dev.keyWords (d : Dev) : List Nat := (chunks 9 4 (beBytes 32 d.ldr.key.toNat)).map leNat

/-- A CONFIG record (Table 11.4): load, unload, apply, fold or restore. -/
def Dev.configRecord (d : Dev) (m opc result : Nat) : Dev := d.record 8 ([m + opc % 16 * 4 + result % 256 * 2 ^ 8, d.ldr.epoch] ++ d.keyWords)

/-- Command codes that the CONFIG records of a fold and of a restore carry: the table gives them none. -/
def opcFold : Nat := 0xE
def opcRestore : Nat := 0xF

/-- The loader's present command for domain `m` ends. -/
def Dev.ldrDone (d : Dev) (m opc result detail : Nat) : Dev :=
  ((d.setJob m .idle).configRecord m opc result).ldrEnd result detail

/-- The command in front of the loader's queue when it is `opc` and the loader is free. -/
def Dev.ldrFront (d : Dev) (opc : Nat) : Option LCmd :=
  match d.ldr.queue with
  | c :: _ => if c.opc = opc ∧ d.flag Pg.loader Reg.LOADER.BUSY = false then some c else none
  | [] => none

/-! ### Reading the image copy -/

/-- Read a section of the image copy; none when it is poisoned or its digest differs, which is an image error (R296, R269). -/
def Dev.readSect (d : Dev) (m : Nat) (s : Sect) : Option (List Byte) × Dev :=
  match Tab.get d.ldr.img m none with
  | none => (none, d)
  | some im =>
    let (bs, ps, d1) := d.ddrRead (im.base + s.off) s.len .none_
    if ps.any id then (none, d1)
    else if sha256 bs != s.digest then (none, d1.imageUe (some m) (Pg.loader / 4096))
    else (some bs, d1)

/-- The section of a type with an index (8, 9) or for a segment (5, 6, 7), or the one of its type; one that does not exist is empty. -/
def Dev.readTyped (d : Dev) (m typ key : Nat) : Option (List Byte) × Dev :=
  match (Tab.get d.ldr.sects m []).find? (fun s => s.typ == typ && (if typ < 5 then true else if typ < 8 then s.seg == key else s.index == key)) with
  | some s => d.readSect m s
  | none => (some [], d)

def Dev.nseg (d : Dev) (m : Nat) : Nat := d.rd (Pg.ldom m) Reg.LDOM.NSEG_M1 + 1

/-- Placement of a loaded domain. -/
def Dev.placeOf (d : Dev) (m : Nat) : Place :=
  ⟨d.rd (Pg.ldom m) Reg.LDOM.FOFF, d.rd (Pg.ldom m) Reg.LDOM.ROFF, d.rd Pg.host Reg.HOSTPORT.HQ_BASE m, d.rd Pg.host Reg.HOSTPORT.HQ_CMBASE m⟩

/-- FOLDSQ of the fold that stands ov the base configuration; 0xFF: unfolded. -/
def Dev.foldKey (d : Dev) (m : Nat) : Nat := match Tab.get d.ldr.foldSq m none with | some v => v | none => 0xFF

/-- The variant of a MODE or FOLD section for a fold square: its length and its records by segment. -/
def pickVariant (b : List Byte) (nseg sq : Nat) : Option (Nat × List (List CRec)) :=
  (((variants b nseg).getD []).find? (fun v => v.1 == sq)).map (fun v => v.2)

/-- Records of the fold in force and of overlay `idx` for segment `g` (0: none); none when a section cannot be read. -/
def Dev.overRecs (d : Dev) (m idx g : Nat) (fold : Bool) : Option (List CRec) × Dev :=
  let part (d : Dev) (typ i sq : Nat) : Option (List CRec) × Dev :=
    match d.readTyped m typ i with
    | (some b, d1) => (some ((match pickVariant b (d.nseg m) sq with | some v => v.2.getD g [] | none => [])), d1)
    | (none, d1) => (none, d1)
  let (f, d1) := if fold && decide (d.foldKey m ≠ 0xFF) then part d 9 (d.foldKey m) (d.foldKey m) else (some [], d)
  let (o, d2) := if idx = 0 then (some [], d1) else part d1 8 idx (d.foldKey m)
  (match f, o with | some a, some b => some (a ++ b) | _, _ => none, d2)

/-- Records of the base configuration of segment `g`: CONFIG (typ 5) or PREFETCH (typ 7). -/
def Dev.baseRecs (d : Dev) (m typ g : Nat) : Option (List CRec) × Dev :=
  match d.readTyped m typ g with
  | (some b, d1) => (some (sectRecs b), d1)
  | (none, d1) => (none, d1)

/-- CONFIG records of the base configuration of segment `g` under the fold in force: those to the folded core are left out (R297). -/
def Dev.confRecs (d : Dev) (m g : Nat) : Option (List CRec) × Dev :=
  match d.baseRecs m 5 g with
  | (some b, d1) => (some (b.filter (fun r => r.dest != d1.foldKey m)), d1)
  | (none, d1) => (none, d1)

/-- M tiles whose weight store the records write. -/
def weightTiles (l : List CRec) : List (Nat × Nat) := l.filterMap (fun r => if r.kind = 1 then some (r.dest, r.unit) else none)

/-- Records without the weights of M tiles outside `ts`. -/
def keepWeights (ts : List (Nat × Nat)) (l : List CRec) : List CRec := l.filter (fun r => r.kind != 1 || ts.contains (r.dest, r.unit))

/-- M tiles whose weights the overlay in force wrote for segment `g`. -/
def Dev.modeTiles (d : Dev) (m g : Nat) : List (Nat × Nat) × Dev :=
  match d.overRecs m (d.rd (Pg.ldom m) Reg.LDOM.MODE) g false with
  | (some l, d1) => (weightTiles l, d1)
  | (none, d1) => ([], d1)

/-! ### Sending records (Table 9.7, step 8) -/

/-- Send one placed record as a class B packet of the loader, its header as the image has it (R282): a KIND 0 record with ACKREQ 1 is
acknowledged. -/
def Dev.sendRec (d : Dev) (m : Nat) (r : CRec) : Bool × Dev :=
  let (tx, d1) := d.nextTxid 44
  let t := Hdr.target r.hdr
  let ack := r.kind == 0 && bitAt t 2
  let (ok, d2) := d1.sendPacket 44 r.dest r.kind t (Hdr.addr r.hdr) tx 0 r.items (some m)
  let d3 := d2.count Pg.loader 0xF 4 (32 + r.data.length)
  let d4 : Dev := { d3 with hp := { d3.hp with ldrSent := (tx, m, r.off) :: d3.hp.ldrSent } }
  (ok, if ok && ack then { d4 with hp := { d4.hp with ldrTx := d4.hp.ldrTx ++ [(tx, m)] } } else d4)

/-- An OWNER_S word as the loader sends it: a field that the image leaves unowned and that another domain holds keeps its staged value (log
157). -/
def Dev.keepOwners (d : Dev) (m : Nat) (r : CRec) : CRec :=
  if r.dest < 32 ∧ r.kind = 6 ∧ r.unit = 13 ∧ r.table = 1 then
    { r with data := (cfgEntries (Hdr.addr r.hdr) 4 r.data).flatMap (fun e =>
        leBytes 4 ((List.range 8).foldl (fun v j =>
          match d.ownerS r.dest (8 * e.1 + j) with
          | some n => if n = m ∨ bitAt e.2 (4 * j + 2) = true then v else setBits v (4 * j) 4 (4 + n)
          | none => v) e.2)) }
  else r

/-- A record under the domain's placement, as it is sent. -/
def Dev.toSend (d : Dev) (m : Nat) (r : CRec) : CRec := d.keepOwners m (r.placed (d.placeOf m))

/-- Send the records of an image under the domain's placement: offset of the first that could not be sent. Records to fetch engines are no
packets: the loader writes them with the REGS records (DESIGN CHOICE, log 71). -/
def Dev.sendRecs (d : Dev) (m : Nat) (recs : List CRec) : Option Nat × Dev :=
  (recs.filter (fun r => !r.toEngine)).foldl (fun (acc : Option Nat × Dev) r =>
    match acc.2.sendRec m (acc.2.toSend m r) with
    | (true, d1) => (acc.1, d1)
    | (false, d1) => (acc.1 <|> some r.off, d1)) (none, d)

/-- A flit is the header of a packet that the loader sends: SRCN 44 and KIND 0, 1 or 6. -/
def ldrHeader (x : Item) : Bool :=
  let h := x.data.toNat
  Hdr.srcn h == 44 && (Hdr.kind h == 0 || Hdr.kind h == 1 || Hdr.kind h == 6)

/-- Every record that the loader sent has been delivered, and acknowledged where it asked for it. -/
def Dev.ldrQuiet (d : Dev) (m : Nat) : Bool :=
  (d.fab.buf ++ d.fab.send).all (fun e => e.2.all (fun f => !(f.head && ldrHeader f.item))) &&
  d.fab.bufNxt.all (fun e => !(e.2.head && ldrHeader e.2.item)) &&
  d.fab.parked.all (fun e => e.2.all (fun p => !ldrHeader (Item.ofNat p.hdr))) &&
  d.fab.inbox.all (fun e => match e.2 with | h :: _ => !ldrHeader h | [] => true) &&
  d.fab.inPk.all (fun e => e.2.all (fun p => match p with | h :: _ => !ldrHeader h | [] => true)) &&
  d.hp.ldrTx.all (fun e => e.2 != m)

/-- A record write of the domain was refused or poisoned (R296). -/
def Dev.ldrRefused (d : Dev) (m : Nat) : Bool := d.hp.refused.any (fun e => e.1 == m)

/-- Offset of the first record of the domain that was refused (Table 9.10). -/
def Dev.refusedAt (d : Dev) (m : Nat) : Nat := match d.hp.refused.reverse.find? (fun e => e.1 == m) with | some e => e.2 | none => 0

def Dev.ldrClear (d : Dev) (m : Nat) : Dev :=
  { d with hp := { d.hp with
      refused := d.hp.refused.filter (fun e => e.1 != m), ldrSent := d.hp.ldrSent.filter (fun e => e.2.1 != m) } }

def Dev.setSent (d : Dev) (m : Nat) (b : Bool) : Dev := d.ldr_ (fun l => { l with sent := Tab.set l.sent m b false })
def Dev.isSent (d : Dev) (m : Nat) : Bool := Tab.get d.ldr.sent m false

/-! ### REGS (R283) -/

/-- The loader writes RSV of the domain at port `p`, which is the image's value from here on (R70, R283). -/
def Dev.setRsv (d : Dev) (m p v : Nat) : Dev :=
  (d.wr (Pg.memport p) Reg.MEMPORT.RSV v m).ldr_ (fun l => { l with rsv := Tab.set l.rsv (4 * m + p) (v % 64) 0 })

/-- Write one REGS record; `chipOnly` leaves the pages of cores as they are. -/
def Dev.putReg (d : Dev) (m : Nat) (p : Place) (chipOnly : Bool) (r : RegRec) : Dev :=
  let a := r.addr p
  if r.chip then
    if r.page < 0x18 then
      -- the descriptors of an image keep the limits (R243), so a fault that stands between two of its records is none
      (let f := r.page - 0x10 + p.foff
      if 0x800 ≤ r.off then d.sdescStore f ((r.off - 0x800) / 32) a r.value else d.fetchWord f a r.value)
    else if r.off = 0x54 then d.ldr_ (fun l => { l with taga := Tab.set l.taga (4 * m + (r.page - 0x19)) (r.value % 256) 0 })
    else if r.off = 0x44 + 4 * m then d.setRsv m (r.page - 0x19) r.value
    else d
  else if chipOnly then d
  else
    let c := p.core r.vcore
    match d.coreWrite (a / 4096), pageKind (a / 4096) with
    | (true, d1), some (k, _) => d1.corePageWord k c a r.value
    | (_, d1), _ => d1

/-- The records of segment `g` to fetch engines, of the base configuration and of the fold in force (R26, R297). -/
def Dev.engineRecs (d : Dev) (m g : Nat) : Dev :=
  match d.confRecs m g with
  | (some b, d1) =>
    (match d1.overRecs m 0 g true with
      | (some o, d2) => d2.putEngines ((b ++ o).map (fun r => r.placed (d2.placeOf m)))
      | (none, d2) => d2)
  | (none, d1) => d1

/-- The REGS records of segment `g`, after the reservations and tag shares of RESOURCES, and then the records to fetch engines. The pages of a
folded core are left as they are. -/
def Dev.segRegs (d : Dev) (m g : Nat) (chipOnly : Bool) : Dev :=
  match d.readTyped m 1 0 with
  | (some res, d0) =>
    (match d0.readTyped m 6 g with
      | (some b, d1) =>
        let d2 := d1.each (List.range 4) (fun d i =>
          (d.setRsv m i (imgU res (24 + i) 1)).ldr_ (fun l =>
            { l with taga := Tab.set l.taga (4 * m + i) (imgU res (28 + i) 1) 0 }))
        let regs := (regRecs b).filter (fun r => r.chip || r.vcore != d2.foldKey m)
        ((regs.foldl (fun (d : Dev) r => d.putReg m (d.placeOf m) chipOnly r) d2).engineRecs m g).tagaUpdate
      | (none, d1) => d1)
  | (none, d0) => d0

/-! ### Placed PREFETCH copies (Table 9.7, step 7) -/

/-- The bytes of a packet list of placed records, with the record that ends it. -/
def listBytes (recs : List CRec) : List Byte :=
  recs.flatMap (fun r => leBytes 32 r.hdr ++ r.data) ++ leBytes 32 (7 * 2 ^ 13)

/-- Physical address that the image's MAP gives an address in the arena. -/
def mapArena (map : List Byte) (arena va : Nat) : Option Nat :=
  (chunks (map.length + 1) 32 map).findSome? (fun r =>
    let base := imgU r 0 6
    let size := if bitAt (imgU r 16 1) 1 then 2 ^ 21 else 4096
    if base ≤ va ∧ va < base + (imgU r 8 4 + 1) * size ∧ bitAt (imgU r 16 1) 0 = false then
      some (arena + imgU r 12 4 * 4096 + (va - base)) else none)

/-- Where the placed copy for segment `g` lies: where the first PREFETCH stream of the segment before it reads. -/
def prefetchAt (bs : List Byte) (p : Place) (arena g : Nat) : Option Nat :=
  let w := Dev.reset.putRegs bs p (g - 1)
  match (List.range 512).find? (fun k =>
      w.flag (Pg.sdesc (k / 64) (k % 64)) Reg.SDESC.EN && w.sd (k / 64) (k % 64) Reg.SDESC.KIND == 7) with
  | some k =>
    let va := w.sd (k / 64) (k % 64) Reg.SDESC.MAPBASE_LO + 2 ^ 32 * w.sd (k / 64) (k % 64) Reg.SDESC.MAPBASE_HI
    mapArena (imgSection bs 3) arena va
  | none => none

/-- Write bytes to DDR5. -/
def Dev.ddrPut (d : Dev) (pa : Nat) (bs : List Byte) : Dev := d.ddrWrite (bs.length / 64 + 2) pa (bs.map some) .none_

/-- Write the placed copy of every later segment: its PREFETCH records, then those of the fold and of overlay `idx`; whether every section
could be read. -/
def Dev.prefetchCopies (d : Dev) (m idx : Nat) : Bool × Dev :=
  (List.range (d.nseg m - 1)).foldl (fun (acc : Bool × Dev) i =>
    let g := i + 1
    match acc.2.baseRecs m 7 g with
    | (some base, d1) =>
      (match d1.overRecs m idx g true with
        | (some ov, d2) =>
          let at_ := Tab.get d2.ldr.pfetch (8 * m + g) 0
          let l := ((base ++ ov).filter (fun r => !r.toEngine)).map (d2.toSend m)
          (acc.1, if at_ = 0 then d2 else d2.ddrPut (at_ - 1) (listBytes l))
        | (none, d2) => (false, d2))
    | (none, d1) => (false, d1)) (true, d)

/-! ### Page tables (R284, Table 8.5) -/

/-- Page tables under construction: pages used, and entries by 512·page + slot. -/
structure PtBuild where
  next : Nat
  ents : Tab Nat
  deriving DecidableEq, Repr

/-- The page that slot `i` of page `p` leads to, a new one when it leads nowhere; none: no page is left. -/
def PtBuild.child (t : PtBuild) (base cap p i : Nat) : Option (Nat × PtBuild) :=
  let e := Tab.get t.ents (512 * p + i) 0
  if e % 4 = 1 then some ((bitsOf e 12 36 * 4096 - base) / 4096, t)
  else if t.next < cap then
    some (t.next, { next := t.next + 1, ents := Tab.set t.ents (512 * p + i) (base + 4096 * t.next + 1) 0 })
  else none

/-- Map one page: a 2 MiB leaf at the second level, or a 4 KiB leaf at the first. -/
def PtBuild.map (t : PtBuild) (base cap va pa : Nat) (big rd wr : Bool) : Option PtBuild :=
  let fl := 1 + (if big then 2 else 0) + (if rd then 4 else 0) + (if wr then 8 else 0)
  match t.child base cap 0 (bitsOf va 39 9) with
  | none => none
  | some (p3, t3) =>
    match t3.child base cap p3 (bitsOf va 30 9) with
    | none => none
    | some (p2, t2) =>
      if big then some { t2 with ents := Tab.set t2.ents (512 * p2 + bitsOf va 21 9) (pa + fl) 0 }
      else match t2.child base cap p2 (bitsOf va 21 9) with
        | none => none
        | some (p1, t1) => some { t1 with ents := Tab.set t1.ents (512 * p1 + bitsOf va 12 9) (pa + fl) 0 }

/-- The tables of a MAP section: `host` is the physical address that offset 0 of the host region has; none: too few pages. -/
def buildTables (map : List Byte) (base cap arena host : Nat) : Option PtBuild :=
  (chunks (map.length + 1) 32 map).foldl (fun (acc : Option PtBuild) r =>
    let fl := imgU r 16 1
    let big := bitAt fl 1
    let size := if big then 2 ^ 21 else 4096
    let pa := (if bitAt fl 0 then host else arena) + imgU r 12 4 * 4096
    (List.range (imgU r 8 4 + 1)).foldl (fun (acc : Option PtBuild) i => match acc with
      | none => none
      | some t => t.map base cap (imgU r 0 6 + i * size) (pa + i * size) big (bitAt fl 2) (bitAt fl 3)) acc)
    (if cap = 0 then none else some ⟨1, []⟩)

/-- Write the tables to DDR5. -/
def Dev.putTables (d : Dev) (base : Nat) (t : PtBuild) : Dev :=
  let d0 := d.ddrPut base (List.replicate (4096 * t.next) 0)
  t.ents.foldl (fun (d : Dev) (e : Nat × Nat) => d.ddrPut (base + 8 * e.1) (leBytes 8 e.2)) d0

/-! ### Releasing a domain -/

/-- Return a domain to EMPTY and release what it holds: cores, ports, queues, streams, translations, reservations (R286, R362, R269). -/
def Dev.clearDomain (d : Dev) (m : Nat) : Dev :=
  let P := Pg.ldom m
  let cores := d.domCores m
  let d0 := (d.cancelDomain m).emptyDomain m
  let d1 := d0.each (d0.listedQueues.filter (fun q => d0.qDom q == m)) (fun d q => d.wr (Pg.queue q) Reg.FQ.EN 0)
  let h0 := d1.rd Pg.host Reg.HOSTPORT.HQ_BASE m
  let hn := d1.rd Pg.host Reg.HOSTPORT.HQ_N m
  let d2 := d1.each (d1.listedBqs.filter (fun b => decide (1536 ≤ b) && d1.bqDom b == m)) (fun d b => d.wr (Pg.bq b) Reg.BQD.EN 0)
  let d3 := d2.each ((List.range hn).map (· + h0)) (fun d b => (d.ringDisable b).wr (Pg.bq b) Reg.BQD.EN 0)
  let d4 := d3.each (List.range 512) (fun d k =>
    let a := Pg.sdesc (k / 64) (k % 64)
    if d.flag a Reg.SDESC.EN && d.rd a Reg.SDESC.DOM == m then d.wr a Reg.SDESC.EN 0 else d)
  let d5 := d4.each (List.range (32 * 59)) (fun d k =>
    let c := k / 59
    let p := k % 59
    let a := if d.ownerA c p = some m then d.setOwnerNib Reg.XNODE.OWNER_A c p 0 else d
    if a.ownerS c p = some m then a.setOwnerNib Reg.XNODE.OWNER_S c p 0 else a)
  let d6 := d5.each (List.range 28) (fun d t =>
    if (decide (6 ≤ t ∧ t < 16) || decide (3 ≤ (t - 16) % 6 ∧ 16 ≤ t)) && d.edgeOwner t == some m then d.setEdgeOwner t none else d)
  let d7 := d6.each cores (fun d c =>
    (d.each (List.range 4) (fun d b => d.each (List.range 4) (fun d i =>
      (d.wr (Pg.btile c b) Reg.BTILE.IMG_LO 0x1FFFF i).wr (Pg.btile c b) Reg.BTILE.IMG_HI 0 i))).setCorePages c m false)
  let d8 := d7.each (List.range 4) (fun d p =>
    (d.wr (Pg.memport p) Reg.MEMPORT.RSV 0 m).each (List.range 2) (fun d j =>
      (d.wr (Pg.memport p) Reg.MEMPORT.IMG_LO 0xFFFFFFFF (2 * m + j)).wr (Pg.memport p) Reg.MEMPORT.IMG_HI 0 (2 * m + j)))
  let d9 := ((((d8.unpin m 0 (2 ^ 36)).tlbPurge m 0 (2 ^ 36)).wr Pg.mmu Reg.MMU.EN 0 m).wr Pg.mmu Reg.MMU.ROOT_LO 0 m).wr Pg.mmu Reg.MMU.ROOT_HI 0 m
  let d10 := ((d9.wr Pg.host Reg.HOSTPORT.HQ_BASE 0 m).wr Pg.host Reg.HOSTPORT.HQ_N 0 m).wr Pg.host Reg.HOSTPORT.HQ_CMBASE 0 m
  let keep := d10.word P &&& (2 ^ 3 + 2 ^ 14)
  let d11 := ((((d10.setWord P keep).wr P Reg.LDOM.SCHED_LAT 0).wr P Reg.LDOM.PHI 0).wr P Reg.LDOM.EQ_LO 0).wr P Reg.LDOM.EQ_HI 0
  let d12 := d11.each (List.range 8) (fun d i => d.wr P Reg.LDOM.BASE_DIGEST 0 i)
  let d13 := d12.ldr_ (fun l => { l with
    job := Tab.set l.job m .idle .idle
    img := Tab.set l.img m none none
    sects := Tab.set l.sects m [] []
    cores := Tab.set l.cores m 0 0
    foldSq := Tab.set l.foldSq m none none
    drainCmd := Tab.set l.drainCmd m false false
    applyPend := Tab.set l.applyPend m none none
    folding := Tab.set l.folding m false false
    sent := Tab.set l.sent m false false
    claims := Tab.set l.claims m 0 0
    segPend := Tab.set l.segPend m false false
    segDrain := Tab.set l.segDrain m false false
    taga := l.taga.filter (fun e => e.1 / 4 != m)
    maxRsv := l.maxRsv.filter (fun e => if e.1 < 32 then e.1 / 8 != m else e.1 != 32 + m)
    resume := Tab.set l.resume m false false
    pfetch := l.pfetch.filter (fun e => e.1 / 8 != m)
    variantSq := Tab.set l.variantSq m 0 0
    inFrames := Tab.set l.inFrames m 0 0
    rsv := l.rsv.filter (fun e => e.1 / 4 != m) })
  { d13 with flt := { d13.flt with
      mark := Tab.set d13.flt.mark m 0 0
      bound := d13.flt.bound.filter (fun e => e.1 / 16 != m)
      wasRun := Tab.set d13.flt.wasRun m false false
      foldNone := Tab.set d13.flt.foldNone m false false
      recFailed := Tab.set d13.flt.recFailed m false false
      byStop := Tab.set d13.flt.byStop m false false
      quiet := Tab.set d13.flt.quiet m none none
      recovering := Tab.set d13.flt.recovering m false false
      recStart := Tab.set d13.flt.recStart m none none
      recArmed := Tab.set d13.flt.recArmed m false false } }

/-! ### LOAD_IMAGE (Table 9.7) -/

/-- Records of the section of a type for segment `g`. -/
def segSectRecs (bs : List Byte) (typ g : Nat) : List CRec :=
  match (imgSects bs).find? (fun s => s.typ == typ && s.seg == g) with | some s => sectRecs (s.bytes bs) | none => []

/-- The image as the loader reads it, with the offset of the first byte that could not be read. -/
def Dev.imgRead (d : Dev) (c : LCmd) (img : HostRead) : List Byte × Option Nat × Dev :=
  let n := c.u 8 4
  if c.u 32 1 = 1 then
    (img.data.take n, if img.poisoned then some 0 else if img.data.length < n then some img.data.length else none,
      if img.poisoned then (d.raise Pg.host 3 .none_).aer 12 else d)
  else
    let a := c.u 0 8
    let have_ := min n (d.ddrCap - a)
    let (bs, ps, d1) := d.ddrRead a have_ .none_
    (bs, (ps.findIdx? id) <|> (if have_ < n then some have_ else none), d1)

/-- Physical address of offset 0 of the host region. -/
def Dev.hostRegion (d : Dev) (base : Nat) : Nat :=
  2 ^ 47 + base - (d.rd Pg.mmu Reg.MMU.HOST_OFFSET 0 + d.rd Pg.mmu Reg.MMU.HOST_OFFSET 1 * 2 ^ 32)

/-- The host region lies where a physical address can reach it (R263, step 1). -/
def Dev.hostRegionOk (d : Dev) (base pages : Nat) : Bool :=
  let off := d.rd Pg.mmu Reg.MMU.HOST_OFFSET 0 + d.rd Pg.mmu Reg.MMU.HOST_OFFSET 1 * 2 ^ 32
  pages == 0 || decide (off ≤ base ∧ base + pages * 4096 - off ≤ 2 ^ 47)

/-- Step 1: the domain's state, and the arena inside installed DDR5. -/
def Dev.loadFirst (d : Dev) (c : LCmd) : Option (Nat × Nat) :=
  (failIf (d.dstate c.dom != stEMPTY) 1 (d.dstate c.dom)) <|> (failIf (decide (d.ddrCap < c.u 16 8 + c.u 12 4 * 2 ^ 21)) 0x14 0)

/-- The rest of step 1, which needs the header, and steps 2 and 3: result and detail of the first check that fails. -/
def Dev.loadVerify (d : Dev) (c : LCmd) (bs : List Byte) (fail : Option Nat) : Option (Nat × Nat) :=
  let u := imgU bs
  let signer := u 0xE 1
  let headEnd := 0x100 + 64 * u 0x1A 2
  let readErr (lim : Nat) : Option (Nat × Nat) := match fail with | some o => failIf (decide (o < lim)) 9 o | none => none
  readErr 0x100 <|> readErr (min headEnd (c.u 8 4)) <|>
  imgHeadCheck bs (c.u 8 4) <|> imgSectCheck bs <|> imgCountCheck bs <|>
  (failIf (match d.plat.fuse.signerHash signer with | some h => shaNat ((bs.drop 0x40).take 64) != h | none => true) 6 signer) <|>
  (failIf (decide (c.u 12 4 < u 0x20 4) || !d.hostRegionOk (c.u 24 8) (u 0x24 4)) 0x14 0) <|>
  readErr (2 ^ 64) <|> imgDigestCheck bs <|> imgSigCheck bs <|> imgContentCheck bs

/-- Pin the lock list (R272): a failing record's result and detail. -/
def Dev.pinLocks (d : Dev) (m : Nat) (locks : List Byte) (ptes : List HostPte) : Option (Nat × Nat) × Dev :=
  let r := (chunks (locks.length + 1) 16 locks).zipIdx.foldl
    (fun (acc : Option (Nat × Nat) × List HostPte × Dev) e => match acc with
      | (some x, h, d) => (some x, h, d)
      | (none, h, d) =>
        match d.lockRange m (imgU e.1 0 6) (imgU e.1 8 4 + 1) h with
        | (some k, _, h1, d1) => (some (if k = 3 then (0x12, 0) else (0x13, e.2)), h1, d1)
        | (none, leaves, h1, d1) => (failIf (leaves.any (fun t => bitAt t.pa 47)) 0x13 e.2, h1, d1)) (none, ptes, d)
  (r.1, r.2.2)

/-- Ranges of words that KIND 0 records fill in tile `b` of core `c`, ascending; beyond four, the rest is one range. -/
def imgRanges (recs : List CRec) (c b : Nat) : List (Nat × Nat) :=
  let rs := (recs.filter (fun r => r.kind == 0 && r.dest == c && Hdr.target r.hdr % 4 == b && !r.data.isEmpty)).map (fun r =>
    (Hdr.addr r.hdr / 8, (Hdr.addr r.hdr + r.data.length - 1) / 8))
  let sorted := (rs.map (·.1)).foldl (fun l k => insertKey k l) []
  let joined := sorted.foldl (fun (l : List (Nat × Nat)) lo =>
    let hi := (rs.filter (fun r => r.1 == lo)).foldl (fun n r => max n r.2) lo
    match l.getLast? with
    | some p => if lo ≤ p.2 + 1 then l.dropLast ++ [(p.1, max p.2 hi)] else l ++ [(lo, hi)]
    | none => [(lo, hi)]) []
  if joined.length ≤ 4 then joined
  else joined.take 3 ++ [((joined.getD 3 (0, 0)).1, (joined.getLast?.getD (0, 0)).2)]

/-- Step 8 but for the records: registers, reservations, owners and image ranges of the placed image. -/
def Dev.loadSet (d : Dev) (c : LCmd) (bs : List Byte) (pads : Nat) (p : Place) (copy : Nat) : Dev :=
  let m := c.dom
  let P := Pg.ldom m
  let u := imgU bs
  let res := imgSection bs 1
  let cores := (imgUsed bs).map p.core
  let nseg := u 0x16 1
  let d1 := ((((((d.wr P Reg.LDOM.NSEG_M1 (nseg - 1)).wr P Reg.LDOM.FOFF p.foff).wr P Reg.LDOM.ROFF p.roff).wr P Reg.LDOM.VW_M1 (u 0x10 1 - 1)).wr
    P Reg.LDOM.VH_M1 (u 0x11 1 - 1)).wr P Reg.LDOM.EQ_LO (pads % 2 ^ 32)).wr P Reg.LDOM.EQ_HI (pads / 2 ^ 32)
  let d2 := ((d1.wr P Reg.LDOM.SCHED_LAT (imgU res 8 4)).wr P Reg.LDOM.PHI (imgU res 5 2)).wr P Reg.LDOM.HOLD_LIMIT
    (max 10 (min 1000000 (imgU res 12 4)))
  let dig := imgDigest bs
  let d3 := d2.each (List.range 8) (fun d i => d.wr P Reg.LDOM.BASE_DIGEST (leNat ((dig.drop (4 * i)).take 4)) i)
  let d4 := d3.each (List.range 32) (fun d n => d.wr (Pg.xnode n) Reg.XNODE.ROUND_M1 (imgU res 4 1) m)
  let d5 := d4.each cores (fun d n => d.setCorePages n m true)
  let hq := imgU res 16 2
  let d6 := if hq = 0 then d5
    else ((d5.wr Pg.host Reg.HOSTPORT.HQ_BASE p.h0 m).wr Pg.host Reg.HOSTPORT.HQ_N hq m).wr Pg.host Reg.HOSTPORT.HQ_CMBASE p.m0 m
  let recs := (imgRecs bs).map (fun r => r.placed p)
  let d7 := d6.each (recs.flatMap CRec.edgeTables) (fun d t => d.setEdgeOwner t (some m))
  let seg0 := (segSectRecs bs 5 0).map (fun (r : CRec) => r.placed p)
  let d8 := d7.each cores (fun d n => d.each (List.range 4) (fun d b =>
    (imgRanges seg0 n b).zipIdx.foldl (fun (d : Dev) e =>
      (d.wr (Pg.btile n b) Reg.BTILE.IMG_LO e.1.1 e.2).wr (Pg.btile n b) Reg.BTILE.IMG_HI e.1.2 e.2) d))
  let d9 := d8.each (List.range 4) (fun d q =>
    if d.flag (Pg.memport q) Reg.MEMPORT.PRESENT then
      (d.wr (Pg.memport q) Reg.MEMPORT.IMG_LO (copy / 4096) (2 * m)).wr (Pg.memport q) Reg.MEMPORT.IMG_HI ((copy + u 0x1C 4 - 1) / 4096) (2 * m)
    else d)
  let need := (imgConfigs bs).foldl (fun n x => max n (hostNeed (whatIf m cores { p with h0 := 0, m0 := 0 } []
    (x.2.2.map (fun r => r.placed { p with h0 := 0, m0 := 0 }))) hq).2) 0
  let rsv := (List.range 8).foldl (fun (t : Tab Nat) k =>
    Tab.set t (8 * m + k) (maxSegRsv bs m (k % 4) (decide (4 ≤ k))) 0) (Tab.set d9.ldr.maxRsv (32 + m) need 0)
  d9.ldr_ (fun l => { l with
    img := Tab.set l.img m (some ⟨copy, u 0x1C 4, c.u 16 8, c.u 12 4 * 2 ^ 21, c.u 24 8⟩) none
    sects := Tab.set l.sects m (imgSects bs) []
    cores := Tab.set l.cores m (claimMap cores) 0
    claims := Tab.set l.claims m (claimMap (recClaims recs)) 0
    variantSq := Tab.set l.variantSq m 0xFF 0
    maxRsv := rsv })

/-- Step 7: page tables, locks and the addresses of the placed copies; a failure's result and detail. -/
def Dev.loadMap (d : Dev) (c : LCmd) (bs : List Byte) (ptes : List HostPte) (p : Place) : Option (Nat × Nat) × Dev :=
  let m := c.dom
  let arena := c.u 16 8
  let map := imgSection bs 3
  let cap := imgU (imgSection bs 1) 32 4
  let size := c.u 12 4 * 2 ^ 21
  let base := arena + size - cap * 4096
  let (r1, d1) : Option (Nat × Nat) × Dev :=
    if map.isEmpty ∧ cap = 0 then (none, d)
    else if size < cap * 4096 then (some (0x14, 0), d)
    else match buildTables map base cap arena (d.hostRegion (c.u 24 8)) with
      | none => (some (0x14, 0), d)
      | some t => (none, (((d.putTables base t).wr Pg.mmu Reg.MMU.ROOT_LO (base / 4096) m).wr Pg.mmu Reg.MMU.ROOT_HI (base / 2 ^ 32) m).wr
          Pg.mmu Reg.MMU.EN 1 m)
  match r1 with
  | some e => (some e, d1)
  | none =>
    match d1.pinLocks m (imgSection bs 4) ptes with
    | (some e, d2) => (some e, d2)
    | (none, d2) =>
      (List.range (imgU bs 0x16 1 - 1)).foldl (fun (acc : Option (Nat × Nat) × Dev) i =>
        match acc.1, prefetchAt bs p arena (i + 1) with
        | some e, _ => (some e, acc.2)
        | none, none => (some (0x14, 0), acc.2)
        | none, some a =>
          let list := listBytes ((segSectRecs bs 7 (i + 1)).map (fun (r : CRec) => acc.2.keepOwners m (r.placed p)))
          if arena + size < a + list.length then (some (0x14, 0), acc.2)
          else (none, (acc.2.ddrPut a list).ldr_ (fun l => { l with pfetch := Tab.set l.pfetch (8 * m + i + 1) (a + 1) 0 }))) (none, d2)

/-- LOAD_IMAGE up to the sending of its records; `img` and `ptes` are what the host returns. -/
def Dev.loadImage (d : Dev) (img : HostRead) (ptes : List HostPte) : Dev :=
  match d.ldrFront 1 with
  | none => d
  | some c =>
    let m := c.dom
    let refuse (d : Dev) (e : Nat × Nat) : Dev := d.ldrDone m 1 e.1 e.2
    if c.u 8 4 = 0 ∨ d.plat.bcStop = true then d
    else match d.loadFirst c with
    | some e => refuse (d.ldrBusy m) e
    | none =>
      let (bs, fail, d1) := (d.ldrBusy m).imgRead c img
      match d1.loadVerify c bs fail with
      | some e => refuse d1 e
      | none =>
        let copy := if c.u 32 1 = 1 then c.u 16 8 else c.u 0 8
        match d1.pads bs with
        | .error k => refuse d1 (0xA, k)
        | .ok pads =>
          match d1.choosePlace bs (c.u 33 1) with
          | none => refuse d1 (0xB, 0)
          | some p0 =>
            match d1.resources bs m p0 with
            | .error e => refuse d1 e
            | .ok p =>
              let d2 := if c.u 32 1 = 1 then d1.ddrPut copy bs else d1
              match d2.loadMap c bs ptes p with
              | (some e, _) => refuse d1 e
              | (none, d3) =>
                let d4 := d3.loadSet c bs pads p copy
                let (_, d5) := (d4.ldrClear m).sendRecs m (segSectRecs bs 5 0)
                (d5.segRegs m 0 false).setJob m .load

/-- LOAD_COMPLETE: step 9, once every record is delivered. A core of the domain that was fenced meanwhile ends the load. -/
def Dev.loadComplete (d : Dev) (m : Nat) : Dev :=
  match d.jobOf m with
  | .load =>
    if !d.ldrQuiet m then d
    else if (List.range 32).any (fun c => bitAt (Tab.get d.ldr.cores m 0) c && d.fenced c) then ((d.clearDomain m).ldrDone m 1 0xB 0)
    else
      let d1 := ((((d.ldrClear m).swapEvent m false true).setState m stLOADED).keyChange).count Pg.loader 0xF 0
      d1.ldrDone m 1 0 0
  | _ => d

/-- UNLOAD: LOAD_IMAGE with IMG_LEN 0, in LOADED and STOPPED. -/
def Dev.unload (d : Dev) : Dev :=
  match d.ldrFront 1 with
  | none => d
  | some c =>
    let m := c.dom
    if c.u 8 4 ≠ 0 then d
    else if d.dstate m ≠ stLOADED ∧ d.dstate m ≠ stSTOPPED then (d.ldrBusy m).ldrDone m 1 1 (d.dstate m)
    else (((d.ldrBusy m).clearDomain m).keyChange).ldrDone m 1 0 0

/-! ### Running -/

/-- Levels of the EVO pins of a domain as the registers drive them (R316). -/
def Dev.evoDrive (d : Dev) (m : Nat) : Dev := (d.setEvoOff m false).evoMoved d

/-- Counters at their start values: tricks, sequencers, channel counters, line buffers, replay positions, stream passes and the frame
counts of Gostan streams (R77, R158, R174, R224, R226, R245, R391); persistent queues keep their line buffers and spill positions. -/
def Dev.runBegin (d : Dev) (m : Nat) : Dev :=
  let cores := d.domCores m
  let d1 := (d.zeroTricks m).each cores (fun d c =>
    ((d.each (List.range 12) (fun d u => d.seqBegin c u)).vBegin c 0).vBegin c 1)
  let all := d1.listedQueues.filter (fun q => d1.qDom q == m)
  let qs := all.filter (fun q => !d1.flag (Pg.queue q) Reg.FQ.PERSIST)
  let d2 := ((d1.each qs (fun d q => d.lbRestart q)).each all (fun d q => { d with qs := { d.qs with
    rpPos := Tab.set d.qs.rpPos q 0 0, rpStamp := Tab.set d.qs.rpStamp q 0 0 } })).each qs (fun d q => { d with qs := { d.qs with
    spSent := Tab.set d.qs.spSent q 0 0 } })
  let d3 := d2.each [0, 1] (fun d k =>
    let g := Tab.get d.links.gl k GlSt.zero
    let keep := g.fcnt.filter (fun (e : Nat × Nat) => d.bqDom (1792 + 256 * k + e.1) != m)
    { d with links := { d.links with gl := Tab.set d.links.gl k { g with fcnt := keep } GlSt.zero } })
  d3.streamsBegin m

/-- The domain frame number counts from 0 (Table 4.7). -/
def Dev.frameZero (d : Dev) (m : Nat) : Dev :=
  let d1 := ((d.wr (Pg.ldom m) Reg.LDOM.FRAME 0).trgClear m true).each (d.domBqs m) (fun d b => d.bqSet b { d.bqGet b with closed := 0, frames := 0 })
  { d1 with ldr := { d1.ldr with inFrames := Tab.set d1.ldr.inFrames m 0 0 }
            flt := { d1.flt with mark := Tab.set d1.flt.mark m 0 0, bound := d1.flt.bound.filter (fun e => e.1 / 16 != m) } }

/-- The segment after the present one, in cyclic order (R56). -/
def Dev.nextSeg (d : Dev) (m : Nat) : Nat := (d.rd (Pg.ldom m) Reg.LDOM.SEG + 1) % d.nseg m

/-- Step 4 of a segment switch: the staged configuration of the next segment is installed with its REGS. -/
def Dev.segInstall (d : Dev) (m : Nat) : Dev :=
  let g := d.nextSeg m
  let d1 := ((d.swapEvent m true).segRegs m g false).wr (Pg.ldom m) Reg.LDOM.SEG g
  (d1.ldr_ (fun l => { l with segPend := Tab.set l.segPend m false false, segDrain := Tab.set l.segDrain m false false })).runBegin m

/-- The domain enters RUNNING: the PREFETCH streams of the next segment start (R59, R251), and its pins are driven (R316). -/
def Dev.enterRun (d : Dev) (m : Nat) : Dev := (((d.setState m stRUNNING).tagaUpdate).prefetchStart m).evoDrive m

/-- What keeps START from running the domain: the result and detail of R28 and R253. -/
def Dev.startBad (d : Dev) (m : Nat) : Option (Nat × Nat) :=
  (d.reserveBad m (fun p => Tab.get d.ldr.maxRsv (8 * m + p) 0) (fun p => Tab.get d.ldr.maxRsv (8 * m + 4 + p) 0)).map (fun p => (0xD, p))

/-- The next segment is staged in full: its PREFETCH streams are done, or its records were sent and have arrived (segment 0 has no PREFETCH
section, so the loader sends its CONFIG records). -/
def Dev.segReady (d : Dev) (m : Nat) : Bool :=
  if d.nextSeg m = 0 then d.isSent m && d.ldrQuiet m else d.prefetchAllDone m

/-- Send the configuration of segment 0 when it comes next. -/
def Dev.segSend (d : Dev) (m : Nat) : Dev :=
  if d.nextSeg m ≠ 0 ∨ d.isSent m = true ∨ d.plat.bcStop = true then d
  else
    match d.confRecs m 0 with
    | (none, d1) => d1
    | (some base, d1) =>
      match d1.overRecs m (d.rd (Pg.ldom m) Reg.LDOM.MODE) 0 true with
      | (none, d2) => d2
      | (some ov, d2) => ((d2.sendRecs m (base ++ ov)).2).setSent m true

/-- START in LOADED (R292): the domain runs, after a segment that still waits to be installed was installed. -/
def Dev.startDomain (d : Dev) (m : Nat) : Dev :=
  let d1 := if Tab.get d.ldr.segPend m false then (d.setSent m false).segInstall m else d.runBegin m
  let d2 := (d1.frameZero m).enterRun m
  if Tab.get d2.flt.recArmed m false then
    { d2 with flt := { d2.flt with recArmed := Tab.set d2.flt.recArmed m false false, recStart := Tab.set d2.flt.recStart m (some d2.cycle) none } }
  else { d2 with flt := { d2.flt with recStart := Tab.set d2.flt.recStart m none none } }

/-- START. A segment that waits to be installed must be staged first. A failed START of an autoload entry is recorded (R415). -/
def Dev.startCmd (d : Dev) : Dev :=
  match d.ldrFront 3 with
  | none => d
  | some c =>
    let m := c.dom
    let fail (e : Nat × Nat) : Dev :=
      let d1 := d.ldrBusy m
      (if c.auto then d1.configRecord m 3 e.1 else d1).ldrEnd e.1 e.2
    if d.dstate m ≠ stLOADED then fail (1, d.dstate m)
    else match d.startBad m with
      | some e => fail e
      | none =>
        if Tab.get d.ldr.segPend m false && !d.segReady m then d.segSend m
        else ((d.ldrBusy m).startDomain m).ldrEnd 0 0

/-- DRAIN: a segmented domain drains at the end of its segment (R60). -/
def Dev.drainBegin (d : Dev) : Dev :=
  match d.ldrFront 5 with
  | none => d
  | some c =>
    let m := c.dom
    if d.dstate m ≠ stRUNNING then (d.ldrBusy m).ldrEnd 1 (d.dstate m)
    else
      let d1 := (d.ldrBusy m).setJob m .drainWait
      if 1 < d.nseg m then d1 else (d1.stopInputs m).setState m stDRAINING

/-- An input whose frames that began have been read to their end and that holds nothing: a host ring counts its entries modulo FLEN, a
CSI channel knows its open frame; a Gostan queue learns of a frame's end only from the next FSB and so waits for it (R291, DEDUCED, log 48). -/
def Dev.inputBetween (d : Dev) (b : Nat) : Bool :=
  d.bqCount b == 0 &&
  (if b < 1536 then (d.bqGet b).fcnt == 0
   else
    let n := (b - 1536) / 64
    decide (b < 1792) && (List.range 16).all (fun v =>
      match d.csiCtx n v with
      | some c => !((d.csiGet n v).open_ && (List.range c.planes).any (fun p => c.queue n p == b))
      | none => true))

/-- Every non-persistent queue of the domain is empty, nothing is on its way between them, and every spill write was acknowledged (R58,
R226, R292). -/
def Dev.drained (d : Dev) (m : Nat) : Bool :=
  let cores := d.domCores m
  (d.listedQueues.filter (fun q => d.qDom q == m)).all (fun q =>
    d.flag (Pg.queue q) Reg.FQ.PERSIST || d.qMode q == 3 || (d.qEmpty q && (Tab.get d.qs.spWait q []).isEmpty)) &&
  cores.all (fun c =>
    (List.range 64).all (fun p => (Tab.get d.qs.land (64 * c + p) []).isEmpty && (Tab.get d.qs.lin (64 * c + p) []).isEmpty) &&
    (List.range 128).all (fun k => (Tab.get d.fab.outp (128 * c + k) []).isEmpty)) &&
  d.fab.pass.all (fun e => match e.2 with | some f => f.dom != m | none => true) &&
  (d.domBqs m).all (fun b => !d.flag (Pg.bq b) Reg.BQD.DIR || d.bqCount b == 0) &&
  (d.domInputs m).all (fun b => (d.bqGet b).stopped || d.inputBetween b || (Tab.get d.ldr.segDrain m false && d.bqAtFrameStart b))

/-- DRAIN_COMPLETE: the domain enters LOADED, or SWITCHING at a segment boundary; a DRAIN that waited for the boundary takes effect here (R60). -/
def Dev.drainComplete (d : Dev) (m : Nat) : Dev :=
  if d.dstate m ≠ stDRAINING ∨ d.drained m = false then d
  else
    let seg := Tab.get d.ldr.segDrain m false
    let drain : Bool := match d.jobOf m with | .drainWait => true | _ => false
    if seg && !drain then (d.setSent m false).setState m stSWITCHING
    else
      let d1 := if seg then (d.ldr_ (fun l => { l with
          segPend := Tab.set l.segPend m true false, segDrain := Tab.set l.segDrain m false false, sent := Tab.set l.sent m false false })).stopInputs m else d
      let d2 := ((d1.discardInputs m).setState m stLOADED).tagaUpdate
      if drain then (d2.setJob m .idle).ldrEnd 0 0 else d2

/-- SEGMENT_BOUNDARY: step 1 of a segment switch. The image gives no batch, and this command says which frame boundary ends it (DESIGN
CHOICE, DESIGN CHOICE, log 136). -/
def Dev.segmentBoundary (d : Dev) (m : Nat) : Dev :=
  if d.dstate m = stRUNNING ∧ 1 < d.nseg m then
    (d.ldr_ (fun l => { l with segDrain := Tab.set l.segDrain m true false })).setState m stDRAINING
  else d

/-- SEGMENT_INSTALL: steps 3 to 5. A waiting apply is installed by APPLY_WRITE. -/
def Dev.segmentInstall (d : Dev) (m : Nat) : Dev :=
  if d.dstate m ≠ stSWITCHING ∨ Tab.get d.ldr.segDrain m false = false ∨ (Tab.get d.ldr.applyPend m none).isSome then d
  else if !d.segReady m then d.segSend m
  else ((d.setSent m false).segInstall m).enterRun m

/-! ### Stops, restores and recovery (R296, R323, R324) -/

/-- Begin a restore: the base configuration of segment `g` is sent under the fold in force. Answers the offset of the first record that fails;
0 when a section cannot be read. -/
def Dev.restoreSend (d : Dev) (m g : Nat) : Option Nat × Dev :=
  let d0 := d.ldrClear m
  match d0.confRecs m g with
  | (none, d1) => (some 0, d1)
  | (some base, d1) =>
    match d1.overRecs m 0 g true with
    | (none, d2) => (some 0, d2)
    | (some ov, d2) =>
      let (ok, d3) := d2.prefetchCopies m 0
      let (bad, d4) := d3.sendRecs m (base ++ ov)
      (bad <|> (if ok then none else some 0), d4.setSent m true)

/-- The registers that report the configuration in force. -/
def Dev.setForce (d : Dev) (m mode : Nat) : Dev :=
  let P := Pg.ldom m
  let fold := Tab.get d.ldr.foldSq m none
  let d1 := ((d.wr P Reg.LDOM.MODE mode).wr P Reg.LDOM.FOLDED (if fold.isSome then 1 else 0)).wr P Reg.LDOM.FOLD_SQ (fold.getD 0)
  d1.ldr_ (fun l => { l with variantSq := Tab.set l.variantSq m (fold.getD 0xFF) 0 })

/-- The queues and cores that a restore from STOPPED starts with: all empty (Table 9.9), and a core that was unfenced serves the domain
again (R300). -/
def Dev.reloadBegin (d : Dev) (m : Nat) : Dev :=
  let fold := d.requiredFold m
  let d1 := d.each ((List.range 32).filter (fun c => bitAt (Tab.get d.ldr.cores m 0) c && !d.fenced c && (d.coreDom c).isNone))
    (fun d c => d.setCorePages c m true)
  (d1.ldr_ (fun l => { l with foldSq := Tab.set l.foldSq m fold none, segPend := Tab.set l.segPend m false false })).emptyDomain m

/-- The restored base configuration of segment 0 takes effect. -/
def Dev.reloadEnd (d : Dev) (m : Nat) : Dev :=
  let d1 := (((d.ldrClear m).setForce m 0).wr (Pg.ldom m) Reg.LDOM.SEG 0).swapEvent m false true
  let d2 := (d1.segRegs m 0 true).bump (Pg.ldom m) Reg.LDOM.RESTORE_CNT
  ((((d2.setSent m false).setState m stLOADED).keyChange).count Pg.loader 0xF 3).configRecord m opcRestore 0

/-- A restore from STOPPED failed: the domain stays STOPPED until it is unloaded (R324). -/
def Dev.reloadFail (d : Dev) (m : Nat) : Dev :=
  let d1 := (d.ldrClear m).raise Pg.fault 1 .none_
  { d1 with flt := { d1.flt with
      recovering := Tab.set d1.flt.recovering m false false
      recFailed := Tab.set d1.flt.recFailed m true false
      quiet := Tab.set d1.flt.quiet m none none } }

/-- A fenced core among those of the domain's image. -/
def Dev.fencedCore (d : Dev) (m : Nat) : Nat :=
  ((List.range 32).find? (fun c => bitAt (Tab.get d.ldr.cores m 0) c && d.fenced c)).getD 0

/-- STOP (R292): an S3 stop with no quiet period, then the base configuration is restored and the domain is LOADED. -/
def Dev.stopCmd (d : Dev) : Dev :=
  match d.ldr.queue with
  | [] => d
  | c :: _ =>
    let m := c.dom
    if c.opc ≠ 4 then d
    else match d.jobOf m with
      | .stopRestore =>
        if Tab.get d.flt.foldNone m false then (d.setJob m .idle).ldrEnd 0x1A (d.fencedCore m)
        else if !d.isSent m then
          if d.plat.bcStop then d
          else match (d.reloadBegin m).restoreSend m 0 with
          | (none, d1) => d1
          | (some o, d1) => ((d1.reloadFail m).setJob m .idle).ldrEnd 0x19 o
        else if !d.ldrQuiet m then d
        else if d.ldrRefused m then ((d.reloadFail m).setJob m .idle).ldrEnd 0x19 (d.refusedAt m)
        else ((d.reloadEnd m).setJob m .idle).ldrEnd 0 0
      | _ =>
        if d.flag Pg.loader Reg.LOADER.BUSY then d
        else if d.running m || d.dstate m == stSWITCHING then
          let d1 := ((d.ldrBusy m).stopDomain m (Pg.loader / 4096) 0 true).setJob m .stopRestore
          if d.plat.bcStop then d1
          else (match (d1.reloadBegin m).restoreSend m 0 with
            | (none, d2) => d2
            | (some o, d2) => ((d2.reloadFail m).setJob m .idle).ldrEnd 0x19 o)
        else (d.ldrBusy m).ldrEnd 1 (d.dstate m)

/-- A recovery ends: its record, its count and its DOMAIN event. -/
def Dev.recoveryRecord (d : Dev) (m : Nat) (failed : Bool) : Dev :=
  d.record 7 [m + (if failed then 4 else 0), d.rd (Pg.fdom m) Reg.FDOM.RECOVERY_CNT, d.quietCur m]

def Dev.recoveryFail (d : Dev) (m : Nat) : Dev :=
  let d1 := ((d.reloadFail m).setSent m false).recoveryRecord m true
  d1.domainEvent m 2 (d1.rd (Pg.fdom m) Reg.FDOM.STOP_PAGE) (d1.rd (Pg.fdom m) Reg.FDOM.STOP_BIT)

/-- QUIET_EXPIRY (R323): the restore begins. -/
def Dev.quietExpiry (d : Dev) (m : Nat) : Dev :=
  match Tab.get d.flt.quiet m none with
  | none => d
  | some t =>
    if d.cycle < t ∨ d.recovers m = false ∨ d.plat.bcStop = true then d
    else
      let d0 := (d.reloadBegin m).setSent m false
      let d1 : Dev := { d0 with flt := { d0.flt with quiet := Tab.set d0.flt.quiet m none none, recovering := Tab.set d0.flt.recovering m true false } }
      match d1.restoreSend m 0 with
      | (none, d2) => d2
      | (some _, d2) => d2.recoveryFail m

/-- RECOVERY_COMPLETE (R323, R324). -/
def Dev.recoveryComplete (d : Dev) (m : Nat) : Dev :=
  if Tab.get d.flt.recovering m false = false ∨ d.dstate m ≠ stSTOPPED ∨ d.isSent m = false ∨ d.ldrQuiet m = false then d
  else if d.ldrRefused m then d.recoveryFail m
  else
    let was := Tab.get d.flt.wasRun m false
    let d1 := (d.reloadEnd m).bump (Pg.fdom m) Reg.FDOM.RECOVERY_CNT
    let d2 : Dev := { d1 with flt := { d1.flt with
        recovering := Tab.set d1.flt.recovering m false false, recArmed := Tab.set d1.flt.recArmed m true false } }
    let d3 := (d2.journalDue 4 m).recoveryRecord m false
    let d4 := if was && d3.flag (Pg.fdom m) Reg.FDOM.AUTO_RESTART && (d3.startBad m).isNone then d3.startDomain m else d3
    d4.domainEvent m 1 (d4.rd (Pg.fdom m) Reg.FDOM.STOP_PAGE) (d4.rd (Pg.fdom m) Reg.FDOM.STOP_BIT)

/-! ### Mode overlays (R295, R296) -/

/-- What APPLY_OVERLAY verifies while the domain runs: a failure's result and detail. -/
def Dev.applyVerify (d : Dev) (m idx : Nat) : Option (Nat × Nat) × Dev :=
  let st := d.dstate m
  if st ≠ stLOADED ∧ st ≠ stRUNNING then (some (1, st), d)
  else if idx = 0 then (none, d)
  else match d.sectOf m 8 idx with
    | none => (some (0x15, idx), d)
    | some (n, s) =>
      match d.readSect m s with
      | (none, d1) => (some (8, n), d1)
      | (some b, d1) =>
        match pickVariant b (d1.nseg m) (d1.foldKey m) with
        | none => (some (0x1C, d1.foldKey m), d1)
        | some (len, groups) =>
          let (regs, d2) := d1.readTyped m 6 0
          let (confs, d3) := (List.range (d2.nseg m)).foldl (fun (acc : List (List CRec) × Dev) g =>
            let (r, d) := acc.2.baseRecs m 5 g
            (acc.1 ++ [r.getD []], d)) ([], d2)
          match scopeCheck (d3.placeOf m) (regRecs (regs.getD [])) confs groups with
          | some o => (some (0x16, o), d3)
          | none => (failIf (decide (2 ^ 24 < len)) 0x17 (len / 1024), d3)

/-- APPLY_OVERLAY up to the stop of the domain. -/
def Dev.applyCmd (d : Dev) : Dev :=
  match d.ldrFront 2 with
  | none => d
  | some c =>
    let m := c.dom
    let idx := c.u 0 1
    match (d.ldrBusy m).applyVerify m idx with
    | (some e, d1) => d1.ldrDone m 2 e.1 e.2
    | (none, d1) =>
      let d2 := d1.setJob m (.applyWait idx)
      if d.dstate m = stLOADED then d2
      else
        let d3 := d2.ldr_ (fun l => { l with resume := Tab.set l.resume m true false })
        if 1 < d.nseg m then d3.ldr_ (fun l => { l with applyPend := Tab.set l.applyPend m (some idx) none })
        else (d3.stopInputs m).setState m stDRAINING

/-- Segment whose configuration the domain runs next: the one that waits, or the present one. -/
def Dev.aboutToRun (d : Dev) (m : Nat) : Nat :=
  if Tab.get d.ldr.segPend m false || d.dstate m == stSWITCHING then d.nextSeg m else d.rd (Pg.ldom m) Reg.LDOM.SEG

/-- Cancel every PREFETCH stream of the domain that is not done, a suspended one too (R251). -/
def Dev.prefetchAgain (d : Dev) (m : Nat) : Dev :=
  (d.each (List.range 512) (fun d k =>
    let f := k / 64
    let s := k % 64
    if d.flag (Pg.sdesc f s) Reg.SDESC.EN && d.sd f s Reg.SDESC.KIND == 7 && d.sd f s Reg.SDESC.DOM == m && d.stState f s != 5
    then d.cancelStream f s else d))

/-- The loader stages the configuration of the segment about to run itself: at a switch, PREFETCH streams stage every segment but 0. -/
def Dev.loaderStages (d : Dev) (m : Nat) : Bool :=
  !(Tab.get d.ldr.segPend m false || d.dstate m == stSWITCHING) || d.nextSeg m == 0

/-- Send the records of the apply. The swap event exchanges whole banks (R82), and a variant may write only some tables (R294), so the base
records and the fold's come first (DEDUCED, log 45). Their weights go only to the M tiles that the overlay in force had written, so that the tiles
the variant writes are the ones that exchange halves; all of them go out for INDEX 0 and at a switch to segment 0. Answers the offset of the
first record that fails; 0 when a section cannot be read. -/
def Dev.applySend (d : Dev) (m idx : Nat) : Option Nat × Dev :=
  let g := d.aboutToRun m
  let (ts, d0) := (d.ldrClear m).modeTiles m g
  let all : Bool := decide (idx = 0) || (Tab.get d.ldr.segPend m false || d.dstate m == stSWITCHING)
  let keep (l : List CRec) : List CRec := if all then l else keepWeights ts l
  let (base, d1) := if idx = 0 ∨ d.loaderStages m = true then d0.confRecs m g else (some [], d0)
  let (fold, d2) := if idx = 0 ∨ d.loaderStages m = true then d1.overRecs m 0 g true else (some [], d1)
  let (ov, d3) := d2.overRecs m idx g false
  match base, fold, ov with
  | some b, some f, some o =>
    let (ok, d4) := d3.prefetchCopies m idx
    let (bad, d5) := d4.sendRecs m (keep (b ++ f) ++ o)
    (bad <|> (if ok then none else some 0), d5)
  | _, _, _ => (some 0, d3)

/-- A restore replaces a failed apply: the base configuration of the segment about to run is sent (R296). -/
def Dev.applyFails (d : Dev) (m result detail : Nat) : Dev :=
  let d1 := (d.setJob m (.applyRestore result detail)).restoreSend m (d.aboutToRun m)
  d1.2.setSent m true

/-- The configuration in force changes under overlay `idx`: the swap event, with the next segment when one waits. -/
def Dev.applySwap (d : Dev) (m idx : Nat) : Dev :=
  let d0 := (d.ldrClear m).setSent m false
  let d1 := if Tab.get d0.ldr.segPend m false || d0.dstate m == stSWITCHING then d0.segInstall m else d0.swapEvent m false
  (d1.setForce m idx).keyChange

/-- The domain goes on after an apply: one that was RUNNING runs again, and each input resumes (R291). -/
def Dev.applyResume (d : Dev) (m : Nat) : Dev :=
  let run := Tab.get d.ldr.resume m false
  let d1 := d.ldr_ (fun l => { l with resume := Tab.set l.resume m false false, applyPend := Tab.set l.applyPend m none none })
  if run then (d1.runBegin m).enterRun m else (d1.setState m stLOADED)

/-- The PREFETCH streams that an apply at a segment switch needs are done. -/
def Dev.applyStaged (d : Dev) (m : Nat) : Bool :=
  !(Tab.get d.ldr.segPend m false || d.dstate m == stSWITCHING) || decide (d.nextSeg m = 0) || d.prefetchAllDone m

/-- APPLY_WRITE: step 3 of an apply, its end, or the end of the restore that replaced it. -/
def Dev.applyWrite (d : Dev) (m : Nat) : Dev :=
  let st := d.dstate m
  let atSwitch := st == stSWITCHING && (Tab.get d.ldr.applyPend m none).isSome
  if Tab.get d.ldr.folding m false then d
  else match d.jobOf m with
    | .applyWait idx =>
      if (st ≠ stLOADED ∧ atSwitch = false) ∨ d.plat.bcStop = true then d
      else
        let d0 := if d.loaderStages m then d else d.prefetchAgain m
        (match d0.applySend m idx with
          | (none, d1) => ((if atSwitch then d1.prefetchStart m true else d1).setJob m (.applySent idx)).setSent m true
          | (some o, d1) => d1.applyFails m 0x19 o)
    | .applySent idx =>
      if !d.ldrQuiet m then d
      else if d.ldrRefused m then d.applyFails m 0x19 (d.refusedAt m)
      else if !d.applyStaged m then d.prefetchStart m true
      else
        let d1 := ((d.applySwap m idx).bump (Pg.ldom m) Reg.LDOM.APPLY_CNT).count Pg.loader 0xF 1
        (d1.applyResume m).ldrDone m 2 0 0
    | .applyRestore r dt =>
      if !d.isSent m then (if d.plat.bcStop then d else d.applyFails m r dt)
      else if !d.ldrQuiet m then d
      else if !d.applyStaged m then d.prefetchStart m true
      else
        let d1 := ((d.applySwap m 0).bump (Pg.ldom m) Reg.LDOM.RESTORE_CNT).count Pg.loader 0xF 3
        ((d1.configRecord m opcRestore 0).applyResume m).ldrDone m 2 r dt
    | _ => d

/-! ### Folds (R297 to R299) -/

/-- The overlay that goes on under the fold: the one in force when it has a variant for the new square. -/
def Dev.foldMode (d : Dev) (m : Nat) : Nat × Dev :=
  let mode := d.rd (Pg.ldom m) Reg.LDOM.MODE
  let failed : Bool := match d.jobOf m with | .applyRestore _ _ => true | _ => false
  if mode = 0 ∨ failed = true then (0, d)
  else match d.readTyped m 8 mode with
    | (some b, d1) => ((if (pickVariant b (d1.nseg m) (d1.foldKey m)).isSome then mode else 0), d1)
    | (none, d1) => (0, d1)

/-- Send the fold's records for segment 0, with the overlay's variant in the same write step, after the base records of the other cores, as
an apply does (DEDUCED, log 45). Base weights go to the M tiles that the overlay in force had written, and to all of them after a failed apply and in
a domain of several segments, whose active halves may hold another segment. -/
def Dev.foldSend (d : Dev) (m : Nat) : Dev :=
  let failed : Bool := match d.jobOf m with | .applyRestore _ _ => true | _ => false
  let (mode, d0) := (d.ldrClear m).foldMode m
  let (ts, da) := d0.modeTiles m (d.rd (Pg.ldom m) Reg.LDOM.SEG)
  let (base, d1) := da.confRecs m 0
  let (ov, d2) := d1.overRecs m mode 0 true
  match base, ov with
  | some b, some o =>
    let (_, d3) := d2.prefetchCopies m mode
    let b1 := if failed || decide (1 < d.nseg m) then b else keepWeights ts b
    ((d3.sendRecs m (b1 ++ o)).2).setSent m true
  | _, _ => d2

/-- A waiting apply has no variant for the new fold (R299). -/
def Dev.foldApply (d : Dev) (m : Nat) : Dev :=
  match d.jobOf m with
  | .applyWait idx =>
    if idx = 0 then d
    else match d.readTyped m 8 idx with
      | (some b, d1) =>
        if (pickVariant b (d1.nseg m) (d1.foldKey m)).isSome then d1
        else (d1.ldr_ (fun l => { l with
          applyPend := Tab.set l.applyPend m none none, resume := Tab.set l.resume m false false })).ldrDone m 2 0x1C (d1.foldKey m)
      | (none, d1) => d1
  | _ => d

/-- FOLD_COMPLETE (Table 9.9, R299): first the fold is sent, then it takes effect at segment 0. -/
def Dev.foldComplete (d : Dev) (m : Nat) : Dev :=
  let st := d.dstate m
  if Tab.get d.ldr.folding m false = false ∨ (st ≠ stSWITCHING ∧ st ≠ stLOADED) then d
  else if !d.isSent m then (if d.plat.bcStop then d else d.foldSend m)
  else if !d.ldrQuiet m then d
  else
    let old := d.rd (Pg.ldom m) Reg.LDOM.MODE
    let (mode, d0) := d.foldMode m
    let failed : Bool := match d.jobOf m with | .applyRestore _ _ => true | _ => false
    let d1 := ((((d0.ldrClear m).setSent m false).wr (Pg.ldom m) Reg.LDOM.SEG 0).swapEvent m false true).segRegs m 0 true
    let d2 := ((d1.setForce m mode).bump (Pg.ldom m) Reg.LDOM.APPLY_CNT).ldr_ (fun l => { l with
      folding := Tab.set l.folding m false false, segPend := Tab.set l.segPend m false false })
    let d3 := if old ≠ mode ∧ failed = false then (d2.hit (Pg.ldom m) Reg.LDOM.MODE_DROPPED).raise Pg.loader 4 .none_ else d2
    let drain := Tab.get d.ldr.drainCmd m false
    let run := decide (st = stSWITCHING) && !drain || (failed && Tab.get d.ldr.resume m false)
    let d4 := if run then (d3.runBegin m).enterRun m else (d3.setState m stLOADED).tagaUpdate
    let d5 := ((d4.keyChange).count Pg.loader 0xF 2).configRecord m opcFold 0
    let a := Pg.corectl ((d.placeOf m).core (d.foldKey m))
    let d6 := d5.domainEvent m 3 (d5.rd a Reg.CORECTL.FPAGE) (d5.rd a Reg.CORECTL.FBIT)
    let d7 := d6.ldr_ (fun l => { l with drainCmd := Tab.set l.drainCmd m false false })
    match d7.jobOf m with
    | .drainWait => (d7.setJob m .idle).ldrEnd 0 0
    | .applyRestore r dt =>
      ((d7.bump (Pg.ldom m) Reg.LDOM.RESTORE_CNT).ldr_ (fun l => { l with resume := Tab.set l.resume m false false })).ldrDone m 2 r dt
    | .applyWait _ => d7.foldApply m
    | _ => d7

/-- UNFENCE (R300). -/
def Dev.unfenceCmd (d : Dev) : Dev :=
  match d.ldrFront 6 with
  | none => d
  | some c =>
    let n := c.u 0 1 % 32
    let d0 := d.ldrBusy c.dom
    if !d.fenced n then d0.ldrEnd 0 0
    else
      let map := setBits (d.rd Pg.fault Reg.FAULT.FENCE_MAP) n 1 0
      let d1 := ((d0.wr Pg.fault Reg.FAULT.FENCE_MAP map).wr (Pg.corectl n) Reg.CORECTL.FVALID 0).setCorePages n 0 false
      let d2 : Dev := { d1 with fab := { d1.fab with iso := setBits d1.fab.iso n 1 0 }, flt := { d1.flt with keyDue := true } }
      ((d2.record 6 [n, map]).journalDue 3 0).ldrEnd 0 0

end Sys2Proof.Machine
end

