-- ==== Sys2Proof/Machine/Platform.lean ====
section
/-!
DEFINITION. Power, clocks, reset, boot, triggers and security (14_power_clocks_boot_security.md).
-/

namespace Sys2Proof.Machine

def Dev.plat_ (d : Dev) (f : Plat → Plat) : Dev := { d with plat := f d.plat }

/-- Put 4-byte groups into successive words of a field, first byte lowest. -/
def Dev.wrBytes (d : Dev) (base : Nat) (F : Fld) (bs : List Byte) : Dev :=
  (chunks (bs.length + 1) 4 bs).zipIdx.foldl (fun (d : Dev) e => d.wr base F (leNat e.1) e.2) d

/-! ### Resets (R406, R317) -/

/-- What shows the grade: registers (Table 14.6, R5) and the Subsystem ID (Table 0.2). -/
def Dev.gradeRegs (d : Dev) : Dev :=
  let t := if d.plat.fuse.grade = 2 then (105, 115, 120) else (100, 110, 115)
  let id := { d.hp.cfg.ident with subId := if d.plat.fuse.grade = 2 then 0x0002 else 0x0001 }
  let d0 : Dev := { d with hp := { d.hp with cfg := { d.hp.cfg with ident := id } } }
  (((d0.wr Pg.power Reg.POWER.T_THR t.1).wr Pg.power Reg.POWER.T_TRIP t.2.1).wr Pg.power Reg.POWER.T_HW t.2.2).setWord 8 (0x4242000 + d.plat.fuse.grade)

/-- The device after a reset: the fuses, the THERMTRIP_L latch and the level of PE_PERST_L stay; every output takes its reset state. -/
def Dev.chipResetNow (d : Dev) (reason : Nat) : Dev :=
  let d1 : Dev := { Dev.reset with
      before := if reason = 0 then 0 else d.before + d.cycle
      fv := d.fv
      out := d.out
      plat := { Plat.after d.plat.fuse d.plat.trip reason with perst := d.plat.perst } }
  (List.range 16).foldl (fun (d : Dev) i => d.emit (.pin ("EVO" ++ toString i) 2)) (d1.gradeRegs.emit (.pin "ALIVE" 0))

/-- A reset of the machine: weight stores and scratch lose their contents, the flash keeps its own. -/
def State.chipReset (s : State) (reason : Nat) : State := { s with dev := s.dev.chipResetNow reason, wmem := [], scr := [] }

/-- RESET_L: a pulse below 1 µs is ignored, one of 1.5 µs resets; between them either may happen (R406, DESIGN CHOICE, log 2). -/
def State.resetPulse (s : State) (ns : Nat) : State :=
  if ns < 1000 then s
  else if 1500 ≤ ns then s.chipReset 1
  else
    let (c, d1) := s.dev.choose 2
    if c = 1 then { s with dev := d1 }.chipReset 1 else { s with dev := d1 }

/-- A PRIV record of source `i` waits to be committed. -/
def Dev.privWaits (d : Dev) (i : Nat) : Bool := d.sco.queue.any (fun r => r.priv && r.body.headD 8 % 8 == i)

/-- CHIP_RESET: SUPPLY and PLL_LOSS reset at once, other sources when their record is committed or 1 ms has passed (R317). -/
def State.chipResetDue (s : State) : State :=
  match s.dev.flt.resetDue with
  | none => s
  | some (i, t) => if i < 2 ∨ s.dev.privWaits i = false ∨ t + usCycles 1000 ≤ s.dev.cycle then s.chipReset 2 else s

/-- PE_PERST_L low: the host port alone is reset (R406). -/
def Dev.perstLow (d : Dev) : Dev :=
  (((d.hostPortReset.plat_ (fun p => { p with perst := true })).wr Pg.host Reg.HDR.READY 0).setWord (Pg.host + 0x60) 0)

/-- PE_PERST_L high: link training begins, and requests are answered with CRS until the port is ready (R407). -/
def Dev.perstHigh (d : Dev) : Dev := d.plat_ (fun p => { p with perst := false })

/-- PCIE_LINK_UP (R350). -/
def Dev.pcieLinkUp (d : Dev) (speed width : Nat) (reversed : Bool) (pol : Nat) : Dev :=
  let H := Pg.host
  if d.plat.perst then d
  else (((d.wr H Reg.HOSTPORT.SPEED speed).wr H Reg.HOSTPORT.WIDTH width).wr H Reg.HOSTPORT.REVERSED (if reversed then 1 else 0)).wr H Reg.HOSTPORT.POL pol

/-! ### Boot (R408 to R415) -/

/-- Boot halts: ALIVE does not start and the EVO pins stay at high impedance. -/
def Dev.bootHalt (d : Dev) (err : Nat) : Dev := d.plat_ (fun p => { p with halted := true, strapErr := err })

/-- What R409 halts on: bits of STRAP_ERR. -/
def strapError (up : Nat) : Nat :=
  let src := bitsOf up 0 2
  let par := (bitsOf up 4 1 + bitsOf up 5 1 + bitsOf up 6 1) % 2
  (if src = 3 then 2 else 0) + (if bitsOf up 7 1 ≠ par then 4 else 0) + (if src = 1 ∧ bitAt up 3 = false then 8 else 0) +
    (if src = 2 ∧ bitAt up 2 = false then 16 else 0)

/-- BOOT_START: strap sensing (R408, R409, R318) and the TESTMODE pin (R329). -/
def Dev.bootStart (d : Dev) (pd pu : Nat) (testmode : Bool) : Dev :=
  if d.plat.step ≠ 0 ∨ d.plat.halted = true then d
  else
    let P := Pg.pins
    let up := pd &&& pu
    let none_ := (pd ||| pu) - (pd &&& pu)
    let d1 := ((((((d.wr P Reg.PINS.STRAP_UP up).wr P Reg.PINS.STRAP_NONE none_).wr P Reg.PINS.BOOT_SRC up).wr P Reg.PINS.GL_ROLE
      (bitsOf up 2 1)).wr P Reg.PINS.PCIE_PRESENT (bitsOf up 3 1)).wr P Reg.PINS.POS (bitsOf up 4 3))
    let d1 := if bitAt up 3 then (d1.wr (Pg.gl 0) Reg.GLINK.HPOS (bitsOf up 4 3)).wr (Pg.gl 1) Reg.GLINK.HPOS (bitsOf up 4 3) else d1
    let tm := testmode && (d.plat.fuse.life == 0 || d.plat.fuse.life == 3)
    let d2 := (d1.wr Pg.fault Reg.FAULT.TM (if tm then 1 else 0)).plat_ (fun p => { p with step := 1 })
    if none_ % 256 ≠ 0 then (d2.privNoted 7 P).bootHalt 1
    else
      let d3 := if none_ = 0 then d2 else (d2.privNoted 7 P).plat_ (fun p => { p with strapDue := true })
      if strapError up = 0 then d3 else d3.bootHalt (strapError up)

/-- The registers that show the fuses (Tables 14.10 and 14.13, R5). -/
def Dev.fuseRegs (d : Dev) : Dev :=
  let S := Pg.security
  let f := d.plat.fuse
  let d1 := ((((d.wr S Reg.SECURITY.LIFECYCLE f.life).wr S Reg.SECURITY.SLOT0_OK (if (f.slotHash 0).isSome then 1 else 0)).wr S
    Reg.SECURITY.SLOT1_OK (if (f.slotHash 1).isSome then 1 else 0)).wr S Reg.SECURITY.JTAG_LOCKED (if f.life = 2 then 1 else 0)).wr S
    Reg.SECURITY.MIN_SVN f.minSvn
  d1.wrBytes S Reg.SECURITY.ID_PUB (if f.idKey = 0 then List.replicate 64 0 else ecPublic f.idKey.toNat)

/-- The partitions of the layout block by type, when it is valid (R333): the first entry of a type counts. -/
def layoutParts (fl : Memory) : Option (Tab (Nat × Nat)) :=
  let h := Memory.readList fl 0 16 0xFF
  let n := leNat ((h.drop 4).take 1)
  let es := Memory.readList fl 16 (16 * n) 0xFF
  if h.take 4 ≠ strBytes "VLYT" ∨ n = 0 ∨ 15 < n ∨ leNat (h.drop 12) ≠ crc32 (h.take 12 ++ es) then none
  else some ((List.range n).foldl (fun t k =>
    let e := (es.drop (16 * k)).take 16
    let typ := leNat (e.take 2)
    if (Tab.get t typ (0, 0)).2 ≠ 0 then t else Tab.set t typ (leNat ((e.drop 4).take 4) * 4096, leNat ((e.drop 8).take 4) * 4096) (0, 0)) [])

/-- Byte offset of the partition of a type. -/
def Dev.partAt (d : Dev) (typ : Nat) : Nat := (Tab.get d.plat.parts typ (0, 0)).1

/-- The board record, when it is valid (R411). -/
def Dev.boardRecord (d : Dev) (fl : Memory) : Option (List Byte) :=
  let b := Memory.readList fl (d.partAt 3) 256 0xFF
  if (Tab.get d.plat.parts 3 (0, 0)).2 = 0 ∨ b.take 4 ≠ strBytes "VBRD" ∨ leNat (b.drop 252) ≠ crc32 (b.take 252) then none else some b

/-- PLL_LOCK: the PLL locks, and fuses, layout block and board record are read (Table 14.4, steps 2 and 3). -/
def Dev.pllLock (d : Dev) (fl : Memory) : Dev :=
  if d.plat.step ≠ 1 ∨ d.plat.halted = true then d
  else
    let d1 := ((d.wr Pg.clocks Reg.CLOCKS.LOCKED 1).wr Pg.clocks Reg.CLOCKS.REF_OK 1).fuseRegs.wr Pg.security Reg.SECURITY.TRNG_OK 1
    match layoutParts fl with
    | none => d1.bootHalt 0
    | some t =>
      let at_ (k : Nat) : Nat := (Tab.get t k (0, 0)).1
      let size := (Tab.get t 6 (0, 0)).2
      let d2 : Dev := { d1 with sco := { d1.sco with base := at_ 6, jbase := (at_ 4, at_ 5) }, plat := { d1.plat with parts := t, step := 2 } }
      let d3 := if size = 0 then d2.wr Pg.score Reg.SCORE.NOPART 1 else d2.wr Pg.score Reg.SCORE.SIZE size
      if (d3.boardRecord fl).isNone then d3.bootHalt 0 else d3

/-- Check of a firmware image (R414): its digest when it is accepted. `rd a n` reads `n` bytes at offset `a`. -/
def firmwareCheck (minSvn : Nat) (rd : Nat → Nat → List Byte) : Option (List Byte) :=
  let h := rd 0 256
  let len := leNat ((h.drop 0xC).take 4)
  let pub := (h.drop 0x40).take 64
  if h.take 4 ≠ strBytes "VFWR" ∨ 786432 < len ∨ len % 32 ≠ 0 ∨ leNat ((h.drop 8).take 4) < minSvn ∨ shaNat pub ≠ Config.vendorKeyHash.toNat then none
  else
    let dg := sha256 (rd 0 (256 + len))
    if ecdsaVerify pub (rd (256 + len) 64) dg then some dg else none

def Dev.trgGet (d : Dev) (i : Nat) : TrgSt := Tab.get d.plat.trg i TrgSt.zero

def Dev.trgSet (d : Dev) (i : Nat) (t : TrgSt) : Dev :=
  (d.plat_ (fun p => { p with trg := Tab.set p.trg i t TrgSt.zero })).wr Pg.pins Reg.PINS.PENDING t.pend.length i

/-- What a verified firmware image begins: Dealer, ALIVE, VDD set point, journal, boot fences and the first key (Table 14.4, steps 4 to 6).
The fences of the journalled map are recorded and shown with FBOOT (R326). -/
def Dev.firmwareRuns (d : Dev) (fl : Memory) (head digest : List Byte) (fwB aBad : Bool) : Memory × Dev :=
  let S := Pg.security
  let d1 := (((d.wr S Reg.SECURITY.FW_VERSION (leNat ((head.drop 4).take 4))).wr S Reg.SECURITY.FW_SVN (leNat ((head.drop 8).take 4))).wr S
    Reg.SECURITY.FW_B (if fwB then 1 else 0)).wr S Reg.SECURITY.FW_A_BAD (if aBad then 1 else 0)
  let d2 := ((d1.wrBytes Pg.loader Reg.LOADER.FW_DIGEST digest).wr Pg.dealer Reg.HDR.READY 1).aliveStart
  let d3 := (d2.wr Pg.power Reg.POWER.VDD_SET (680 + 5 * d.plat.fuse.vdd)).plat_ (fun p => { p with step := 3 })
  -- the TRG inputs are filtered from now on (R439)
  let d3 := d3.each (List.range 4) (fun (d : Dev) i => d.trgSet i { d.trgGet i with since := d.cycle })
  let (f1, d4) := d3.journalSelect fl
  let d5 := d4.powerOnRecord d4.plat.reason
  let map := (Tab.get d5.sco.jcopy 0x300 []).headD 0
  (f1, (((List.range 32).foldl (fun (d : Dev) c => if bitAt map c then d.fenceCore c 0 0 false true false else d) d5).firstKey).evoMoved d)

/-- FIRMWARE_VERIFIED: the ROM reads and checks the firmware of the boot source (R413); with none that verifies boot halts, but a
download may be tried again. -/
def Dev.firmwareVerified (d : Dev) (fl : Memory) (upstream : List Byte) : Memory × Dev :=
  let src := d.rd Pg.pins Reg.PINS.BOOT_SRC
  let min_ := d.plat.fuse.minSvn
  if d.plat.step ≠ 2 ∨ d.plat.halted = true ∨ (src = 1 ∧ d.plat.go = false) then (fl, d)
  else if src = 0 then
    let part (typ : Nat) : Option (List Byte) × List Byte :=
      let rd (a n : Nat) : List Byte := Memory.readList fl (d.partAt typ + a) n 0xFF
      (if (Tab.get d.plat.parts typ (0, 0)).2 = 0 then none else firmwareCheck min_ rd, rd 0 256)
    match part 1 with
    | (some dg, h) => d.firmwareRuns fl h dg false false
    | (none, _) =>
      match part 2 with
      | (some dg, h) => d.firmwareRuns fl h dg true true
      | (none, _) => (fl, (d.wr Pg.security Reg.SECURITY.FW_A_BAD 1).bootHalt 0)
  else
    let rd (a n : Nat) : List Byte := if src = 1 then Memory.readList d.plat.sram a n 0 else (upstream.drop a).take n
    let d0 := if src = 1 then d.bump Pg.security Reg.SECURITY.FW_TRIES else d
    match firmwareCheck min_ rd with
    | some dg => d0.firmwareRuns fl (rd 0 256) dg false false
    | none => (fl, if src = 1 then d0.plat_ (fun p => { p with go := false }) else d0.bootHalt 0)

/-- BOOT_GO, under BOOT_SRC 0b01 while the ROM waits for a download (R413). -/
def Dev.bootGo (d : Dev) : Dev :=
  if d.plat.step = 2 ∧ d.plat.halted = false ∧ d.rd Pg.pins Reg.PINS.BOOT_SRC = 1 then d.plat_ (fun p => { p with go := true }) else d

/-- Ports populated, GiB per port and DENS of a DDR_CFG (Tables 8.3 and 14.3). -/
def ddrConfig (cfg : Nat) : Nat × Nat × Nat :=
  match cfg with
  | 0 => (2, 8, 1) | 1 => (4, 8, 1) | 2 => (4, 16, 2) | _ => (0, 0, 0)

/-- The one-way trace length in 0.1 mm from a read round-trip delay less the fixed latency, in 0.1 ps, and PS_PER_MM in 0.1 ps/mm (R264). -/
def traceLen (delay psPerMm : Nat) : Nat := min 65535 (10 * delay / (2 * max 1 psPerMm))

/-- DDR_TRAINING_DONE (R263, R264): MEMPORT.CFG and the trace lengths of the populated ports, from the delays of their devices (DESIGN CHOICE, log 155). The
scrubbers begin. -/
def Dev.ddrTrained (d : Dev) (fl : Memory) (delays : List Nat) : Dev :=
  if d.plat.step < 3 ∨ d.plat.trained = true then d
  else
    let (n, cap, dens) := ddrConfig (leNat ((((d.boardRecord fl).getD []).drop 4).take 1))
    let d1 := (List.range n).foldl (fun (d : Dev) p =>
      let M := Pg.memport p
      let d1 := (((d.wr M Reg.MEMPORT.PRESENT 1).wr M Reg.MEMPORT.DENS dens).wr M Reg.MEMPORT.CAP cap).wr M Reg.HDR.READY 1
      (List.range 10).foldl (fun (d : Dev) i => d.wr M Reg.MEMPORT.TRN_LEN (traceLen (delays.getD (10 * p + i) 0) (d.rd M Reg.MEMPORT.PS_PER_MM)) i)
        ({ d1 with mem := { d1.mem with scrubAt := Tab.set d1.mem.scrubAt p d.cycle 0 } } : Dev)) d
    d1.plat_ (fun p => { p with trained := true })

/-- Entry `k` of the autoload table (Table 14.3): flags, flash offset, IMG_LEN, ARENA_LEN, ARENA. -/
def Dev.autoEntry (d : Dev) (fl : Memory) (k : Nat) : Nat × Nat × Nat × Nat × Nat :=
  let e := (((d.boardRecord fl).getD []).drop (16 + 32 * k)).take 32
  let u (o n : Nat) : Nat := leNat ((e.drop o).take n)
  (u 0 1, u 4 4 * 4096, u 8 4, u 12 4, u 16 8)

/-- The first enabled autoload entry from `k` on; 4: none. -/
def Dev.autoNext (d : Dev) (fl : Memory) (k : Nat) : Nat :=
  ((List.range 4).find? (fun j => decide (k ≤ j) && bitAt (d.autoEntry fl j).1 0)).getD 4

/-- HOST_PORT_READY (R407, Table 14.4 step 8, R413). Without PCIE_PRESENT the step only lets the loader accept commands. The reaction to a
strap fault on EVO[15:8] is performed now (R318). -/
def Dev.hostPortReady (d : Dev) (fl : Memory) : Dev :=
  let pcie := d.flag Pg.pins Reg.PINS.PCIE_PRESENT
  let up (d : Dev) : Dev := if pcie then d.wr Pg.host Reg.HDR.READY 1 else d
  let st := d.plat.step
  if d.plat.halted = true ∨ (pcie && d.plat.perst) = true then d
  else if st = 2 then (if d.rd Pg.pins Reg.PINS.BOOT_SRC = 1 then up d else d)
  else if st = 4 then up d
  else if st = 3 ∧ d.plat.trained = true then
    let d1 := (up d).plat_ (fun p => { p with step := 4, auto := d.autoNext fl 0, strapDue := false })
    if d.plat.strapDue then d1.privReactions 7 (d1.privReact 7) else d1
  else d

/-- AUTOLOAD (R415): the image is copied and the loader's commands are given. -/
def Dev.autoload (d : Dev) (fl : Memory) (k : Nat) : Dev :=
  if d.plat.step ≠ 4 ∨ d.plat.auto ≠ k then d
  else
    let (fl8, off, len, alen, arena) := d.autoEntry fl k
    let m := bitsOf fl8 2 2
    let d1 := d.ddrPut arena (Memory.readList fl off (min len (d.ddrCap - arena)) 0xFF)
    let params := leBytes 8 arena ++ leBytes 4 len ++ leBytes 4 alen ++ leBytes 8 arena ++ leBytes 8 0 ++ [0, 0xFF] ++ List.replicate 6 (0 : Byte)
    let cmds : List LCmd := ⟨1, m, 0, params, true⟩ :: (if bitAt fl8 1 then [⟨3, m, 0, [], true⟩] else [])
    { d1 with ldr := { d1.ldr with queue := d1.ldr.queue ++ cmds }, plat := { d1.plat with auto := d.autoNext fl (k + 1) } }

/-! ### Supplies, clocks and temperature -/

/-- PLL_LOSS (R405): the XIN reference is gone or the PLL lost lock. -/
def Dev.pllLoss (d : Dev) (xinLost : Bool) : Dev :=
  let C := Pg.clocks
  let d1 := (d.bump C Reg.CLOCKS.LOSS_CNT).wr C Reg.CLOCKS.LOCKED 0
  (if xinLost then d1.wr C Reg.CLOCKS.REF_OK 0 else d1).privOccurs 1 C

/-- Nominal voltage of each rail in mV (Table 14.1); VDD has its set point. -/
def Dev.railNominal (d : Dev) (i : Nat) : Nat := [1800, 850, d.rd Pg.power Reg.POWER.VDD_SET, 800, 850, 1200, 1200, 1100].getD i 0

/-- MONITOR_SAMPLE: SUPPLY occurs when a rail has been outside ±8 % for 10 µs (R404). -/
def Dev.monitorSample (d : Dev) (mv : List Nat) (out : Nat) : Dev :=
  let bad (i : Nat) : Bool :=
    let n := 100 * mv.getD i 0
    let v := d.railNominal i
    bitAt out i && (decide (n < 92 * v) || decide (108 * v < n))
  if (List.range 8).any bad then d.privOccurs 0 Pg.power else d

/-- PMBUS_POLL of one rail (R404). -/
def Dev.pmbusPoll (d : Dev) (rail : Nat) (reply : Option PmbusReply) : Dev :=
  let P := Pg.power
  match reply with
  | none =>
    let n := Tab.get d.plat.pmbFail rail 0 + 1
    let d1 := d.plat_ (fun p => { p with pmbFail := Tab.set p.pmbFail rail n 0 })
    if n < 3 then d1 else (d1.hit P Reg.POWER.PMB_ERR).plat_ (fun p => { p with estOnly := true })
  | some r =>
    let d1 := ((d.plat_ (fun p => { p with pmbFail := Tab.set p.pmbFail rail 0 0 })).wr P Reg.POWER.V r.vout.toNat rail).wr P Reg.POWER.I r.iout.toNat rail
    if r.faulted then d1.privOccurs 0 P else d1

/-! ### The governor (R416 to R418) -/

/-- Effective cap in 10 mW: P_CAP, less 2 W for each °C above T_THR (R418). -/
def Dev.effCap (d : Dev) : Nat :=
  let P := Pg.power
  100 * d.rd P Reg.POWER.P_CAP - 200 * (d.rd P Reg.POWER.TJ - d.rd P Reg.POWER.T_THR)

/-- The junction sensors: TJ, TJ_PEAK and THERM_TRIP. A temperature below 0 °C is far from every limit. -/
def Dev.junction (d : Dev) (tj : List Int) : Dev :=
  let P := Pg.power
  match tj with
  | [] => d
  | t :: r =>
    let m : Int := r.foldl max t
    let peak := d.rd P Reg.POWER.TJ_PEAK
    let p : Int := if 128 ≤ peak then (peak : Int) - 256 else peak
    (d.wr P Reg.POWER.TJ (m % 256).toNat).wr P Reg.POWER.TJ_PEAK ((max p m) % 256).toNat

/-- TJ is above the limit `lim` (both in °C; TJ is two's complement). -/
def Dev.hotter (d : Dev) (lim : Nat) : Bool :=
  let t := d.rd Pg.power Reg.POWER.TJ
  decide (t < 128 ∧ lim < t)

/-- Set the energy credit, in µJ. -/
def Dev.setCredit (d : Dev) (c : Nat) : Dev := (d.plat_ (fun p => { p with credit := c })).wr Pg.power Reg.POWER.CREDIT (c / 1000)

/-- GOVERNOR_MEASURE: power `p` in 10 mW, and the sensors. Over 100 µs, 10 mW is 1 µJ. While capping with the power above the cap the governor
first stops classes B and C, then lowers the common unheld fraction by a step that the manual leaves open (DESIGN CHOICE, log 2). -/
def Dev.governorMeasure (d : Dev) (p : Nat) (tj : List Int) : Dev :=
  let P := Pg.power
  let d0 := (d.junction tj).wr P Reg.POWER.P_NOW p
  let d1 := if !tj.isEmpty && d0.hotter (d0.rd P Reg.POWER.T_TRIP - 1) then d0.privOccurs 2 P else d0
  let cap := if d1.hotter (d1.rd P Reg.POWER.T_THR) then d1.effCap else 100 * d1.rd P Reg.POWER.P_CAP
  let max_ := 1000 * d1.rd P Reg.POWER.CREDIT_MAX
  let c := min max_ (d1.plat.credit + cap - p)
  let d2 := d1.setCredit c
  let was := d2.flag P Reg.POWER.CAPPING
  if was && decide (max_ / 8 < c) then
    ((d2.wr P Reg.POWER.CAPPING 0).wr P Reg.POWER.AT_FLOOR 0).plat_ (fun p => { p with bcStop := false, unheld := 256 })
  else
    let d3 := if !was && c == 0 then (d2.wr P Reg.POWER.CAPPING 1).raise P 0 .none_ else d2
    if !d3.flag P Reg.POWER.CAPPING || decide (p ≤ cap) then d3
    else if !d3.plat.bcStop then d3.plat_ (fun p => { p with bcStop := true })
    else
      let (u, d4) := d3.choose (d3.plat.unheld + 1)
      d4.plat_ (fun p => { p with unheld := u })

/-- GOVERNOR_CALIBRATE: the estimate is set against the PMBus readings of all rails, in 10 µW, unless a regulator failed (R404). -/
def Dev.governorCalibrate (d : Dev) : Dev :=
  if d.plat.estOnly then d
  else
    let w := (List.range 8).foldl (fun n i => n + d.rd Pg.power Reg.POWER.V i * d.rd Pg.power Reg.POWER.I i) 0
    d.plat_ (fun p => { p with calib := w })

/-- Unheld cycles of a window of 256 for domain `m`: the common fraction, less the excess of clamped domains, at least its floor. -/
def Dev.unheldOf (d : Dev) (m : Nat) (clamped : Bool) : Nat × Dev :=
  let floor := d.rd (Pg.ldom m) Reg.LDOM.PHI
  let u := d.plat.unheld
  if u ≤ floor then (floor, d)
  else if clamped then
    let (x, d1) := d.choose (u - floor + 1)
    (floor + x, d1)
  else (u, d)

/-- GOVERNOR_WINDOW (R417, R418): the hold cycles of each running domain in the next 256. Above T_THR a domain at its floor may be held
further, down to 1 cycle of 256 (DESIGN CHOICE, log 2). -/
def Dev.governorWindow (d : Dev) : Dev :=
  let P := Pg.power
  let doms := (List.range 4).filter (fun m => d.active m)
  let floor (m : Nat) : Nat := d.rd (Pg.ldom m) Reg.LDOM.PHI
  let capping := d.flag P Reg.POWER.CAPPING
  let clamped := doms.any (fun m => decide (d.plat.unheld ≤ floor m))
  let atFloor := capping && !doms.isEmpty && doms.all (fun m => decide (d.plat.unheld ≤ floor m)) &&
    decide (100 * d.rd P Reg.POWER.P_CAP < d.rd P Reg.POWER.P_NOW)
  let d0 := (d.wr P Reg.POWER.AT_FLOOR (if atFloor then 1 else 0)).wr P Reg.POWER.THROTTLING 0
  (List.range 4).foldl (fun (d : Dev) m =>
    let (u, d1) : Nat × Dev := if capping && doms.contains m then d.unheldOf m clamped else (256, d)
    let (below, d2) : Nat × Dev := if atFloor && doms.contains m && d1.hotter (d1.rd P Reg.POWER.T_THR) then d1.choose (max 1 u) else (0, d1)
    let h := 256 - (u - below)
    let d3 := (d2.wr P Reg.POWER.H h m)
    let d4 : Dev := { d3 with hold := { d3.hold with win := Tab.set d3.hold.win m h 0 } }
    if below = 0 then d4 else ((d4.wr P Reg.POWER.THROTTLING 1).raise P 1 .none_).setBound m 12) d0

/-- THERMTRIP_HW (R418). -/
def Dev.thermtrip (d : Dev) : Dev := (d.plat_ (fun p => { p with trip := true })).emit (.pin "THERMTRIP_L" 0)

/-! ### Trigger inputs (R420, R421) -/

/-- The input stands at its active level. -/
def Dev.trgActive (d : Dev) (i : Nat) : Bool := d.flag Pg.pins Reg.PINS.LEVEL i != d.flag Pg.pins Reg.PINS.ACT_LOW i

/-- An edge that is not accepted, or a token that finds no place. -/
def Dev.trgOverrun (d : Dev) (i : Nat) : Dev := (d.bump Pg.pins Reg.PINS.OVR_CNT 1 i).raise Pg.pins 1 .none_

/-- An edge is accepted: its record and its token (R421). -/
def Dev.trgAccept (d : Dev) (i : Nat) (rising : Bool) : Dev :=
  let P := Pg.pins
  let d1 := (d.bump P Reg.PINS.ACCEPT_CNT 1 i).trgSet i { d.trgGet i with acceptAt := some d.cycle }
  let d2 := if bitAt (d.rd Pg.score Reg.SCORE.TRG_REC) i then d1.record 9 ([i + (if rising then 4 else 0)] ++ timeWords d.fs) else d1
  let t := d2.trgGet i
  if !d.flag P Reg.PINS.TOK_EN i || d.dstate (d.rd P Reg.PINS.DOM i) != stRUNNING then d2
  else if 4 ≤ t.pend.length then d2.trgOverrun i
  else d2.trgSet i { t with pend := t.pend ++ [rising] }

/-- TRG_EDGE: the filtered level of input `i` changes. A rising edge is one toward the active level. Until the firmware runs the row gives the
level at which the input stands, and no edge is accepted (R439). -/
def Dev.trgEdge (d : Dev) (i : Nat) (level : Bool) : Dev :=
  let P := Pg.pins
  if d.flag P Reg.PINS.LEVEL i = level then d
  else
    let d1 := (d.wr P Reg.PINS.LEVEL (if level then 1 else 0) i).trgSet i { d.trgGet i with since := d.cycle }
    let rising := d1.trgActive i
    if decide (d.plat.step < 3) || d.flag P Reg.PINS.STUCK i || !bitAt (d.rd P Reg.PINS.EDGES i) (if rising then 0 else 1) then d1
    else match (d.trgGet i).acceptAt with
      | some t => if d.cycle < t + usCycles 1000 then d1.trgOverrun i else d1.trgAccept i rising
      | none => d1.trgAccept i rising

/-- TRG_STUCK: STUCK_S seconds at the active level. -/
def Dev.trgStuck (d : Dev) (i : Nat) : Dev :=
  let P := Pg.pins
  if decide (d.plat.step < 3) || !d.trgActive i || d.flag P Reg.PINS.STUCK i || decide (d.cycle < (d.trgGet i).since + usCycles (1000000 * d.rd P Reg.PINS.STUCK_S i)) then d
  else (d.wr P Reg.PINS.STUCK 1 i).raise P 0 .none_

/-- TRG_UNSTUCK: 100 ms at the inactive level. -/
def Dev.trgUnstuck (d : Dev) (i : Nat) : Dev :=
  let P := Pg.pins
  if d.trgActive i || !d.flag P Reg.PINS.STUCK i || decide (d.cycle < (d.trgGet i).since + usCycles 100000) then d else d.wr P Reg.PINS.STUCK 0 i

/-- EVENT token of an edge (Table 2.1). -/
def eventToken (i seq : Nat) (rising : Bool) : Item := Item.ofNat (i + (if rising then 4 else 0) + seq % 4 * 2 ^ 12 + 2 ^ 14)

/-- TRG_TOKEN_PUSH: the oldest pending token enters the window of its queue, which must be a CNET fabric queue with WIN_PROD 1 and room. -/
def Dev.trgTokenPush (d : Dev) (i : Nat) : Dev :=
  let q := d.rd Pg.pins Reg.PINS.DQUEUE i
  let t := d.trgGet i
  match t.pend with
  | [] => d
  | e :: rest =>
    if 61440 ≤ q ∨ d.fenced (qCore q) = true ∨ d.qNet q ≠ 2 ∨ d.winWrites q = false ∨ d.qCap q ≤ d.qCount q then d
    else (d.trgSet i { t with pend := rest, seq := (t.seq + 1) % 4 }).winPush q (eventToken i t.seq e)

/-! ### Security (R422 to R426) -/

/-- SECURITY occurs (R425). A debug instruction counts only while JTAG is locked. -/
def Dev.securityEvent (d : Dev) (why : SecViolation) : Dev :=
  let S := Pg.security
  match why with
  | .jtagLocked => if d.plat.fuse.life = 2 then d.privOccurs 4 S else d
  | .unwrapFailure => (d.plat_ (fun p => { p with idBad := true })).privOccurs 4 S
  | .trngHealth => (d.wr S Reg.SECURITY.TRNG_OK 0).privOccurs 4 S
  | .fuseReadBack | .glitch => d.privOccurs 4 S

/-- A security operation may be executed: SEC_BUSY is 0, or a write of SEC_OP started this one. -/
def Dev.secReady (d : Dev) (op : Nat) : Bool :=
  !d.flag Pg.security Reg.SECURITY.SEC_BUSY || d.rd Pg.security Reg.SECURITY.SEC_OP == op

/-- A security operation ends with a status (R424). -/
def Dev.secEnd (d : Dev) (status : Nat) : Dev :=
  let S := Pg.security
  ((d.wr S Reg.SECURITY.SEC_OP 0).wr S Reg.SECURITY.SEC_BUSY 0).wr S Reg.SECURITY.SEC_STATUS status

/-- The operation succeeds with new fuses. -/
def Dev.secFuse (d : Dev) (f : Fuses) : Dev := ((d.plat_ (fun p => { p with fuse := f })).fuseRegs).secEnd 0

/-- Serial: bytes 0 to 7 of the SHA-256 of the identity public key; 0 before provisioning (Table 12.1). -/
def Fuses.serial (f : Fuses) : List Byte := if f.idKey = 0 then List.replicate 8 0 else (sha256 (ecPublic f.idKey.toNat)).take 8

/-- Digest that a signed operation signs (R424). -/
def Fuses.secDigest (f : Fuses) (op : Nat) (arg : List Byte) : List Byte :=
  sha256 (strBytes "THN-3240 SEC v1" ++ leBytes 1 op ++ f.serial ++ arg.take 128)

/-- The argument was read in full. -/
def argRead (a : HostRead) : Bool := !a.poisoned && decide (256 ≤ a.data.length)

/-- The operation is signed by owner slot `k`, fused and not revoked. -/
def Fuses.signedBy (f : Fuses) (op k : Nat) (arg : List Byte) : Bool :=
  match f.slotHash k with
  | some h => ecdsaVerifyHash h ((arg.drop 128).take 64) (f.secDigest op arg)
  | none => false

/-- PROVISION: the identity key from a random number of the TRNG, in 1 to n − 1. -/
def Dev.secProvision (d : Dev) (trng : Nat) : Dev :=
  let f := d.plat.fuse
  if !d.secReady 1 then d
  else if f.life ≠ 0 then d.secEnd 1
  else d.secFuse { f with life := 1, idKey := BitVec.ofNat 256 (trng % (ecN - 1) + 1) }

/-- OWN. -/
def Dev.secOwn (d : Dev) (a : HostRead) : Dev :=
  let f := d.plat.fuse
  if !d.secReady 2 then d
  else if !(f.life == 1 || (f.life == 2 && f.slot1.isNone)) then d.secEnd 1
  else if !argRead a then d.secEnd 3
  else
    let h := BitVec.ofNat 256 (shaNat (a.data.take 64))
    if f.life = 1 then d.secFuse { f with life := 2, slot0 := some h }
    else if f.signedBy 2 0 a.data then d.secFuse { f with slot1 := some h } else d.secEnd 2

/-- REVOKE: signed by the other slot; a slot number above 1 has no other slot. -/
def Dev.secRevoke (d : Dev) (a : HostRead) : Dev :=
  let f := d.plat.fuse
  if !d.secReady 3 then d
  else if f.life ≠ 2 then d.secEnd 1
  else if !argRead a then d.secEnd 3
  else
    let k := leNat (a.data.take 1)
    if k < 2 ∧ f.signedBy 3 (1 - k) a.data = true then d.secFuse { f with rev := f.rev ||| 2 ^ k } else d.secEnd 2

/-- RETURN. -/
def Dev.secReturn (d : Dev) (a : HostRead) : Dev :=
  let f := d.plat.fuse
  let done : Dev := d.secFuse { f with life := 3, rev := 3 }
  if !d.secReady 4 then d
  else if f.life = 1 then done
  else if f.life ≠ 2 then d.secEnd 1
  else if !argRead a then d.secEnd 3
  else if f.signedBy 4 0 a.data || f.signedBy 4 1 a.data then done else d.secEnd 2

/-- SVN_COMMIT: MIN_SVN is a thermometer of 32 bits. -/
def Dev.secSvnCommit (d : Dev) : Dev :=
  let f := d.plat.fuse
  if !d.secReady 5 then d else d.secFuse { f with minSvn := max f.minSvn (min 32 (d.rd Pg.security Reg.SECURITY.FW_SVN)) }

/-- The write of SEC_OP that starts an operation; its row completes it. Codes outside Table 14.8 start none. -/
def Dev.secOpWrite (d : Dev) (op : Nat) : Dev :=
  let S := Pg.security
  if d.flag S Reg.SECURITY.SEC_BUSY || decide (op = 0 ∨ 5 < op) then d else (d.wr S Reg.SECURITY.SEC_BUSY 1).wr S Reg.SECURITY.SEC_OP op

/-- ATTEST: refused by lifecycle or key; otherwise it waits for its report (R426). -/
def Dev.cmdAttest (d : Dev) (r : Nat) : Dev :=
  match d.cmdBegin r 8 with
  | none => d
  | some c =>
    if d.plat.fuse.life = 0 ∨ d.plat.fuse.life = 3 then d.cmdDone r 0x40 0 0
    else if d.plat.idBad then d.cmdDone r 0x41 0 0
    else d.setCmd r (some { c with stage := 1 })

/-- Domain `m` in the report (Table 14.9). -/
def Dev.reportDomain (d : Dev) (m : Nat) : List Byte :=
  let P := Pg.ldom m
  leBytes 1 (d.dstate m) ++ leBytes 1 (d.rd P Reg.LDOM.MODE) ++ leBytes 1 (d.rd P Reg.LDOM.FOLDED + 2 * d.rd P Reg.LDOM.FOLD_SQ) ++
    leBytes 1 (d.rd P Reg.LDOM.FOFF + 8 * d.rd P Reg.LDOM.ROFF) ++ leBytes 4 (d.rd P Reg.LDOM.EQ_LO) ++ leBytes 4 (d.rd P Reg.LDOM.EQ_HI) ++
    leBytes 4 (d.rd (Pg.fdom m) Reg.FDOM.RECOVERY_CNT) ++ (List.range 8).flatMap (fun i => leBytes 4 (d.rd P Reg.LDOM.BASE_DIGEST i))

/-- The attestation report (Table 14.9). -/
def Dev.attestReport (d : Dev) (nonce : List Byte) : List Byte :=
  let S := Pg.security
  let f := d.plat.fuse
  let u (p : Nat) (F : Fld) : List Byte := leBytes 4 (d.rd p F)
  let body := strBytes "VATR" ++ leBytes 2 1 ++ leBytes 1 f.life ++ leBytes 1 (d.rd Pg.chip Reg.HDR.STEPPING) ++ leBytes 2 0x3240 ++ leBytes 1 f.grade ++
    leBytes 1 (d.rd Pg.pins Reg.PINS.POS) ++ u Pg.score Reg.SCORE.PCYCLE ++ u Pg.score Reg.SCORE.OPSEC ++ leBytes 4 d.ldr.epoch ++
    u Pg.fault Reg.FAULT.FENCE_MAP ++ leBytes 4 0 ++ (nonce ++ List.replicate 32 0).take 32 ++ beBytes 32 d.ldr.key.toNat ++
    (List.range 8).flatMap (fun i => leBytes 4 (d.rd Pg.loader Reg.LOADER.FW_DIGEST i)) ++ u S Reg.SECURITY.FW_VERSION ++ u S Reg.SECURITY.FW_SVN ++
    u S Reg.SECURITY.ROM_VERSION ++ u S Reg.SECURITY.MIN_SVN ++ d.headBytes ++ u Pg.score Reg.SCORE.COUNT ++ u Pg.score Reg.SCORE.DROP_FULL ++
    u Pg.score Reg.SCORE.DROP_BUSY ++ leBytes 4 0 ++ (List.range 4).flatMap (fun m => d.reportDomain m) ++
    (if f.idKey = 0 then List.replicate 64 0 else ecPublic f.idKey.toNat)
  body ++ ecdsaSign f.idKey.toNat (sha256 body)

/-- ATTEST_REPORT_WRITE: the report of the ATTEST that waits longest, when the scan has ended and the first key exists (R303, R426). -/
def Dev.attestWrite (d : Dev) (failed : Bool) : Dev :=
  let waits := ((List.range 64).filterMap (fun r => (d.cmdWaits r 8).map (fun c => (r, c))))
  let oldest : Option (Nat × RingCmd) := waits.foldl (fun (o : Option (Nat × RingCmd)) e => match o with
    | some x => if e.2.at_ < x.2.at_ then some e else o
    | none => some e) none
  match oldest with
  | none => d
  | some (r, c) =>
    if !d.flag Pg.score Reg.SCORE.READY || !d.ldr.keyValid || d.hp.cfg.d3hot then d
    else
      let rep := d.attestReport ((c.bytes.drop 24).take 32)
      let d1 := d.postAll (c.field 56 8) rep 512
      if failed then d1.cmdDone r 0x42 0 0 else d1.cmdDone r 0 0 512

end Sys2Proof.Machine
end

