-- ==== Sys2Proof/Machine/Registers.lean ====
section
/-!
DEFINITION. BAR0 as a whole (R8, R9, R356 to R358): writes of words with behaviour of their own, block resets, reads, and the TUNNEL
requests that act as host accesses (R398).
-/

namespace Sys2Proof.Machine

/-! ### Block resets (R163, R201, R239, R276) -/

/-- The core of a core page. -/
def pageCore (pg : Nat) : Nat := (pg - 0x100) / 32

/-- STALL_IN and STALL_OUT of a page return to 0. -/
def Dev.clearStalls (d : Dev) (pg : Nat) : Dev := (d.setWord (pg * 4096 + 0x30) 0).setWord (pg * 4096 + 0x34) 0

/-- BLOCK_RESET of a B tile (R239): line buffers, transposer groups, replay positions and spill packets of its queues, and its counters. -/
def Dev.bBlockReset (d : Dev) (c b : Nat) : Dev :=
  let pg := Pg.btile c b
  let mine (q : Nat) : Bool := qCore q == c && d.qTile q == b
  let qs : Qs := { d.qs with
      lb := d.qs.lb.filter (fun e => !mine e.1)
      trGrp := d.qs.trGrp.filter (fun e => match e.2 with | some (q, _) => !mine q | none => true)
      rpPos := d.qs.rpPos.filter (fun e => !mine e.1)
      rpStamp := d.qs.rpStamp.filter (fun e => !mine e.1)
      spSent := d.qs.spSent.filter (fun e => !mine e.1)
      spWait := d.qs.spWait.filter (fun e => !mine e.1)
      trOut := d.qs.trOut.filterMap (fun e =>
        let l := e.2.filter (fun x => !mine x.q)
        if l = [] then none else some (e.1, l)) }
  let emptied (q : Nat) : Bool := d.qMode q == 1 || d.qMode q == 4
  let d0 := ({ d with
    qs := qs
    mem := { d.mem with bulk := d.mem.bulk.filter (fun e => match e.2 with | some s => s.kind != 5 || !mine s.q | none => false) } } : Dev).each
      (d.listedQueues.filter mine) (fun (d : Dev) q => (if emptied q then (d.wr (Pg.queue q) Reg.FQ.COUNT 0).setBody q [] else d).lbRestart q)
  let d1 : Dev := (d0.wr pg Reg.BTILE.BT_CORR 0).wr pg Reg.BTILE.UE_CNT 0
  let d2 := d1.each (List.range 4) (fun d p => d.wr pg Reg.BTILE.SLIP_CNT 0 p)
  let d3 := d2.wr pg Reg.BTILE.PWAIT_CNT 0
  { d3 with perf := Tab.set d3.perf (pg / 4096) 0 0 }

/-- The counters of a memory port's page (R276, Table 8.13). -/
def Dev.memportReset (d : Dev) (p : Nat) : Dev :=
  let pg := Pg.memport p
  let d1 := (d.wr pg Reg.MEMPORT.CORR_CNT 0).wr pg Reg.MEMPORT.UE_CNT 0
  d1.each (List.range 10) (fun d i => d.wr pg Reg.MEMPORT.CORR_DEV 0 i)

/-- BLOCK_RESET of page `pg`; a page whose chapter states no reset is left as it is. The bit clears when done, at once. -/
def Dev.blockReset (d : Dev) (pg : Nat) : Dev :=
  match pageKind pg with
  | some (.mtile, m) => d.mBlockReset (pageCore pg) m
  | some (.vtile, u) => d.vBlockReset (pageCore pg) u
  | some (.btile, b) => (d.bBlockReset (pageCore pg) b).clearStalls pg
  | some (.fetch, f) => (d.fetchBlockReset f).clearStalls pg
  | some (.memport, p) => (d.memportReset p).clearStalls pg
  | _ => d

/-! ### The page header (Table 12.4) -/

/-- A write of PAGE_CTRL: ENABLE is stored in core pages only. -/
def Dev.pageCtrl (d : Dev) (k : PageKind) (pg v : Nat) : Dev :=
  let a := pg * 4096 + 12
  let w := d.word a
  let w1 := if k.isCore then setBits w 0 1 v else w
  let d1 := d.setWord a (setBits w1 1 1 (v / 2))
  if bitAt v 2 then d1.blockReset pg else d1

/-- A write of PERF_SEL clears the counter; in the SCORE and JOURNAL pages it reads 0 (R349, R358). -/
def Dev.perfSel (d : Dev) (k : PageKind) (pg v : Nat) : Dev :=
  let d1 : Dev := { d with perf := Tab.set d.perf pg 0 0 }
  match k with
  | .score | .journal => d1
  | _ => d1.storeReg (pg * 4096 + 0x24) v

/-- A write of a header word. -/
def Dev.headerWord (d : Dev) (k : PageKind) (pg o v : Nat) : Dev :=
  if o = 0x0C then d.pageCtrl k pg v
  else if o = 0x14 then d.fltStatClear pg (v % 65536)
  else if o = 0x18 then (d.storeReg (pg * 4096 + o) v).rearmCapture (pg * 4096)
  else if o = 0x24 then d.perfSel k pg v
  else d.storeReg (pg * 4096 + o) v

/-! ### Chip-level pages -/

/-- MMU: EN of a domain's address space is writable only while the domain is EMPTY or LOADED; the operation word is ignored while BUSY
(Table 8.12). -/
def Dev.mmuWord (d : Dev) (a v : Nat) : Dev :=
  let o := a % 4096
  if o = 0xA8 then
    if d.flag Pg.mmu Reg.MMU.BUSY then d
    else
      let d1 := d.storeReg a v
      if bitAt v 29 then d1.inval else if bitAt v 30 then d1.unlockRange else if bitAt v 31 then d1.lockStart else d1
  else if 0x40 ≤ o ∧ o < 0x90 ∧ o % 16 = 0 then
    let as := (o - 0x40) / 16
    let free := decide (as = 4) || d.dstate as == stEMPTY || d.dstate as == stLOADED
    if free then d.storeReg a v else d.storeKeep a v 1
  else d.storeReg a v

/-- The EVO pins that software drives: unmapped ones, and those of domains that are not STOPPED (R316). -/
def Dev.evoWrite (d : Dev) (a v : Nat) : Dev :=
  (d.storeReg a v).evoMoved d

/-- FAULT (Tables 10.7 and 10.8). -/
def Dev.faultWord (d : Dev) (a v : Nat) : Dev :=
  let o := a % 4096
  if o = 0x40 then (if bitAt v 31 then d.firstClear else d)
  else if o = 0x54 then (if bitAt v 31 then d.fenceNow (v % 32) else d)
  else if 0x60 ≤ o ∧ o < 0x80 then (if d.flag Pg.fault Reg.FAULT.PRIV_LOCK then d else d.storeReg a v)
  else if o = 0x80 then (if bitAt v 0 then d.privLock else d)
  else if o = 0x84 then (if bitAt v 8 then d.aliveRestart else d)
  else if o = 0x120 ∨ o = 0x124 then d.evoWrite a v
  else if 0xA0 ≤ o ∧ o < 0x120 ∧ o % 32 = 0 then d.quietMsWrite ((o - 0xA0) / 32) v
  else if 0x180 ≤ o ∧ o ≤ 0x188 then
    if !d.testMode then d
    else if o = 0x180 then (if bitAt v 16 then (d.storeReg a v).injGo else d.storeReg a v)
    else if o = 0x184 then (if bitAt v 18 then (d.storeReg a v).arm else d.storeReg a v)
    else d.injPriv (v % 256)
  else d.storeReg a v

/-- SECURITY (Table 14.13). -/
def Dev.securityWord (d : Dev) (a v : Nat) : Dev :=
  let o := a % 4096
  if o = 0x54 then (if bitAt v 8 then d.bootGo else d)
  else if o = 0xA0 then d.secOpWrite (v % 16)
  else d.storeReg a v

/-- GLINK (Table 13.9): EN 0 takes the link out of training, and EN 1 puts a disabled link into DETECT. -/
def Dev.glinkWord (d : Dev) (k a v : Nat) : Dev :=
  let P := Pg.gl k
  let o := a % 4096
  if o = 0x60 then
    let d1 := d.storeReg a v
    if !d1.flag P Reg.GLINK.EN then (if d1.lstate k = 0 then d1 else d1.glDrop k)
    else
      let d2 := if d1.lstate k = 0 then d1.wr P Reg.GLINK.LSTATE 1 else d1
      if bitAt v 1 then d2.glRetrain k else d2
  else if o = 0xD8 then
    let d1 := d.storeReg a v
    if bitAt v 0 then d1.tunWr k else if bitAt v 1 then d1.tunRd k else d1
  else if o = 0x104 then d.glEt k (some v)
  else d.storeReg a v

/-- INGRESS (Table 13.8): a context that Table 13.1 does not allow keeps EN 0 (R385). -/
def Dev.csiWord (d : Dev) (n a v : Nat) : Dev :=
  let o := a % 4096
  if o = 0xA4 then d.csiPt n (some v)
  else if 0xC0 ≤ o ∧ o < 0x140 then
    if d.csiRuns n then d
    else if o % 8 = 0 ∧ csiCtxOk (bitsOf v 0 6) (bitsOf v 16 12 + 1) (bitsOf v 9 6) (bitAt v 8) = false then d.storeReg a (setBits v 6 1 0)
    else d.storeReg a v
  else d.storeReg a v

/-- HOSTPORT (Table 12.12). -/
def Dev.hostWord (d : Dev) (a v : Nat) : Dev :=
  let o := a % 4096
  if o = 0xA4 then d.hostEt (some v)
  else if o = 0xAC then (d.storeReg a v).hostCt v
  else d.storeReg a v

/-- A write of a word of a chip-level page beyond its header. -/
def Dev.chipWord (d : Dev) (k : PageKind) (n a v : Nat) : Dev :=
  let o := a % 4096
  match k with
  | .fetch => d.fetchWord n a v
  | .memport => d.memportWord n a v
  | .mmu => d.mmuWord a v
  | .fault => d.faultWord a v
  | .loader => if o = 0x48 then (if bitAt v 0 then d.keyLatch else d) else d.storeReg a v
  | .journal => if 0x80 ≤ o ∧ o < 0xC0 then d.userWrite ((o - 0x80) / 4) v else d.storeReg a v
  | .pins => if o = 0x48 then d.evoWrite a v else d.storeReg a v
  | .security => d.securityWord a v
  | .glink => d.glinkWord n a v
  | .ingress => d.csiWord n a v
  | .hostport => d.hostWord a v
  | _ => d.storeReg a v

/-- A write of a word of a register page; one of a fenced core is dropped (R25). -/
def Dev.pageWord (d : Dev) (a v : Nat) : Dev :=
  let pg := a / 4096
  let o := a % 4096
  match pageKind pg with
  | none => d
  | some (k, n) =>
    if k.isCore then
      let (ok, d1) := d.coreWrite pg
      if !ok then d1 else if o < 0x40 then d1.headerWord k pg o v else d1.corePageWord k (pageCore pg) a v
    else if o < 0x40 then d.headerWord k pg o v
    else d.chipWord k n a v

/-! ### Ring contexts and sync objects (Tables 12.6 and 12.11) -/

/-- A write of a ring context's word: the words are stored only while HEN is 0, apart from HEN itself (R365). -/
def Dev.ringWord (d : Dev) (a v : Nat) : Dev :=
  let b := (a - Pg.ring 0) / 32
  if a % 32 = 8 then
    if d.hen b then (if bitAt v 5 then d else d.ringDisable b)
    else
      let d1 := d.storeReg a (setBits v 5 1 0)
      if bitAt v 5 then d1.ringEnable b else d1
  else if d.hen b then d
  else d.storeReg a v

/-- A write of a sync object's word (R373, R374). -/
def Dev.syncWord (d : Dev) (a v : Nat) : Dev :=
  let n := (a - Pg.sync 0) / 64
  let o := a % 64
  let waits := d.flag (Pg.sync n) Reg.SYNC.WAITERS
  if o = 0x10 then d.syncAdd n v
  else if waits && decide (o < 8) then d
  else if waits && decide (o = 8) then (d.storeKeep a v 1).syncIrq n
  else (d.storeReg a v).syncIrq n

/-! ### Writes (R356) -/

/-- A write of the aligned word at BAR0 offset `a`. A queue window is not written in words. -/
def Dev.wordWrite (d : Dev) (a v : Nat) : Dev :=
  if 0x1000000 ≤ a ∧ a < 0x1200000 then (if 0x18 ≤ a % 32 then d else d.queueWord a v)
  else if 0x2000000 ≤ a ∧ a < 0x2080000 then d.syncWord a v
  else if 0x60000 ≤ a ∧ a < 0x6C000 then d.ringWord a v
  else d.pageWord a v

/-- One aligned word of a write, `none` for a byte without its enable: a word without any is not touched, one that is partly covered is
ignored and counted in BAD_ACC. -/
def Dev.dwordWrite (d : Dev) (a : Nat) (bs : List (Option Byte)) : Dev :=
  let have_ := bs.filterMap id
  if have_.isEmpty then d
  else if have_.length < 4 then d.bump Pg.host Reg.HOSTPORT.BAD_ACC
  else d.wordWrite a (leNat have_)

/-- Page of the block that owns the register at BAR0 offset `a` (R123): ring contexts belong to the host port, queue descriptors to the block of
their queue. -/
def blockAt (a : Nat) : Nat :=
  if 0x1000000 ≤ a ∧ a < 0x1200000 then winBlock ((a - 0x1000000) / 32) else if 0x60000 ≤ a ∧ a < 0x6C000 then Pg.host else a / 4096 * 4096

/-- Write bytes from BAR0 offset `off`: one aligned access of 8 bytes to a queue window, else word by word in ascending address. -/
def Dev.bar0Now (d : Dev) (off : Nat) (bs : List (Option Byte)) : Dev :=
  if 0x1000000 ≤ off ∧ off < 0x1200000 ∧ off % 32 = 0x18 ∧ (bs.filterMap id).length = 8 ∧ bs.length = 8 then
    d.windowPut ((off - 0x1000000) / 32) (leNat (bs.filterMap id))
  else
    let all := List.replicate (off % 4) none ++ bs ++ List.replicate ((4 - (off + bs.length) % 4) % 4) none
    (chunks (all.length + 1) 4 all).zipIdx.foldl (fun (d : Dev) e => d.dwordWrite (off / 4 * 4 + 4 * e.2) e.1) d

/-- A host write to BAR0 acts, or waits behind a stalled read of the host at the block that owns its first byte (R123). -/
def Dev.bar0Write (d : Dev) (off : Nat) (bs : List (Option Byte)) : Dev :=
  if d.waitsAt .host (blockAt off) then d.hold_ .host (blockAt off) 0 (.write off bs) else d.bar0Now off bs

/-- A host write of one register word, in the same way. -/
def Dev.hostPageWord (d : Dev) (a v : Nat) : Dev :=
  if d.waitsAt .host (blockAt a) then d.hold_ .host (blockAt a) 0 (.write a ((leBytes 4 v).map some)) else d.pageWord a v

/-- A host read of one register word, whose effect now is `now`, in the same way. -/
def Dev.hostReadWord (d : Dev) (a : Nat) (now : Dev) : Dev :=
  if d.waitsAt .host (blockAt a) then d.hold_ .host (blockAt a) 0 (.word a) else now

/-- A BAR2 write: a doorbell, by 4 or 8 bytes at the start of its slot, or whole words of the MSI-X table (R359). The PBA and other offsets
ignore writes (R9). -/
def Dev.bar2Write (d : Dev) (off : Nat) (bs : List (Option Byte)) : Dev :=
  let l := bs.filterMap id
  let v := leNat (l.take 4)
  let whole := l.length == bs.length && (l.length == 4 || l.length == 8)
  if off < 0x18000 ∧ off % 64 = 0 ∧ whole = true then d.doorbell (off / 64) v
  else if 0x80000 ≤ off ∧ off + l.length ≤ 0x82000 ∧ off % 4 = 0 ∧ whole = true then
    let k := (off - 0x80000) / 4
    let t := Tab.set d.hp.msixT k v 0
    ({ d with hp := { d.hp with msixT := if l.length = 8 then Tab.set t (k + 1) (leNat (l.drop 4)) 0 else t } } : Dev).msixRelease
  else d

/-- Where the PCI Express Base Specification puts what R351 to R354 let software set, behind the capability offsets of Table 12.1: a write of the
enabled bytes of the word at `off` of the configuration space (PRESUMED, log 128). -/
def Dev.configDword (d : Dev) (off : Nat) (bs : List (Option Byte)) : Dev :=
  let w := leNat (bs.map (fun b => b.getD 0))
  let on (i : Nat) : Bool := (bs.getD i none).isSome
  let put (c : PcieCfg) : Dev := { d with hp := { d.hp with cfg := c } }
  let c := d.hp.cfg
  -- PMCSR: the power state D0 or D3hot
  if off = 0x44 ∧ on 0 = true then (if w % 4 = 0 ∨ w % 4 = 3 then (put { c with d3hot := w % 4 == 3 }).msixRelease else d)
  -- Device Control: relaxed ordering, Max_Payload_Size, Extended Tag, Max_Read_Request_Size, Function Level Reset
  else if off = 0x58 then
    let c1 := if on 0 then { c with relaxed := bitAt w 4, mps := min 512 (128 * 2 ^ bitsOf w 5 3) } else c
    let c2 := if on 1 then { c1 with tagExt := bitAt w 8, mrrs := min 4096 (128 * 2 ^ bitsOf w 12 3) } else c1
    if on 1 && bitAt w 15 then d.hostPortReset else put c2
  -- Device Control 2: completion timeout, 10-bit tags
  else if off = 0x78 then
    let c1 := if on 0 then { c with cto := w % 16, ctoOff := bitAt w 4 } else c
    put (if on 1 then { c1 with tag10 := bitAt w 12 } else c1)
  -- Message Control of MSI-X
  else if off = 0xB0 ∧ on 3 = true then (put { c with msixEn := bitAt w 31, msixMask := bitAt w 30 }).msixRelease
  -- AER Uncorrectable Error Status: write one to clear
  else if off = 0x104 then put { c with aer := c.aer &&& ~~~(BitVec.ofNat 32 w) }
  -- Resizable BAR Control: 256 MiB to 64 GiB
  else if off = 0x160 ∧ on 1 = true ∧ 8 ≤ bitsOf w 8 6 ∧ bitsOf w 8 6 ≤ 16 then put { c with bar4 := 2 ^ (20 + bitsOf w 8 6) }
  else d

/-- A configuration write (R351): at most one word. -/
def Dev.configSpaceWrite (d : Dev) (off : Nat) (bs : List (Option Byte)) : Dev :=
  if off % 4 + bs.length ≤ 4 ∧ off < 4096 then
    d.configDword (off / 4 * 4) (List.replicate (off % 4) none ++ bs ++ List.replicate (4 - off % 4 - bs.length) none)
  else d

/-- REGISTER_WRITE: one write of the host. Offsets beyond the BAR are not the device's. -/
def Dev.registerWrite (d : Dev) (off : HostAddr) (data : List (Option Byte)) : Dev :=
  match off with
  | .bar0 o => d.bar0Write o.toNat (data.take (0x4000000 - o.toNat))
  | .bar2 o => d.bar2Write o.toNat data
  | .config o => d.configSpaceWrite o.toNat data

/-! ### Reads (R356, R398) -/

/-- The readable bits of a stored word. -/
def readMask (fs : List Fld) (o w : Nat) : Nat :=
  fs.foldl (fun acc F => if F.hits o && F.acc != .wo then setBits acc F.lo F.w (bitsOf w F.lo F.w) else acc) 0

/-- A page's QUIESCED: QUIESCE is set and nothing that it stops is still in progress (R163, R201, R239, R276). -/
def Dev.quiesced (d : Dev) (pg : Nat) : Bool :=
  d.flag (pg * 4096) Reg.HDR.QUIESCE &&
    (match pageKind pg with
      | some (.mtile, m) => (d.sqGet (pageCore pg) m).runs.isEmpty
      | some (.vtile, u) => (d.sqGet (pageCore pg) (10 + u)).runs.isEmpty
      | some (.btile, b) => !d.mem.bscrubWb.any (fun e => e.1 == 4 * pageCore pg + b) &&
          (match Tab.get d.mem.bulk (pageCore pg) none with | some s => s.tile != b | none => true)
      | some (.fetch, f) => !d.mem.reqs.any (fun r => r.f == f)
      | some (.memport, p) => !d.mem.reqs.any (fun r => r.port == p)
      | _ => false)

/-- READY of a page: stored where the manual says when the block is initialised, a free value elsewhere (DESIGN CHOICE, log 2). -/
def Dev.readyBit (d : Dev) (k : PageKind) (pg : Nat) : Nat × Dev :=
  match k with
  | .btile | .dealer | .memport | .hostport => (d.rd (pg * 4096) Reg.HDR.READY, d)
  | _ => d.free 1

/-- PI, DI and FT words of a tile's page read the instruction, descriptor word or table entry that their index addresses (Tables 5.9, 6.16). -/
def Dev.unitWord (d : Dev) (k : PageKind) (c pg o w : Nat) : Nat :=
  let a := pg * 4096
  let n := pg % 32
  let bank (u : Nat) (staged : Bool) : Nat := let b := d.bank (Bank.tile c u); if staged then 1 - b else b
  let prog (u i : Nat) (st : Bool) : Nat := Tab.get d.tl.prog (((16 * c + u) * 2 + bank u st) * 512 + i) 0
  let desc (u i j : Nat) (st : Bool) : Nat := Tab.get d.tl.desc (((16 * c + u) * 2 + bank u st) * 32 + 2 * i + j) 0
  let half (lo : Nat) (v : Nat) : Nat := bitsOf v (if o = lo then 0 else 32) 32
  if k = .mtile then
    if o = 0x104 ∨ o = 0x108 then half 0x104 (prog (n - 3) (d.rd a Reg.MTILE.PI_INDEX) (d.flag a Reg.MTILE.PI_STAGED))
    else if o = 0x110 ∨ o = 0x114 then
      half 0x110 (desc (n - 3) (d.rd a Reg.MTILE.DI_INDEX) (d.rd a Reg.MTILE.DI_WORD) (d.flag a Reg.MTILE.DI_STAGED))
    else w
  else
    let u := n - 13
    if o = 0x144 ∨ o = 0x148 then half 0x144 (prog (10 + u) (d.rd a Reg.VTILE.PI_INDEX) (d.flag a Reg.VTILE.PI_STAGED))
    else if o = 0x150 ∨ o = 0x154 then
      half 0x150 (desc (10 + u) (d.rd a Reg.VTILE.DI_INDEX) (d.rd a Reg.VTILE.DI_WORD) (d.flag a Reg.VTILE.DI_STAGED))
    else if o = 0x15C ∨ o = 0x160 then
      half 0x15C (Tab.get d.tl.ftab (((2 * c + u) * 2 + bank (10 + u) (d.flag a Reg.VTILE.FT_STAGED)) * 1024 + 128 * d.rd a Reg.VTILE.FT_TABLE +
        d.rd a Reg.VTILE.FT_ENTRY) 0)
    else w

/-- Bits of a word that follow from state kept elsewhere, and the device after free values were used. -/
def Dev.liveWord (d : Dev) (k : PageKind) (n a w : Nat) : Nat × Dev :=
  let pg := a / 4096
  let o := a % 4096
  let c := pageCore pg
  if o = 0x10 then
    let (r, d1) := d.readyBit k pg
    let w1 := setBits (setBits w 0 1 r) 1 1 (if d.quiesced pg then 1 else 0)
    (if k.isCore then setBits (setBits w1 2 1 (if d.fenced c then 1 else 0)) 4 2 (d.rd (Pg.corectl c) Reg.HDR.DOMAIN) else w1, d1)
  else if (k = .mtile ∨ k = .vtile) ∧ 0x104 ≤ o then (d.unitWord k c pg o w, d)
  else if k = .xnode ∧ 0x50 ≤ o ∧ o < 0x60 then
    let m := (o - 0x50) / 4
    (d.trickOf c m + (if d.held m then 256 else 0), d)
  else if k = .xnode ∧ o = 0x8C then
    let nbr := (List.range 4).foldl (fun v i => match neighbour c i with | some x => if d.isolated x then v + 2 ^ (4 + i) else v | none => v) 0
    ((if d.fenced c then 1 else 0) + (if d.isolated c then 2 else 0) + nbr, d)
  else if k = .qeng ∧ o = 0x4C then ((d.listedQueues.filter (fun q => qCore q == c)).length, d)
  else if k = .loader ∧ 0x100 ≤ o ∧ o < 0x300 then
    let m := (o - 0x100) / 0x80
    (if Reg.LDOM.HELD.off = o % 0x80 then setBits w Reg.LDOM.HELD.lo 1 (if d.held m then 1 else 0) else w, d)
  else if k = .fault ∧ 0xA0 ≤ o ∧ o < 0x120 ∧ o % 32 = 8 then
    (match Tab.get d.flt.quiet ((o - 0xA0) / 32) none with
      | some t => min 65535 ((t - d.cycle + usCycles 1000 - 1) / usCycles 1000)
      | none => 0, d)
  else if k = .rankctl ∧ o = 0x40 then (bitsOf (d.rd Pg.fault Reg.FAULT.FENCE_MAP) (8 * n) 8, d)
  else if k = .score ∧ o = Reg.SCORE.QDEPTH.off then (setBits w Reg.SCORE.QDEPTH.lo Reg.SCORE.QDEPTH.w d.sco.queue.length, d)
  else if k = .score ∧ o = Reg.SCORE.OPHOURS.off then (d.rd Pg.score Reg.SCORE.OPSEC / 3600, d)
  else if k = .hostport ∧ o = 0xC4 then (d.pcieTags.length + d.ldr.queue.length * 2 ^ 16, d)
  else if k = .ingress ∧ o = 0x68 then
    let (f, d1) := d.free 5
    (setBits w 0 5 f, d1)
  else (w, d)

/-- The value that a read of the newest emitted completion carries, taken back from the outputs. -/
def Dev.answered (d : Dev) : Nat × Dev :=
  match d.out with
  | .readDone _ _ v :: rest => (v, { d with out := rest })
  | _ => (0, d)

/-- PERF_CNT_LO: its read latches PERF_CNT_HI (R358). -/
def Dev.perfLo (d : Dev) (pg : Nat) : Nat × Dev :=
  let v := Tab.get d.perf pg 0
  (v % 2 ^ 32, d.setWord (pg * 4096 + 0x2C) (v / 2 ^ 32))

/-- A read of the aligned word at BAR0 offset `a` on behalf of the host. Reads of a fenced core's pages are answered (R25). -/
def Dev.wordRead (d : Dev) (a : Nat) : Nat × Dev :=
  match regGroup a with
  | none => (0, d)
  | some (fs, b) =>
    let w := readMask fs (a - b) (d.word a)
    if 0x2000000 ≤ a then
      let n := (a - Pg.sync 0) / 64
      if a % 64 = 0 then (d.syncValueRead .host n).answered
      else (if a % 64 = 4 then Tab.get d.hp.valHi n 0 else w, d)
    else if 0x1000000 ≤ a then
      let q := (a - 0x1000000) / 32
      if q < 61440 then
        -- COUNT of a line buffer is that of its first queue, and of a replay body RITEMS (R223, R226)
        (if a % 32 = Reg.FQ.COUNT.off then setBits w Reg.FQ.COUNT.lo Reg.FQ.COUNT.w (d.qCount q) else w, d)
      else
        let s := d.bqGet (q - 61440)
        (if a % 32 = 0x10 then s.w % 2 ^ 16 + s.r % 2 ^ 16 * 2 ^ 16
         else if a % 32 = 0x14 then setBits w 2 1 (if s.resetting then 1 else 0) else w, d)
    else if 0x60000 ≤ a ∧ a < 0x6C000 then (w, d)
    else
      match pageKind (a / 4096) with
      | none => (0, d)
      | some (k, n) =>
        let pg := a / 4096
        let o := a % 4096
        let c := pageCore pg
        if o = 0x28 then d.perfLo pg
        else if k = .xnode ∧ o = 0x84 then (d.ttData c none).answered
        else if k = .qeng ∧ o = 0x48 then (d.ltData c none).answered
        else if k = .hostport ∧ o = 0xA4 then (d.hostEt none).answered
        else if k = .ingress ∧ o = 0xA4 then (d.csiPt n none).answered
        else if k = .glink ∧ o = 0x104 then (d.glEt n none).answered
        else if k = .btile ∧ 0x200 ≤ o ∧ o < 0x400 then
          let st := d.flag (Pg.btile c n) Reg.BTILE.STAGED
          let i := (o - 0x200) / 32
          (if o % 32 = 0x18 then (if st then 0 else d.lbStatus c n i) else readMask fs (a - b) (d.word (d.bmdAt c n i st + o % 32)), d)
        else d.liveWord k n a w

/-- PERF_CNT_READ. -/
def Dev.perfCntRead (d : Dev) (pg : Nat) : Dev :=
  match pageKind pg with
  | none => d.emit (.readDone .host (pg * 4096 + 0x28) 0)
  | some _ =>
    let (v, d1) := d.perfLo pg
    d1.emit (.readDone .host (pg * 4096 + 0x28) v)

/-! ### TUNNEL requests (R398) -/

/-- A BAR0 read of the words that the byte mask touches, as 16 bytes; an aligned access of 8 bytes reads a queue window, and none: it stalls as a
host read does (R123, R398). -/
def Dev.tunBar0Read (d : Dev) (off mask : Nat) : Option (List Byte × Dev) :=
  if 0x1000000 ≤ off ∧ off < 0x1200000 ∧ 0x18 ≤ off % 32 then
    if off % 32 = 0x18 ∧ mask = 0xFF then (d.winValue ((off - 0x1000000) / 32)).map (fun r => (leBytes 16 r.1, r.2))
    else some (leBytes 16 0, d)
  else
    let a := off / 4 * 4
    let step (acc : List Byte × Dev) (j : Nat) : List Byte × Dev :=
      if bitsOf mask (4 * j) 4 = 0 then (acc.1 ++ leBytes 4 0, acc.2)
      else
        let (v, d1) := acc.2.wordRead (a + 4 * j)
        (acc.1 ++ leBytes 4 v, d1)
    some ((List.range 4).foldl step ([], d))

/-- The bytes that a request's mask enables. -/
def tunBytes (data : List Byte) (mask : Nat) : List (Option Byte) :=
  (data.zipIdx.map (fun e => if bitAt mask e.2 then some e.1 else none)).take (if mask < 16 then 4 else if mask < 256 then 8 else 16)

/-- The 16 bytes at TUN_BASE + ADDR, when they lie within TUN_LEN and the installed memory. -/
def Dev.tunMem (d : Dev) (k addr : Nat) : Option Nat :=
  let P := Pg.gl k
  let base := d.rd P Reg.GLINK.TUN_BASE_LO * 4096 + d.rd P Reg.GLINK.TUN_BASE_HI * 2 ^ 32
  if addr + 16 ≤ d.rd P Reg.GLINK.TUN_LEN * 4096 ∧ base + addr + 16 ≤ d.ddrCap then some (base + addr) else none

/-- An answer to the sender of a request, with TERR. -/
def Dev.tunAnswer (d : Dev) (k spos op tag addr : Nat) (data : List Byte) (terr : Bool) : Dev :=
  d.tunSend k [(tunPayload spos (d.rd Pg.pins Reg.PINS.POS) op tag 0xFFFF addr data).set 10 (if terr then 1 else 0)]

/-- Execute a request addressed to this device. -/
def Dev.tunExec (d : Dev) (k : Nat) (p : List Byte) : Dev :=
  let u (o n : Nat) : Nat := leNat ((p.drop o).take n)
  let spos := bitsOf (u 0 1) 3 3
  let op := u 1 1 % 8
  let tag := u 1 1 / 8
  let mask := u 2 2
  let addr := u 4 6
  let data := (p.drop 12).take 16
  match op with
  | 0 => d.bar0Write (addr % 2 ^ 26) (tunBytes data mask)
  | 1 =>
    let off := addr % 2 ^ 26
    let wait := d.hold_ .host (blockAt off) ((off - 0x1000000) / 32) (.tunRead k spos tag addr mask)
    if d.waitsAt .host (blockAt off) then wait
    else match d.tunBar0Read off mask with
      | some (bs, d1) => d1.tunAnswer k spos 3 tag addr bs false
      | none => wait
  | 2 => d.bar2Write (addr % 2 ^ 20) (tunBytes data mask)
  | 3 =>
    match (d.glGet k).tunOut with
    | some (_, t, _) => if t = tag then d.tunEnd k (leNat (data.take 4)) (bitAt (u 10 1) 0) else d
    | none => d
  | 4 =>
    match d.tunMem k addr with
    | some a =>
      let (bs, ps, d1) := d.ddrRead a 16 .none_
      d1.tunAnswer k spos 6 tag addr bs (ps.any id)
    | none => d.tunAnswer k spos 6 tag addr (List.replicate 16 0) true
  | 5 =>
    match d.tunMem k addr with
    | some a => d.ddrWrite 4 a (data.zipIdx.map (fun e => if bitAt mask e.2 then some e.1 else none)) .none_
    | none => d
  | 7 => if d.flag (Pg.gl k) Reg.GLINK.TVEC_EN then d.msix (d.rd (Pg.gl k) Reg.GLINK.TUN_VEC) else d
  | _ => d

/-- GL_TUNNEL_FRAME (R389, R398): a frame for another position leaves on the other link. -/
def Dev.glTunnelFrame (d : Dev) (k : Nat) (f : List Byte) : Dev :=
  if d.lstate k ≠ 5 ∨ (glFrameOk f && glHdr f % 4 != 3) = true then d
  else
    let (ok, d1) := d.glSeqIn k f
    if !ok then d1
    else
      let p := (f.drop 4).take 32
      let d2 := d1.count (Pg.gl k) 0xF 4
      if leNat (p.take 1) % 8 = d2.rd Pg.pins Reg.PINS.POS then d2.tunExec k p
      else if d2.lstate (1 - k) = 5 then d2.tunSend (1 - k) [p]
      else d2.bump (Pg.gl k) Reg.GLINK.TUN_DROP

/-! ### Rows that write one register -/

/-- QUIESCE: a write of PAGE_CTRL.QUIESCE that leaves ENABLE as it is. -/
def Dev.quiesceWrite (d : Dev) (pg : Nat) (on : Bool) : Dev :=
  d.hostPageWord (pg * 4096 + 12) (bitsOf (d.word (pg * 4096 + 12)) 0 1 + (if on then 2 else 0))

/-- BLOCK_RESET: a write of 1 to PAGE_CTRL.BLOCK_RESET that leaves the other bits as they are. -/
def Dev.blockResetWrite (d : Dev) (pg : Nat) : Dev :=
  d.hostPageWord (pg * 4096 + 12) (bitsOf (d.word (pg * 4096 + 12)) 0 2 + 4)

/-- A write of a data register of a core's page. -/
def Dev.coreWord (d : Dev) (a v : Nat) : Dev := d.hostPageWord a v

/-- TT_DATA and LT_DATA: a read of a fenced core's page is answered, a write is dropped (R25). -/
def Dev.ttAccess (d : Dev) (c : Nat) (w : Option Nat) : Dev :=
  match w with
  | some v => d.coreWord (Pg.xnode c + 0x84) v
  | none => d.ttData c none

def Dev.ltAccess (d : Dev) (c : Nat) (w : Option Nat) : Dev :=
  match w with
  | some v => d.coreWord (Pg.qeng c + 0x48) v
  | none => d.hostReadWord (Pg.qeng c + 0x48) (d.ltData c none)

/-- Accesses to the edge-table and credit-target registers of the host port, a CSI port and a Gostan link. -/
def Dev.hostEtAccess (d : Dev) (w : Option Nat) : Dev :=
  match w with
  | some v => d.hostPageWord (Pg.host + 0xA4) v
  | none => d.hostReadWord (Pg.host + 0xA4) (d.hostEt none)

def Dev.csiPtAccess (d : Dev) (n : Nat) (w : Option Nat) : Dev :=
  match w with
  | some v => d.hostPageWord (Pg.csi n + 0xA4) v
  | none => d.hostReadWord (Pg.csi n + 0xA4) (d.csiPt n none)

def Dev.glEtAccess (d : Dev) (k : Nat) (w : Option Nat) : Dev :=
  match w with
  | some v => d.hostPageWord (Pg.gl k + 0x104) v
  | none => d.hostReadWord (Pg.gl k + 0x104) (d.glEt k none)

/-! ### Stalled reads and what waits behind them (R123) -/

/-- A waiting access acts; none: it is a read that stalls. -/
def Dev.stallServe (d : Dev) (e : Stall) : Option Dev :=
  match e.op with
  | .read => (d.winValue e.q).map (fun r => r.2.emit (.readDone e.who (winOff e.q) r.1))
  | .tunRead k spos tag addr mask => (d.tunBar0Read (addr % 2 ^ 26) mask).map (fun r => r.2.tunAnswer k spos 3 tag addr r.1 false)
  | .winWrite w => some (d.windowPut e.q w)
  | .write off bs => some (d.bar0Now off bs)
  | .word a =>
    let (v, d1) := d.wordRead a
    some (d1.emit (.readDone .host a v))

/-- The accesses that waited act in order, up to the next read that stalls; its time starts now. -/
def Dev.stallDrain (d : Dev) (who : Requester) (block fuel : Nat) : Dev :=
  match fuel with
  | 0 => d
  | n + 1 =>
    match d.qs.stalls.find? (fun e => e.who == who && e.block == block) with
    | none => d
    | some e =>
      match ({ d with qs := { d.qs with stalls := d.qs.stalls.erase e } } : Dev).stallServe e with
      | some d1 => d1.stallDrain who block n
      | none => { d with qs := { d.qs with stalls := d.qs.stalls.map (fun x => if x = e then { e with at_ := d.cycle } else x) } }

/-- The read of the requester that stalls at queue `q`. -/
def Dev.stallFront (d : Dev) (who : Requester) (q : Nat) : Option Stall :=
  match d.qs.stalls.find? (fun e => e.who == who && e.block == winBlock q) with
  | some e => if e.q = q then some e else none
  | none => none

/-- The stalled read `e` has ended with device `d`: what waited behind it goes on. -/
def Dev.stallEnd (d : Dev) (e : Stall) : Dev := d.stallDrain e.who e.block (d.qs.stalls.length + 1)

/-- WINDOW_STALL_RETURN: an item can be popped, or the stall ends at once (R123). -/
def Dev.windowStallReturn (d : Dev) (who : Requester) (q : Nat) : Dev :=
  match d.stallFront who q with
  | none => d
  | some e =>
    match ({ d with qs := { d.qs with stalls := d.qs.stalls.erase e } } : Dev).stallServe e with
    | some d1 => d1.stallEnd e
    | none => d

/-- WINDOW_STALL_TIMEOUT: QSTALL_MAX passed without an item. -/
def Dev.windowStallTimeout (d : Dev) (who : Requester) (q : Nat) : Dev :=
  match d.stallFront who q with
  | none => d
  | some e =>
    if (d.winValue q).isSome || decide (d.cycle < e.at_ + usCycles (d.rd (winBlock q) Reg.QENG.QSTALL_MAX)) then d
    else
      let d0 : Dev := { d with qs := { d.qs with stalls := d.qs.stalls.erase e } }
      match e.op with
      | .tunRead k spos tag addr _ => (d0.tunAnswer k spos 3 tag addr (leBytes 16 0) false).stallEnd e
      | _ => (d0.emit (.readDone who (winOff q) 0)).stallEnd e

end Sys2Proof.Machine
end

