-- ==== Sys2Proof/Machine/RowsGostan.lean ====
section
/-!
DEFINITION. The commands of the Gostan links: what each does (exec).
-/

namespace Sys2Proof.Machine

/-- GL_DATA_FRAME (R389, R390, R392). -/
def execGlDataFrame (k : Fin 2) (frame : List Byte) (s : State) : Host.Outcome State Fault Refusal :=
  .next { s with dev := s.dev.glDataFrame k frame }

/-- GL_CTRL_FRAME (R387, R389, R390, R394). -/
def execGlCtrlFrame (k : Fin 2) (frame : List Byte) (s : State) : Host.Outcome State Fault Refusal :=
  .next { s with dev := s.dev.glCtrlFrame k frame }

/-- GL_TUNNEL_FRAME (R398). -/
def execGlTunnelFrame (k : Fin 2) (frame : List Byte) (s : State) : Host.Outcome State Fault Refusal :=
  .next { s with dev := s.dev.glTunnelFrame k frame }

/-- GL_TRANSMIT (R388). -/
def execGlTransmit (k : Fin 2) (s : State) : Host.Outcome State Fault Refusal :=
  .next { s with dev := s.dev.glTransmit k }

/-- GL_REPLAY (R389). -/
def execGlReplay (k : Fin 2) (s : State) : Host.Outcome State Fault Refusal :=
  .next { s with dev := s.dev.glReplay k }

/-- GL_DOWN (R386, R389, R395). -/
def execGlDown (k : Fin 2) (why : DownWhy) (s : State) : Host.Outcome State Fault Refusal :=
  .next { s with dev := s.dev.glDown k why }

/-- GL_TRAIN_ADVANCE (R393, R395). -/
def execGlTrainAdvance (k : Fin 2) (e : TrainEvent) (s : State) : Host.Outcome State Fault Refusal :=
  .next { s with dev := s.dev.glTrain k e }

/-- GL_KEY_UPDATE (R394). -/
def execGlKeyUpdate (k : Fin 2) (s : State) : Host.Outcome State Fault Refusal :=
  .next { s with dev := s.dev.glKeyUpdate k }

/-- RETRAIN (R393, Table 13.9). -/
def execRetrain (k : Fin 2) (s : State) : Host.Outcome State Fault Refusal :=
  .next { s with dev := s.dev.glRetrain k }

/-- TUN_WR (R398). -/
def execTunWr (k : Fin 2) (s : State) : Host.Outcome State Fault Refusal :=
  .next { s with dev := s.dev.tunWr k }

/-- TUN_RD (R398). -/
def execTunRd (k : Fin 2) (s : State) : Host.Outcome State Fault Refusal :=
  .next { s with dev := s.dev.tunRd k }

/-- TUN_TIMEOUT (R398). -/
def execTunTimeout (k : Fin 2) (s : State) : Host.Outcome State Fault Refusal :=
  .next { s with dev := s.dev.tunTimeout k }

end Sys2Proof.Machine
end

