-- ==== Sys2Proof/Machine/RowsHost.lean ====
section
/-!
DEFINITION. The commands of the host port, its rings, the sync objects and the windows: what each does (exec).
-/

namespace Sys2Proof.Machine

/-- NOP (R369). -/
def execNop (r : Fin 64) (s : State) : Host.Outcome State Fault Refusal :=
  .next { s with dev := s.dev.cmdNop r }

/-- READ_KEY (R305). -/
def execReadKey (r : Fin 64) (s : State) : Host.Outcome State Fault Refusal :=
  .next { s with dev := s.dev.cmdReadKey r }

/-- SIGNAL (R374). -/
def execSignal (r : Fin 64) (s : State) : Host.Outcome State Fault Refusal :=
  .next { s with dev := s.dev.cmdSignal r }

/-- FENCE_WAIT (R375). -/
def execFenceWait (r : Fin 64) (s : State) : Host.Outcome State Fault Refusal :=
  .next { s with dev := s.dev.cmdFenceWait r }

/-- BARRIER (R375). -/
def execBarrier (r : Fin 64) (s : State) : Host.Outcome State Fault Refusal :=
  .next { s with dev := s.dev.cmdBarrier r }

/-- FENCE_WAIT_COMPLETE (R375). -/
def execFenceWaitComplete (r : Fin 64) (s : State) : Host.Outcome State Fault Refusal :=
  .next { s with dev := s.dev.waitComplete r 0x0B }

/-- BARRIER_COMPLETE (R375). -/
def execBarrierComplete (r : Fin 64) (s : State) : Host.Outcome State Fault Refusal :=
  .next { s with dev := s.dev.waitComplete r 0x0C }

/-- WAIT_TIMEOUT (R375). -/
def execWaitTimeout (r : Fin 64) (s : State) : Host.Outcome State Fault Refusal :=
  .next { s with dev := s.dev.waitTimeout r }

/-- COMMAND_DISPATCH (R370). -/
def execCommandDispatch (s : State) : Host.Outcome State Fault Refusal :=
  .next { s with dev := s.dev.commandDispatch }

/-- COMPLETION_EVENT (R371). -/
def execCompletionEvent (r : Fin 64) (s : State) : Host.Outcome State Fault Refusal :=
  .next { s with dev := s.dev.completionEvent r }

/-- LOADER_QUEUE_ENTER (R370). -/
def execLoaderQueueEnter (r : Fin 64) (s : State) : Host.Outcome State Fault Refusal :=
  .next { s with dev := s.dev.loaderQueueEnter r }

/-- QUEUE_PUSH (R217, R392). -/
def execQueuePush (n : Fin 64) (s : State) : Host.Outcome State Fault Refusal :=
  .next { s with dev := s.dev.queuePush n }

/-- READ_RESPONSE (R87, R360). -/
def execReadResponse (n : Fin 64) (s : State) : Host.Outcome State Fault Refusal :=
  .next { s with dev := s.dev.readResponse n }

/-- WRITE_ACKNOWLEDGEMENT (R87). -/
def execWriteAcknowledgement (n : Fin 64) (s : State) : Host.Outcome State Fault Refusal :=
  .next { s with dev := s.dev.writeAck n }

/-- TAIL_TIMEOUT (R120). -/
def execTailTimeout (q : Fin 65536) (s : State) : Host.Outcome State Fault Refusal :=
  .next { s with dev := s.dev.tailTimeout q }

/-- WINDOW_READ (R121). -/
def execWindowRead (who : Requester) (q : Fin 65536) (s : State) : Host.Outcome State Fault Refusal :=
  .next { s with dev := s.dev.windowRead who q }

/-- WINDOW_WRITE (R121). -/
def execWindowWrite (q : Fin 65536) (w : BitVec 64) (s : State) : Host.Outcome State Fault Refusal :=
  .next { s with dev := s.dev.windowWrite q w }

/-- DOORBELL (R359). -/
def execDoorbell (b : Fin 1536) (v : Word) (s : State) : Host.Outcome State Fault Refusal :=
  .next { s with dev := s.dev.doorbell b v.toNat }

/-- RING_ENABLE (R365). -/
def execRingEnable (b : Fin 1536) (s : State) : Host.Outcome State Fault Refusal :=
  .next { s with dev := s.dev.ringEnable b }

/-- RING_DISABLE (R365). -/
def execRingDisable (b : Fin 1536) (s : State) : Host.Outcome State Fault Refusal :=
  .next { s with dev := s.dev.ringDisable b }

/-- RING_READ (R366). -/
def execRingRead (b : Fin 1536) (s : State) : Host.Outcome State Fault Refusal :=
  .next { s with dev := s.dev.ringRead b }

/-- RING_READ_COMPLETION (R366). -/
def execRingReadCompletion (b : Fin 1536) (r : HostRead) (s : State) : Host.Outcome State Fault Refusal :=
  .next { s with dev := s.dev.ringCompletion b r }

/-- RING_WRITE (R367). -/
def execRingWrite (b : Fin 1536) (s : State) : Host.Outcome State Fault Refusal :=
  .next { s with dev := s.dev.ringWrite b }

/-- CPL_TIMEOUT (R353). -/
def execCplTimeout (tag : Fin 512) (s : State) : Host.Outcome State Fault Refusal :=
  .next { s with dev := s.dev.cplTimeout tag }

/-- HOST_PORT_RESET (R354). -/
def execHostPortReset (s : State) : Host.Outcome State Fault Refusal :=
  .next { s with dev := s.dev.hostPortReset }

/-- APERTURE_READ (R360). -/
def execApertureRead (off : BitVec 36) (len : Fin 513) (s : State) : Host.Outcome State Fault Refusal :=
  .next { s with dev := s.dev.aperture off.toNat len [] false }

/-- APERTURE_WRITE (R360). -/
def execApertureWrite (off : BitVec 36) (data : List Byte) (s : State) : Host.Outcome State Fault Refusal :=
  .next { s with dev := s.dev.aperture off.toNat data.length data true }

/-- APERTURE_READ_TIMEOUT (R360). -/
def execApertureReadTimeout (txid : Word) (s : State) : Host.Outcome State Fault Refusal :=
  .next { s with dev := s.dev.apertureTimeout txid.toNat }

/-- SYNC_ADD (R374). -/
def execSyncAdd (n : Fin 8192) (v : Word) (s : State) : Host.Outcome State Fault Refusal :=
  .next { s with dev := s.dev.syncAdd n v.toNat }

/-- SYNC_VALUE_READ (R373). -/
def execSyncValueRead (who : Requester) (n : Fin 8192) (s : State) : Host.Outcome State Fault Refusal :=
  .next { s with dev := s.dev.syncValueRead who n }

end Sys2Proof.Machine
end

