-- ==== Sys2Proof/Machine/RowsLoader.lean ====
section
/-!
DEFINITION. The commands of the loader: what each does (exec).
-/

namespace Sys2Proof.Machine

/-- LOAD_IMAGE (R286). -/
def execLoadImage (img : HostRead) (ptes : List HostPte) (s : State) : Host.Outcome State Fault Refusal :=
  .next { s with dev := s.dev.loadImage img ptes }

/-- UNLOAD (R286). -/
def execUnload (s : State) : Host.Outcome State Fault Refusal :=
  .next { s with dev := s.dev.unload }

/-- APPLY_OVERLAY (R295). -/
def execApplyOverlay (s : State) : Host.Outcome State Fault Refusal :=
  .next { s with dev := s.dev.applyCmd }

/-- START (R292). -/
def execStart (s : State) : Host.Outcome State Fault Refusal :=
  .next { s with dev := s.dev.startCmd }

/-- STOP (R292). -/
def execStop (s : State) : Host.Outcome State Fault Refusal :=
  .next { s with dev := s.dev.stopCmd }

/-- DRAIN (R292). -/
def execDrain (s : State) : Host.Outcome State Fault Refusal :=
  .next { s with dev := s.dev.drainBegin }

/-- UNFENCE (R300). -/
def execUnfence (s : State) : Host.Outcome State Fault Refusal :=
  .next { s with dev := s.dev.unfenceCmd }

/-- LOAD_COMPLETE (R286). -/
def execLoadComplete (d : Fin 4) (s : State) : Host.Outcome State Fault Refusal :=
  .next { s with dev := s.dev.loadComplete d }

/-- APPLY_WRITE (R295). -/
def execApplyWrite (d : Fin 4) (s : State) : Host.Outcome State Fault Refusal :=
  .next { s with dev := s.dev.applyWrite d }

/-- DRAIN_COMPLETE (R292). -/
def execDrainComplete (d : Fin 4) (s : State) : Host.Outcome State Fault Refusal :=
  .next { s with dev := s.dev.drainComplete d }

/-- SEGMENT_BOUNDARY (R58). -/
def execSegmentBoundary (d : Fin 4) (s : State) : Host.Outcome State Fault Refusal :=
  .next { s with dev := s.dev.segmentBoundary d }

/-- SEGMENT_INSTALL (R58). -/
def execSegmentInstall (d : Fin 4) (s : State) : Host.Outcome State Fault Refusal :=
  .next { s with dev := s.dev.segmentInstall d }

/-- FOLD_COMPLETE (R298). -/
def execFoldComplete (d : Fin 4) (s : State) : Host.Outcome State Fault Refusal :=
  .next { s with dev := s.dev.foldComplete d }

/-- KEY_UPDATE (R303). -/
def execKeyUpdate (s : State) : Host.Outcome State Fault Refusal :=
  .next { s with dev := s.dev.keyUpdate }

/-- QUIET_EXPIRY (R323). -/
def execQuietExpiry (d : Fin 4) (s : State) : Host.Outcome State Fault Refusal :=
  .next { s with dev := s.dev.quietExpiry d }

/-- RECOVERY_COMPLETE (R323). -/
def execRecoveryComplete (d : Fin 4) (s : State) : Host.Outcome State Fault Refusal :=
  .next { s with dev := s.dev.recoveryComplete d }

/-- KEY_LATCH (R305). -/
def execKeyLatch (s : State) : Host.Outcome State Fault Refusal :=
  .next { s with dev := s.dev.keyLatch }

end Sys2Proof.Machine
end

