-- ==== Sys2Proof/Machine/RowsMemory.lean ====
section
/-!
DEFINITION. The commands of the fetch engines, translation, the memory ports and the packets that a core's bulk port or a fetch
engine serves: what each does (exec).
-/

namespace Sys2Proof.Machine

/-- B_TILE_WRITE (R217). -/
def execBTileWrite (c : Fin 32) (s : State) : Host.Outcome State Fault Refusal :=
  .next { s with dev := s.dev.bTileWrite c }

/-- WEIGHT_STORE_WRITE (R135). -/
def execWeightStoreWrite (c : Fin 32) (s : State) : Host.Outcome State Fault Refusal :=
  .next { s with wmem := (s.dev.weightWrite s.wmem c).1, dev := (s.dev.weightWrite s.wmem c).2 }

/-- READ_REQUEST (R217). -/
def execReadRequest (c : Fin 32) (s : State) : Host.Outcome State Fault Refusal :=
  .next { s with dev := s.dev.readRequest c }

/-- CONFIGURATION_WRITE (R282). -/
def execConfigurationWrite (n : Fin 64) (s : State) : Host.Outcome State Fault Refusal :=
  .next { s with scr := (s.dev.configWrite s.scr n).1, dev := (s.dev.configWrite s.scr n).2 }

/-- SPILL_SEND (R237). -/
def execSpillSend (c : Fin 32) (b : Fin 4) (i : Fin 16) (s : State) : Host.Outcome State Fault Refusal :=
  .next { s with dev := s.dev.spillSend c b i }

/-- SPILL_PACKET (R249). -/
def execSpillPacket (f : Fin 8) (s : State) : Host.Outcome State Fault Refusal :=
  .next { s with dev := s.dev.spillPacket f }

/-- SPILL_ACK (R249). -/
def execSpillAck (f : Fin 8) (st : Fin 64) (s : State) : Host.Outcome State Fault Refusal :=
  .next { s with dev := s.dev.spillAck f st }

/-- FETCH_ISSUE (R252). -/
def execFetchIssue (f : Fin 8) (s : State) : Host.Outcome State Fault Refusal :=
  .next { s with dev := s.dev.fetchIssue f }

/-- FETCH_RETURN (R255). -/
def execFetchReturn (f : Fin 8) (tag : Fin 2048) (host : HostRead) (s : State) : Host.Outcome State Fault Refusal :=
  .next { s with dev := s.dev.fetchReturn f tag host }

/-- PASS_START (R245). -/
def execPassStart (f : Fin 8) (st : Fin 64) (s : State) : Host.Outcome State Fault Refusal :=
  .next { s with dev := s.dev.passStart f st }

/-- GATHER_REQUEST (R248). -/
def execGatherRequest (f : Fin 8) (st : Fin 64) (s : State) : Host.Outcome State Fault Refusal :=
  .next { s with dev := s.dev.gatherRequest f st }

/-- PREFETCH_DONE (R250). -/
def execPrefetchDone (f : Fin 8) (st : Fin 64) (s : State) : Host.Outcome State Fault Refusal :=
  .next { s with dev := s.dev.prefetchDone f st }

/-- TAG_TIMEOUT (R258). -/
def execTagTimeout (p : Fin 4) (tag : Fin 256) (s : State) : Host.Outcome State Fault Refusal :=
  .next { s with dev := s.dev.portTimeout p tag }

/-- CANCEL (R256). -/
def execCancel (f : Fin 8) (st : Fin 64) (s : State) : Host.Outcome State Fault Refusal :=
  .next { s with dev := s.dev.cancelWrite f st }

/-- CANCEL_COMPLETE (R257). -/
def execCancelComplete (f : Fin 8) (st : Fin 64) (s : State) : Host.Outcome State Fault Refusal :=
  .next { s with dev := s.dev.cancelComplete f st }

/-- RESOLVE_RETRY (R273). -/
def execResolveRetry (f : Fin 8) (st : Fin 64) (s : State) : Host.Outcome State Fault Refusal :=
  .next { s with dev := s.dev.resolveRetry f st }

/-- RESOLVE_CANCEL (R273). -/
def execResolveCancel (f : Fin 8) (st : Fin 64) (s : State) : Host.Outcome State Fault Refusal :=
  .next { s with dev := s.dev.resolveCancel f st }

/-- XLATE_WAIT_EXPIRY (R273). -/
def execXlateWaitExpiry (f : Fin 8) (st : Fin 64) (s : State) : Host.Outcome State Fault Refusal :=
  .next { s with dev := s.dev.xlateWaitExpiry f st }

/-- WALK_DONE (R271). -/
def execWalkDone (f : Fin 8) (st : Fin 64) (host : List HostPte) (s : State) : Host.Outcome State Fault Refusal :=
  .next { s with dev := s.dev.walkDone f st host }

/-- INVAL (R275). -/
def execInval (s : State) : Host.Outcome State Fault Refusal := .next { s with dev := s.dev.inval }

/-- INVAL_COMPLETE (R275). -/
def execInvalComplete (s : State) : Host.Outcome State Fault Refusal := .next { s with dev := s.dev.invalComplete }

/-- LOCK (R272). -/
def execLock (s : State) : Host.Outcome State Fault Refusal := .next { s with dev := s.dev.lockStart }

/-- LOCK_COMPLETE (R272). -/
def execLockComplete (host : List HostPte) (s : State) : Host.Outcome State Fault Refusal :=
  .next { s with dev := s.dev.lockComplete host }

/-- UNLOCK (R278). -/
def execUnlock (s : State) : Host.Outcome State Fault Refusal := .next { s with dev := s.dev.unlockRange }

/-- MEM_ACCESS (R261): an address that no installed memory serves stops the machine (R260). -/
def execMemAccess (p : Fin 4) (tag : Fin 256) (s : State) : Host.Outcome State Fault Refusal :=
  match s.dev.memMissing p tag with
  | some pa => .fault (.noMemory pa)
  | none => .next { s with dev := s.dev.portAccess p tag }

/-- REFRESH (R262). -/
def execRefresh (p : Fin 4) (s : State) : Host.Outcome State Fault Refusal :=
  .next { s with dev := s.dev.refresh p }

/-- DDR_SCRUB (R268). -/
def execDdrScrub (p : Fin 4) (s : State) : Host.Outcome State Fault Refusal :=
  .next { s with dev := s.dev.ddrScrub p }

/-- DDR_SCRUB_WRITEBACK (R268). -/
def execDdrScrubWriteback (p : Fin 4) (s : State) : Host.Outcome State Fault Refusal :=
  .next { s with dev := s.dev.ddrScrubWriteback p }

end Sys2Proof.Machine
end

