-- ==== Sys2Proof/Machine/RowsPlatform.lean ====
section
/-!
DEFINITION. The commands of reset, boot, power, triggers and security: what each does (exec).
-/

namespace Sys2Proof.Machine

/-- PLL_LOSS (R405). -/
def execPllLoss (xinLost : Bool) (s : State) : Host.Outcome State Fault Refusal :=
  .next { s with dev := s.dev.pllLoss xinLost }

/-- SECURITY (R425). -/
def execSecurity (why : SecViolation) (s : State) : Host.Outcome State Fault Refusal :=
  .next { s with dev := s.dev.securityEvent why }

/-- CHIP_RESET (R317). -/
def execChipReset (s : State) : Host.Outcome State Fault Refusal :=
  .next (s.chipResetDue)

/-- PWROK_FALL (R406). -/
def execPwrokFall (s : State) : Host.Outcome State Fault Refusal :=
  .next (s.chipReset 0)

/-- RESET_L (R406). -/
def execResetL (ns : Nat) (s : State) : Host.Outcome State Fault Refusal :=
  .next (s.resetPulse ns)

/-- PE_PERST_L_ASSERT (R406). -/
def execPePerstLAssert (s : State) : Host.Outcome State Fault Refusal :=
  .next { s with dev := s.dev.perstLow }

/-- PE_PERST_L_DEASSERT (R407). -/
def execPePerstLDeassert (s : State) : Host.Outcome State Fault Refusal :=
  .next { s with dev := s.dev.perstHigh }

/-- PCIE_LINK_UP (R350). -/
def execPcieLinkUp (speed : Fin 6) (width : Fin 5) (reversed : Bool) (pol : BitVec 4) (s : State) : Host.Outcome State Fault Refusal :=
  .next { s with dev := s.dev.pcieLinkUp speed width reversed pol.toNat }

/-- BOOT_START (R412). -/
def execBootStart (pd pu : BitVec 16) (testmode : Bool) (s : State) : Host.Outcome State Fault Refusal :=
  .next { s with dev := s.dev.bootStart pd.toNat pu.toNat testmode }

/-- PLL_LOCK (R405). -/
def execPllLock (s : State) : Host.Outcome State Fault Refusal :=
  .next { s with dev := s.dev.pllLock s.flash }

/-- FIRMWARE_VERIFIED (R414). -/
def execFirmwareVerified (upstream : List Byte) (s : State) : Host.Outcome State Fault Refusal :=
  .next (let r := s.dev.firmwareVerified s.flash upstream; { s with dev := r.2, flash := r.1 })

/-- BOOT_GO (R413). -/
def execBootGo (s : State) : Host.Outcome State Fault Refusal :=
  .next { s with dev := s.dev.bootGo }

/-- DDR_TRAINING_DONE (R264). -/
def execDdrTrainingDone (delays : List (BitVec 32)) (s : State) : Host.Outcome State Fault Refusal :=
  .next { s with dev := s.dev.ddrTrained s.flash (delays.map (·.toNat)) }

/-- HOST_PORT_READY (R407). -/
def execHostPortReady (s : State) : Host.Outcome State Fault Refusal :=
  .next { s with dev := s.dev.hostPortReady s.flash }

/-- AUTOLOAD (R415). -/
def execAutoload (k : Fin 4) (s : State) : Host.Outcome State Fault Refusal :=
  .next { s with dev := s.dev.autoload s.flash k }

/-- MONITOR_SAMPLE (R404). -/
def execMonitorSample (mv : List (BitVec 16)) (out : BitVec 8) (s : State) : Host.Outcome State Fault Refusal :=
  .next { s with dev := s.dev.monitorSample (mv.map (·.toNat)) out.toNat }

/-- PMBUS_POLL (R404). -/
def execPmbusPoll (rail : Fin 8) (reply : Option PmbusReply) (s : State) : Host.Outcome State Fault Refusal :=
  .next { s with dev := s.dev.pmbusPoll rail reply }

/-- GOVERNOR_MEASURE (R416). -/
def execGovernorMeasure (p : BitVec 16) (tj : List Int) (s : State) : Host.Outcome State Fault Refusal :=
  .next { s with dev := s.dev.governorMeasure p.toNat tj }

/-- GOVERNOR_CALIBRATE (R416). -/
def execGovernorCalibrate (s : State) : Host.Outcome State Fault Refusal :=
  .next { s with dev := s.dev.governorCalibrate }

/-- GOVERNOR_WINDOW (R417). -/
def execGovernorWindow (s : State) : Host.Outcome State Fault Refusal :=
  .next { s with dev := s.dev.governorWindow }

/-- THERMTRIP_HW (R418). -/
def execThermtripHw (s : State) : Host.Outcome State Fault Refusal :=
  .next { s with dev := s.dev.thermtrip }

/-- TRG_EDGE (R420). -/
def execTrgEdge (i : Fin 4) (level : Bool) (s : State) : Host.Outcome State Fault Refusal :=
  .next { s with dev := s.dev.trgEdge i level }

/-- TRG_STUCK (R420). -/
def execTrgStuck (i : Fin 4) (s : State) : Host.Outcome State Fault Refusal :=
  .next { s with dev := s.dev.trgStuck i }

/-- TRG_UNSTUCK (R420). -/
def execTrgUnstuck (i : Fin 4) (s : State) : Host.Outcome State Fault Refusal :=
  .next { s with dev := s.dev.trgUnstuck i }

/-- TRG_TOKEN_PUSH (R421). -/
def execTrgTokenPush (i : Fin 4) (s : State) : Host.Outcome State Fault Refusal :=
  .next { s with dev := s.dev.trgTokenPush i }

/-- PROVISION (R424). The operation takes no argument. -/
def execProvision (trng : BitVec 256) (_ : HostRead) (s : State) : Host.Outcome State Fault Refusal :=
  .next { s with dev := s.dev.secProvision trng.toNat }

/-- OWN (R424). -/
def execOwn (arg : HostRead) (s : State) : Host.Outcome State Fault Refusal :=
  .next { s with dev := s.dev.secOwn arg }

/-- REVOKE (R424). -/
def execRevoke (arg : HostRead) (s : State) : Host.Outcome State Fault Refusal :=
  .next { s with dev := s.dev.secRevoke arg }

/-- RETURN (R424). -/
def execReturn (arg : HostRead) (s : State) : Host.Outcome State Fault Refusal :=
  .next { s with dev := s.dev.secReturn arg }

/-- SVN_COMMIT (R424). The operation takes no argument. -/
def execSvnCommit (_ : HostRead) (s : State) : Host.Outcome State Fault Refusal :=
  .next { s with dev := s.dev.secSvnCommit }

/-- ATTEST (R426). -/
def execAttest (r : Fin 64) (s : State) : Host.Outcome State Fault Refusal :=
  .next { s with dev := s.dev.cmdAttest r }

/-- ATTEST_REPORT_WRITE (R426). -/
def execAttestReportWrite (failed : Bool) (s : State) : Host.Outcome State Fault Refusal :=
  .next { s with dev := s.dev.attestWrite failed }

end Sys2Proof.Machine
end

