-- ==== Sys2Proof/Machine/RowsRegisters.lean ====
section
/-!
DEFINITION. The commands that access registers: what each does (exec).
-/

namespace Sys2Proof.Machine

/-- QUIESCE (R163, R201, R239, R276). -/
def execQuiesce (pg : Fin 16384) (on : Bool) (s : State) : Host.Outcome State Fault Refusal :=
  .next { s with dev := s.dev.quiesceWrite pg on }

/-- BLOCK_RESET (R163, R201, R239, R276, R358). -/
def execBlockReset (pg : Fin 16384) (s : State) : Host.Outcome State Fault Refusal :=
  .next { s with dev := s.dev.blockResetWrite pg }

/-- PERF_SEL_WRITE (R358). -/
def execPerfSelWrite (pg : Fin 16384) (v : Word) (s : State) : Host.Outcome State Fault Refusal :=
  .next { s with dev := s.dev.hostPageWord (pg * 4096 + 0x24) v.toNat }

/-- PERF_CNT_READ (R358). -/
def execPerfCntRead (pg : Fin 16384) (s : State) : Host.Outcome State Fault Refusal :=
  .next { s with dev := s.dev.hostReadWord (pg * 4096 + 0x28) (s.dev.perfCntRead pg) }

/-- RTT_CLR (R279). -/
def execRttClr (p : Fin 4) (s : State) : Host.Outcome State Fault Refusal :=
  .next { s with dev := s.dev.rttClr p }

/-- TT_DATA (R94). -/
def execTtData (c : Fin 32) (w : Option Word) (s : State) : Host.Outcome State Fault Refusal :=
  .next { s with dev := s.dev.ttAccess c (w.map BitVec.toNat) }

/-- LT_DATA (R124). -/
def execLtData (c : Fin 32) (w : Option Word) (s : State) : Host.Outcome State Fault Refusal :=
  .next { s with dev := s.dev.ltAccess c (w.map BitVec.toNat) }

/-- M_PI_HI (R163). -/
def execMPiHi (c : Fin 32) (m : Fin 10) (v : Word) (s : State) : Host.Outcome State Fault Refusal :=
  .next { s with dev := s.dev.coreWord (Pg.mtile c m + 0x108) v.toNat }

/-- M_DI_HI (R163). -/
def execMDiHi (c : Fin 32) (m : Fin 10) (v : Word) (s : State) : Host.Outcome State Fault Refusal :=
  .next { s with dev := s.dev.coreWord (Pg.mtile c m + 0x114) v.toNat }

/-- V_PI_HI (R201). -/
def execVPiHi (c : Fin 32) (u : Fin 2) (v : Word) (s : State) : Host.Outcome State Fault Refusal :=
  .next { s with dev := s.dev.coreWord (Pg.vtile c u + 0x148) v.toNat }

/-- V_DI_HI (R201). -/
def execVDiHi (c : Fin 32) (u : Fin 2) (v : Word) (s : State) : Host.Outcome State Fault Refusal :=
  .next { s with dev := s.dev.coreWord (Pg.vtile c u + 0x154) v.toNat }

/-- FT_HI (R201). -/
def execFtHi (c : Fin 32) (u : Fin 2) (v : Word) (s : State) : Host.Outcome State Fault Refusal :=
  .next { s with dev := s.dev.coreWord (Pg.vtile c u + 0x160) v.toNat }

/-- HOST_ET_DATA (R377). -/
def execHostEtData (w : Option Word) (s : State) : Host.Outcome State Fault Refusal :=
  .next { s with dev := s.dev.hostEtAccess (w.map BitVec.toNat) }

/-- CT_DATA (R377). -/
def execCtData (v : Word) (s : State) : Host.Outcome State Fault Refusal :=
  .next { s with dev := s.dev.hostPageWord (Pg.host + 0xAC) v.toNat }

/-- PT_DATA (R399). -/
def execPtData (n : Fin 4) (w : Option Word) (s : State) : Host.Outcome State Fault Refusal :=
  .next { s with dev := s.dev.csiPtAccess n (w.map BitVec.toNat) }

/-- GL_ET_DATA (R400). -/
def execGlEtData (k : Fin 2) (w : Option Word) (s : State) : Host.Outcome State Fault Refusal :=
  .next { s with dev := s.dev.glEtAccess k (w.map BitVec.toNat) }

/-- REGISTER_WRITE (R8, R356). -/
def execRegisterWrite (off : HostAddr) (data : List (Option Byte)) (s : State) : Host.Outcome State Fault Refusal :=
  .next { s with dev := s.dev.registerWrite off data }

/-- WINDOW_STALL_RETURN (R123). -/
def execWindowStallReturn (who : Requester) (q : Fin 65536) (s : State) : Host.Outcome State Fault Refusal :=
  .next { s with dev := s.dev.windowStallReturn who q }

/-- WINDOW_STALL_TIMEOUT (R123). -/
def execWindowStallTimeout (who : Requester) (q : Fin 65536) (s : State) : Host.Outcome State Fault Refusal :=
  .next { s with dev := s.dev.windowStallTimeout who q }

end Sys2Proof.Machine
end

