-- ==== Sys2Proof/Machine/RowsScore.lean ====
section
/-!
DEFINITION. The commands of the scoresheet and the journal: what each does (exec).
-/

namespace Sys2Proof.Machine

/-- CLEAR_SCORESHEET (R342). -/
def execClearScoresheet (r : Fin 64) (sig : HostRead) (s : State) : Host.Outcome State Fault Refusal :=
  .next (let r := s.dev.clearScore s.flash r sig; { s with dev := r.2, flash := r.1 })

/-- SCORESHEET_ERASE_DONE (R342). -/
def execScoresheetEraseDone (s : State) : Host.Outcome State Fault Refusal :=
  .next (let r := s.dev.scoreErased s.flash; { s with dev := r.2, flash := r.1 })

/-- RECORD_COMMIT (R338). -/
def execRecordCommit (s : State) : Host.Outcome State Fault Refusal :=
  .next (let r := s.dev.recordCommit s.flash; { s with dev := r.2, flash := r.1 })

/-- SCORESHEET_SCAN (R341). -/
def execScoresheetScan (s : State) : Host.Outcome State Fault Refusal :=
  .next (let r := s.dev.scoreScan s.flash; { s with dev := r.2, flash := r.1 })

/-- JOURNAL_RECORD (R345). -/
def execJournalRecord (flashFails : Bool) (s : State) : Host.Outcome State Fault Refusal :=
  .next (let r := s.dev.journalRecord s.flash flashFails; { s with dev := r.2, flash := r.1 })

/-- COMPACTION_DONE (R347). -/
def execCompactionDone (flashFails : Bool) (s : State) : Host.Outcome State Fault Refusal :=
  .next (let r := s.dev.compactionDone s.flash flashFails; { s with dev := r.2, flash := r.1 })

/-- OPSEC_TICK (R335, R419). -/
def execOpsecTick (wear : Fin 1001) (s : State) : Host.Outcome State Fault Refusal :=
  .next { s with dev := s.dev.opsecTick wear }

/-- OPSEC_JOURNAL (R345). -/
def execOpsecJournal (s : State) : Host.Outcome State Fault Refusal :=
  .next { s with dev := s.dev.opsecJournal }

/-- USER_WRITE (R345). -/
def execUserWrite (i : Fin 16) (v : Word) (s : State) : Host.Outcome State Fault Refusal :=
  .next { s with dev := s.dev.userWrite i v.toNat }

end Sys2Proof.Machine
end

