-- ==== Sys2Proof/Machine/VConv.lean ====
section
/-!
DEFINITION. Window steps of the vector tiles: grouped and depthwise convolution, pooling, argmax, and the elementwise operations and
reductions (R179 to R184), conversion (R198).
-/

namespace Sys2Proof.Machine

/-! ### DWC (R179) -/

/-- Flits per input row. -/
def winFlits (de : VDesc) (xb nx : Nat) : Nat := flitsOf (needed de.iw de.pl de.dil de.kw de.s xb nx de.ow) (perFlit de.ifmt)

/-- The takes of `rows` rows of `nf` flits: from SA, or alternating with SB. -/
def rowTakes (iw rows nf : Nat) (dual : Bool) : List (Nat × Nat × Nat) :=
  (List.range rows).map (fun i => srcTake (if dual && i % 2 == 1 then vSB iw else vSA iw) nf)

/-- Scratch entries of one weight set. -/
def dwcSet (de : VDesc) : Nat := (de.icg * de.kh * de.kw + 31) / 32

def dwcBase (de : VDesc) (ch : Nat) : Nat := bitsOf de.w1 32 11 + ch * dwcSet de

def planDwc (c v : Nat) (d : Dev) (iw m : Nat) : Plan :=
  let de := d.vDescOf c v iw
  let dual := bitAt iw 14
  let nx := bitsOf iw 21 4 + 1
  let pt := bitsOf iw 18 3
  let pb := bitsOf iw 15 3
  let ws := dwcBase de (d.vCh c v (vDesc iw))
  if bitsOf iw 0 14 ≠ 0 ∨ vUnused iw true true dual true false true = true then .bad 1
  else if 64 < vRD iw + nx * 32 / perFlit de.ofmt ∨ 2048 < ws + dwcSet de then .bad 3
  else if de.bad ∨ de.badRs ∨ de.kh = 8 ∨ de.kw = 8 ∨ 1 < de.ifmt ∨ 1 < de.ofmt ∨
      (de.s ≠ 1 ∧ de.s ≠ 2 ∧ de.s ≠ 4) then .bad 4
  else if de.kh ≤ pt + pb then .bad 9
  else if !onVnet (vSA iw) ∨ (dual ∧ !onVnet (vSB iw)) then .bad 6
  else if d.vWaits c v m 0x02 (some (ws, dwcSet de)) then .wait
  else .go (rowTakes iw (de.icg * (de.kh - pt - pb)) (winFlits de (bitsOf iw 25 6) nx) dual) none 1

/-- The taken rows of a window step, in order. -/
def rowsOfRun (r : Run) (i : Nat) : List Item := ((r.segs[i]?).map (·.got)).getD []

/-- Position `x` lies in a row of width IW. -/
def inRow (de : VDesc) (x : Int) : Bool := decide (0 ≤ x ∧ x < de.iw)

/-- The flit that holds position `x`, of the flits of a row beginning with flit `fb`. -/
def flitAt (de : VDesc) (row : List Item) (fb : Nat) (x : Int) : Item :=
  row.getD (x.toNat / perFlit de.ifmt - fb) Item.zero

/-- Integer operand at position `x`. -/
def operandOf (de : VDesc) (f : Item) (x : Int) : Int :=
  if f.valid then codeAt de.ifmt f.data.toNat (x.toNat % perFlit de.ifmt) - (if de.ifmt = 0 then de.izp else 0) else 0

/-- Flits that outputs `x0` to `x0 + n − 1` below OW use, over all rows. -/
def winUsed (de : VDesc) (rows : List (List Item)) (fb x0 n : Nat) : List Item :=
  let ks := ((List.range de.kw).flatMap (fun k => (List.range n).filterMap (fun j =>
    let ox := x0 + j
    let x : Int := (de.s * ox + de.dil * k : Nat) - (de.pl : Int)
    if ((ox : Int) < de.ow) ∧ inRow de x = true then some (x.toNat / perFlit de.ifmt - fb) else none))).foldl (fun l k => insertKey k l) []
  rows.flatMap (fun row => ks.filterMap (fun k => row[k]?))

/-- DWC (R179): the results of one step. -/
def Dev.dwcResult (d : Dev) (sc : Memory) (c v m : Nat) (r : Run) : VRes :=
  let iw := r.iw
  let de := d.vDescOf c v iw
  let ch := d.vCh c v (vDesc iw)
  let xb := bitsOf iw 25 6
  let nx := bitsOf iw 21 4 + 1
  let pt := bitsOf iw 18 3
  let pb := bitsOf iw 15 3
  let kr := de.kh - pt - pb
  let fb := ((needed de.iw de.pl de.dil de.kw de.s xb nx de.ow).1 / (perFlit de.ifmt : Int)).toNat
  let (ws, d1) := d.scrReads sc c v m (dwcBase de ch) (dwcSet de)
  let wt (n : Nat) : Int := sextN (bitsOf ((ws.getD (n / 32) (0, false)).1) (8 * (n % 32)) 8) 8
  let wpo := ws.any (·.2)
  let (e, rp, d2) := d1.vRs c v m de iw ch
  let rows := (List.range (de.icg * kr)).map (rowsOfRun r)
  let sum (ox : Nat) : Int :=
    (List.range de.icg).foldl (fun a i => (List.range kr).foldl (fun a k => (List.range de.kw).foldl (fun a kw =>
      let x : Int := (de.s * ox + de.dil * kw : Nat) - (de.pl : Int)
      let o := if inRow de x then operandOf de (flitAt de (rows.getD (i * kr + k) []) fb x) x else 0
      a + o * wt ((i * de.kh + pt + k) * de.kw + kw)) a) a) 0
  let cells := (List.range (32 * nx)).map (fun j =>
    let ox := 32 * xb + j
    if de.ow ≤ (ox : Int) ∨ e.isNone then ((match e with | some e => fmtSat e.ozp de.ofmt | none => 0), false)
    else
      let a := sum ox
      (rsApply e a de.ofmt, decide (a ≠ sat32 a)))
  let n := perFlit de.ofmt
  let flags := (List.range (32 * nx / n)).map (fun b => depends (vPH iw) (winUsed de rows fb (32 * xb + n * b) n))
  let nv := (depends (vPH iw) r.items).2.2
  let els := cells.zipIdx.map (fun x =>
    let f := flags.getD (x.2 / n) (false, false, false)
    (⟨patI de.ofmt x.1.1, f.1, f.2.1 || nv || wpo || rp⟩ : El))
  let d3 := (d2.vNv c v m nv).vSat c v ((cells.filter (·.2)).length)
  ⟨d3, packSlots (perFlit de.ofmt) els, nx * ((de.icg * de.kh * de.kw + 7) / 8), d3.vLat m 6 + d3.vLat m 7⟩

/-- DWC (R179). -/
def Dev.dwc (d : Dev) (sc : Memory) (c v : Nat) : Dev :=
  d.vRunStep c v 0x02 (planDwc c v)
    (fun d m r => some (d.dwcResult sc c v m r))

/-! ### POOL (R181) -/

def planPool (c v : Nat) (d : Dev) (iw m : Nat) : Plan :=
  let de := d.vDescOf c v iw
  let dual := bitAt iw 14
  let nx := bitsOf iw 21 4 + 1
  let pt := bitsOf iw 18 3
  let pb := bitsOf iw 15 3
  if bitsOf iw 0 12 ≠ 0 ∨ vUnused iw true true dual true false true = true then .bad 1
  else if 64 < vRD iw + nx * 32 / perFlit de.ofmt then .bad 3
  else if de.bad ∨ de.dil ≠ 1 ∨ de.ifmt ≠ de.ofmt then .bad 4
  else if de.kh ≤ pt + pb then .bad 9
  else if !onVnet (vSA iw) ∨ (dual ∧ !onVnet (vSB iw)) then .bad 6
  else if d.vWaits c v m 0x03 none then .wait
  else .go (rowTakes iw (de.kh - pt - pb) (winFlits de (bitsOf iw 25 6) nx) dual) none 1

/-- POOL (R181): the results of one step. -/
def Dev.poolResult (d : Dev) (c v m : Nat) (r : Run) : VRes :=
  let iw := r.iw
  let de := d.vDescOf c v iw
  let xb := bitsOf iw 25 6
  let nx := bitsOf iw 21 4 + 1
  let kr := de.kh - bitsOf iw 18 3 - bitsOf iw 15 3
  let avg := bitAt iw 13
  let cntpad := bitAt iw 12
  let fb := ((needed de.iw de.pl de.dil de.kw de.s xb nx de.ow).1 / (perFlit de.ifmt : Int)).toNat
  let rows := (List.range kr).map (rowsOfRun r)
  let window (ox : Nat) : List Int :=
    (List.range kr).flatMap (fun k => (List.range de.kw).filterMap (fun kw =>
      let x : Int := (de.s * ox + kw : Nat) - (de.pl : Int)
      if inRow de x then
        let f := flitAt de (rows.getD k []) fb x
        some (if f.valid then codeAt de.ifmt f.data.toNat (x.toNat % perFlit de.ifmt) else 0)
      else none))
  let full := de.kh * de.kw
  let intOut (w : List Int) : Int :=
    if !avg then (match w with | [] => de.izp | x :: l => l.foldl max x)
    else
      let n := if cntpad then full else w.length
      if n = 0 then de.izp
      else
        let s := w.foldl (· + ·) 0 + (if cntpad then ((full : Int) - w.length) * de.izp else 0)
        (2 * s + n) / (2 * (n : Int))
  let fOut (w : List Int) : FV :=
    let fs := w.map (fun x => FV.decode .b16 x.toNat)
    if !avg then (match fs with | [] => FV.zero | x :: l => l.foldl FV.max x)
    else
      let n := if cntpad then full else w.length
      if n = 0 then FV.zero
      else f16 (f32 ((fs.foldl (fun a x => f32 (a.add x)) FV.zero).div (.ofInt n)))
  let n := perFlit de.ofmt
  let flags := (List.range (32 * nx / n)).map (fun b => depends (vPH iw) (winUsed de rows fb (32 * xb + n * b) n))
  let nv := (depends (vPH iw) r.items).2.2
  let outs := (List.range (32 * nx)).map (fun j =>
    let ox := 32 * xb + j
    if de.ow ≤ (ox : Int) then ((if de.ofmt = 2 then 0 else patI de.ofmt de.izp), false)
    else if de.ofmt = 2 then
      let y := fOut (window ox)
      (y.encode .b16, y.isNan)
    else (patI de.ofmt (intOut (window ox)), false))
  let els := outs.zipIdx.map (fun x =>
    let f := flags.getD (x.2 / n) (false, false, false)
    (⟨x.1.1, f.1, f.2.1 || nv⟩ : El))
  let d1 := (d.vNv c v m nv).vNan c v ((outs.filter (·.2)).length)
  ⟨d1, packSlots (perFlit de.ofmt) els, nx * ((full + 7) / 8), d1.vLat m 9⟩

/-- POOL (R181). -/
def Dev.pool (d : Dev) (c v : Nat) : Dev :=
  d.vRunStep c v 0x03 (planPool c v)
    (fun d m r => some (d.poolResult c v m r))

/-! ### ARGM (R182) -/

def planArgm (c v : Nat) (d : Dev) (iw m : Nat) : Plan :=
  let de := d.vDescOf c v iw
  let nx := bitsOf iw 21 4 + 1
  if bitsOf iw 0 21 ≠ 0 ∨ bitsOf iw 25 6 ≠ 0 ∨ vUnused iw true true false true false true = true then .bad 1
  else if 64 < vRD iw + nx * perFlit de.ifmt / 16 then .bad 3
  else if de.badIn then .bad 4
  else if !onVnet (vSA iw) then .bad 6
  else if d.vWaits c v m 0x04 none then .wait
  else .go [srcTake (vSA iw) (de.chn * nx)] none 1

/-- Index of the greatest value, ties to the lowest; NaN never wins. -/
def argmaxOf (fmt : Nat) (l : List Int) : Nat :=
  let fv (x : Int) := FV.decode .b16 x.toNat
  let r := l.zipIdx.foldl (fun (best : Option (Int × Nat)) x =>
    match best with
    | none => if fmt = 2 ∧ (fv x.1).isNan then none else some x
    | some b =>
      if fmt = 2 then (if (fv b.1).lt (fv x.1) then some x else some b)
      else if b.1 < x.1 then some x else some b) none
  match r with | some b => b.2 | none => 0

def Dev.argmResult (d : Dev) (c v m : Nat) (r : Run) : VRes :=
  let de := d.vDescOf c v r.iw
  let nx := bitsOf r.iw 21 4 + 1
  let it := r.items
  let n := perFlit de.ifmt
  let nv := (depends (vPH r.iw) it).2.2
  let els := (List.range nx).flatMap (fun f =>
    let fl := (List.range de.chn).map (fun ch => it.getD (ch * nx + f) Item.zero)
    let dp := depends (vPH r.iw) fl
    (List.range n).map (fun j =>
      (⟨argmaxOf de.ifmt (fl.map (fun x => if x.valid then codeAt de.ifmt x.data.toNat j else 0)), dp.1, dp.2.1 || nv⟩ : El)))
  let d1 := d.vNv c v m nv
  ⟨d1, packSlots 16 els, 1, d1.vLat m 9⟩

/-- ARGM (R182). -/
def Dev.argm (d : Dev) (c v : Nat) : Dev :=
  d.vRunStep c v 0x04 (planArgm c v)
    (fun d m r => some (d.argmResult c v m r))

/-! ### ELT (R183) -/

/-- Reserved bits of the specific field for each BSRC. -/
def eltReserved (iw : Nat) : Bool :=
  match bitsOf iw 29 2 with
  | 2 => bitsOf iw 0 13 != 0
  | 3 => bitsOf iw 16 8 != 0
  | _ => bitsOf iw 0 24 != 0

def planElt (c v : Nat) (d : Dev) (iw m : Nat) : Plan :=
  let de := d.vDescOf c v iw
  let bsrc := bitsOf iw 29 2
  let nf := vNF iw
  let nin := perFlit de.ifmt
  let nout := perFlit de.ofmt
  if eltReserved iw ∨ vUnused iw true true (decide (bsrc < 2)) true true true = true then .bad 1
  else if 64 < vRD iw + nf * nin / nout ∨ (bsrc = 2 ∧ 2048 < bitsOf iw 13 11 + nf) then .bad 3
  else if de.bad ∨ (de.ifmt = 2) ≠ (de.ofmt = 2) ∨ (de.ifmt ≠ 2 ∧ vSUB iw ≠ 7 ∧ de.badRs = true) then .bad 4
  else if nf * nin % nout ≠ 0 then .bad 5
  else if !onVnet (vSA iw) ∨ (bsrc = 0 ∧ !onVnet (vSB iw)) ∨ (bsrc = 1 ∧ onVnet (vSB iw)) then .bad 6
  else if 7 < vSUB iw then .bad 9
  else if d.vWaits c v m 0x05 (if bsrc = 2 then some (bitsOf iw 13 11, nf) else none) then .wait
  else .go ([srcTake (vSA iw) nf] ++ (if bsrc = 0 then [srcTake (vSB iw) nf] else if bsrc = 1 then [srcTake (vSB iw) 1] else [])) none 1

/-- The integer operation of Table 6.7. -/
def eltInt (sub : Nat) (a b ma mb : Int) : Int :=
  match sub with
  | 0 => a * ma + b * mb
  | 1 => a * ma - b * mb
  | 2 => a * b
  | 3 => min a b
  | 4 => max a b
  | 5 => (if a < 0 then -a else a) * ma
  | 6 => a * ma
  | _ => if b < a then 1 else 0

/-- The same in binary16. -/
def eltFloat (sub : Nat) (a b : FV) : FV :=
  match sub with
  | 0 => f16 (a.add b)
  | 1 => f16 (a.sub b)
  | 2 => f16 (a.mul b)
  | 3 => a.min b
  | 4 => a.max b
  | 5 => (match a with | .fin _ n e => .fin false n e | .inf _ => .inf false | .nan => .nan)
  | 6 => a
  | _ => if b.lt a then .ofInt 1 else FV.zero

/-- The broadcast operand from SB (R183): value, binary16 pattern, poison of every result, and placeholder. -/
def Dev.eltBroadcast (d : Dev) (c v m : Nat) (r : Run) (x : Item) : Int × Nat × Bool × Bool × Dev :=
  let w := x.data.toNat
  if vSB r.iw / 8 = 3 then
    if !x.valid then (0, 0, true, false, d.vNv c v m true)
    else if tokKind w = 3 then (0, 0, true, false, d.vTokIllegal c v m r.pc)
    else if tokKind w ≠ 2 then (0, 0, true, false, d.vTokKind c v m)
    else (bitsOf w 0 12, (Config.tokenHalf (BitVec.ofNat 12 w)).toNat, x.poison, false, d)
  else
    let (ph, po, nv) := depends (vPH r.iw) [x]
    (if x.valid then sextN (bitsOf w 0 32) 32 else 0, if x.valid then bitsOf w 0 16 else 0, po, ph, d.vNv c v m nv)

def Dev.eltResult (d : Dev) (sc : Memory) (c v m : Nat) (r : Run) : VRes :=
  let iw := r.iw
  let de := d.vDescOf c v iw
  let bsrc := bitsOf iw 29 2
  let nf := vNF iw
  let fa := r.fromSrc 0
  let fb := r.fromSrc 1
  let ma := sextN (bitsOf de.w1 32 12) 12
  let mb := sextN (bitsOf de.w1 44 12) 12
  let bzp := sextN (bitsOf de.w1 56 8) 8
  let imm := bitsOf iw 0 16
  let (bi, bf, bpo, bph, d1) : Int × Nat × Bool × Bool × Dev :=
    if bsrc = 1 then d.eltBroadcast c v m r (fb.getD 0 Item.zero)
    else (sextN imm 16, imm, false, false, d)
  let (es, d2) := if bsrc = 2 then d1.scrReads sc c v m (bitsOf iw 13 11) nf else ([], d1)
  -- second operands of flit k as an item, for BSRC 0 and 2
  let bItem (k : Nat) : Item :=
    if bsrc = 0 then fb.getD k Item.zero
    else
      let e := es.getD k (0, false)
      ⟨BitVec.ofNat 256 e.1, true, e.2, 0, 0, false⟩
  let perElem := decide (bsrc = 0 ∨ bsrc = 2)
  let nv := (depends (vPH iw) (fa ++ (if bsrc = 0 then fb else []))).2.2
  let flags (k : Nat) : Bool × Bool :=
    let da := depends (vPH iw) [fa.getD k Item.zero]
    let db := if perElem then depends (vPH iw) [bItem k] else (bph, bpo, false)
    (da.1 || db.1, da.2.1 || db.2.1 || nv)
  let ch := d2.vCh c v (vDesc iw)
  let useRs := decide (de.ifmt ≠ 2 ∧ vSUB iw ≠ 7)
  let (e, rp, d3) := if useRs then d2.vRs c v m de iw ch else (none, false, d2)
  let outs := (List.range nf).flatMap (fun k =>
    let f := flags k
    if de.ifmt = 2 then
      let bs := if perElem then floats (bItem k) else List.replicate 16 (FV.decode .b16 bf)
      (List.zipWith (eltFloat (vSUB iw)) (floats (fa.getD k Item.zero)) bs).map (fun y =>
        ((⟨y.encode .b16, f.1, f.2⟩ : El), y.isNan, false))
    else
      let bs := if perElem then operands de.ifmt bzp (bItem k) else List.replicate (perFlit de.ifmt) bi
      (List.zipWith (fun a b => eltInt (vSUB iw) a b ma mb) (operands de.ifmt de.izp (fa.getD k Item.zero)) bs).map (fun t =>
        ((⟨patI de.ofmt (if useRs then rsApply e t de.ofmt else t), f.1, f.2 || rp⟩ : El), false, decide (t ≠ sat32 t))))
  let d4 := (((d3.vNv c v m nv).vNan c v ((outs.filter (·.2.1)).length)).vSat c v ((outs.filter (·.2.2)).length))
  let rl := if de.ifmt = 2 then d4.vLat m 6 else d4.vLat m 6 + d4.vLat m 7
  ⟨d4, packSlots (perFlit de.ofmt) (outs.map (·.1)), nf, rl⟩

/-- ELT (R183). -/
def Dev.elt (d : Dev) (sc : Memory) (c v : Nat) : Dev :=
  d.vRunStep c v 0x05 (planElt c v)
    (fun d m r => some (d.eltResult sc c v m r))

/-! ### RED (R184) -/

/-- The step rescales its sums: AX 1, integer SUM or SSQ. -/
def redRescales (de : VDesc) (iw : Nat) : Bool := bitAt iw 23 && de.ifmt != 2 && (vSUB iw == 0 || vSUB iw == 3)

def planRed (c v : Nat) (d : Dev) (iw m : Nat) : Plan :=
  let de := d.vDescOf c v iw
  let ax := bitAt iw 23
  if bitsOf iw 0 23 ≠ 0 ∨ bitsOf iw 29 2 ≠ 0 ∨ vUnused iw true true false true true true = true then .bad 1
  else if 64 < vRD iw + 1 then .bad 3
  else if de.badIn ∨ (ax ∧ de.badOut) ∨ (redRescales de iw ∧ (de.badRs = true ∨ de.ofmt = 2)) ∨
      (ax ∧ (vSUB iw = 1 ∨ vSUB iw = 2 ∨ de.ifmt = 2) ∧ de.ofmt ≠ de.ifmt) then .bad 4
  else if ax ∧ perFlit de.ifmt ≠ perFlit de.ofmt then .bad 5
  else if !onVnet (vSA iw) then .bad 6
  else if 3 < vSUB iw then .bad 9
  else if d.vWaits c v m 0x06 none then .wait
  else .go [srcTake (vSA iw) (vNF iw)] none 1

/-- Reduce integers (int64) or binary16 values in binary32, in order. -/
def redInt (sub : Nat) (l : List Int) : Int :=
  match sub with
  | 0 => l.foldl (· + ·) 0
  | 3 => l.foldl (fun a x => a + x * x) 0
  | 1 => (match l with | [] => 0 | x :: r => r.foldl max x)
  | _ => (match l with | [] => 0 | x :: r => r.foldl min x)

def redFloat (sub : Nat) (l : List FV) : FV :=
  match sub with
  | 0 => l.foldl (fun a x => f32 (a.add x)) FV.zero
  | 3 => l.foldl (fun a x => f32 (a.add (f32 (x.mul x)))) FV.zero
  | 1 => (match l with | [] => FV.zero | x :: r => r.foldl FV.max x)
  | _ => (match l with | [] => FV.zero | x :: r => r.foldl FV.min x)

def Dev.redResult (d : Dev) (c v m : Nat) (r : Run) : VRes :=
  let iw := r.iw
  let de := d.vDescOf c v iw
  let it := r.items
  let (ph, po, nv) := depends (vPH iw) it
  let d0 := d.vNv c v m nv
  let nf := vNF iw
  let sub := vSUB iw
  if !bitAt iw 23 then
    if de.ifmt = 2 then
      let y := redFloat sub (it.flatMap floats)
      let (k, d1) := if y.isNan then d0.free 22 else (0, d0)
      let d2 := d1.vNan c v (if y.isNan then 1 else 0)
      ⟨d2, [⟨y.encode .b32 + k, !ph, po⟩], nf, d2.vLat m 14⟩
    else
      let t := redInt sub (it.flatMap (operands de.ifmt de.izp))
      let d1 := d0.vSat c v (if t ≠ sat32 t then 1 else 0)
      ⟨d1, [⟨twos (sat32 t) 32, !ph, po⟩], nf, d1.vLat m 14⟩
  else
    let n := perFlit de.ifmt
    let column {α : Type} (f : Item → List α) (z : α) (j : Nat) : List α := it.map (fun x => (f x).getD j z)
    if de.ifmt = 2 then
      let ys := (List.range n).map (fun j => f16 (redFloat sub (column floats FV.zero j)))
      let d1 := d0.vNan c v ((ys.filter FV.isNan).length)
      ⟨d1, packSlots n (ys.map (fun y => ⟨y.encode .b16, ph, po⟩)), nf, d1.vLat m 14⟩
    else if redRescales de iw then
      let (e, rp, d1) := d0.vRs c v m de iw (d0.vCh c v (vDesc iw))
      let ts := (List.range n).map (fun j => redInt sub (column (operands de.ifmt de.izp) 0 j))
      let d2 := d1.vSat c v ((ts.filter (fun t => decide (t ≠ sat32 t))).length)
      ⟨d2, packSlots n (ts.map (fun t => ⟨patI de.ofmt (rsApply e t de.ofmt), ph, po || rp⟩)), nf, d2.vLat m 6 + d2.vLat m 7⟩
    else
      let ts := (List.range n).map (fun j => redInt sub (column (codes de.ifmt) 0 j))
      ⟨d0, packSlots n (ts.map (fun t => ⟨patI de.ofmt t, ph, po⟩)), nf, d0.vLat m 14⟩

/-- RED (R184). -/
def Dev.red (d : Dev) (c v : Nat) : Dev :=
  d.vRunStep c v 0x06 (planRed c v) (fun d m r => some (d.redResult c v m r))

/-! ### CVT (R198) -/

def planCvt (c v : Nat) (d : Dev) (iw m : Nat) : Plan :=
  let de := d.vDescOf c v iw
  let nin := perFlit de.ifmt
  let nout := perFlit de.ofmt
  let fmts := match vSUB iw with
    | 0 => de.ifmt != 2 && de.ofmt != 2 && !de.badRs
    | 1 => de.ifmt != 2 && de.ofmt == 2
    | 2 => de.ifmt == 2 && de.ofmt != 2
    | 3 => de.ifmt == 2 && de.ofmt == 2
    | _ => true
  if bitsOf iw 0 24 ≠ 0 ∨ bitsOf iw 29 2 ≠ 0 ∨ vUnused iw true true false true true true = true then .bad 1
  else if 64 < vRD iw + vNF iw * nin / nout then .bad 3
  else if de.bad ∨ fmts = false then .bad 4
  else if vNF iw * nin % nout ≠ 0 then .bad 5
  else if !onVnet (vSA iw) then .bad 6
  else if 3 < vSUB iw then .bad 9
  else if d.vWaits c v m 0x12 none then .wait
  else .go [srcTake (vSA iw) (vNF iw)] none 1

def Dev.cvtResult (d : Dev) (c v m : Nat) (r : Run) : VRes :=
  let iw := r.iw
  let de := d.vDescOf c v iw
  let it := r.items
  let nv := (depends (vPH iw) it).2.2
  let d0 := d.vNv c v m nv
  let fs := FV.decode .b32 (bitsOf de.w1 0 32)
  let ozp := sextN (bitsOf de.w1 32 12) 12
  let (e, rp, d1) := if vSUB iw = 0 then d0.vRs c v m de iw (d0.vCh c v (vDesc iw)) else (none, false, d0)
  let outs := it.flatMap (fun x =>
    let dp : Bool × Bool × Bool := let f := depends (vPH iw) [x]; (f.1, f.2.1 || nv, nv)
    match vSUB iw with
    | 0 => (operands de.ifmt de.izp x).map (fun a => ((⟨patI de.ofmt (rsApply e a de.ofmt), dp.1, dp.2.1 || rp⟩ : El), false))
    | 1 => (operands de.ifmt de.izp x).map (fun a =>
        let y := f16 ((FV.ofInt a).mul fs)
        (⟨y.encode .b16, dp.1, dp.2.1⟩, y.isNan))
    | 2 => (floats x).map (fun a =>
        let y := a.mul fs
        (⟨patI de.ofmt (if y.isNan then ozp else fmtSat (y.rhuSat (-(2 ^ 63 : Nat)) (2 ^ 63 : Nat) + ozp) de.ofmt), dp.1, dp.2.1⟩, y.isNan))
    | _ => (floats x).map (fun y => (⟨y.encode .b16, dp.1, dp.2.1⟩, y.isNan)))
  let d2 := d1.vNan c v ((outs.filter (·.2)).length)
  ⟨d2, packSlots (perFlit de.ofmt) (outs.map (·.1)), vNF iw, if vSUB iw = 0 then d2.vLat m 6 + d2.vLat m 7 else d2.vLat m 14⟩

/-- CVT (R198). -/
def Dev.cvt (d : Dev) (c v : Nat) : Dev :=
  d.vRunStep c v 0x12 (planCvt c v)
    (fun d m r => some (d.cvtResult c v m r))

end Sys2Proof.Machine
end

