-- ==== Sys2Proof/Machine/VSpecial.lean ====
section
/-!
DEFINITION. Function tables, softmax and layer norm, box sampling, top-K, steering and the classical image stages of the vector tiles
(R185 to R197).
-/

namespace Sys2Proof.Machine

/-! ### Function tables (R185, R186) -/

/-- Entry `e` of function table `t`, active bank. -/
def Dev.ftEntry (d : Dev) (c v t e : Nat) : Nat :=
  Tab.get d.tl.ftab (((2 * c + v) * 2 + d.bank (Bank.tile c (10 + v))) * 1024 + 128 * t + e) 0

structure FTab where
  qmin : Int
  segsh : Nat
  insh : Nat
  osh : Nat
  ozp : Int
  rr : Nat
  /-- segment entries -/
  segs : List Nat
  deriving DecidableEq, Repr

def Dev.fTable (d : Dev) (c v t : Nat) : FTab :=
  let h := d.ftEntry c v t 0
  ⟨sextN (bitsOf h 0 16) 16, bitsOf h 16 4, bitsOf h 20 5, bitsOf h 25 5, sextN (bitsOf h 30 12) 12, bitsOf h 42 2,
    (List.range 64).map (fun g => d.ftEntry c v t (g + 1))⟩

def FTab.bad (t : FTab) : Bool := decide (11 < t.segsh ∨ t.rr = 3)

/-- Segment that `feval` of R185 uses. -/
def FTab.index (t : FTab) (q : Int) : Nat := (satI ((q - t.qmin) / (2 ^ t.segsh : Nat)) 0 63).toNat

/-- `feval` of R185. -/
def FTab.eval (t : FTab) (q : Int) : Int :=
  let u := q - t.qmin
  let g : Int := t.index q
  let x := satI (u - g * (2 ^ t.segsh : Nat)) 0 (2 ^ t.segsh : Nat)
  let s := t.segs.getD (t.index q) 0
  let c0 := sextN (bitsOf s 0 24) 24
  let c1 := sextN (bitsOf s 24 20) 20
  let c2 := sextN (bitsOf s 44 20) 20
  c0 + rshiftRound ((c1 + rshiftRound (c2 * x) t.segsh) * x) t.segsh

def lim31 : Int := 0x80000000

/-- x = ±m × 2^k with m in [1, 2), or in [1, 4) with k even for `sq`: (m, k). -/
def splitExp (n e : Nat) (sq : Bool) : (Nat × Nat) × Int :=
  let k := floorLog2 n e
  let k := if sq && decide (k % 2 ≠ 0) then k - 1 else k
  let t := pow2 (-k)
  ((n * t.1, e * t.2), k)

/-- Arguments of `feval` for a mantissa and for a value (R185, R186). -/
def FTab.mantQ (t : FTab) (mant : Nat × Nat) : Int := (FV.fin false (mant.1 * 2 ^ t.insh) mant.2).rhuSat (-lim31) (lim31 - 1)
def FTab.floatQ (t : FTab) (x : FV) : Int := (x.scale t.insh).rhuSat (-lim31) (lim31 - 1)

/-- The argument at which FUNC evaluates the table for a value; none: it uses no segment. -/
def FTab.query (t : FTab) (ifmt ofmt : Nat) (x : Int) : Option Int :=
  let fx := FV.decode .b16 x.toNat
  if t.rr ≠ 0 then
    match fx with
    | .fin s n e => if ofmt ≠ 2 ∨ n = 0 ∨ (t.rr = 2 ∧ s = true) then none else some (t.mantQ (splitExp n e (t.rr == 2)).1)
    | _ => none
  else if ifmt = 1 then some x
  else if fx.isNan then none else some (t.floatQ fx)

/-- A step reads the header of table `t` (entry 0) and these segments, each once: the entries that are uncorrectable, whose data are used as they
stand. Such an entry is a parity error of the table as well (SEQ_PARITY, Table 6.17; DESIGN CHOICE, log 134). -/
def Dev.fTableRead (d : Dev) (c v m t : Nat) (segs : List Nat) : List Nat × Dev :=
  let es := (segs.map (· + 1)).foldl (fun l k => insertKey k l) [0]
  es.foldl (fun (acc : List Nat × Dev) e =>
    let k := Upset.ftab (((2 * c + v) * 2 + acc.2.bank (Bank.tile c (10 + v))) * 1024 + 128 * t + e)
    let (ue, d1) := acc.2.codeRead c v m k
    if ue then (acc.1 ++ [e], d1.raise (Pg.vtile c v) 7 (.core c)) else (acc.1, d1)) ([], d)

/-- A result that evaluates the table at `q` reads an uncorrectable entry: the header or its segment. -/
def FTab.spoilt (t : FTab) (bad : List Nat) (q : Option Int) : Bool :=
  bad.contains 0 || (match q with | some q => bad.contains (t.index q + 1) | none => false)

/-- One value of FUNC: its integer or binary16 result; none where the manual states no result (DESIGN CHOICE, log 23). -/
def FTab.apply (t : FTab) (ifmt ofmt : Nat) (x : Int) : Option (FV ⊕ Int) :=
  let fx := FV.decode .b16 x.toNat
  if t.rr ≠ 0 then
    if ofmt ≠ 2 then none
    else
      match fx with
      | .nan => some (.inl .nan)
      | .inf s => some (.inl (if t.rr = 2 ∧ s = true then .nan else .fin s 0 1))
      | .fin s n e =>
        if n = 0 then (if t.rr = 2 ∧ s = true then none else some (.inl (.inf s)))
        else if t.rr = 2 ∧ s = true then some (.inl .nan)
        else
          let (mant, k) := splitExp n e (t.rr == 2)
          let q := t.mantQ mant
          let y := (FV.ofInt (t.eval q)).scale (-(t.osh : Int))
          let z := y.scale (if t.rr = 1 then -k else -(k / 2))
          some (.inl (f16 (if s then z.neg else z)))
  else if ifmt = 1 then
    let y := t.eval x
    some (if ofmt = 2 then .inl (f16 ((FV.ofInt y).scale (-(t.osh : Int)))) else .inr (fmtSat (rshiftRound y t.osh + t.ozp) ofmt))
  else if fx.isNan then (if ofmt = 2 then some (.inl .nan) else none)
  else
    let y := t.eval (t.floatQ fx)
    some (if ofmt = 2 then .inl (f16 ((FV.ofInt y).scale (-(t.osh : Int)))) else .inr (fmtSat (rshiftRound y t.osh + t.ozp) ofmt))

def planFunc (c v : Nat) (d : Dev) (iw m : Nat) : Plan :=
  let de := d.vDescOf c v iw
  let t := d.fTable c v (bitsOf iw 0 3)
  let nout := perFlit de.ofmt
  if bitsOf iw 3 21 ≠ 0 ∨ bitsOf iw 29 2 ≠ 0 ∨ vUnused iw true true false true false true = true then .bad 1
  else if 64 < vRD iw + vNF iw * 16 / nout then .bad 3
  else if de.bad ∨ de.ifmt = 0 then .bad 4
  else if vNF iw * 16 % nout ≠ 0 then .bad 5
  else if !onVnet (vSA iw) then .bad 6
  else if t.bad ∨ (t.rr ≠ 0 ∧ de.ifmt ≠ 2) then .bad 7
  else if d.vWaits c v m 0x07 none then .wait
  else .go [srcTake (vSA iw) (vNF iw)] none 1

/-- FUNC on a list of values; unstated results are free values (DESIGN CHOICE, log 23). -/
def Dev.funcEls (d : Dev) (t : FTab) (ifmt ofmt : Nat) (l : List (Int × Bool × Bool)) : List (El × Bool) × Dev :=
  match l with
  | [] => ([], d)
  | (x, ph, po) :: rest =>
    let (e, d1) : (El × Bool) × Dev :=
      match t.apply ifmt ofmt x with
      | some (.inl y) => ((⟨y.encode .b16, ph, po⟩, y.isNan), d)
      | some (.inr y) => ((⟨patI ofmt y, ph, po⟩, false), d)
      | none =>
        let (k, d1) := d.free 16
        ((⟨patI ofmt (fmtSat (sextN k 16) ofmt), ph, po⟩, ifmt == 2 && (FV.decode .b16 x.toNat).isNan), d1)
    let (es, d2) := d1.funcEls t ifmt ofmt rest
    (e :: es, d2)

def Dev.funcResult (d : Dev) (c v m : Nat) (r : Run) : VRes :=
  let iw := r.iw
  let de := d.vDescOf c v iw
  let t := d.fTable c v (bitsOf iw 0 3)
  let it := r.items
  let nv := (depends (vPH iw) it).2.2
  let qs := it.flatMap (fun x => (codes de.ifmt x).filterMap (fun a => (t.query de.ifmt de.ofmt a).map t.index))
  let (bad, d0) := (d.vNv c v m nv).fTableRead c v m (bitsOf iw 0 3) qs
  let xs := it.flatMap (fun x =>
    let dp := depends (vPH iw) [x]
    (codes de.ifmt x).map (fun a => (a, dp.1, dp.2.1 || nv || t.spoilt bad (t.query de.ifmt de.ofmt a))))
  let (es, d1) := d0.funcEls t de.ifmt de.ofmt xs
  let d2 := d1.vNan c v ((es.filter (·.2)).length)
  ⟨d2, packSlots (perFlit de.ofmt) (es.map (·.1)), vNF iw, d2.vLat m 8⟩

/-- FUNC (R185). -/
def Dev.func (d : Dev) (c v : Nat) : Dev :=
  d.vRunStep c v 0x07 (planFunc c v)
    (fun d m r => some (d.funcResult c v m r))

/-! ### SMX and LNA (R188, R189) -/

def planNorm (c v : Nat) (smx : Bool) (d : Dev) (iw m : Nat) : Plan :=
  let de := d.vDescOf c v iw
  if (if smx then bitsOf iw 3 21 else bitsOf iw 0 24) ≠ 0 ∨ bitsOf iw 29 2 ≠ 0 ∨ vUnused iw true true false true false true = true then .bad 1
  else if 64 < vRD iw + vNF iw then .bad 3
  else if de.bad ∨ de.ifmt ≠ 2 ∨ de.ofmt ≠ 2 then .bad 4
  else if !onVnet (vSA iw) then .bad 6
  else if smx ∧ 11 < (d.fTable c v (bitsOf iw 0 3)).segsh then .bad 7
  else if d.vWaits c v m (if smx then 0x08 else 0x09) none then .wait
  else .go [srcTake (vSA iw) (vNF iw)] none 1

/-- Arguments at which softmax evaluates its table: every result depends on all of them. -/
def softmaxQ (t : FTab) (x : List FV) : List Int :=
  if x.any FV.isNan then []
  else
    let mx := match x with | [] => FV.zero | a :: r => r.foldl FV.max a
    (x.map (fun a => (f32 (a.sub mx)).scale t.insh)).filterMap (fun q => if q.isNan then none else some (q.rhuSat (-lim31) (lim31 - 1)))

/-- Softmax of values with an exp table (R188). -/
def softmax (t : FTab) (x : List FV) : List FV :=
  if x.any FV.isNan then x.map (fun _ => .nan)
  else
    let mx := match x with | [] => FV.zero | a :: r => r.foldl FV.max a
    let e := x.map (fun a =>
      let q := ((f32 (a.sub mx)).scale t.insh)
      if q.isNan then .nan
      else (FV.ofInt (satI (t.eval (q.rhuSat (-lim31) (lim31 - 1))) 0 (2 ^ 24 - 1 : Nat))).scale (-(t.osh : Int)))
    let s := e.foldl (fun a b => f32 (a.add b)) FV.zero
    e.map (fun a => match s with | .fin _ 0 _ => FV.zero | _ => f16 (f32 (a.div s)))

/-- Layer normalisation (R189). -/
def layerNorm (eps : FV) (x : List FV) : List FV :=
  let n := FV.ofInt x.length
  let mu := f32 ((x.foldl (fun a b => f32 (a.add b)) FV.zero).div n)
  let dev := x.map (fun a => f32 (a.sub mu))
  let sq (a : FV) := f32 (a.mul a)
  let var := f32 ((dev.foldl (fun a b => f32 (a.add (sq b))) FV.zero).div n)
  let r := f32 ((FV.ofInt 1).div (f32 (f32 (var.add eps)).sqrt))
  dev.map (fun a => f16 (f32 (a.mul r)))

def Dev.normResult (d : Dev) (c v m : Nat) (r : Run) (smx : Bool) : VRes :=
  let iw := r.iw
  let de := d.vDescOf c v iw
  let it := r.items
  let (ph, po, nv) := depends (vPH iw) it
  let xs := it.flatMap floats
  let t := d.fTable c v (bitsOf iw 0 3)
  let ys := if smx then softmax t xs else layerNorm (FV.decode .b32 (bitsOf de.w1 0 32)) xs
  let (bad, d0) := if smx then d.fTableRead c v m (bitsOf iw 0 3) ((softmaxQ t xs).map t.index) else ([], d)
  let po := po || !bad.isEmpty
  let d1 := (d0.vNv c v m nv).vNan c v ((ys.filter FV.isNan).length)
  ⟨d1, packSlots 16 (ys.map (fun y => ⟨y.encode .b16, ph, po⟩)), 3 * vNF iw,
    if smx then d1.vLat m 8 + d1.vLat m 10 else 2 * d1.vLat m 10 + d1.vLat m 14⟩

/-- SMX (R188). -/
def Dev.smx (d : Dev) (c v : Nat) : Dev :=
  d.vRunStep c v 0x08 (planNorm c v true) (fun d m r => some (d.normResult c v m r true))

/-- LNA (R189). -/
def Dev.lna (d : Dev) (c v : Nat) : Dev :=
  d.vRunStep c v 0x09 (planNorm c v false) (fun d m r => some (d.normResult c v m r false))

/-! ### Box sampling (R190, R191) -/

/-- Geometry of CREQ and CSMP (Table 6.5). -/
structure BoxGeo where
  fw : Nat
  fh : Nat
  ow : Nat
  oh : Nat
  uns : Bool
  deriving DecidableEq, Repr

def VDesc.geo (x : VDesc) : BoxGeo :=
  ⟨bitsOf x.w1 0 12 + 1, bitsOf x.w1 12 12 + 1, bitsOf x.w1 24 5 + 1, bitsOf x.w1 29 5 + 1, bitAt x.w1 34⟩

/-- A box is null (R190). -/
def Box.null (b : Box) : Bool := decide (b.x1 = 0xFFFF ∨ b.x2 < b.x1 ∨ b.y2 < b.y1)

/-- The step before its limit. -/
def rawStep (a b n : Nat) : Int := (2 * (((b : Int) - a) * 4) + n) / (2 * (n : Int))

/-- XSTEP or YSTEP. -/
def boxStep (a b n : Nat) : Int := min (rawStep a b n) 16383

/-- XS or YS. -/
def boxStart (a : Nat) (step : Int) : Int := a + rshiftRound step 3 - 8

/-- `samp` of R190. -/
def samp (p : Int) (f : Nat) : Int × Int :=
  if p < 0 then (0, 0)
  else if (f : Int) - 1 ≤ p / 64 then ((f : Int) - 2, 256)
  else (p / 64, p % 64 * 4)

/-- The two gather request words of plane `c` and output row `r` (Table 6.11). -/
def gatherWords (g : BoxGeo) (b : Box) (fslot c r : Nat) : Nat × Nat :=
  let xst := boxStep b.x1 b.x2 g.ow
  let yst := boxStep b.y1 b.y2 g.oh
  let y0 := (samp (4 * boxStart b.y1 yst + r * yst) g.fh).1
  (twos y0 12 + (c % 4096) * 2 ^ 12 + (fslot % 16) * 2 ^ 24 + (if b.null then 2 ^ 31 else 0),
    twos (boxStart b.x1 xst) 18 + twos xst 14 * 2 ^ 18)

def planCreq (c v : Nat) (d : Dev) (iw m : Nat) : Plan :=
  let de := d.vDescOf c v iw
  let box := bitAt iw 30
  let n := (bitsOf iw 15 3 + 1) * de.geo.oh
  if bitsOf iw 0 9 ≠ 0 ∨ bitsOf iw 13 2 ≠ 0 ∨ vUnused iw true box false box false true = true then .bad 1
  else if 64 < vRD iw + (2 * n + 7) / 8 then .bad 3
  else if box ∧ vSA iw / 8 ≠ 2 then .bad 6
  else if 256 < n then .bad 9
  else if d.vWaits c v m 0x0A none then .wait
  else .go (if box then [srcTake (vSA iw) 2] else []) none 1

/-- CREQ (R190); none while the box FIFO is full. -/
def Dev.creqResult (d : Dev) (c v m : Nat) (r : Run) : Option VRes :=
  let iw := r.iw
  let pg := Pg.vtile c v
  let g := (d.vDescOf c v iw).geo
  let x := d.vtGet c v
  let isNew := bitAt iw 30
  if isNew ∧ 64 ≤ x.boxes.length then none
  else
    let it := r.items
    let (ph, po, nv) := depends (vPH iw) it
    let w (i : Nat) := let f := it.getD i Item.zero; if f.valid then f.data.toNat else 0
    let b : Box := if isNew then ⟨bitsOf (w 0) 0 16, bitsOf (w 0) 16 16, bitsOf (w 1) 0 16, bitsOf (w 1) 16 16, po⟩ else x.box
    let x1 := if isNew then { x with box := b, boxes := x.boxes ++ [b] } else x
    let d1 := ((d.vtSet c v x1).wr pg Reg.VTILE.BOXQ x1.boxes.length).vNv c v m nv
    let clamp := decide (16383 < rawStep b.x1 b.x2 g.ow ∨ 16383 < rawStep b.y1 b.y2 g.oh)
    let d2 := if clamp then d1.raise pg 8 .none_ else d1
    let ncs := bitsOf iw 15 3 + 1
    let els := (List.range (ncs * g.oh)).flatMap (fun i =>
      let q := gatherWords g b (bitsOf iw 9 4) (bitsOf iw 18 12 + i / g.oh) (i % g.oh)
      [(⟨q.1, ph, b.poison⟩ : El), ⟨q.2, ph, b.poison⟩])
    some ⟨d2.count pg 0xF 7 (ncs * g.oh), packSlots 8 els, ncs * g.oh, d2.vLat m 11⟩

/-- CREQ (R190). -/
def Dev.creq (d : Dev) (c v : Nat) : Dev :=
  d.vRunStep c v 0x0A (planCreq c v)
    (fun d m r => d.creqResult c v m r)

def planCsmp (c v : Nat) (d : Dev) (iw m : Nat) : Plan :=
  if bitsOf iw 0 30 ≠ 0 ∨ vUnused iw true true false true false true = true then .bad 1
  else if 64 < vRD iw + 1 then .bad 3
  else if !onVnet (vSA iw) then .bad 6
  else if d.vWaits c v m 0x0B none then .wait
  else .go [srcTake (vSA iw) 4] none 1

/-- CSMP (R191); none while the box FIFO is empty. -/
def Dev.csmpResult (d : Dev) (c v m : Nat) (r : Run) : Option VRes :=
  let iw := r.iw
  let pg := Pg.vtile c v
  let g := (d.vDescOf c v iw).geo
  let x := d.vtGet c v
  match x.boxes with
  | [] => none
  | b :: rest =>
    let it := r.items
    let (ph, po, nv) := depends (vPH iw) it
    let row := x.boxK % g.oh
    let xst := boxStep b.x1 b.x2 g.ow
    let yst := boxStep b.y1 b.y2 g.oh
    let fy := (samp (4 * boxStart b.y1 yst + row * yst) g.fh).2
    let px (i j : Nat) : Int :=
      let f := it.getD i Item.zero
      if !f.valid then 0
      else if g.uns then (bitsOf f.data.toNat (8 * j) 8 : Nat) else sextN (bitsOf f.data.toNat (8 * j) 8) 8
    let els := (List.range 32).map (fun (j : Nat) =>
      let fx := (samp (4 * boxStart b.x1 xst + j * xst) g.fw).2
      let s := px 0 j * (256 - fx) * (256 - fy) + px 1 j * fx * (256 - fy) + px 2 j * (256 - fx) * fy + px 3 j * fx * fy
      (⟨if g.ow ≤ j then 0 else twos (rshiftRound s 16) 8, ph, po || b.poison⟩ : El))
    let x1 := if bitAt iw 30 then { x with boxes := rest, boxK := 0 } else { x with boxK := x.boxK + 1 }
    let d1 := ((d.vtSet c v x1).wr pg Reg.VTILE.BOXQ x1.boxes.length).vNv c v m nv
    some ⟨d1, packSlots 32 els, 1, d1.vLat m 11⟩

/-- CSMP (R191). -/
def Dev.csmp (d : Dev) (c v : Nat) : Dev :=
  d.vRunStep c v 0x0B (planCsmp c v) (fun d m r => d.csmpResult c v m r)

/-! ### TOPK (R192) -/

/-- Score pattern: the code sign-extended to 16 bits, or binary16 bits. -/
def scorePat (fmt : Nat) (x : Int) : Nat := if fmt = 2 then x.toNat else twos x 16

/-- Score `a` is greater than `b`. -/
def scoreGt (fmt a b : Nat) : Bool :=
  if fmt = 2 then (FV.decode .b16 b).lt (FV.decode .b16 a) else decide (sextN b 16 < sextN a 16)

/-- Insert a candidate: greater scores first, equal scores by index. -/
def topInsert (fmt : Nat) (e : Nat × Nat) : List (Nat × Nat) → List (Nat × Nat)
  | [] => [e]
  | f :: r => if scoreGt fmt e.1 f.1 then e :: f :: r else f :: topInsert fmt e r

def topkK (de : VDesc) : Nat := bitsOf de.w1 0 10 + 1

def planTopk (c v : Nat) (d : Dev) (iw m : Nat) : Plan :=
  let de := d.vDescOf c v iw
  let mode := bitsOf iw 29 2
  let take := decide (mode = 0)
  let res := decide (mode = 1 ∨ mode = 2)
  let n := if mode = 1 then 1 else if mode = 2 then vNF iw else 0
  if bitsOf iw 0 16 ≠ 0 ∨ vUnused iw true take false take false res = true then .bad 1
  else if 64 < vRD iw + n then .bad 3
  else if (take ∧ de.badIn) ∨ topkK de % 4 ≠ 0 then .bad 4
  else if take ∧ !onVnet (vSA iw) then .bad 6
  else if d.vWaits c v m 0x0C none then .wait
  else .go (if take then [srcTake (vSA iw) (vNF iw)] else []) none 1

/-- MODE 0: one flit's candidates. -/
def topFlit (fmt k thr : Nat) (acc : List (Nat × Nat) × Nat × Nat) (x : Item) : List (Nat × Nat) × Nat × Nat :=
  if !x.valid then (acc.1, acc.2.1 + perFlit fmt, acc.2.2)
  else (codes fmt x).foldl (fun a s =>
    let p := scorePat fmt s
    let nan := fmt == 2 && (FV.decode .b16 p).isNan
    let ok := !nan && !(fmt == 2 && (FV.decode .b16 thr).isNan) && !scoreGt fmt thr p
    (if ok then (topInsert fmt (p, a.2.1) a.1).take k else a.1, (a.2.1 + 1) % 2 ^ 32, if ok then a.2.2 + 1 else a.2.2)) acc

def Dev.topkResult (d : Dev) (c v m : Nat) (r : Run) : VRes :=
  let iw := r.iw
  let pg := Pg.vtile c v
  let de := d.vDescOf c v iw
  let x := d.vtGet c v
  match bitsOf iw 29 2 with
  | 0 =>
    let it := r.items
    let (_, po, nv) := depends (vPH iw) it
    let (set, idx, adm) := it.foldl (topFlit de.ifmt (topkK de) (bitsOf de.w1 10 16)) (x.topk, x.idx, 0)
    let d1 := (d.vtSet c v { x with topk := set, idx := idx, tkPoison := x.tkPoison || po }).wr pg Reg.VTILE.TOPK_N set.length
    ⟨(d1.vNv c v m nv).count pg 0xF 8 adm, [], vNF iw * perFlit de.ifmt / 8, d1.vLat m 12⟩
  | 1 => ⟨d, [⟨x.topk.length, true, x.tkPoison⟩], 1, d.vLat m 12⟩
  | 2 =>
    let fb := bitsOf iw 16 8
    let slots := (List.range (vNF iw)).map (fun s =>
      let es := (List.range 4).map (fun i => x.topk[4 * fb + 4 * s + i]?)
      let v := es.zipIdx.foldl (fun a e =>
        let w := match e.1 with | some (p, ix) => ix + p * 2 ^ 32 | none => 0xFFFFFFFF
        a + w * 2 ^ (64 * e.2)) 0
      (⟨v, es.any (·.isSome), x.tkPoison⟩ : Slot))
    ⟨d, slots, vNF iw, d.vLat m 12⟩
  | _ => ⟨(d.vtSet c v { x with topk := [], idx := 0, tkPoison := false }).wr pg Reg.VTILE.TOPK_N 0, [], 1, d.vLat m 12⟩

/-- TOPK (R192). -/
def Dev.topk (d : Dev) (c v : Nat) : Dev :=
  d.vRunStep c v 0x0C (planTopk c v)
    (fun d m r => some (d.topkResult c v m r))

/-! ### SEL and TOK (R193, R194) -/

def planSel (c v : Nat) (d : Dev) (iw m : Nat) : Plan :=
  let ni := bitsOf iw 24 4 + 1
  if bitsOf iw 0 24 ≠ 0 ∨ vUnused iw false true true true false true = true then .bad 1
  else if 64 < vRD iw + ni then .bad 3
  else if !onVnet (vSA iw) ∨ !onVnet (vSB iw) then .bad 6
  else if d.vWaits c v m 0x0D none then .wait
  else .go [(3, bitsOf iw 28 3, 1), srcTake (vSA iw) ni, srcTake (vSB iw) ni] none 1

/-- SEL (R193, R40, R43). -/
def Dev.selResult (d : Dev) (c v m : Nat) (r : Run) : VRes :=
  let iw := r.iw
  let pg := Pg.vtile c v
  let tok := (r.fromSrc 0).getD 0 Item.zero
  let s0 := r.fromSrc 1
  let s1 := r.fromSrc 2
  let w := tok.data.toNat
  let nv := (depends (vPH iw) (s0 ++ s1)).2.2 || !tok.valid
  let d0 := d.vNv c v m nv
  let seq := bitsOf w 12 2
  let (out, bad, d1) : List Item × Bool × Dev :=
    if !tok.valid then (s0, true, d0)
    else if tokKind w = 3 then (s0, true, d0.vTokIllegal c v m r.pc)
    else if tokKind w ≠ 0 then (s0, true, d0.vTokKind c v m)
    else
      let out := if bitAt w 0 then s1 else s0
      if (s0 ++ s1).any (fun f => f.seq.toNat != seq) then
        let d1 := d0.bump pg Reg.VTILE.SEQ_ERR_CNT
        let d2 := (((d1.wr pg Reg.VTILE.TSEQ seq).wr pg Reg.VTILE.S0SEQ (s0.getD 0 Item.zero).seq.toNat).wr pg Reg.VTILE.S1SEQ
            (s1.getD 0 Item.zero).seq.toNat).hit pg Reg.VTILE.SEQ_VALID
        (out, true, d2.raise pg 1 (.unit m c))
      else (out, false, d0)
  let slots := out.map (fun f =>
    let dp := depends (vPH iw) [f]
    (⟨if f.valid then f.data.toNat else 0, !dp.1, dp.2.1 || bad || nv || tok.poison⟩ : Slot))
  ⟨d1.count pg 0xF 6, slots, bitsOf iw 24 4 + 1, d1.vLat m 13⟩

/-- SEL (R193). -/
def Dev.sel (d : Dev) (c v : Nat) : Dev :=
  d.vRunStep c v 0x0D (planSel c v) (fun d m r => some (d.selResult c v m r))

def planTok (c v : Nat) (d : Dev) (iw m : Nat) : Plan :=
  let de := d.vDescOf c v iw
  let onSi := decide (vSA iw / 8 = 2)
  if bitsOf iw 0 31 ≠ 0 ∨ vUnused iw true true false true false true = true then .bad 1
  else if 64 < vRD iw + 1 then .bad 3
  else if onSi ∧ bitAt de.w1 32 ∧ bitAt de.w1 33 then .bad 4
  else if onVnet (vSA iw) then .bad 6
  else if d.vWaits c v m 0x0E none then .wait
  else .go [srcTake (vSA iw) 1] none 1

/-- TOK (R194). -/
def Dev.tokResult (d : Dev) (c v m : Nat) (r : Run) : VRes :=
  let iw := r.iw
  let de := d.vDescOf c v iw
  let x := r.items.getD 0 Item.zero
  let w := x.data.toNat
  let rl := d.vLat m 13
  if vSA iw / 8 = 3 then
    if !x.valid then ⟨d.vNv c v m true, [⟨0, true, true⟩], 1, rl⟩
    else if tokKind w = 3 then ⟨d.vTokIllegal c v m r.pc, [⟨0, true, true⟩], 1, rl⟩
    else if tokKind w ≠ 1 then ⟨d.vTokKind c v m, [⟨0, true, true⟩], 1, rl⟩
    else ⟨d, [⟨bitsOf w 2 1, true, x.poison⟩], 1, rl⟩
  else
    let (ph, po, nv) := depends (vPH iw) [x]
    let word := if x.valid then bitsOf w 0 32 else 0
    let thr := bitsOf de.w1 0 32
    let tok :=
      if bitAt de.w1 33 then 2 * 2 ^ 14 + (satI (sextN word 32) 0 4095).toNat
      else
        let gt := if bitAt de.w1 32 then (FV.decode .b32 thr).lt (FV.decode .b32 word) else decide (sextN thr 32 < sextN word 32)
        if gt then 1 else 0
    ⟨d.vNv c v m nv, [⟨tok, !ph, po⟩], 1, rl⟩

/-- TOK (R194). -/
def Dev.tok (d : Dev) (c v : Nat) : Dev :=
  d.vRunStep c v 0x0E (planTok c v) (fun d m r => some (d.tokResult c v m r))

/-! ### CCV, BGM, TRK (R195 to R197) -/

/-- Pixel values of a flit: bytes, or codes + 128; a placeholder gives operands of 0. -/
def pixels (signed : Bool) (x : Item) : List Int :=
  (List.range 32).map (fun j =>
    if !x.valid then 0
    else if signed then sextN (bitsOf x.data.toNat (8 * j) 8) 8 + 128 else (bitsOf x.data.toNat (8 * j) 8 : Nat))

def planCcv (c v : Nat) (d : Dev) (iw m : Nat) : Plan :=
  let de := d.vDescOf c v iw
  let m422 := bitAt de.w1 11
  let sc := bitsOf iw 26 5
  if bitsOf iw 0 26 ≠ 0 ∨ vUnused iw true true true true false true = true then .bad 1
  else if 64 < vRD iw + (if m422 then 6 else 3) then .bad 3
  else if !onVnet (vSA iw) ∨ !onVnet (vSB iw) ∨ !onVnet sc then .bad 6
  else if d.vWaits c v m 0x0F (some (bitsOf de.w1 0 11, 1)) then .wait
  else .go [srcTake (vSA iw) (if m422 then 2 else 1), srcTake (vSB iw) 1, srcTake sc 1] none 1

/-- CCV (R195). -/
def Dev.ccvResult (d : Dev) (scm : Memory) (c v m : Nat) (r : Run) : VRes :=
  let iw := r.iw
  let de := d.vDescOf c v iw
  let m422 := bitAt de.w1 11
  let sg := bitAt de.w1 12
  let (e, ep, d1) := d.scrRead scm c v m (bitsOf de.w1 0 11)
  let h (i : Nat) : Int := sextN (bitsOf e (16 * i) 16) 16
  let ys := r.fromSrc 0
  let fb := (r.fromSrc 1).getD 0 Item.zero
  let fc := (r.fromSrc 2).getD 0 Item.zero
  -- PH marks SA and SB: a placeholder on SC is never accepted (R170)
  let nv := (depends (vPH iw) (fb :: ys)).2.2 || !fc.valid
  let halves := if m422 then 2 else 1
  let plane (p k : Nat) : Slot :=
    let y := ys.getD k Item.zero
    let dp := depends (vPH iw) [y, fb]
    let a := pixels sg y
    let b := pixels sg fb
    let cc := pixels sg fc
    let v := (List.range 32).foldl (fun acc j =>
      let cj := if m422 then (32 * k + j) / 2 else j
      let s := h (3 * p) * (a.getD j 0 - h 9) + h (3 * p + 1) * (b.getD cj 0 - h 10) + h (3 * p + 2) * (cc.getD cj 0 - h 11)
      let o := satI (rshiftRound s 12 + h (12 + p)) 0 255
      acc + twos (o - 128) 8 * 2 ^ (8 * j)) 0
    ⟨v, !dp.1, dp.2.1 || fc.poison || ep || nv⟩
  let slots := (List.range 3).flatMap (fun p => (List.range halves).map (fun k => plane p k))
  ⟨d1.vNv c v m nv, slots, if m422 then 3 else 2, d1.vLat m 14⟩

/-- CCV (R195). -/
def Dev.ccv (d : Dev) (sc : Memory) (c v : Nat) : Dev :=
  d.vRunStep c v 0x0F (planCcv c v)
    (fun d m r => some (d.ccvResult sc c v m r))

def planBgm (c v : Nat) (d : Dev) (iw m : Nat) : Plan :=
  if bitsOf iw 0 31 ≠ 0 ∨ vUnused iw true true true true false true = true then .bad 1
  else if 64 < vRD iw + 3 then .bad 3
  else if !onVnet (vSA iw) ∨ !onVnet (vSB iw) then .bad 6
  else if d.vWaits c v m 0x10 none then .wait
  else .go [srcTake (vSA iw) 1, srcTake (vSB iw) 2] none 1

/-- BGM (R196). -/
def Dev.bgmResult (d : Dev) (c v m : Nat) (r : Run) : VRes :=
  let iw := r.iw
  let de := d.vDescOf c v iw
  let t : Int := (bitsOf de.w1 0 8 : Nat)
  let alb := bitsOf de.w1 8 4
  let alf := bitsOf de.w1 12 4
  let px := (r.fromSrc 0).getD 0 Item.zero
  let ms := r.fromSrc 1
  let ps := pixels (bitAt de.w1 16) px
  let mo (j : Nat) : Int :=
    let f := ms.getD (j / 16) Item.zero
    if f.valid then (bitsOf f.data.toNat (16 * (j % 16)) 16 : Nat) else 0
  let one (j : Nat) : Bool × Int :=
    let dd := ps.getD j 0 * 256 - mo j
    let fg := decide (t * 256 < (if dd < 0 then -dd else dd))
    (fg, satI (mo j + (if fg then rshiftRound dd alf else rshiftRound dd alb)) 0 0xFFFF)
  let cells := (List.range 32).map one
  let nv := (depends (vPH iw) r.items).2.2
  let fl (l : List Item) : Bool × Bool := let dp := depends (vPH iw) l; (dp.1, dp.2.1 || nv)
  let mk (l : List Item) (v : Nat) : Slot := let f := fl l; ⟨v, !f.1, f.2⟩
  let model (k : Nat) : Nat := ((cells.drop (16 * k)).take 16).zipIdx.foldl (fun a x => a + twos x.1.2 16 * 2 ^ (16 * x.2)) 0
  let mask := cells.zipIdx.foldl (fun a x => a + (if x.1.1 then 2 ^ (8 * x.2) else 0)) 0
  let slots := [mk (px :: ms) mask, mk [px, ms.getD 0 Item.zero] (model 0), mk [px, ms.getD 1 Item.zero] (model 1)]
  ⟨d.vNv c v m nv, slots, 1, d.vLat m 14⟩

/-- BGM (R196). -/
def Dev.bgm (d : Dev) (c v : Nat) : Dev :=
  d.vRunStep c v 0x10 (planBgm c v) (fun d m r => some (d.bgmResult c v m r))

def planTrk (c v : Nat) (d : Dev) (iw m : Nat) : Plan :=
  let nt := bitsOf iw 24 4 + 1
  if bitsOf iw 0 24 ≠ 0 ∨ bitsOf iw 28 3 ≠ 0 ∨ vUnused iw true true true true false true = true then .bad 1
  else if 64 < vRD iw + nt then .bad 3
  else if !onVnet (vSA iw) ∨ !onVnet (vSB iw) then .bad 6
  else if d.vWaits c v m 0x11 none then .wait
  else .go [srcTake (vSA iw) nt, srcTake (vSB iw) nt] none 1

/-- One track (R197): state and measurement to the new state. -/
def trackStep (w1 st me : Nat) : Nat :=
  let f (x i : Nat) : Int := sextN (bitsOf x (32 * i) 32) 32
  let alpha := bitsOf w1 0 16
  let beta := bitsOf w1 16 16
  let gamma := bitsOf w1 32 16
  let mq (g : Nat) (r : Int) : Int := sat32 (rshiftRound (g * r) 16)
  let px := f st 0 + f st 2
  let py := f st 1 + f st 3
  let pack (l : List Int) (age : Nat) (act : Bool) : Nat :=
    l.zipIdx.foldl (fun a x => a + twos x.1 32 * 2 ^ (32 * x.2)) 0 + (age % 2 ^ 32) * 2 ^ 192 + (if act then 2 ^ 224 else 0)
  if !bitAt st 224 then st
  else if bitAt me 128 then
    let rx := f me 0 - px
    let ry := f me 1 - py
    pack [sat32 (px + mq alpha rx), sat32 (py + mq alpha ry), sat32 (f st 2 + mq beta rx), sat32 (f st 3 + mq beta ry),
      sat32 (f st 4 + mq gamma (f me 2 - f st 4)), sat32 (f st 5 + mq gamma (f me 3 - f st 5))] 0 true
  else
    let age := (bitsOf st 192 32 + 1) % 2 ^ 32
    pack [px, py, f st 2, f st 3, f st 4, f st 5] age (decide (age ≤ bitsOf w1 48 8))

def Dev.trkResult (d : Dev) (c v m : Nat) (r : Run) : VRes :=
  let iw := r.iw
  let de := d.vDescOf c v iw
  let nv := (depends (vPH iw) r.items).2.2
  let slots := List.zipWith (fun a b =>
    let dp := depends (vPH iw) [a, b]
    (⟨trackStep de.w1 (if a.valid then a.data.toNat else 0) (if b.valid then b.data.toNat else 0), !dp.1, dp.2.1 || nv⟩ : Slot))
    (r.fromSrc 0) (r.fromSrc 1)
  ⟨d.vNv c v m nv, slots, 2 * (bitsOf iw 24 4 + 1), d.vLat m 14⟩

/-- TRK (R197). -/
def Dev.trk (d : Dev) (c v : Nat) : Dev :=
  d.vRunStep c v 0x11 (planTrk c v) (fun d m r => some (d.trkResult c v m r))

end Sys2Proof.Machine
end

