-- ==== Sys2Proof/Machine/RowsTiles.lean ====
section
/-!
DEFINITION. The steps of the M tiles and V tiles, one definition for each.
-/

namespace Sys2Proof.Machine

/-- M_NOP (R159). -/
def execMNop (c : Fin 32) (m : Fin 10) (s : State) : Host.Outcome State Fault Refusal :=
  .next { s with dev := s.dev.stepNop c m 0x0A }

/-- M_LOOP (R158). -/
def execMLoop (c : Fin 32) (m : Fin 10) (s : State) : Host.Outcome State Fault Refusal :=
  .next { s with dev := s.dev.stepLoop c m 0x0A 8 }

/-- CONV (R140). -/
def execConv (c : Fin 32) (m : Fin 10) (s : State) : Host.Outcome State Fault Refusal :=
  .next { s with dev := s.dev.conv s.wmem c m }

/-- WCONV (R145). -/
def execWconv (c : Fin 32) (m : Fin 10) (s : State) : Host.Outcome State Fault Refusal :=
  .next { s with dev := s.dev.wconv s.wmem c m }

/-- MMUL (R147). -/
def execMmul (c : Fin 32) (m : Fin 10) (s : State) : Host.Outcome State Fault Refusal :=
  .next { s with dev := s.dev.mmul s.wmem c m }

/-- RSC (R154). -/
def execRsc (c : Fin 32) (m : Fin 10) (s : State) : Host.Outcome State Fault Refusal :=
  .next { s with dev := s.dev.rsc c m }

/-- EMIT of an M tile (R157). -/
def execMEmit (c : Fin 32) (m : Fin 10) (s : State) : Host.Outcome State Fault Refusal :=
  .next { s with dev := s.dev.mEmit c m }

/-- WSWAP (R136). -/
def execWswap (c : Fin 32) (m : Fin 10) (s : State) : Host.Outcome State Fault Refusal :=
  .next { s with dev := s.dev.wswap c m }

/-- WPSET (R132). -/
def execWpset (c : Fin 32) (m : Fin 10) (s : State) : Host.Outcome State Fault Refusal :=
  .next { s with dev := s.dev.wpset c m }

/-- PHOLD of an M tile (R159). -/
def execMPhold (c : Fin 32) (m : Fin 10) (s : State) : Host.Outcome State Fault Refusal :=
  .next { s with dev := s.dev.mPhold c m }

/-- DROP of an M tile (R159). -/
def execMDrop (c : Fin 32) (m : Fin 10) (s : State) : Host.Outcome State Fault Refusal :=
  .next { s with dev := s.dev.mDrop c m }

/-- V_NOP (R171). -/
def execVNop (c : Fin 32) (v : Fin 2) (s : State) : Host.Outcome State Fault Refusal :=
  .next { s with dev := s.dev.stepNop c (10 + v) 0x17 }

/-- V_LOOP (R171). -/
def execVLoop (c : Fin 32) (v : Fin 2) (s : State) : Host.Outcome State Fault Refusal :=
  .next { s with dev := s.dev.stepLoop c (10 + v) 0x17 9 }

/-- DWC (R179). -/
def execDwc (c : Fin 32) (v : Fin 2) (s : State) : Host.Outcome State Fault Refusal :=
  .next { s with dev := s.dev.dwc s.scr c v }

/-- POOL (R181). -/
def execPool (c : Fin 32) (v : Fin 2) (s : State) : Host.Outcome State Fault Refusal :=
  .next { s with dev := s.dev.pool c v }

/-- ARGM (R182). -/
def execArgm (c : Fin 32) (v : Fin 2) (s : State) : Host.Outcome State Fault Refusal :=
  .next { s with dev := s.dev.argm c v }

/-- ELT (R183). -/
def execElt (c : Fin 32) (v : Fin 2) (s : State) : Host.Outcome State Fault Refusal :=
  .next { s with dev := s.dev.elt s.scr c v }

/-- RED (R184). -/
def execRed (c : Fin 32) (v : Fin 2) (s : State) : Host.Outcome State Fault Refusal :=
  .next { s with dev := s.dev.red c v }

/-- FUNC (R185). -/
def execFunc (c : Fin 32) (v : Fin 2) (s : State) : Host.Outcome State Fault Refusal :=
  .next { s with dev := s.dev.func c v }

/-- SMX (R188). -/
def execSmx (c : Fin 32) (v : Fin 2) (s : State) : Host.Outcome State Fault Refusal :=
  .next { s with dev := s.dev.smx c v }

/-- LNA (R189). -/
def execLna (c : Fin 32) (v : Fin 2) (s : State) : Host.Outcome State Fault Refusal :=
  .next { s with dev := s.dev.lna c v }

/-- CREQ (R190). -/
def execCreq (c : Fin 32) (v : Fin 2) (s : State) : Host.Outcome State Fault Refusal :=
  .next { s with dev := s.dev.creq c v }

/-- CSMP (R191). -/
def execCsmp (c : Fin 32) (v : Fin 2) (s : State) : Host.Outcome State Fault Refusal :=
  .next { s with dev := s.dev.csmp c v }

/-- TOPK (R192). -/
def execTopk (c : Fin 32) (v : Fin 2) (s : State) : Host.Outcome State Fault Refusal :=
  .next { s with dev := s.dev.topk c v }

/-- SEL (R193). -/
def execSel (c : Fin 32) (v : Fin 2) (s : State) : Host.Outcome State Fault Refusal :=
  .next { s with dev := s.dev.sel c v }

/-- TOK (R194). -/
def execTok (c : Fin 32) (v : Fin 2) (s : State) : Host.Outcome State Fault Refusal :=
  .next { s with dev := s.dev.tok c v }

/-- CCV (R195). -/
def execCcv (c : Fin 32) (v : Fin 2) (s : State) : Host.Outcome State Fault Refusal :=
  .next { s with dev := s.dev.ccv s.scr c v }

/-- BGM (R196). -/
def execBgm (c : Fin 32) (v : Fin 2) (s : State) : Host.Outcome State Fault Refusal :=
  .next { s with dev := s.dev.bgm c v }

/-- TRK (R197). -/
def execTrk (c : Fin 32) (v : Fin 2) (s : State) : Host.Outcome State Fault Refusal :=
  .next { s with dev := s.dev.trk c v }

/-- CVT (R198). -/
def execCvt (c : Fin 32) (v : Fin 2) (s : State) : Host.Outcome State Fault Refusal :=
  .next { s with dev := s.dev.cvt c v }

/-- SLD (R198). -/
def execSld (c : Fin 32) (v : Fin 2) (s : State) : Host.Outcome State Fault Refusal :=
  .next { s with dev := s.dev.sld s.scr c v }

/-- EMIT of a V tile (R175). -/
def execVEmit (c : Fin 32) (v : Fin 2) (s : State) : Host.Outcome State Fault Refusal :=
  .next { s with dev := s.dev.vEmit c v }

/-- PHOLD of a V tile (R175). -/
def execVPhold (c : Fin 32) (v : Fin 2) (s : State) : Host.Outcome State Fault Refusal :=
  .next { s with dev := s.dev.vPhold c v }

/-- DROP of a V tile (R176). -/
def execVDrop (c : Fin 32) (v : Fin 2) (s : State) : Host.Outcome State Fault Refusal :=
  .next { s with dev := s.dev.vDrop c v }

/-- SST (R198): the one step that writes the scratch. -/
def execSst (c : Fin 32) (v : Fin 2) (s : State) : Host.Outcome State Fault Refusal :=
  .next { s with scr := (s.dev.sst s.scr c v).1, dev := (s.dev.sst s.scr c v).2 }

end Sys2Proof.Machine
end

