-- ==== Sys2Proof/Machine/Dispatch.lean ====
section
/-!
DEFINITION. One arm per command: its meaning, or its rejection by name.
-/

namespace Sys2Proof.Machine

def exec (i : Instr) (s : State) : Host.Outcome State Fault Refusal :=
  match i with
  | .nop r => Sys2Proof.Machine.execNop r s
  | .loadImage img ptes => Sys2Proof.Machine.execLoadImage img ptes s
  | .unload => Sys2Proof.Machine.execUnload s
  | .applyOverlay => Sys2Proof.Machine.execApplyOverlay s
  | .start => Sys2Proof.Machine.execStart s
  | .stop => Sys2Proof.Machine.execStop s
  | .drain => Sys2Proof.Machine.execDrain s
  | .unfence => Sys2Proof.Machine.execUnfence s
  | .readKey r => Sys2Proof.Machine.execReadKey r s
  | .attest r => Sys2Proof.Machine.execAttest r s
  | .attestReportWrite failed => Sys2Proof.Machine.execAttestReportWrite failed s
  | .clearScoresheet r sig => Sys2Proof.Machine.execClearScoresheet r sig s
  | .scoresheetEraseDone => Sys2Proof.Machine.execScoresheetEraseDone s
  | .signal r => Sys2Proof.Machine.execSignal r s
  | .fenceWait r => Sys2Proof.Machine.execFenceWait r s
  | .barrier r => Sys2Proof.Machine.execBarrier r s
  | .fenceWaitComplete r => Sys2Proof.Machine.execFenceWaitComplete r s
  | .barrierComplete r => Sys2Proof.Machine.execBarrierComplete r s
  | .waitTimeout r => Sys2Proof.Machine.execWaitTimeout r s
  | .commandDispatch => Sys2Proof.Machine.execCommandDispatch s
  | .completionEvent r => Sys2Proof.Machine.execCompletionEvent r s
  | .loaderQueueEnter r => Sys2Proof.Machine.execLoaderQueueEnter r s
  | .loadComplete d => Sys2Proof.Machine.execLoadComplete d s
  | .applyWrite d => Sys2Proof.Machine.execApplyWrite d s
  | .drainComplete d => Sys2Proof.Machine.execDrainComplete d s
  | .inputFrameStop b => Sys2Proof.Machine.execInputFrameStop b s
  | .inputFrameResume b => Sys2Proof.Machine.execInputFrameResume b s
  | .segmentBoundary d => Sys2Proof.Machine.execSegmentBoundary d s
  | .segmentInstall d => Sys2Proof.Machine.execSegmentInstall d s
  | .swap c mask => Sys2Proof.Machine.execSwap c mask s
  | .trick c p => Sys2Proof.Machine.execTrick c p s
  | .itemLand c p => Sys2Proof.Machine.execItemLand c p s
  | .bodyWrite c p => Sys2Proof.Machine.execBodyWrite c p s
  | .creditWord c => Sys2Proof.Machine.execCreditWord c s
  | .holdRequest d src => Sys2Proof.Machine.execHoldRequest d src s
  | .holdAssert d => Sys2Proof.Machine.execHoldAssert d s
  | .holdRelease d => Sys2Proof.Machine.execHoldRelease d s
  | .holdLong d => Sys2Proof.Machine.execHoldLong d s
  | .mNop c m => Sys2Proof.Machine.execMNop c m s
  | .mLoop c m => Sys2Proof.Machine.execMLoop c m s
  | .conv c m => Sys2Proof.Machine.execConv c m s
  | .wconv c m => Sys2Proof.Machine.execWconv c m s
  | .mmul c m => Sys2Proof.Machine.execMmul c m s
  | .rsc c m => Sys2Proof.Machine.execRsc c m s
  | .mEmit c m => Sys2Proof.Machine.execMEmit c m s
  | .wswap c m => Sys2Proof.Machine.execWswap c m s
  | .wpset c m => Sys2Proof.Machine.execWpset c m s
  | .mPhold c m => Sys2Proof.Machine.execMPhold c m s
  | .mDrop c m => Sys2Proof.Machine.execMDrop c m s
  | .vNop c v => Sys2Proof.Machine.execVNop c v s
  | .vLoop c v => Sys2Proof.Machine.execVLoop c v s
  | .dwc c v => Sys2Proof.Machine.execDwc c v s
  | .pool c v => Sys2Proof.Machine.execPool c v s
  | .argm c v => Sys2Proof.Machine.execArgm c v s
  | .elt c v => Sys2Proof.Machine.execElt c v s
  | .red c v => Sys2Proof.Machine.execRed c v s
  | .func c v => Sys2Proof.Machine.execFunc c v s
  | .smx c v => Sys2Proof.Machine.execSmx c v s
  | .lna c v => Sys2Proof.Machine.execLna c v s
  | .creq c v => Sys2Proof.Machine.execCreq c v s
  | .csmp c v => Sys2Proof.Machine.execCsmp c v s
  | .topk c v => Sys2Proof.Machine.execTopk c v s
  | .sel c v => Sys2Proof.Machine.execSel c v s
  | .tok c v => Sys2Proof.Machine.execTok c v s
  | .ccv c v => Sys2Proof.Machine.execCcv c v s
  | .bgm c v => Sys2Proof.Machine.execBgm c v s
  | .trk c v => Sys2Proof.Machine.execTrk c v s
  | .cvt c v => Sys2Proof.Machine.execCvt c v s
  | .sst c v => Sys2Proof.Machine.execSst c v s
  | .sld c v => Sys2Proof.Machine.execSld c v s
  | .vEmit c v => Sys2Proof.Machine.execVEmit c v s
  | .vPhold c v => Sys2Proof.Machine.execVPhold c v s
  | .vDrop c v => Sys2Proof.Machine.execVDrop c v s
  | .packetForward c j k lane => Sys2Proof.Machine.execPacketForward c j k lane s
  | .bTileWrite c => Sys2Proof.Machine.execBTileWrite c s
  | .weightStoreWrite c => Sys2Proof.Machine.execWeightStoreWrite c s
  | .queuePush n => Sys2Proof.Machine.execQueuePush n s
  | .readRequest c => Sys2Proof.Machine.execReadRequest c s
  | .readResponse n => Sys2Proof.Machine.execReadResponse n s
  | .writeAcknowledgement n => Sys2Proof.Machine.execWriteAcknowledgement n s
  | .configurationWrite n => Sys2Proof.Machine.execConfigurationWrite n s
  | .spillSend c b j => Sys2Proof.Machine.execSpillSend c b j s
  | .spillPacket f => Sys2Proof.Machine.execSpillPacket f s
  | .spillAck f st => Sys2Proof.Machine.execSpillAck f st s
  | .isoMapUpdate n => Sys2Proof.Machine.execIsoMapUpdate n s
  | .fetchIssue f => Sys2Proof.Machine.execFetchIssue f s
  | .fetchReturn f tag host => Sys2Proof.Machine.execFetchReturn f tag host s
  | .passStart f st => Sys2Proof.Machine.execPassStart f st s
  | .gatherRequest f st => Sys2Proof.Machine.execGatherRequest f st s
  | .prefetchDone f st => Sys2Proof.Machine.execPrefetchDone f st s
  | .tagTimeout p tag => Sys2Proof.Machine.execTagTimeout p tag s
  | .cancelComplete f st => Sys2Proof.Machine.execCancelComplete f st s
  | .cancel f st => Sys2Proof.Machine.execCancel f st s
  | .resolveRetry f st => Sys2Proof.Machine.execResolveRetry f st s
  | .resolveCancel f st => Sys2Proof.Machine.execResolveCancel f st s
  | .xlateWaitExpiry f st => Sys2Proof.Machine.execXlateWaitExpiry f st s
  | .walkDone f st host => Sys2Proof.Machine.execWalkDone f st host s
  | .inval => Sys2Proof.Machine.execInval s
  | .invalComplete => Sys2Proof.Machine.execInvalComplete s
  | .lock => Sys2Proof.Machine.execLock s
  | .lockComplete host => Sys2Proof.Machine.execLockComplete host s
  | .unlock => Sys2Proof.Machine.execUnlock s
  | .memAccess p tag => Sys2Proof.Machine.execMemAccess p tag s
  | .refresh p => Sys2Proof.Machine.execRefresh p s
  | .ddrScrub p => Sys2Proof.Machine.execDdrScrub p s
  | .ddrScrubWriteback p => Sys2Proof.Machine.execDdrScrubWriteback p s
  | .btScrub c b => Sys2Proof.Machine.execBtScrub c b s
  | .btScrubWriteback c b => Sys2Proof.Machine.execBtScrubWriteback c b s
  | .btInitDone c b => Sys2Proof.Machine.execBtInitDone c b s
  | .queueResetDone b => Sys2Proof.Machine.execQueueResetDone b s
  | .tailTimeout q => Sys2Proof.Machine.execTailTimeout q s
  | .windowRead who q => Sys2Proof.Machine.execWindowRead who q s
  | .windowWrite q w => Sys2Proof.Machine.execWindowWrite q w s
  | .windowStallReturn who q => Sys2Proof.Machine.execWindowStallReturn who q s
  | .windowStallTimeout who q => Sys2Proof.Machine.execWindowStallTimeout who q s
  | .doorbell b v => Sys2Proof.Machine.execDoorbell b v s
  | .ringEnable b => Sys2Proof.Machine.execRingEnable b s
  | .ringDisable b => Sys2Proof.Machine.execRingDisable b s
  | .ringRead b => Sys2Proof.Machine.execRingRead b s
  | .ringReadCompletion b r => Sys2Proof.Machine.execRingReadCompletion b r s
  | .ringWrite b => Sys2Proof.Machine.execRingWrite b s
  | .cplTimeout tag => Sys2Proof.Machine.execCplTimeout tag s
  | .hostPortReset => Sys2Proof.Machine.execHostPortReset s
  | .apertureRead off len => Sys2Proof.Machine.execApertureRead off len s
  | .apertureWrite off data => Sys2Proof.Machine.execApertureWrite off data s
  | .apertureReadTimeout txid => Sys2Proof.Machine.execApertureReadTimeout txid s
  | .syncAdd n v => Sys2Proof.Machine.execSyncAdd n v s
  | .signalWord r => Sys2Proof.Machine.execSignalWord r s
  | .causeResolve => Sys2Proof.Machine.execCauseResolve s
  | .foldComplete d => Sys2Proof.Machine.execFoldComplete d s
  | .keyUpdate => Sys2Proof.Machine.execKeyUpdate s
  | .fenceNow c => Sys2Proof.Machine.execFenceNow c s
  | .firstClear => Sys2Proof.Machine.execFirstClear s
  | .fltStatClear pg bits => Sys2Proof.Machine.execFltStatClear pg bits s
  | .rearmExpiry pg bit => Sys2Proof.Machine.execRearmExpiry pg bit s
  | .stalemate d => Sys2Proof.Machine.execStalemate d s
  | .quietExpiry d => Sys2Proof.Machine.execQuietExpiry d s
  | .recoveryComplete d => Sys2Proof.Machine.execRecoveryComplete d s
  | .quietMsWrite d v => Sys2Proof.Machine.execQuietMsWrite d v s
  | .quietCurReset d => Sys2Proof.Machine.execQuietCurReset d s
  | .pllLoss xinLost => Sys2Proof.Machine.execPllLoss xinLost s
  | .lockstep => Sys2Proof.Machine.execLockstep s
  | .security why => Sys2Proof.Machine.execSecurity why s
  | .chipReset => Sys2Proof.Machine.execChipReset s
  | .dealerReloadDone => Sys2Proof.Machine.execDealerReloadDone s
  | .aliveToggle => Sys2Proof.Machine.execAliveToggle s
  | .aliveRestart => Sys2Proof.Machine.execAliveRestart s
  | .privLock => Sys2Proof.Machine.execPrivLock s
  | .injGo => Sys2Proof.Machine.execInjGo s
  | .arm => Sys2Proof.Machine.execArm s
  | .injPriv mask => Sys2Proof.Machine.execInjPriv mask s
  | .recordCommit => Sys2Proof.Machine.execRecordCommit s
  | .scoresheetScan => Sys2Proof.Machine.execScoresheetScan s
  | .journalRecord flashFails => Sys2Proof.Machine.execJournalRecord flashFails s
  | .compactionDone flashFails => Sys2Proof.Machine.execCompactionDone flashFails s
  | .opsecTick wear => Sys2Proof.Machine.execOpsecTick wear s
  | .opsecJournal => Sys2Proof.Machine.execOpsecJournal s
  | .userWrite j v => Sys2Proof.Machine.execUserWrite j v s
  | .pwrokFall => Sys2Proof.Machine.execPwrokFall s
  | .resetL ns => Sys2Proof.Machine.execResetL ns s
  | .pePerstLAssert => Sys2Proof.Machine.execPePerstLAssert s
  | .pePerstLDeassert => Sys2Proof.Machine.execPePerstLDeassert s
  | .bootStart pd pu testmode => Sys2Proof.Machine.execBootStart pd pu testmode s
  | .pllLock => Sys2Proof.Machine.execPllLock s
  | .firmwareVerified upstream => Sys2Proof.Machine.execFirmwareVerified upstream s
  | .bootGo => Sys2Proof.Machine.execBootGo s
  | .ddrTrainingDone lens => Sys2Proof.Machine.execDdrTrainingDone lens s
  | .hostPortReady => Sys2Proof.Machine.execHostPortReady s
  | .autoload k => Sys2Proof.Machine.execAutoload k s
  | .monitorSample mv out => Sys2Proof.Machine.execMonitorSample mv out s
  | .pmbusPoll rail reply => Sys2Proof.Machine.execPmbusPoll rail reply s
  | .governorMeasure p tj => Sys2Proof.Machine.execGovernorMeasure p tj s
  | .governorCalibrate => Sys2Proof.Machine.execGovernorCalibrate s
  | .governorWindow => Sys2Proof.Machine.execGovernorWindow s
  | .thermtripHw => Sys2Proof.Machine.execThermtripHw s
  | .trgEdge j level => Sys2Proof.Machine.execTrgEdge j level s
  | .trgStuck j => Sys2Proof.Machine.execTrgStuck j s
  | .trgUnstuck j => Sys2Proof.Machine.execTrgUnstuck j s
  | .trgTokenPush j => Sys2Proof.Machine.execTrgTokenPush j s
  | .provision trng arg => Sys2Proof.Machine.execProvision trng arg s
  | .own arg => Sys2Proof.Machine.execOwn arg s
  | .revoke arg => Sys2Proof.Machine.execRevoke arg s
  | .return_ arg => Sys2Proof.Machine.execReturn arg s
  | .svnCommit arg => Sys2Proof.Machine.execSvnCommit arg s
  | .keyLatch => Sys2Proof.Machine.execKeyLatch s
  | .csiLongPacket n hdr vc dt payload crcOk => Sys2Proof.Machine.execCsiLongPacket n hdr vc dt payload crcOk s
  | .csiFs n vc fnum => Sys2Proof.Machine.execCsiFs n vc fnum s
  | .csiFe n vc => Sys2Proof.Machine.execCsiFe n vc s
  | .csiTiming n why lane vc => Sys2Proof.Machine.execCsiTiming n why lane vc s
  | .csiDeskew n skew => Sys2Proof.Machine.execCsiDeskew n skew s
  | .glDataFrame k frame => Sys2Proof.Machine.execGlDataFrame k frame s
  | .glCtrlFrame k frame => Sys2Proof.Machine.execGlCtrlFrame k frame s
  | .glTunnelFrame k frame => Sys2Proof.Machine.execGlTunnelFrame k frame s
  | .glTransmit k => Sys2Proof.Machine.execGlTransmit k s
  | .glReplay k => Sys2Proof.Machine.execGlReplay k s
  | .glDown k why => Sys2Proof.Machine.execGlDown k why s
  | .glTrainAdvance k e => Sys2Proof.Machine.execGlTrainAdvance k e s
  | .glKeyUpdate k => Sys2Proof.Machine.execGlKeyUpdate k s
  | .retrain k => Sys2Proof.Machine.execRetrain k s
  | .tunWr k => Sys2Proof.Machine.execTunWr k s
  | .tunRd k => Sys2Proof.Machine.execTunRd k s
  | .tunTimeout k => Sys2Proof.Machine.execTunTimeout k s
  | .quiesce pg on => Sys2Proof.Machine.execQuiesce pg on s
  | .blockReset pg => Sys2Proof.Machine.execBlockReset pg s
  | .perfSelWrite pg v => Sys2Proof.Machine.execPerfSelWrite pg v s
  | .perfCntRead pg => Sys2Proof.Machine.execPerfCntRead pg s
  | .syncValueRead who n => Sys2Proof.Machine.execSyncValueRead who n s
  | .rttClr p => Sys2Proof.Machine.execRttClr p s
  | .ttData c w => Sys2Proof.Machine.execTtData c w s
  | .ltData c w => Sys2Proof.Machine.execLtData c w s
  | .mPiHi c m v => Sys2Proof.Machine.execMPiHi c m v s
  | .mDiHi c m v => Sys2Proof.Machine.execMDiHi c m v s
  | .vPiHi c u v => Sys2Proof.Machine.execVPiHi c u v s
  | .vDiHi c u v => Sys2Proof.Machine.execVDiHi c u v s
  | .ftHi c u v => Sys2Proof.Machine.execFtHi c u v s
  | .hostEtData w => Sys2Proof.Machine.execHostEtData w s
  | .ctData v => Sys2Proof.Machine.execCtData v s
  | .ptData n w => Sys2Proof.Machine.execPtData n w s
  | .glEtData k w => Sys2Proof.Machine.execGlEtData k w s
  | .registerWrite off data => Sys2Proof.Machine.execRegisterWrite off data s
  | .pcieLinkUp speed width reversed pol => Sys2Proof.Machine.execPcieLinkUp speed width reversed pol s

end Sys2Proof.Machine
end

