-- ==== Sys2Proof/Machine/Tick.lean ====
section
/-!
DEFINITION. One fa cycle (R7): what the device does in it without a command (DESIGN CHOICE, log 1).
-/

namespace Sys2Proof.Machine

/-- One fa cycle passes (DESIGN CHOICE, log 1). -/
def Dev.tick (d : Dev) : Dev :=
  let d0 := ((((d.tickPorts.tickBqs).tickSkid).tickPerf).tickStale).tickTricks
  let d1 := (((((((d0.tickPass).tickEdge).tickPackets).tickCredits).tickSync).tickWait).tickHold).tickReads
  { d1.tickRings.tickUp.tickMem.tickAper.tickGl.tickUpset.tickEvents with cycle := d.cycle + 1 }

end Sys2Proof.Machine
end

