-- ==== Sys2Proof/Safety.lean ====
section
/-!
DEFINITION. What claims call safe: the memories in canonical form, and a step that neither faults nor is refused.
-/

namespace Sys2Proof

open Machine

/-- The memories that stand beside the device are in canonical form (DESIGN CHOICE, log 4). -/
def Safe (s : State) : Prop :=
  Memory.wf 0 s.wmem = true ∧ Memory.wf 0 s.scr = true ∧ Memory.wf 0xFF s.flash = true

/-- The command completes with a next state of which `P` holds. -/
def Gives (i : Instr) (s : State) (P : State → Prop) : Prop := ∃ t, exec i s = .next t ∧ P t

/-- The command completes, `P` holds of the device after it, and the weight stores, the scratch, the flash and the command queue are
as before. -/
def GivesDev (i : Instr) (s : State) (P : Dev → Prop) : Prop := ∃ d, exec i s = .next { s with dev := d } ∧ P d

/-- The step goes on. -/
def Completes (s : State) : Prop := ∃ t, step s = .next t

/-- Commands that may change a weight store: a weight-store write (R135), and what resets the device (R406). -/
def Instr.changesWeights : Instr → Bool
  | .weightStoreWrite _ | .pwrokFall | .resetL _ | .chipReset => true
  | _ => false

/-- Commands that may change a V tile scratch: a configuration write (R282), SST (R198), and what resets the device (R406). -/
def Instr.changesScratch : Instr → Bool
  | .configurationWrite _ | .sst _ _ | .pwrokFall | .resetL _ | .chipReset => true
  | _ => false

/-- Commands that may change the flash: those of the scoresheet and the journal (R333 to R348) and the boot step that selects
the journal partition (R346). -/
def Instr.changesFlash : Instr → Bool
  | .clearScoresheet _ _ | .scoresheetEraseDone | .recordCommit | .scoresheetScan | .journalRecord _ | .compactionDone _
  | .firmwareVerified _ => true
  | _ => false

/-- The sequencer of unit `u` of core `c` looks at instruction `iw` in this cycle for domain `dom`: it acts, it is not stopped, it has
not tried in this cycle, the interval of the step before has passed, no step is in progress, no loop is open and its memories read
without error (R36, R158). -/
abbrev AtStep (d : Dev) (c u dom iw : Nat) : Prop :=
  d.tileDom c = some dom ∧ (d.sqGet c u).stuck = false ∧ (d.sqGet c u).tried ≠ d.cycle + 1 ∧ (d.sqGet c u).readyAt ≤ d.dcyc dom ∧
    d.flag (tilePg c u) Reg.HDR.QUIESCE = false ∧ (d.sqGet c u).runs = [] ∧ (d.sqGet c u).loops = [] ∧
    iw = d.instrAt c u (d.rd (tilePg c u) (fPC u)) ∧ d.seqUpset c u (d.rd (tilePg c u) (fPC u)) = none

/-- From `d0` to `d`, unit `u` issued the step at its PC: PC is at the next instruction of the program, the next step issues no earlier
than `interval` domain cycles later, and the domain made progress (R35, R158, R327). -/
abbrev Stepped (d0 d : Dev) (c u dom interval : Nat) : Prop :=
  d.rd (tilePg c u) (fPC u) = (d0.rd (tilePg c u) (fPC u) + 1) % (d0.rd (tilePg c u) (fLen u) + 1) ∧
    (d.sqGet c u).readyAt = d0.dcyc dom + interval ∧ Tab.get d.hold.stepped dom false = true

/-- After this cycle's attempt to issue it, the one step in progress of V tile `v` has opcode `op`, and the takes of this cycle are its
last: `d1` is the device with them taken and `r` the step with its items (R36, R176). `plan` is what the sequencer makes of the opcode. -/
abbrev LastTakes (d : Dev) (c v dom op : Nat) (plan : Dev → Nat → Nat → Plan) (d1 : Dev) (r : Run) : Prop :=
  d.tileDom c = some dom ∧
    (∃ r0, ((d.vIssue c v op plan).vtGet c v).sq.runs = [r0] ∧ r0.op = op) ∧ (d.vIssue c v op plan).takeCycle c (10 + v) dom 0 = d1 ∧
    (d1.vtGet c v).sq.runs = [r] ∧ r.op = op ∧ r.taken = true

/-- From `d1` to `d`, step `r` of V tile `v` ended: its results are in the slots from RD on, the other slots are as before, and the step
is no longer in progress (R174). -/
abbrev Wrote (d1 d : Dev) (c v : Nat) (r : Run) (l : List Slot) : Prop :=
  (∀ i < l.length, Tab.get (d.vtGet c v).slots (vRD r.iw + i) Slot.zero = l.getD i Slot.zero) ∧
    (∀ k, (k < vRD r.iw ∨ vRD r.iw + l.length ≤ k) →
      Tab.get (d.vtGet c v).slots k Slot.zero = Tab.get (d1.vtGet c v).slots k Slot.zero) ∧
    (d.vtGet c v).sq.runs = []

/-- `d` with service `b` begun at the bulk port of core `c` (R217). -/
def Serving (d : Dev) (c : Nat) (b : Bulk) : Dev := { d with mem := { d.mem with bulk := Tab.set d.mem.bulk c (some b) none } }

/-- In this cycle port 3 of B tile `b` of core `c` is free for the access to word `w` that the bulk port asks for: nothing else asks for a
port of the tile, and no port of it was used (R207, R208). -/
abbrev BulkAlone (d : Dev) (c b w : Nat) : Prop :=
  d.btReqs c b = [⟨3, 64, w, 4, .bulk⟩] ∧ ∀ e ∈ d.mem.buse, e.1 ≠ 4 * c + b

/-- A DDR5 access of the aperture whose first request is outstanding. -/
def aperBegun (pa len off : Nat) (data : List Byte) (write : Bool) (r : MemReq) : AperReq :=
  { addr := pa, len := len, data := data, write := write, off := off, tx := none, at_ := 0, tag := some (256 * r.port + r.tag), pos := r.len,
    got := [], bad := false }

/-- No read of the host stalls at the block that owns the register at BAR0 offset `a`, so that an access to it acts at once (R123). -/
abbrev NoStall (d : Dev) (a : Nat) : Prop := d.waitsAt .host (blockAt a) = false

end Sys2Proof
end

