-- ==== Sys2Proof/Certificates/Slice0/Obligations.lean ====
section
/-!
DEFINITION. The statements about the machine.
-/

open Sys2Proof Sys2Proof.Machine

/-! ### Steps, idling and the stores -/

/-- A step takes the command at the front of the queue and is that command's effect with the queue's rest. -/
def Obligations.StepRunsFront : Prop :=
  ∀ (c : Instr) (rest : List Instr) (s : State), s.pending = c :: rest → step s = exec c { s with pending := rest }

/-- With no command waiting, a step is one fa cycle: the cycle count rises by 1, and the weight stores, the scratch and the flash are
as before (the model's choice, log 1). -/
def Obligations.IdleStepIsOneCycle : Prop :=
  ∀ s : State, s.pending = [] → ∃ d, step s = .next { s with dev := d } ∧ d = s.dev.tick ∧ d.cycle = s.dev.cycle + 1

/-- The memories of the reset state are in canonical form. -/
def Obligations.ResetIsSafe : Prop := Safe State.reset

/-- Every step that goes on keeps the weight stores, the scratch and the flash in canonical form. -/
def Obligations.StepKeepsSafe : Prop := ∀ s t : State, Safe s → step s = .next t → Safe t

/-- A command leaves the commands behind it as they are. -/
def Obligations.CommandKeepsQueue : Prop := ∀ (c : Instr) (s t : State), exec c s = .next t → t.pending = s.pending

/-- Only a weight-store write or a reset changes a weight store; only a configuration write, a scratch store or a reset changes a
scratch; only the scoresheet's and the journal's commands and the boot change the flash. -/
def Obligations.StoresChangeByNamedCommands : Prop :=
  ∀ (c : Instr) (s t : State), exec c s = .next t →
    (c.changesWeights = false → t.wmem = s.wmem) ∧ (c.changesScratch = false → t.scr = s.scr) ∧
    (c.changesFlash = false → t.flash = s.flash)

/-- No step is refused, and only a memory access stops the machine: one whose address lies beyond the installed memory (R260). MEM_ACCESS
of a request whose bytes reach beyond the installed memory stops with that address, and not of a request within it (log 4, R260). -/
def Obligations.MissingMemoryStops : Prop :=
  (∀ (s : State) (r : Refusal), step s ≠ .refused r) ∧
  (∀ (s : State) (f : Fault), step s = .fault f →
    ∃ p tag rest pa, s.pending = .memAccess p tag :: rest ∧ f = .noMemory pa ∧ s.dev.memMissing p tag = some pa) ∧
  (∀ (p : Fin 4) (tag : Fin 256) (s : State) (r : MemReq), s.dev.reqAt p tag = some r → r.done = false →
      (s.dev.ddrCap < r.pa + r.len → exec (.memAccess p tag) s = .fault (.noMemory r.pa)) ∧
      (r.pa + r.len ≤ s.dev.ddrCap → exec (.memAccess p tag) s = .next { s with dev := s.dev.memAccess p tag }))

/-- After reset no domain holds an image, no core is fenced or isolated, no page has a raised cause, nothing is queued, no translation
is held and no command is in progress. -/
def Obligations.ResetLeavesNothingLoaded : Prop :=
  (∀ m : Fin 4, State.reset.dev.dstate m = 0 ∧ State.reset.dev.held m = false ∧ State.reset.dev.running m = false) ∧
  (∀ c : Fin 32, State.reset.dev.fenced c = false ∧ State.reset.dev.isolated c = false) ∧
  (∀ pg : Fin 0x200, State.reset.dev.rd (pg * 4096) Reg.HDR.FLT_STAT = 0) ∧
  (∀ q, State.reset.dev.qHead q = []) ∧ State.reset.dev.mem.reqs = [] ∧ State.reset.dev.mem.shared = [] ∧
  State.reset.dev.ldr.queue = [] ∧ State.reset.pending = []

/-! ### The command processor (R369 to R375) -/

/-- NOP, READ_KEY, SIGNAL, FENCE_WAIT and BARRIER at the head of a command ring run: each completes with its result, or begins its
wait with its object's waiters counted (R369, R305, R374, R375). -/
def Obligations.HostCommandsExecute : Prop :=
  (∀ (r : Fin 64) (s : State) (c : RingCmd), s.dev.cmdBegin r 0x00 = some c →
    GivesDev (.nop r) s (fun d => d = { s.dev with hp := d.hp } ∧
      d.cmdOf r = some { c with stage := 2, result := 0, detail := 0, aux := 0, entry1 := 0 })) ∧
  (∀ (r : Fin 64) (s : State) (c : RingCmd), s.dev.cmdBegin r 0x07 = some c → s.dev.ldr.keyValid = true →
    GivesDev (.readKey r) s (fun d => d = { s.dev with hp := d.hp } ∧
      d.cmdOf r = some { c with stage := 2, result := 0, detail := 0, aux := s.dev.ldr.epoch
                                entry1 := leNat (beBytes 32 s.dev.ldr.key.toNat) })) ∧
  (∀ (r : Fin 64) (s : State) (c : RingCmd), s.dev.cmdBegin r 0x0A = some c →
    s.dev.flag (Pg.sync (c.field 24 2)) Reg.SYNC.MODE = false → s.dev.flag (Pg.sync (c.field 24 2)) Reg.SYNC.IRQ_EN = false →
    GivesDev (.signal r) s (fun d => d = { s.dev with hp := d.hp, regs := d.regs } ∧
      d.syncValue (c.field 24 2) = min (s.dev.syncValue (c.field 24 2) + c.field 32 8) (2 ^ 64 - 1) ∧
      d.cmdOf r = some { c with stage := 2, result := 0, detail := 0, aux := 0, entry1 := 0 })) ∧
  (∀ (r : Fin 64) (s : State) (c : RingCmd), s.dev.cmdBegin r 0x0B = some c →
    GivesDev (.fenceWait r) s (fun d => d = { s.dev with hp := d.hp, regs := d.regs } ∧
      d.rd (Pg.sync (c.field 24 2)) Reg.SYNC.WAITERS =
        min (s.dev.rd (Pg.sync (c.field 24 2)) Reg.SYNC.WAITERS + 1) (2 ^ Reg.SYNC.WAITERS.w - 1) ∧
      d.cmdOf r = some { c with stage := 1, target := c.field 32 8, at_ := s.dev.cycle })) ∧
  (∀ (r : Fin 64) (s : State) (c : RingCmd), s.dev.cmdBegin r 0x0C = some c →
    s.dev.flag (Pg.sync (c.field 24 2)) Reg.SYNC.MODE = true → s.dev.flag (Pg.sync (c.field 24 2)) Reg.SYNC.IRQ_EN = false →
    s.dev.rd (Pg.sync (c.field 24 2)) Reg.SYNC.ARRIVED + 1 < s.dev.rd (Pg.sync (c.field 24 2)) Reg.SYNC.PARTIES →
    GivesDev (.barrier r) s (fun d => d = { s.dev with hp := d.hp, regs := d.regs } ∧
      d.rd (Pg.sync (c.field 24 2)) Reg.SYNC.ARRIVED = s.dev.rd (Pg.sync (c.field 24 2)) Reg.SYNC.ARRIVED + 1 ∧
      d.syncValue (c.field 24 2) = s.dev.syncValue (c.field 24 2) ∧
      d.cmdOf r = some { c with stage := 1, target := s.dev.syncValue (c.field 24 2) + 1, at_ := s.dev.cycle }))

/-- FENCE_WAIT_COMPLETE, BARRIER_COMPLETE and WAIT_TIMEOUT end a wait: the result is 0 when VALUE has reached the target and 0x32 when
TIMEOUT_US has passed; AUX carries VALUE[31:0] and the object has one waiter less (R375). -/
def Obligations.WaitsEnd : Prop :=
  (∀ (r : Fin 64) (s : State) (c : RingCmd), s.dev.cmdWaits r 0x0B = some c → c.target ≤ s.dev.syncValue (c.field 24 2) →
    GivesDev (.fenceWaitComplete r) s (fun d => d = { s.dev with hp := d.hp, regs := d.regs } ∧
      d.rd (Pg.sync (c.field 24 2)) Reg.SYNC.WAITERS = s.dev.rd (Pg.sync (c.field 24 2)) Reg.SYNC.WAITERS - 1 ∧
      d.cmdOf r = some { c with stage := 2, result := 0, detail := 0, aux := s.dev.syncValue (c.field 24 2) % 2 ^ 32, entry1 := 0 })) ∧
  (∀ (r : Fin 64) (s : State) (c : RingCmd), s.dev.cmdWaits r 0x0C = some c → c.target ≤ s.dev.syncValue (c.field 24 2) →
    GivesDev (.barrierComplete r) s (fun d => d = { s.dev with hp := d.hp, regs := d.regs } ∧
      d.rd (Pg.sync (c.field 24 2)) Reg.SYNC.WAITERS = s.dev.rd (Pg.sync (c.field 24 2)) Reg.SYNC.WAITERS - 1 ∧
      d.cmdOf r = some { c with stage := 2, result := 0, detail := 0, aux := s.dev.syncValue (c.field 24 2) % 2 ^ 32, entry1 := 0 })) ∧
  (∀ (r : Fin 64) (s : State) (c : RingCmd), s.dev.cmdOf r = some c → c.stage = 1 → (c.opc = 0x0B ∨ c.opc = 0x0C) →
    0 < c.timeout → c.at_ + usCycles c.timeout ≤ s.dev.cycle → s.dev.syncValue (c.field 24 2) < c.target →
    GivesDev (.waitTimeout r) s (fun d => d = { s.dev with hp := d.hp, regs := d.regs } ∧
      d.rd (Pg.sync (c.field 24 2)) Reg.SYNC.WAITERS = s.dev.rd (Pg.sync (c.field 24 2)) Reg.SYNC.WAITERS - 1 ∧
      d.cmdOf r = some { c with stage := 2, result := 0x32, detail := 0, aux := s.dev.syncValue (c.field 24 2) % 2 ^ 32, entry1 := 0 }))

/-- COMMAND_DISPATCH takes the two entries of the next ready ring in round-robin order; LOADER_QUEUE_ENTER hands a loader command to
the loader's queue of 16; COMPLETION_EVENT ends the command, with an event unless NOEVT is set and the result is 0 (R370, R371). -/
def Obligations.CommandsFlow : Prop :=
  (∀ (s : State) (r : Nat) (x0 x1 : Item) (d1 d2 : Dev),
    ((List.range 64).map (fun i => (s.dev.hp.next + i) % 64)).find? (fun r => s.dev.cmdReady r) = some r →
    s.dev.bqPop r = (x0, d1) → d1.bqPop r = (x1, d2) → x0.poison = false → x1.poison = false →
    (∀ c : RingCmd, c.bytes = leBytes 32 x0.data.toNat ++ leBytes 32 x1.data.toNat → c.opc < 0x0D ∧ c.legal = true) →
    GivesDev .commandDispatch s (fun d => d = { d2 with hp := d.hp } ∧ d.hp.next = (r + 1) % 64 ∧
      d.cmdOf r = some { bytes := leBytes 32 x0.data.toNat ++ leBytes 32 x1.data.toNat, stage := 0, result := 0, detail := 0,
                         aux := 0, entry1 := 0, target := 0, at_ := s.dev.cycle, gone := false })) ∧
  (∀ (r : Fin 64) (s : State) (c : RingCmd), s.dev.cmdOf r = some c → s.dev.plat.step = 4 → s.dev.plat.auto = 4 → c.stage = 0 →
    1 ≤ c.opc → c.opc ≤ 6 → s.dev.ldr.queue.length < 16 →
    GivesDev (.loaderQueueEnter r) s (fun d => d = { s.dev with hp := d.hp, ldr := d.ldr } ∧
      d.ldr = { s.dev.ldr with queue := s.dev.ldr.queue ++ [⟨c.opc, c.dom, r, c.bytes.drop 24, false⟩] } ∧
      d.cmdOf r = some { c with stage := 1 })) ∧
  (∀ (r : Fin 64) (s : State) (c : RingCmd), s.dev.cmdOf r = some c → c.stage = 2 → c.gone = false → c.sigen = false →
    c.noevt = true → c.result = 0 →
    GivesDev (.completionEvent r) s (fun d => d = { s.dev with hp := d.hp, perf := d.perf } ∧ d.cmdOf r = none)) ∧
  (∀ (r : Fin 64) (s : State) (c : RingCmd), s.dev.cmdOf r = some c → c.stage = 2 → c.gone = false → c.sigen = false →
    (c.noevt && c.result == 0) = false → s.dev.flag (Pg.ring r) Reg.RING.LINK_EN = true →
    s.dev.eventRoom (s.dev.ringRd r Reg.RING.LINK % 2048) = true →
    GivesDev (.completionEvent r) s (fun d => d.cmdOf r = none ∧
      (d.bqGet (s.dev.ringRd r Reg.RING.LINK % 2048)).pseq =
        ((s.dev.bqGet (s.dev.ringRd r Reg.RING.LINK % 2048)).pseq + 1) % 2 ^ 32))

/-! ### Windows (R121 to R123) -/

/-- A window read returns the oldest item's word and removes what it read; a read of an empty queue with STALL_EMPTY waits; a stalled
read returns when a word is there, and returns 0 when QSTALL_MAX passed, and what waited behind it goes on (R121, R123). A window
write of a word before the last of a VNET flit is kept, and the last word of a flit begun at word 0 puts the item, its data the eight
words and its sideband that of the last word, at the end of a head without body; an access of a requester whose read stalls at the
block waits behind it (R121 to R123). -/
def Obligations.WindowsReadAndWrite : Prop :=
  (∀ (who : Requester) (q : Fin 65536) (s : State) (v : Nat) (d1 : Dev),
    s.dev.waitsAt who (winBlock q) = false → s.dev.winReads q = true → s.dev.winReadWord q = some (v, d1) →
    GivesDev (.windowRead who q) s (fun d => d = { d1 with out := .readDone who (winOff q) v :: d1.out })) ∧
  (∀ (who : Requester) (q : Fin 65536) (s : State),
    s.dev.waitsAt who (winBlock q) = true ∨
      (s.dev.winReads q = true ∧ s.dev.winReadWord q = none ∧ s.dev.winStalls q = true ∧ s.dev.stallOver q = false) →
    GivesDev (.windowRead who q) s (fun d =>
      d = { s.dev with qs := { s.dev.qs with stalls := s.dev.qs.stalls ++ [⟨who, winBlock q, q, s.dev.cycle, .read⟩] } })) ∧
  (∀ (who : Requester) (q : Fin 65536) (s : State) (e : Stall) (d0 d1 : Dev) (v : Nat),
    s.dev.stallFront who q = some e → e.op = .read → d0 = { s.dev with qs := { s.dev.qs with stalls := s.dev.qs.stalls.erase e } } →
    d0.winReads q = true → d0.winReadWord q = some (v, d1) →
    GivesDev (.windowStallReturn who q) s (fun d =>
      d = ({ d1 with out := .readDone e.who (winOff q) v :: d1.out } : Dev).stallEnd e)) ∧
  (∀ (who : Requester) (q : Fin 65536) (s : State) (e : Stall) (d0 : Dev),
    s.dev.stallFront who q = some e → e.op = .read → d0 = { s.dev with qs := { s.dev.qs with stalls := s.dev.qs.stalls.erase e } } →
    s.dev.winValue q = none → e.at_ + usCycles (s.dev.rd (winBlock q) Reg.QENG.QSTALL_MAX) ≤ s.dev.cycle →
    GivesDev (.windowStallTimeout who q) s (fun d =>
      d = ({ d0 with out := .readDone who (winOff q) 0 :: d0.out } : Dev).stallEnd e)) ∧
  (∀ (q : Fin 65536) (w : BitVec 64) (s : State), s.dev.waitsAt .host (winBlock q) = false →
    (q.val < 61440 → s.dev.fenced (qCore q) = false) → s.dev.winWrites q = true → s.dev.winNet q = 0 →
    bitsOf w.toNat 40 3 = Tab.get s.dev.qs.winW q 0 % 8 → bitsOf w.toNat 40 3 ≠ 7 →
    GivesDev (.windowWrite q w) s (fun d => d = { s.dev with qs := d.qs } ∧ d.qs.head = s.dev.qs.head ∧
      Tab.get d.qs.winWData q 0 = setBits (Tab.get s.dev.qs.winWData q 0) (32 * bitsOf w.toNat 40 3) 32 w.toNat ∧
      Tab.get d.qs.winW q 0 % 8 = bitsOf w.toNat 40 3 + 1)) ∧
  (∀ (q : Fin 65536) (w : BitVec 64) (s : State), s.dev.waitsAt .host (winBlock q) = false → s.dev.fenced (qCore q) = false →
    s.dev.winWrites q = true → s.dev.winNet q = 0 → q.val < 61440 →
    Tab.get s.dev.qs.winW q 0 = 7 → bitsOf w.toNat 40 3 = 7 → s.dev.qSize q = 0 → s.dev.qFull q = false →
    (s.dev.qHead q).length < 4 →
    GivesDev (.windowWrite q w) s (fun d => d = { s.dev with qs := d.qs, regs := d.regs } ∧
      d.qHead q = s.dev.qHead q ++
        [itemOfWindow (setBits (Tab.get s.dev.qs.winWData q 0) 224 32 w.toNat) (bitsOf w.toNat 32 8) 0])) ∧
  (∀ (q : Fin 65536) (w : BitVec 64) (s : State), s.dev.waitsAt .host (winBlock q) = true →
    GivesDev (.windowWrite q w) s (fun d =>
      d = { s.dev with qs := { s.dev.qs with stalls := s.dev.qs.stalls ++ [⟨.host, winBlock q, q, s.dev.cycle, .winWrite w.toNat⟩] } }))

/-- With STALL_EMPTY 0, a window read returns at once: the word that was popped, or 0 (VALID 0 and bits [62:0] 0) when nothing can be
popped (R122). -/
def Obligations.NativeWindowReads : Prop :=
  ∀ (who : Requester) (q : Fin 65536) (s : State), s.dev.winStalls q = false →
    s.dev.waitsAt who (winBlock q) = false → s.dev.winReads q = true →
    (∀ (v : Nat) (d1 : Dev), s.dev.winReadWord q = some (v, d1) →
      GivesDev (.windowRead who q) s (fun d => d = { d1 with out := .readDone who (winOff q) v :: d1.out })) ∧
    (s.dev.winReadWord q = none →
      GivesDev (.windowRead who q) s (fun d => d = { s.dev with out := .readDone who (winOff q) 0 :: s.dev.out }))

/-! ### Host rings (R359, R365 to R367) -/

/-- DOORBELL writes HOST_IDX when the distance to DEV_IDX fits the ring; RING_ENABLE starts a ring at indices 0; RING_DISABLE clears HEN
and drops the data of reads that are outstanding (R359, R365, R366). -/
def Obligations.RingRegistersFollow : Prop :=
  (∀ (b : Fin 1536) (v : Word) (s : State), s.dev.hen b = true → s.dev.bqOut b = false →
    idxSub v.toNat (s.dev.devIdx b) ≤ s.dev.ringSize b → ¬(s.dev.ringRd b Reg.RING.ROLE = 1 ∧ v.toNat % 2 = 1) →
    GivesDev (.doorbell b v) s (fun d => d = { s.dev with regs := d.regs } ∧ d.hostIdx b = v.toNat ∧ d.devIdx b = s.dev.devIdx b)) ∧
  (∀ (b : Fin 1536) (s : State), s.dev.hen b = false → 4 ≤ s.dev.rd (Pg.ring b) Reg.RING.HLOG2 →
    s.dev.rd (Pg.ring b) Reg.RING.HLOG2 ≤ 20 → s.dev.rd (Pg.ring b) Reg.RING.ROLE = 0 →
    GivesDev (.ringEnable b) s (fun d => d = { s.dev with regs := d.regs, qs := d.qs } ∧
      d.hen b = true ∧ d.devIdx b = 0 ∧ d.hostIdx b = 0 ∧ (d.bqGet b).fcnt = 0)) ∧
  (∀ (b : Fin 1536) (s : State), s.dev.hen b = true → 64 ≤ b.val →
    GivesDev (.ringDisable b) s (fun d => d = { s.dev with regs := d.regs, hp := d.hp } ∧ d.hen b = false ∧
      d.hp.reads = s.dev.hp.reads.map (fun r => if r.b = b.val then { r with n := 0 } else r)))

/-- RING_READ of the ring whose turn it is asks the host for the next entries; RING_READ_COMPLETION and CPL_TIMEOUT move them, or
poison, into the queue and advance DEV_IDX; RING_WRITE of the ring whose turn it is sends entries and advances DEV_IDX; TAIL_TIMEOUT
of a boundary queue whose timer reached TIMEOUT stops the timer, sets TAIL and gives one notification; HOST_PORT_RESET forgets the
reads outstanding, the vectors and the rings and brings back the configuration space (R353, R366, R367, R120, R354). -/
def Obligations.RingDataMoves : Prop :=
  (∀ (b : Fin 1536) (s : State) (first n : Nat), s.dev.dmaTurn s.dev.readsReady = some b.val → s.dev.readWanted b = (first, n) →
    GivesDev (.ringRead b) s (fun d => d.regs = s.dev.regs ∧ d.qs = s.dev.qs ∧
      d.hp.reads = s.dev.hp.reads ++ [⟨s.dev.pcieTag, b.val, first, n, s.dev.cycle⟩] ∧
      (s.dev.noPcie = false → d.out = .hostRead s.dev.pcieTag (s.dev.ringAddr b first) (32 * n) :: s.dev.out))) ∧
  (∀ (b : Fin 1536) (r : PcieRead) (h : HostRead) (s : State), s.dev.hp.reads.find? (fun r => r.b == b.val) = some r → 0 < r.n →
    h.poisoned = false →
    GivesDev (.ringReadCompletion b h) s (fun d => d.devIdx b = (s.dev.devIdx b + r.n) % 2 ^ 32)) ∧
  (∀ (tag : Fin 512) (r : PcieRead) (s : State), s.dev.hp.reads.find? (fun r => r.tag == tag.val) = some r →
    s.dev.hp.reads.find? (fun x => x.b == r.b) = some r → s.dev.hp.cfg.ctoOff = false →
    r.at_ + cplCycles s.dev.hp.cfg.cto ≤ s.dev.cycle →
    GivesDev (.cplTimeout tag) s (fun d => d = ((s.dev.raise Pg.host 4 (s.dev.ringAttr r.b)).aer 14).ringData r.b r [] true)) ∧
  (∀ (b : Fin 1536) (s : State) (n : Nat), s.dev.dmaTurn s.dev.writesReady = some b.val → s.dev.bqPkt b = false →
    0 < s.dev.bqVisible b → 0 < s.dev.hostRoom b (s.dev.devIdx b) → s.dev.ringServed b = true → s.dev.hp.cfg.d3hot = false →
    s.dev.dmaStopped b = false →
    n = max 1 (min (min (s.dev.bqVisible b) (s.dev.hostRoom b (s.dev.devIdx b)))
      (s.dev.ringRun b (s.dev.devIdx b) (min s.dev.hp.cfg.mps 512))) →
    GivesDev (.ringWrite b) s (fun d => d.devIdx b = (s.dev.devIdx b + n) % 2 ^ 32)) ∧
  (∀ (q : Fin 65536) (s : State) (t0 : Nat), 61440 ≤ q.val → (s.dev.bqGet (q - 61440)).tail = some t0 →
    s.dev.rd (Pg.bq (q - 61440)) Reg.BQD.TIMEOUT ≠ 0 → s.dev.bqOut (q - 61440) = true → s.dev.bqCount (q - 61440) ≠ 0 →
    t0 + usCycles (s.dev.rd (Pg.bq (q - 61440)) Reg.BQD.TIMEOUT) ≤ s.dev.cycle →
    GivesDev (.tailTimeout q) s (fun d =>
      d = ((s.dev.hit (Pg.bq (q - 61440)) Reg.BQD.TAIL).bqSet (q - 61440)
        { s.dev.bqGet (q - 61440) with tail := none }).bqNotify (q - 61440))) ∧
  (∀ s : State, GivesDev .hostPortReset s (fun d => d.hp.reads = [] ∧
    d.hp.cfg = { PcieCfg.reset with ident := s.dev.hp.cfg.ident } ∧ d.hp.msixT = [] ∧ d.hp.pba = 0 ∧ d.hp.dma = [] ∧
    d.hp.next = 0 ∧ (∀ b, b < 1536 → d.hen b = false)))

/-! ### Switch nodes, queues and packets -/

/-- TRICK moves the item that a port's present class A entry names from its source to where the port leads (R76, R80); SWAP with the
one mask bit of a domain that neither runs nor drains swaps the banks of its ports (R82). -/
def Obligations.TricksAndSwaps : Prop :=
  (∀ (c : Fin 32) (p : Fin 59) (s : State) (net m : Nat) (fl : Flit) (ok : Bool) (d0 d1 d2 d3 : Dev),
    s.dev.fab.portDone.contains (64 * c.val + p.val) = false → portNet p = some net →
    d0 = { s.dev with fab := { s.dev.fab with portDone := (64 * c.val + p.val) :: s.dev.fab.portDone } } →
    d0.isolated c = false → d1 = d0.checkNode c → d1.upsetAt (Upset.owner c p) = 0 → d1.ownerA c p = some m → d1.frozen m = false →
    d1.upsetAt (Upset.tt (d1.ttKey c p m)) = 0 → classA (d1.ttEntry c p m) = true → d1.readSource c net (d1.ttEntry c p m % 32) m = (true, some fl, d2) →
    (∀ dir, portDir p = some dir → linkAbsent c dir net = false) →
    d2.deliver c p net m (d1.trickOf c m) fl = (ok, d3) →
    GivesDev (.trick c p) s (fun d => d = if ok then d3.count (Pg.xnode c) 0xFF (16 * m + 64 * net) else d3)) ∧
  (∀ (c : Fin 32) (m : Fin 4) (s : State), s.dev.fenced c = false → s.dev.running m = false →
    GivesDev (.swap c (BitVec.ofNat 4 (2 ^ m.val))) s (fun d => d = s.dev.swapEvent m false))

/-- ITEM_LAND, in a cycle after the item's trick, puts an item that a valid landing entry sends to a head at its end; BODY_WRITE moves
the oldest item of a landing buffer into its body when the tile grants it port and banks; CREDIT_WORD adds its amount to the counter
that it names, when the sum does not pass the capacity, and is used up (R101 to R104). -/
def Obligations.ItemsAndCreditsLand : Prop :=
  (∀ (c : Fin 32) (p : Fin 59) (s : State) (l : Landed) (rest : List Landed),
    Tab.get s.dev.qs.lin (64 * c.val + p.val) [] = l :: rest → l.at_ < s.dev.cycle → s.dev.fenced c = false →
    l.flit.item.poison = false → l.flit.fromQ = 0 → bitAt l.entry 12 = true → bitAt l.entry 11 = false → l.entry % 2048 < 1920 →
    ¬(p.val = 28 ∨ p.val = 29 ∨ p.val = 48 ∨ p.val = 58) →
    s.dev.qEn (entryQueue c l.entry) = true → some (s.dev.qNet (entryQueue c l.entry)) = portNet p →
    s.dev.upsetAt (Upset.ptr (entryQueue c l.entry)) = 0 → s.dev.qFull (entryQueue c l.entry) = false →
    (s.dev.qHead (entryQueue c l.entry)).length < 4 →
    GivesDev (.itemLand c p) s (fun d => d = { s.dev with qs := d.qs, regs := d.regs, perf := d.perf } ∧
      d.qHead (entryQueue c l.entry) = s.dev.qHead (entryQueue c l.entry) ++ [l.flit.item] ∧
      Tab.get d.qs.lin (64 * c.val + p.val) [] = rest)) ∧
  (∀ (c : Fin 32) (p : Fin 59) (s : State) (x : BodyItem) (rest : List BodyItem) (r : BReq) (l : List BReq) (d1 : Dev),
    Tab.get s.dev.qs.land (64 * c.val + p.val) [] = x :: rest → s.dev.landReq c (s.dev.qTile x.q) p = r :: l →
    s.dev.bGrant (4 * c.val + s.dev.qTile x.q) (s.dev.btReqs c (s.dev.qTile x.q)) r = true → s.dev.qMode x.q ≠ 1 →
    d1 = s.dev.bTake c (s.dev.qTile x.q) r.port (banksOf r.word r.n) →
    GivesDev (.bodyWrite c p) s (fun d =>
      d = ({ d1 with qs := { d1.qs with land := Tab.set d1.qs.land (64 * c.val + p.val) rest [] },
                     mem := { d1.mem with used := (2048 + 64 * c.val + p.val) :: d1.mem.used } } : Dev).bodyPut x.q
        r.port x.item (d1.cycle + 2))) ∧
  (∀ (c : Fin 32) (s : State) (w owner : Nat) (rest : List (Nat × Nat)) (pg : Nat) (cnt ex cap : Fld),
    s.dev.fenced c = false →
    Tab.get s.dev.qs.credIn c [] = (w, owner) :: rest → counterRef c (bitsOf w 4 4) = some (pg, cnt, ex, cap) →
    s.dev.rd pg cnt (bitsOf w 0 4) + bitsOf w 8 20 ≤ s.dev.rd pg cap (bitsOf w 0 4) →
    GivesDev (.creditWord c) s (fun d => d = { s.dev with qs := d.qs, regs := d.regs, perf := d.perf } ∧
      d.rd pg cnt (bitsOf w 0 4) = s.dev.rd pg cnt (bitsOf w 0 4) + bitsOf w 8 20 ∧ Tab.get d.qs.credIn c [] = rest))

/-- HOLD_REQUEST records a source whose cause lasts; HOLD_ASSERT and HOLD_RELEASE follow the request after its delay; HOLD_LONG is
raised once for a hold beyond HOLD_LIMIT (R50, R51, R55). INPUT_FRAME_STOP stops an input at its next frame start and discards what
arrived; INPUT_FRAME_RESUME lets it go on when the domain is RUNNING again; QUEUE_RESET_DONE ends RESETTING (R291, R112). -/
def Obligations.HoldAndInputsFollow : Prop :=
  (∀ (m : Fin 4) (b : Fin 4096) (s : State), s.dev.hold.missed.contains b.val = true → s.dev.bqDom b = m.val →
    s.dev.flag (Pg.bq b) Reg.BQD.HOLD_SRC = true → s.dev.hold.reqs.contains (m.val, .queue b) = false →
    GivesDev (.holdRequest m (.queue b)) s (fun d =>
      d = { s.dev with hold := { s.dev.hold with reqs := s.dev.hold.reqs ++ [(m.val, .queue b)] } })) ∧
  (∀ (m : Fin 4) (s : State), bitAt (Tab.get s.dev.hold.pipe m 0) 2 = true → s.dev.held m = false →
    GivesDev (.holdAssert m) s (fun d => d = { s.dev with hold := d.hold } ∧ d.held m = true ∧ Tab.get d.hold.len m 0 = 0)) ∧
  (∀ (m : Fin 4) (s : State), bitAt (Tab.get s.dev.hold.pipe m 0) 2 = false → s.dev.held m = true →
    GivesDev (.holdRelease m) s (fun d => d = { s.dev with hold := d.hold } ∧ d.held m = false)) ∧
  (∀ (m : Fin 4) (s : State), s.dev.held m = true → Tab.get s.dev.hold.longDone m false = false →
    usCycles (s.dev.rd (Pg.ldom m) Reg.LDOM.HOLD_LIMIT) < Tab.get s.dev.hold.len m 0 →
    GivesDev (.holdLong m) s (fun d => d = { s.dev with hold := d.hold, regs := d.regs, flt := d.flt } ∧
      bitAt (d.rd Pg.loader Reg.HDR.FLT_STAT) 3 = true ∧ Tab.get d.hold.longDone m false = true)) ∧
  (∀ (b : Fin 4096) (s : State), (s.dev.bqGet b).stopWanted = true → (s.dev.bqGet b).stopped = false →
    s.dev.bqAtFrameStart b = true →
    GivesDev (.inputFrameStop b) s (fun d => (d.bqGet b).stopped = true ∧ (d.bqGet b).dropping = true ∧ (d.bqGet b).arr = [] ∧
      (d.bqGet b).freed = (s.dev.bqGet b).freed + (s.dev.bqCount b - (s.dev.bqGet b).rel))) ∧
  (∀ (b : Fin 4096) (s : State), (s.dev.bqGet b).stopped = true → s.dev.dstate (s.dev.bqDom b) = stRUNNING →
    GivesDev (.inputFrameResume b) s (fun d => d = { s.dev with qs := d.qs } ∧
      d.bqGet b = { s.dev.bqGet b with stopped := false, stopWanted := false, dropping := s.dev.bqFramed b })) ∧
  (∀ (b : Fin 4096) (s : State), (s.dev.bqGet b).resetting = true → (s.dev.bqGet b).owed = 0 →
    GivesDev (.queueResetDone b) s (fun d => d = { s.dev with qs := d.qs } ∧
      d.bqGet b = { s.dev.bqGet b with resetting := false, owed := 0 }))

/-- Signals of a counter object saturate at 2^64 − 1: SYNC_ADD from the host and SIGNAL_WORD from the grid; SYNC_VALUE_READ answers
VALUE[31:0] and latches VALUE[63:32] (R373, R374). -/
def Obligations.SyncObjectsCount : Prop :=
  (∀ (n : Fin 8192) (v : Word) (s : State), s.dev.flag (Pg.sync n) Reg.SYNC.MODE = false →
    s.dev.flag (Pg.sync n) Reg.SYNC.IRQ_EN = false →
    GivesDev (.syncAdd n v) s (fun d => d = { s.dev with regs := d.regs } ∧
      d.syncValue n = min (s.dev.syncValue n + v.toNat) (2 ^ 64 - 1))) ∧
  (∀ (r : Fin 4) (s : State) (w : Nat) (rest : List Nat), Tab.get s.dev.qs.sigIn r [] = w :: rest →
    s.dev.flag (Pg.sync (bitsOf w 0 13)) Reg.SYNC.MODE = false → s.dev.flag (Pg.sync (bitsOf w 0 13)) Reg.SYNC.IRQ_EN = false →
    GivesDev (.signalWord r) s (fun d => d = { s.dev with regs := d.regs, qs := d.qs } ∧ Tab.get d.qs.sigIn r [] = rest ∧
      d.syncValue (bitsOf w 0 13) = min (s.dev.syncValue (bitsOf w 0 13) + bitsOf w 14 16) (2 ^ 64 - 1))) ∧
  (∀ (who : Requester) (n : Fin 8192) (s : State),
    GivesDev (.syncValueRead who n) s (fun d => d = { s.dev with hp := d.hp, out := d.out } ∧
      d.out = .readDone who (Pg.sync n) (s.dev.syncValue n % 2 ^ 32) :: s.dev.out ∧
      Tab.get d.hp.valHi ((match who with | .host => 0 | .dealer => 8192) + n.val) 0 = s.dev.syncValue n / 2 ^ 32))

/-- PACKET_FORWARD gives the packet at the front of a buffer its output lane, towards its next node, when the lane is free and its turn
has come (R88, R91); ISO_MAP_UPDATE copies the isolated-node map to an endpoint (R90). -/
def Obligations.PacketsForwarded : Prop :=
  (∀ (c : Fin 32) (i : Fin 5) (k : PktCls) (lane : Fin 2) (s : State) (f : BFlit) (rest : List BFlit) (kk p out dir n : Nat),
    kk = (match k with | .b => 0 | .c => 1) → s.dev.isolated c = false →
    Tab.get s.dev.fab.route (bufKey c i kk lane) none = none → Tab.get s.dev.fab.buf (bufKey c i kk lane) [] = f :: rest →
    f.head = true → Hdr.kind f.item.data.toNat ≠ 7 →
    lenWrong (f :: rest) (Hdr.len f.item.data.toNat) = false → endpointCode (Hdr.dest f.item.data.toNat) = true →
    routeStep c f.item.data.toNat lane = (p, out) → portDir p = some dir → neighbour c dir = some n → s.dev.isolated n = false →
    Tab.get s.dev.fab.lane (((64 * c.val + p) * 2 + kk) * 2 + out) none = none →
    s.dev.waiters c p kk out = [2 * i.val + lane.val] →
    GivesDev (.packetForward c i k lane) s (fun d => d = { s.dev with fab := d.fab } ∧
      Tab.get d.fab.lane (((64 * c.val + p) * 2 + kk) * 2 + out) none = some (bufKey c i kk lane) ∧
      Tab.get d.fab.route (bufKey c i kk lane) none = some (p, out))) ∧
  (∀ (n : Fin 64) (s : State), GivesDev (.isoMapUpdate n) s (fun d => d = { s.dev with fab := d.fab } ∧
    Tab.get d.fab.isoCopy n 0 = s.dev.fab.iso))

/-- The scrubber of a B tile: an access whose four words are clean only moves on; a corrected word is written back without its error
when port 3 and the bank are free; after initialisation every byte reads 0 and READY is set (R215, R216). -/
def Obligations.BTileScrubs : Prop :=
  (∀ (c : Fin 32) (b : Fin 4) (s : State), s.dev.scrubDueNow c b = true →
    s.dev.scrubTurn c b (Tab.get s.dev.mem.bscrub (4 * c.val + b.val) 0) 4 = true →
    (∀ i < 4, Tab.get s.dev.mem.berr ((4 * c.val + b.val) * 0x20000 + (Tab.get s.dev.mem.bscrub (4 * c.val + b.val) 0 + i)) 0 = 0) →
    GivesDev (.btScrub c b) s (fun d => d = { s.dev with mem := d.mem, perf := d.perf } ∧
      d.mem.bmem = s.dev.mem.bmem ∧ d.mem.berr = s.dev.mem.berr ∧ d.mem.bscrubWb = s.dev.mem.bscrubWb ∧
      Tab.get d.mem.bscrub (4 * c.val + b.val) 0 = (Tab.get s.dev.mem.bscrub (4 * c.val + b.val) 0 + 4) % 0x20000)) ∧
  (∀ (c : Fin 32) (b : Fin 4) (s : State) (e : Nat × Nat), s.dev.mem.bscrubWb.find? (fun e => e.1 == 4 * c.val + b.val) = some e →
    s.dev.scrubTurn c b e.2 1 = true →
    GivesDev (.btScrubWriteback c b) s (fun d => d = { s.dev with mem := d.mem, perf := d.perf } ∧ d.mem.bmem = s.dev.mem.bmem ∧
      Tab.get d.mem.berr ((4 * c.val + b.val) * 0x20000 + e.2) 0 = 0 ∧ d.mem.bscrubWb = s.dev.mem.bscrubWb.erase e)) ∧
  (∀ (c : Fin 32) (b : Fin 4) (s : State), s.dev.flag (Pg.btile c b) Reg.HDR.READY = false →
    GivesDev (.btInitDone c b) s (fun d => d = { s.dev with mem := d.mem, regs := d.regs } ∧
      d.flag (Pg.btile c b) Reg.HDR.READY = true ∧
      (∀ k < 0x100000, Memory.read d.mem.bmem (bBase c b + k) 0 = 0) ∧
      (∀ a, (a < bBase c b ∨ bBase c b + 0x100000 ≤ a) → Memory.read d.mem.bmem a 0 = Memory.read s.dev.mem.bmem a 0)))

/-! ### The loader (R286 to R300, R323) -/

/-- LOAD_IMAGE makes the checks of Table 9.7 in their order: the first that fails ends the command with its result, and an image that
passes them all has the records of segment 0 sent under its placement, and the command waits for them; LOAD_COMPLETE then swaps them in, and the domain is LOADED; UNLOAD clears a LOADED or STOPPED domain and completes with OK (R286). -/
def Obligations.LoadAndUnload : Prop :=
  (∀ (img : HostRead) (ptes : List HostPte) (s : State) (c : LCmd), s.dev.ldrFront 1 = some c → c.u 8 4 ≠ 0 →
    s.dev.plat.bcStop = false →
    GivesDev (.loadImage img ptes) s (fun d =>
      match s.dev.loadFirst c with
      | some e => d = (s.dev.ldrBusy c.dom).ldrDone c.dom 1 e.1 e.2
      | none =>
        let r := (s.dev.ldrBusy c.dom).imgRead c img
        match r.2.2.loadVerify c r.1 r.2.1 with
        | some e => d = r.2.2.ldrDone c.dom 1 e.1 e.2
        | none =>
          match r.2.2.pads r.1, r.2.2.choosePlace r.1 (c.u 33 1) with
          | .error k, _ => d = r.2.2.ldrDone c.dom 1 0xA k
          | .ok _, none => d = r.2.2.ldrDone c.dom 1 0xB 0
          | .ok pads, some p0 =>
            match r.2.2.resources r.1 c.dom p0 with
            | .error e => d = r.2.2.ldrDone c.dom 1 e.1 e.2
            | .ok p =>
              let copied := if c.u 32 1 = 1 then r.2.2.ddrPut (c.u 16 8) r.1 else r.2.2
              match copied.loadMap c r.1 ptes p with
              | (some e, _) => d = r.2.2.ldrDone c.dom 1 e.1 e.2
              | (none, d3) =>
                d.jobOf c.dom = .load ∧
                d = ((((d3.loadSet c r.1 pads p (if c.u 32 1 = 1 then c.u 16 8 else c.u 0 8)).ldrClear c.dom).sendRecs c.dom
                  (segSectRecs r.1 5 0)).2.segRegs c.dom 0 false).setJob c.dom .load)) ∧
  (∀ (m : Fin 4) (s : State), s.dev.jobOf m = .load → s.dev.ldrQuiet m = true →
    (∀ c < 32, bitAt (Tab.get s.dev.ldr.cores m 0) c = true → s.dev.fenced c = false) →
    GivesDev (.loadComplete m) s (fun d =>
      d = (((((s.dev.ldrClear m).swapEvent m false true).setState m stLOADED).keyChange).count Pg.loader 0xF 0).ldrDone m 1 0 0)) ∧
  (∀ (s : State) (c : LCmd), s.dev.ldrFront 1 = some c → c.u 8 4 = 0 →
    (s.dev.dstate c.dom = stLOADED ∨ s.dev.dstate c.dom = stSTOPPED) →
    GivesDev .unload s (fun d => d = (((s.dev.ldrBusy c.dom).clearDomain c.dom).keyChange).ldrDone c.dom 1 0 0))

/-- START in LOADED runs the domain and completes with OK; DRAIN in RUNNING stops the inputs and enters DRAINING, and DRAIN_COMPLETE of
an empty domain enters LOADED and ends the command; STOP stops the domain and begins the restore; a command in any other state ends with
DOM_STATE (R292). -/
def Obligations.DomainCommands : Prop :=
  (∀ (s : State) (c : LCmd), s.dev.ldrFront 3 = some c → s.dev.dstate c.dom = stLOADED → s.dev.startBad c.dom = none →
    Tab.get s.dev.ldr.segPend c.dom false = false →
    GivesDev .start s (fun d => d = ((s.dev.ldrBusy c.dom).startDomain c.dom).ldrEnd 0 0)) ∧
  (∀ (s : State) (c : LCmd), s.dev.ldrFront 5 = some c → s.dev.dstate c.dom = stRUNNING → s.dev.nseg c.dom = 1 →
    GivesDev .drain s (fun d =>
      d = (((s.dev.ldrBusy c.dom).setJob c.dom .drainWait).stopInputs c.dom).setState c.dom stDRAINING)) ∧
  (∀ (m : Fin 4) (s : State), s.dev.dstate m = stDRAINING → s.dev.drained m = true → Tab.get s.dev.ldr.segDrain m false = false →
    s.dev.jobOf m = .drainWait →
    GivesDev (.drainComplete m) s (fun d =>
      d = (((((s.dev.discardInputs m).setState m stLOADED).tagaUpdate).setJob m .idle).ldrEnd 0 0))) ∧
  (∀ (s : State) (c : LCmd) (rest : List LCmd), s.dev.ldr.queue = c :: rest → c.opc = 4 → s.dev.jobOf c.dom = .idle →
    s.dev.flag Pg.loader Reg.LOADER.BUSY = false → s.dev.running c.dom = true → s.dev.plat.bcStop = false →
    GivesDev .stop s (fun d =>
      let r := ((((s.dev.ldrBusy c.dom).stopDomain c.dom (Pg.loader / 4096) 0 true).setJob c.dom .stopRestore).reloadBegin c.dom).restoreSend
        c.dom 0
      d = match r.1 with
        | none => r.2
        | some o => ((r.2.reloadFail c.dom).setJob c.dom .idle).ldrEnd 0x19 o)) ∧
  (∀ (s : State) (c : LCmd), s.dev.ldrFront 3 = some c → c.auto = false → s.dev.dstate c.dom ≠ stLOADED →
    GivesDev .start s (fun d => d = (s.dev.ldrBusy c.dom).ldrEnd 1 (s.dev.dstate c.dom))) ∧
  (∀ (s : State) (c : LCmd), s.dev.ldrFront 5 = some c → s.dev.dstate c.dom ≠ stRUNNING →
    GivesDev .drain s (fun d => d = (s.dev.ldrBusy c.dom).ldrEnd 1 (s.dev.dstate c.dom)))

/-- SEGMENT_BOUNDARY begins the switch of a RUNNING domain with several segments; SEGMENT_INSTALL installs the staged next segment and
runs (R58, R60). APPLY_OVERLAY that verifies stops a RUNNING domain at its frame boundary and waits, and one that does not ends with its
result; APPLY_WRITE sends the records and, once they are delivered, makes the overlay the configuration in force, counts the apply and
completes with OK (R295). -/
def Obligations.SegmentsAndOverlays : Prop :=
  (∀ (m : Fin 4) (s : State), s.dev.dstate m = stRUNNING → 1 < s.dev.nseg m →
    GivesDev (.segmentBoundary m) s (fun d => d.dstate m = stDRAINING ∧ Tab.get d.ldr.segDrain m false = true ∧ d.mem = s.dev.mem ∧
      d.qs = s.dev.qs ∧ d.fab = s.dev.fab ∧ d.tl = s.dev.tl)) ∧
  (∀ (m : Fin 4) (s : State), s.dev.dstate m = stSWITCHING → Tab.get s.dev.ldr.segDrain m false = true →
    Tab.get s.dev.ldr.applyPend m none = none → s.dev.segReady m = true →
    GivesDev (.segmentInstall m) s (fun d => d = ((s.dev.setSent m false).segInstall m).enterRun m)) ∧
  (∀ (s : State) (c : LCmd), s.dev.ldrFront 2 = some c → s.dev.dstate c.dom = stRUNNING → s.dev.nseg c.dom = 1 →
    GivesDev .applyOverlay s (fun d =>
      let r := (s.dev.ldrBusy c.dom).applyVerify c.dom (c.u 0 1)
      match r.1 with
      | some e => d = r.2.ldrDone c.dom 2 e.1 e.2
      | none => d = (((r.2.setJob c.dom (.applyWait (c.u 0 1))).ldr_ (fun l => { l with resume := Tab.set l.resume c.dom true false })).stopInputs
          c.dom).setState c.dom stDRAINING)) ∧
  (∀ (s : State) (c : LCmd), s.dev.ldrFront 2 = some c → s.dev.dstate c.dom = stLOADED → c.u 0 1 = 0 →
    GivesDev .applyOverlay s (fun d => d = (s.dev.ldrBusy c.dom).setJob c.dom (.applyWait 0))) ∧
  (∀ (m : Fin 4) (s : State) (idx : Nat), s.dev.jobOf m = .applyWait idx → Tab.get s.dev.ldr.folding m false = false →
    s.dev.dstate m = stLOADED → s.dev.loaderStages m = true → s.dev.plat.bcStop = false →
    GivesDev (.applyWrite m) s (fun d =>
      let r := s.dev.applySend m idx
      d = match r.1 with
        | none => (r.2.setJob m (.applySent idx)).setSent m true
        | some o => r.2.applyFails m 0x19 o)) ∧
  (∀ (m : Fin 4) (s : State) (idx : Nat), s.dev.jobOf m = .applySent idx → Tab.get s.dev.ldr.folding m false = false →
    s.dev.ldrQuiet m = true → s.dev.ldrRefused m = false → s.dev.applyStaged m = true →
    GivesDev (.applyWrite m) s (fun d =>
      d = ((((s.dev.applySwap m idx).bump (Pg.ldom m) Reg.LDOM.APPLY_CNT).count Pg.loader 0xF 1).applyResume m).ldrDone m 2 0 0))

/-- UNFENCE clears the core's fence, isolates it no longer and records it; FOLD_COMPLETE first sends the fold's records; QUIET_EXPIRY
begins the restore of a stopped domain; RECOVERY_COMPLETE brings its base configuration back and counts the recovery (R298, R300,
R323). -/
def Obligations.FoldsAndRecoveries : Prop :=
  (∀ (s : State) (c : LCmd), s.dev.ldrFront 6 = some c → s.dev.fenced (c.u 0 1 % 32) = true →
    GivesDev .unfence s (fun d => bitAt d.fab.iso (c.u 0 1 % 32) = false ∧ d.flt.keyDue = true ∧ d.qs.head = s.dev.qs.head ∧
      d.tl = s.dev.tl)) ∧
  (∀ (m : Fin 4) (s : State), Tab.get s.dev.ldr.folding m false = true → s.dev.dstate m = stSWITCHING → s.dev.isSent m = false →
    s.dev.plat.bcStop = false →
    GivesDev (.foldComplete m) s (fun d => d = s.dev.foldSend m)) ∧
  (∀ (m : Fin 4) (s : State), Tab.get s.dev.ldr.folding m false = true → s.dev.dstate m = stSWITCHING → s.dev.isSent m = true →
    s.dev.ldrQuiet m = true → s.dev.jobOf m = .idle →
    GivesDev (.foldComplete m) s (fun d => Tab.get d.ldr.folding m false = false ∧ Tab.get d.ldr.drainCmd m false = false)) ∧
  (∀ (m : Fin 4) (s : State) (t : Nat), Tab.get s.dev.flt.quiet m none = some t → t ≤ s.dev.cycle → s.dev.recovers m = true →
    s.dev.plat.bcStop = false →
    GivesDev (.quietExpiry m) s (fun d =>
      let r := ({ (s.dev.reloadBegin m).setSent m false with flt := { ((s.dev.reloadBegin m).setSent m false).flt with
        quiet := Tab.set ((s.dev.reloadBegin m).setSent m false).flt.quiet m none none
        recovering := Tab.set ((s.dev.reloadBegin m).setSent m false).flt.recovering m true false } } : Dev).restoreSend m 0
      d = match r.1 with
        | none => r.2
        | some _ => r.2.recoveryFail m)) ∧
  (∀ (m : Fin 4) (s : State), Tab.get s.dev.flt.recovering m false = true → s.dev.dstate m = stSTOPPED → s.dev.isSent m = true →
    s.dev.ldrQuiet m = true → s.dev.ldrRefused m = false → s.dev.flag (Pg.fdom m) Reg.FDOM.AUTO_RESTART = false →
    GivesDev (.recoveryComplete m) s (fun d => Tab.get d.flt.recovering m false = false))

/-! ### Faults and fences (R309 to R329) -/

/-- CAUSE_RESOLVE of one occurrence whose reaction is a stop records it and stops the domain, and the occurrence is used up (R308, R309,
R315). -/
def Obligations.ResolvedCauseStopsDomain : Prop :=
  ∀ (s : State) (o : Occ) (a m : Nat) (t : Target), s.dev.flt.occs = [o] → s.dev.flt.imgUe = [] → t = .stop m →
    (({ s.dev with flt := { s.dev.flt with occs := [], imgUe := [] } } : Dev).targetOf o.attr
      (({ s.dev with flt := { s.dev.flt with occs := [], imgUe := [] } } : Dev).sevOf (o.page * 4096) o.bit)) = (a, t) →
    GivesDev .causeResolve s (fun d =>
      d = ((({ s.dev with flt := { s.dev.flt with occs := [], imgUe := [] } } : Dev).resolveRecord o).stopDomain m o.page o.bit false))

/-- FENCE_NOW raises HOST_FENCE of the core; PRIV_LOCK locks the privileged reactions; FIRST_CLEAR clears FIRST, OVF and OVF_CNT, but not in the fc
cycle of the capture; LOCKSTEP is
privileged source 3 (R326, R317, R321, R9, R318). Where TEST permits injection, INJ_GO raises the cause that INJ_PAGE and INJ_BIT name as
an injected one, ARM holds the corruption for the next write, and a one-bit INJ_PRIV raises that privileged source as injected (R329). -/
def Obligations.FaultCommandsAct : Prop :=
  (∀ (c : Fin 32) (s : State), bitAt (s.dev.rd (Pg.corectl c) Reg.HDR.FLT_MASK) 2 = false →
    GivesDev (.fenceNow c) s (fun d => d = { s.dev with regs := d.regs, flt := d.flt } ∧
      bitAt (d.rd (Pg.corectl c) Reg.HDR.FLT_STAT) 2 = true ∧
      ∃ o : Occ, d.flt.occs = s.dev.flt.occs ++ [o] ∧ o.page = Pg.corectl c / 4096 ∧ o.bit = 2 ∧ o.attr = .core c ∧ o.time = s.dev.fs ∧
        o.injected = false)) ∧
  (∀ s : State, GivesDev .privLock s (fun d => d = { s.dev with regs := d.regs } ∧ d.flag Pg.fault Reg.FAULT.PRIV_LOCK = true)) ∧
  (∀ s : State, bitAt (s.dev.events (Pg.fault + 0x40)) 31 = false → GivesDev .firstClear s (fun d => d = { s.dev with regs := d.regs } ∧ d.flag Pg.fault Reg.FAULT.FIRST_VALID = false ∧
    d.word (Pg.fault + 0x40) = 0 ∧ d.rd Pg.fault Reg.FAULT.OVF = 0 ∧ d.rd Pg.fault Reg.FAULT.OVF_CNT = 0)) ∧
  (∀ s : State, bitAt (s.dev.events (Pg.fault + 0x40)) 31 = true → GivesDev .firstClear s (fun d => d = s.dev)) ∧
  (∀ s : State, GivesDev .lockstep s (fun d => d = s.dev.privOccurs 3 Pg.dealer)) ∧
  (∀ s : State, s.dev.testMode = true → s.dev.rd Pg.fault Reg.FAULT.INJ_PAGE < 0x100 →
    GivesDev .injGo s (fun d =>
      d = s.dev.raiseFull (s.dev.rd Pg.fault Reg.FAULT.INJ_PAGE * 4096) (s.dev.rd Pg.fault Reg.FAULT.INJ_BIT) .none_ true)) ∧
  (∀ s : State, s.dev.testMode = true → s.dev.rd Pg.fault Reg.FAULT.TWO = 0 →
    GivesDev .arm s (fun d => d = { s.dev with regs := d.regs, flt := d.flt } ∧ d.flag Pg.fault Reg.FAULT.ARM = true ∧
      d.flt.armed = some (s.dev.rd Pg.fault Reg.FAULT.ECC_KIND, s.dev.rd Pg.fault Reg.FAULT.INJ_PAGE,
        s.dev.rd Pg.fault Reg.FAULT.XORVAL <<< (4 * s.dev.rd Pg.fault Reg.FAULT.SYM_A)))) ∧
  (∀ (i : Fin 8) (s : State), s.dev.testMode = true →
    GivesDev (.injPriv (BitVec.ofNat 8 (2 ^ i.val))) s (fun d => d = s.dev.privOccurs i Pg.fault true))

/-- FLT_STAT_CLEAR clears exactly the bits written that no event of this fc cycle holds set, and on a fenced core's page none;
REARM_EXPIRY clears the one bit whose record has aged REARM_MS; neither touches another page's FLT_STAT (R9, R25, R313). -/
def Obligations.CausesClear : Prop :=
  (∀ (pg : Fin 16384) (bits : BitVec 16) (s : State), s.dev.coreWrite pg = (true, s.dev) →
    GivesDev (.fltStatClear pg bits) s (fun d => d = { s.dev with regs := d.regs, flt := d.flt } ∧
      d.rd (pg * 4096) Reg.HDR.FLT_STAT = s.dev.rd (pg * 4096) Reg.HDR.FLT_STAT &&&
        (0xFFFF - (bits.toNat &&& (0xFFFF - s.dev.events (pg * 4096 + Reg.HDR.FLT_STAT.off) % 65536))) ∧
      (∀ pg' : Nat, pg' ≠ pg.val → d.rd (pg' * 4096) Reg.HDR.FLT_STAT = s.dev.rd (pg' * 4096) Reg.HDR.FLT_STAT))) ∧
  (∀ (pg : Fin 16384) (bits : BitVec 16) (s : State), 0x100 ≤ pg.val → pg.val < 0x500 → s.dev.fenced ((pg - 0x100) / 32) = true →
    GivesDev (.fltStatClear pg bits) s (fun d => d = { s.dev with regs := d.regs, flt := d.flt } ∧
      d.rd (pg * 4096) Reg.HDR.FLT_STAT = s.dev.rd (pg * 4096) Reg.HDR.FLT_STAT)) ∧
  (∀ (pg : Fin 16384) (bit : Fin 16) (s : State) (e : Nat × Nat × Nat), s.dev.coreWrite pg = (true, s.dev) →
    s.dev.flt.rearm.find? (fun e => e.1 == pg.val && e.2.1 == bit.val) = some e →
    e.2.2 + usCycles (1000 * s.dev.rd Pg.fault Reg.FAULT.REARM_MS) ≤ s.dev.cycle → s.dev.flt.dealerDown = false →
    bitAt (s.dev.events (pg * 4096 + Reg.HDR.FLT_STAT.off)) bit = false →
    GivesDev (.rearmExpiry pg bit) s (fun d => d = { s.dev with regs := d.regs, flt := d.flt } ∧
      bitAt (d.rd (pg * 4096) Reg.HDR.FLT_STAT) bit = false ∧
      (∀ pg' : Nat, pg' ≠ pg.val → d.rd (pg' * 4096) Reg.HDR.FLT_STAT = s.dev.rd (pg' * 4096) Reg.HDR.FLT_STAT)))

/-- STALEMATE captures the full queue and raises STALEMATE; QUIET_MS_WRITE clamps QUIET_MS to 1 to 60,000 and sets QUIET_CUR to it;
QUIET_CUR_RESET brings QUIET_CUR back to QUIET_MS after 60 s (R325, R327). ALIVE toggles when it is due and its next toggle is 1 ms
later; ALIVE_RESTART starts it again, once the firmware runs, when no source with the ALIVE reaction is raised; DEALER_RELOAD_DONE makes
the Dealer READY (R318, R319). -/
def Obligations.FaultTimersAct : Prop :=
  (∀ (m : Fin 4) (s : State), s.dev.rd (Pg.fdom m) Reg.FDOM.GRIDLOCK_TIME ≤ Tab.get s.dev.hold.stale m 0 → s.dev.running m = true →
    GivesDev (.stalemate m) s (fun d => d = { s.dev with regs := d.regs, flt := d.flt, hold := d.hold } ∧
      d.flag (Pg.fdom m) Reg.FDOM.STALE_VALID = true ∧ bitAt (d.rd Pg.fault Reg.HDR.FLT_STAT) 0 = true)) ∧
  (∀ (m : Fin 4) (v : Word) (s : State), GivesDev (.quietMsWrite m v) s (fun d => d = { s.dev with regs := d.regs } ∧
    d.rd (Pg.fdom m) Reg.FDOM.QUIET_MS = max 1 (min 60000 (v.toNat % 2 ^ 16)) ∧
    d.rd (Pg.fdom m) Reg.FDOM.QUIET_CUR = max 1 (min 60000 (v.toNat % 2 ^ 16)) ∧
    d.rd (Pg.fdom m) Reg.FDOM.AUTO_RESTART = v.toNat / 2 ^ 16 % 2)) ∧
  (∀ (m : Fin 4) (s : State), usCycles 60000000 ≤ Tab.get s.dev.flt.upCycles m 0 →
    GivesDev (.quietCurReset m) s (fun d => d = { s.dev with regs := d.regs } ∧
      d.rd (Pg.fdom m) Reg.FDOM.QUIET_CUR = s.dev.rd (Pg.fdom m) Reg.FDOM.QUIET_MS % 2 ^ Reg.FDOM.QUIET_CUR.w)) ∧
  (∀ s : State, s.dev.flag Pg.fault Reg.FAULT.ALIVE_RUN = true → s.dev.flt.aliveNext ≤ s.dev.fs →
    GivesDev .aliveToggle s (fun d => d.rd Pg.fault Reg.FAULT.ALIVE_LEVEL = 1 - s.dev.rd Pg.fault Reg.FAULT.ALIVE_LEVEL ∧
      d.out = .pin "ALIVE" (1 - s.dev.rd Pg.fault Reg.FAULT.ALIVE_LEVEL) :: s.dev.out ∧ d.flt.aliveNext = s.dev.flt.aliveNext + 25000)) ∧
  (∀ s : State, (∀ i < 8, bitAt (s.dev.rd Pg.fault Reg.FAULT.PRIV_STAT) i = true → bitAt (s.dev.privReact i) 4 = false) →
    s.dev.flag Pg.fault Reg.FAULT.ALIVE_RUN = false → 3 ≤ s.dev.plat.step → GivesDev .aliveRestart s (fun d => d = s.dev.aliveStart)) ∧
  (∀ s : State, s.dev.flt.dealerDown = true → GivesDev .dealerReloadDone s (fun d => d.flt.dealerDown = false ∧
    d.flag Pg.dealer Reg.HDR.READY = true))

/-! ### Keys, clocks, reset and boot (R303, R305, R405 to R415) -/

/-- KEY_UPDATE computes the position key anew and raises its epoch by 1; KEY_LATCH copies key and epoch to the loader's registers, and
changes nothing else (R303, R305). PROVISION makes a blank part provisioned with an identity key; OWN fuses the owner's key hash; REVOKE,
signed by the other slot, and RETURN, signed by an owner, set their fuses, and without that signature end with status 2; SVN_COMMIT raises
the least SVN and never lowers it; an operation in the wrong state ends with status 1 and changes no fuse (R422, R424). -/
def Obligations.KeysAndFusesFollow : Prop :=
  (∀ s : State, s.dev.flt.keyDue = true → s.dev.ldr.keyValid = true →
    GivesDev .keyUpdate s (fun d => d = { s.dev with flt := { s.dev.flt with keyDue := false }, ldr := d.ldr } ∧
      d.ldr.epoch = (s.dev.ldr.epoch + 1) % 2 ^ 32 ∧ d.ldr.key = BitVec.ofNat 256 (beNat s.dev.positionKey))) ∧
  (∀ s : State, s.dev.ldr.keyValid = true →
    GivesDev .keyLatch s (fun d => d = { s.dev with regs := d.regs } ∧
      d.rd Pg.loader Reg.LOADER.KEY_EPOCH = s.dev.ldr.epoch % 2 ^ 32 ∧
      (∀ i < 8, d.rd Pg.loader Reg.LOADER.KEY i = leNat (((beBytes 32 s.dev.ldr.key.toNat).drop (4 * i)).take 4)))) ∧
  (∀ (trng : BitVec 256) (a : HostRead) (s : State), s.dev.secReady 1 = true → s.dev.plat.fuse.life = 0 →
    GivesDev (.provision trng a) s (fun d => d = { s.dev with regs := d.regs, plat := { s.dev.plat with fuse := d.plat.fuse } } ∧
      d.plat.fuse = { s.dev.plat.fuse with life := 1, idKey := BitVec.ofNat 256 (trng.toNat % (ecN - 1) + 1) } ∧
      d.rd Pg.security Reg.SECURITY.SEC_STATUS = 0 ∧ d.flag Pg.security Reg.SECURITY.SEC_BUSY = false)) ∧
  (∀ (a : HostRead) (s : State), s.dev.secReady 2 = true → s.dev.plat.fuse.life = 1 → argRead a = true →
    GivesDev (.own a) s (fun d => d = { s.dev with regs := d.regs, plat := { s.dev.plat with fuse := d.plat.fuse } } ∧
      d.plat.fuse = { s.dev.plat.fuse with life := 2, slot0 := some (BitVec.ofNat 256 (shaNat (a.data.take 64))) } ∧
      d.rd Pg.security Reg.SECURITY.SEC_STATUS = 0)) ∧
  (∀ (a : HostRead) (s : State), s.dev.secReady 3 = true → s.dev.plat.fuse.life = 2 → argRead a = true →
    leNat (a.data.take 1) < 2 →
    GivesDev (.revoke a) s (fun d => d = { s.dev with regs := d.regs, plat := { s.dev.plat with fuse := d.plat.fuse } } ∧
      (if s.dev.plat.fuse.signedBy 3 (1 - leNat (a.data.take 1)) a.data = true then
        d.plat.fuse = { s.dev.plat.fuse with rev := s.dev.plat.fuse.rev ||| 2 ^ leNat (a.data.take 1) } ∧
          d.rd Pg.security Reg.SECURITY.SEC_STATUS = 0
       else d.plat.fuse = s.dev.plat.fuse ∧ d.rd Pg.security Reg.SECURITY.SEC_STATUS = 2))) ∧
  (∀ (a : HostRead) (s : State), s.dev.secReady 4 = true → (s.dev.plat.fuse.life = 1 ∨ (s.dev.plat.fuse.life = 2 ∧ argRead a = true)) →
    GivesDev (.return_ a) s (fun d => d = { s.dev with regs := d.regs, plat := { s.dev.plat with fuse := d.plat.fuse } } ∧
      (if s.dev.plat.fuse.life = 1 ∨ s.dev.plat.fuse.signedBy 4 0 a.data = true ∨ s.dev.plat.fuse.signedBy 4 1 a.data = true then
        d.plat.fuse = { s.dev.plat.fuse with life := 3, rev := 3 } ∧ d.rd Pg.security Reg.SECURITY.SEC_STATUS = 0
       else d.plat.fuse = s.dev.plat.fuse ∧ d.rd Pg.security Reg.SECURITY.SEC_STATUS = 2))) ∧
  (∀ (a : HostRead) (s : State), s.dev.secReady 5 = true →
    GivesDev (.svnCommit a) s (fun d => d = { s.dev with regs := d.regs, plat := { s.dev.plat with fuse := d.plat.fuse } } ∧
      d.plat.fuse = { s.dev.plat.fuse with minSvn := max s.dev.plat.fuse.minSvn (min 32 (s.dev.rd Pg.security Reg.SECURITY.FW_SVN)) } ∧
      s.dev.plat.fuse.minSvn ≤ d.plat.fuse.minSvn)) ∧
  (∀ (trng : BitVec 256) (a : HostRead) (s : State), s.dev.secReady 1 = true → s.dev.plat.fuse.life ≠ 0 →
    GivesDev (.provision trng a) s (fun d => d = { s.dev with regs := d.regs } ∧ d.rd Pg.security Reg.SECURITY.SEC_STATUS = 1)) ∧
  (∀ (a : HostRead) (s : State), s.dev.secReady 3 = true → s.dev.plat.fuse.life ≠ 2 →
    GivesDev (.revoke a) s (fun d => d = { s.dev with regs := d.regs } ∧ d.rd Pg.security Reg.SECURITY.SEC_STATUS = 1))

/-- PLL_LOSS counts the loss, shows LOCKED 0, and is privileged source 1, whose reset is due at once; CHIP_RESET resets the device when
its source's record is committed or 1 ms has passed; PWROK_FALL and a long RESET_L pulse reset it, and a pulse below 1 us does nothing
(R317, R405, R406). PE_PERST_L low resets the host port and its link status, and high lets the port begin; PCIE_LINK_UP then shows the
trained speed, width, reversal and polarity (R350, R354, R406, R407). -/
def Obligations.ResetsAndLinkFollowPins : Prop :=
  (∀ (x : Bool) (s : State), GivesDev (.pllLoss x) s (fun d =>
    d.flag Pg.clocks Reg.CLOCKS.LOCKED = false ∧ (x = true → d.flag Pg.clocks Reg.CLOCKS.REF_OK = false) ∧
    bitAt (d.rd Pg.fault Reg.FAULT.PRIV_STAT) 1 = true ∧
    (bitAt (s.dev.privReact 1) 3 = true → d.flt.resetDue = some (1, s.dev.cycle)))) ∧
  (∀ (s : State) (i t : Nat), s.dev.flt.resetDue = some (i, t) →
    (i < 2 ∨ s.dev.privWaits i = false ∨ t + usCycles 1000 ≤ s.dev.cycle) →
    Gives .chipReset s (fun t => t = s.chipReset 2)) ∧
  (∀ s : State, Gives .pwrokFall s (fun t => t.wmem = [] ∧ t.scr = [] ∧ t.flash = s.flash ∧ t.pending = s.pending ∧
    t.dev.plat.fuse = s.dev.plat.fuse ∧ t.dev.plat.step = 0 ∧ t.dev.cycle = 0 ∧ t.dev.mem = Mem.reset ∧ t.dev.qs = Qs.reset ∧
    t.dev.fab = Fab.reset ∧ t.dev.ldr = Ldr.reset ∧ t.dev.tl = Tiles.reset ∧ (∀ m < 4, t.dev.dstate m = 0))) ∧
  (∀ (ns : Nat) (s : State), 1500 ≤ ns → Gives (.resetL ns) s (fun t => t = s.chipReset 1)) ∧
  (∀ (ns : Nat) (s : State), ns < 1000 → Gives (.resetL ns) s (fun t => t = s)) ∧
  (∀ s : State, GivesDev .pePerstLAssert s (fun d => d.plat.perst = true ∧ d.hp.cfg = { PcieCfg.reset with ident := s.dev.hp.cfg.ident } ∧ d.hp.reads = [] ∧
    d.flag Pg.host Reg.HDR.READY = false ∧ d.word (Pg.host + 0x60) = 0 ∧ d.mem = s.dev.mem ∧ d.tl = s.dev.tl ∧ d.ldr = s.dev.ldr)) ∧
  (∀ s : State, GivesDev .pePerstLDeassert s (fun d => d = { s.dev with plat := { s.dev.plat with perst := false } })) ∧
  (∀ (speed : Fin 6) (width : Fin 5) (rev : Bool) (pol : BitVec 4) (s : State), s.dev.plat.perst = false →
    GivesDev (.pcieLinkUp speed width rev pol) s (fun d => d = { s.dev with regs := d.regs } ∧
      d.rd Pg.host Reg.HOSTPORT.SPEED = speed ∧ d.rd Pg.host Reg.HOSTPORT.WIDTH = width ∧
      d.flag Pg.host Reg.HOSTPORT.REVERSED = rev ∧ d.rd Pg.host Reg.HOSTPORT.POL = pol.toNat))

/-- BOOT_START senses the straps and goes on when none is wrong; PLL_LOCK reads the layout block; FIRMWARE_VERIFIED runs the first
firmware copy that verifies and halts the boot when neither does; BOOT_GO lets the ROM check a download (R408, R409, R412 to R414).
DDR_TRAINING_DONE makes memory port 0 of a populated board READY; HOST_PORT_READY ends the boot; AUTOLOAD queues the load of the board
record's entry in force, and its START where the entry asks for one (R264, R407, R415). -/
def Obligations.BootProceeds : Prop :=
  (∀ (pd pu : BitVec 16) (tm : Bool) (s : State), s.dev.plat.step = 0 → s.dev.plat.halted = false → pd = pu →
    strapError pd.toNat = 0 →
    GivesDev (.bootStart pd pu tm) s (fun d => d = { s.dev with regs := d.regs, plat := d.plat } ∧ d.plat = { s.dev.plat with step := 1 } ∧
      d.rd Pg.pins Reg.PINS.STRAP_UP = pd.toNat ∧ d.rd Pg.pins Reg.PINS.STRAP_NONE = 0 ∧
      d.rd Pg.pins Reg.PINS.BOOT_SRC = pd.toNat % 4 ∧ d.rd Pg.pins Reg.PINS.POS = bitsOf pd.toNat 4 3)) ∧
  (∀ (s : State) (t : Tab (Nat × Nat)), s.dev.plat.step = 1 → s.dev.plat.halted = false → layoutParts s.flash = some t →
    GivesDev .pllLock s (fun d => d.plat.step = 2 ∧ d.plat.parts = t ∧ d.flag Pg.clocks Reg.CLOCKS.LOCKED = true ∧
      d.flag Pg.clocks Reg.CLOCKS.REF_OK = true ∧ d.mem = s.dev.mem ∧ d.qs = s.dev.qs ∧
      d.sco.base = (Tab.get t 6 (0, 0)).1 ∧ d.sco.jbase = ((Tab.get t 4 (0, 0)).1, (Tab.get t 5 (0, 0)).1))) ∧
  (∀ (up : List Byte) (s : State), s.dev.plat.step = 2 → s.dev.plat.halted = false → s.dev.rd Pg.pins Reg.PINS.BOOT_SRC = 0 →
    (Tab.get s.dev.plat.parts 1 (0, 0)).2 ≠ 0 → (Tab.get s.dev.plat.parts 2 (0, 0)).2 ≠ 0 →
    Gives (.firmwareVerified up) s (fun t =>
      match firmwareCheck s.dev.plat.fuse.minSvn (fun a n => Memory.readList s.flash (s.dev.partAt 1 + a) n 0xFF),
            firmwareCheck s.dev.plat.fuse.minSvn (fun a n => Memory.readList s.flash (s.dev.partAt 2 + a) n 0xFF) with
      | some dg, _ =>
        t = { s with flash := (s.dev.firmwareRuns s.flash (Memory.readList s.flash (s.dev.partAt 1) 256 0xFF) dg false false).1
                     dev := (s.dev.firmwareRuns s.flash (Memory.readList s.flash (s.dev.partAt 1) 256 0xFF) dg false false).2 }
      | none, some dg =>
        t = { s with flash := (s.dev.firmwareRuns s.flash (Memory.readList s.flash (s.dev.partAt 2) 256 0xFF) dg true true).1
                     dev := (s.dev.firmwareRuns s.flash (Memory.readList s.flash (s.dev.partAt 2) 256 0xFF) dg true true).2 }
      | none, none => t.flash = s.flash ∧ t.dev.plat = { s.dev.plat with halted := true, strapErr := 0 } ∧
          t.dev.flag Pg.security Reg.SECURITY.FW_A_BAD = true)) ∧
  (∀ s : State, s.dev.plat.step = 2 → s.dev.plat.halted = false → s.dev.rd Pg.pins Reg.PINS.BOOT_SRC = 1 →
    GivesDev .bootGo s (fun d => d = { s.dev with plat := { s.dev.plat with go := true } })) ∧
  (∀ (delays : List (BitVec 32)) (s : State), 3 ≤ s.dev.plat.step → s.dev.plat.trained = false →
    0 < (ddrConfig (leNat ((((s.dev.boardRecord s.flash).getD []).drop 4).take 1))).1 →
    GivesDev (.ddrTrainingDone delays) s (fun d => d = { s.dev with regs := d.regs, mem := d.mem, plat := { s.dev.plat with trained := true } } ∧
      d.flag (Pg.memport 0) Reg.MEMPORT.PRESENT = true ∧ d.flag (Pg.memport 0) Reg.HDR.READY = true)) ∧
  (∀ s : State, s.dev.plat.step = 3 → s.dev.plat.trained = true → s.dev.plat.halted = false → s.dev.plat.perst = false →
    s.dev.plat.strapDue = false → s.dev.flag Pg.pins Reg.PINS.PCIE_PRESENT = true →
    GivesDev .hostPortReady s (fun d => d = { s.dev with regs := d.regs, plat := d.plat } ∧ d.plat.step = 4 ∧
      d.flag Pg.host Reg.HDR.READY = true)) ∧
  (∀ (k : Fin 4) (s : State), s.dev.plat.step = 4 → s.dev.plat.auto = k →
    GivesDev (.autoload k) s (fun d => s.dev.ldr.queue <+: d.ldr.queue ∧
      (d.ldr.queue.length = s.dev.ldr.queue.length + (if bitAt (s.dev.autoEntry s.flash k).1 1 then 2 else 1)) ∧
      d.plat.auto = s.dev.autoNext s.flash (k + 1)))

/-! ### Power and temperature (R404, R416 to R418) -/

/-- MONITOR_SAMPLE with no rail out of range does nothing, and with one out of range is privileged source 0; PMBUS_POLL keeps the reply's
voltage and current, and the third poll in a row without a reply sets PMB_ERR; THERMTRIP_HW latches THERMTRIP_L low (R404, R418).
GOVERNOR_MEASURE shows the measured power and adds what stays below the cap to the energy credit; GOVERNOR_CALIBRATE takes the regulators'
sum; GOVERNOR_WINDOW without capping holds no domain (R416, R417). -/
def Obligations.PowerIsGoverned : Prop :=
  (∀ (mv : List (BitVec 16)) (s : State), GivesDev (.monitorSample mv 0) s (fun d => d = s.dev)) ∧
  (∀ (mv : List (BitVec 16)) (out : BitVec 8) (s : State) (i : Nat), i < 8 → out.toNat.testBit i = true →
    108 * s.dev.railNominal i < 100 * ((mv.map (·.toNat)).getD i 0) →
    GivesDev (.monitorSample mv out) s (fun d => d = s.dev.privOccurs 0 Pg.power ∧
      bitAt (d.rd Pg.fault Reg.FAULT.PRIV_STAT) 0 = true)) ∧
  (∀ (rail : Fin 8) (r : PmbusReply) (s : State), r.faulted = false →
    GivesDev (.pmbusPoll rail (some r)) s (fun d => d = { s.dev with regs := d.regs, plat := d.plat } ∧
      d.rd Pg.power Reg.POWER.V rail = r.vout.toNat ∧ d.rd Pg.power Reg.POWER.I rail = r.iout.toNat)) ∧
  (∀ (rail : Fin 8) (s : State), Tab.get s.dev.plat.pmbFail rail 0 = 2 →
    GivesDev (.pmbusPoll rail none) s (fun d => d = { s.dev with regs := d.regs, plat := d.plat } ∧
      d.flag Pg.power Reg.POWER.PMB_ERR = true ∧ d.plat.estOnly = true)) ∧
  (∀ s : State, GivesDev .thermtripHw s (fun d => d.plat = { s.dev.plat with trip := true } ∧
    d.out = .pin "THERMTRIP_L" 0 :: s.dev.out ∧ d.regs = s.dev.regs)) ∧
  (∀ (p : BitVec 16) (tj : List Int) (s : State), (∀ t ∈ tj, 0 ≤ t ∧ t < 60) → tj ≠ [] →
    60 ≤ s.dev.rd Pg.power Reg.POWER.T_THR → 61 ≤ s.dev.rd Pg.power Reg.POWER.T_TRIP →
    s.dev.flag Pg.power Reg.POWER.CAPPING = false →
    0 < min (1000 * s.dev.rd Pg.power Reg.POWER.CREDIT_MAX) (s.dev.plat.credit + 100 * s.dev.rd Pg.power Reg.POWER.P_CAP - p.toNat) →
    GivesDev (.governorMeasure p tj) s (fun d => d = { s.dev with regs := d.regs, plat := d.plat } ∧
      d.rd Pg.power Reg.POWER.P_NOW = p.toNat ∧ d.flag Pg.power Reg.POWER.CAPPING = false ∧
      d.plat.credit = min (1000 * s.dev.rd Pg.power Reg.POWER.CREDIT_MAX)
        (s.dev.plat.credit + 100 * s.dev.rd Pg.power Reg.POWER.P_CAP - p.toNat))) ∧
  (∀ s : State, s.dev.plat.estOnly = false → GivesDev .governorCalibrate s (fun d =>
    d = { s.dev with plat := { s.dev.plat with calib := (List.range 8).foldl (fun n i =>
      n + s.dev.rd Pg.power Reg.POWER.V i * s.dev.rd Pg.power Reg.POWER.I i) 0 } })) ∧
  (∀ s : State, s.dev.flag Pg.power Reg.POWER.CAPPING = false →
    GivesDev .governorWindow s (fun d => d = { s.dev with regs := d.regs, hold := d.hold } ∧
      (∀ m < 4, d.rd Pg.power Reg.POWER.H m = 0 ∧ Tab.get d.hold.win m 0 = 0) ∧
      d.flag Pg.power Reg.POWER.AT_FLOOR = false ∧ d.flag Pg.power Reg.POWER.THROTTLING = false))

/-! ### Triggers (R420, R421) -/

/-- TRG_EDGE shows the level and counts an edge that EDGES selects once in 1 ms; TRG_STUCK and TRG_UNSTUCK set and clear STUCK;
TRG_TOKEN_PUSH puts the oldest accepted edge's EVENT token into its queue (R420, R421). -/
def Obligations.TriggersAccept : Prop :=
  (∀ (i : Fin 4) (s : State), 3 ≤ s.dev.plat.step → s.dev.flag Pg.pins Reg.PINS.LEVEL i = false → s.dev.flag Pg.pins Reg.PINS.ACT_LOW i = false →
    s.dev.flag Pg.pins Reg.PINS.STUCK i = false → bitAt (s.dev.rd Pg.pins Reg.PINS.EDGES i) 0 = true →
    (s.dev.trgGet i).acceptAt = none → bitAt (s.dev.rd Pg.score Reg.SCORE.TRG_REC) i = false →
    s.dev.flag Pg.pins Reg.PINS.TOK_EN i = true → s.dev.dstate (s.dev.rd Pg.pins Reg.PINS.DOM i) = stRUNNING →
    (s.dev.trgGet i).pend.length < 4 →
    GivesDev (.trgEdge i true) s (fun d => d = { s.dev with regs := d.regs, plat := d.plat } ∧
      d.flag Pg.pins Reg.PINS.LEVEL i = true ∧ (d.trgGet i).pend = (s.dev.trgGet i).pend ++ [true] ∧
      d.rd Pg.pins Reg.PINS.ACCEPT_CNT i = min (s.dev.rd Pg.pins Reg.PINS.ACCEPT_CNT i + 1) (2 ^ 16 - 1))) ∧
  (∀ (i : Fin 4) (s : State) (t : Nat), 3 ≤ s.dev.plat.step → s.dev.flag Pg.pins Reg.PINS.LEVEL i = false →
    s.dev.flag Pg.pins Reg.PINS.ACT_LOW i = false → s.dev.flag Pg.pins Reg.PINS.STUCK i = false →
    bitAt (s.dev.rd Pg.pins Reg.PINS.EDGES i) 0 = true → (s.dev.trgGet i).acceptAt = some t → s.dev.cycle < t + usCycles 1000 →
    GivesDev (.trgEdge i true) s (fun d => d.rd Pg.pins Reg.PINS.OVR_CNT i = min (s.dev.rd Pg.pins Reg.PINS.OVR_CNT i + 1) (2 ^ 16 - 1) ∧
      d.rd Pg.pins Reg.PINS.ACCEPT_CNT i = s.dev.rd Pg.pins Reg.PINS.ACCEPT_CNT i ∧ (d.trgGet i).pend = (s.dev.trgGet i).pend)) ∧
  (∀ (i : Fin 4) (s : State), 3 ≤ s.dev.plat.step → s.dev.trgActive i = true → s.dev.flag Pg.pins Reg.PINS.STUCK i = false →
    (s.dev.trgGet i).since + usCycles (1000000 * s.dev.rd Pg.pins Reg.PINS.STUCK_S i) ≤ s.dev.cycle →
    GivesDev (.trgStuck i) s (fun d => d = { s.dev with regs := d.regs, flt := d.flt } ∧ d.flag Pg.pins Reg.PINS.STUCK i = true ∧
      bitAt (d.rd Pg.pins Reg.HDR.FLT_STAT) 0 = true)) ∧
  (∀ (i : Fin 4) (s : State), s.dev.trgActive i = false → s.dev.flag Pg.pins Reg.PINS.STUCK i = true →
    (s.dev.trgGet i).since + usCycles 100000 ≤ s.dev.cycle →
    GivesDev (.trgUnstuck i) s (fun d => d = { s.dev with regs := d.regs } ∧ d.flag Pg.pins Reg.PINS.STUCK i = false)) ∧
  (∀ (i : Fin 4) (s : State) (e : Bool) (rest : List Bool) (q : Nat), (s.dev.trgGet i).pend = e :: rest →
    s.dev.rd Pg.pins Reg.PINS.DQUEUE i = q → q < 61440 → s.dev.fenced (qCore q) = false → s.dev.qNet q = 2 → s.dev.winWrites q = true → s.dev.qSize q = 0 →
    s.dev.qCount q < s.dev.qCap q → s.dev.qFull q = false → (s.dev.qHead q).length < 4 →
    GivesDev (.trgTokenPush i) s (fun d => d = { s.dev with regs := d.regs, qs := d.qs, plat := d.plat } ∧
      (d.trgGet i).pend = rest ∧ (d.trgGet i).seq = ((s.dev.trgGet i).seq + 1) % 4 ∧
      d.qHead q = s.dev.qHead q ++ [eventToken i (s.dev.trgGet i).seq e]))

/-! ### Security (R424 to R426) -/

/-- SECURITY raises privileged source 4 on each of its violations; a failed unwrap makes ATTEST end with ATT_KEY; otherwise ATTEST of a
provisioned or owned part waits for its report, and ATTEST_REPORT_WRITE writes the signed report of 512 bytes and ends the command
(R425, R426). -/
def Obligations.ViolationsAndAttestation : Prop :=
  (∀ (why : SecViolation) (s : State), (why = .jtagLocked → s.dev.plat.fuse.life = 2) →
    GivesDev (.security why) s (fun d => bitAt (d.rd Pg.fault Reg.FAULT.PRIV_STAT) 4 = true ∧
      (why = .unwrapFailure → d.plat.idBad = true))) ∧
  (∀ (r : Fin 64) (s : State) (c : RingCmd), s.dev.cmdBegin r 8 = some c → (s.dev.plat.fuse.life = 1 ∨ s.dev.plat.fuse.life = 2) →
    s.dev.plat.idBad = true →
    GivesDev (.attest r) s (fun d => d = { s.dev with hp := d.hp } ∧
      d.cmdOf r = some { c with stage := 2, result := 0x41, detail := 0, aux := 0, entry1 := 0 })) ∧
  (∀ (r : Fin 64) (s : State) (c : RingCmd), s.dev.cmdBegin r 8 = some c → (s.dev.plat.fuse.life = 1 ∨ s.dev.plat.fuse.life = 2) →
    s.dev.plat.idBad = false →
    GivesDev (.attest r) s (fun d => d = { s.dev with hp := d.hp } ∧ d.cmdOf r = some { c with stage := 1 })) ∧
  (∀ (s : State) (r : Fin 64) (c : RingCmd), s.dev.cmdWaits r 8 = some c → (∀ r' : Nat, r' ≠ r.val → s.dev.cmdWaits r' 8 = none) →
    s.dev.flag Pg.score Reg.SCORE.READY = true → s.dev.ldr.keyValid = true → s.dev.hp.cfg.d3hot = false →
    GivesDev (.attestReportWrite false) s (fun d =>
      d = (s.dev.postAll (c.field 56 8) (s.dev.attestReport ((c.bytes.drop 24).take 32)) 512).cmdDone r 0 0 512 ∧
      d.cmdOf r = some { c with stage := 2, result := 0, detail := 0, aux := 512, entry1 := 0 }))

/-! ### M tiles and V tiles (R34 to R39, R132 to R163, R171 to R201) -/

/-- NOP issues and PC goes on, at the end of an open loop with passes left to its top; LOOP opens a loop of its count and END and counts it
in LOOP_DEPTH; nothing but the tile, its counters and its registers changes (R158, R159, R171). -/
def Obligations.ControlStepsAdvance : Prop :=
  (∀ (c : Fin 32) (m : Fin 10) (s : State) (dom : Nat), AtStep s.dev c m dom 0 →
    GivesDev (.mNop c m) s (fun d => d = { s.dev with tl := d.tl, regs := d.regs, perf := d.perf, hold := d.hold } ∧
      Stepped s.dev d c m dom 1 ∧ (d.sqGet c m).loops = [])) ∧
  (∀ (c : Fin 32) (v : Fin 2) (s : State) (dom : Nat), AtStep s.dev c (10 + v) dom 0 →
    GivesDev (.vNop c v) s (fun d => d = { s.dev with tl := d.tl, regs := d.regs, perf := d.perf, hold := d.hold } ∧
      Stepped s.dev d c (10 + v) dom 1 ∧ (d.sqGet c (10 + v)).loops = [])) ∧
  (∀ (c : Fin 32) (m : Fin 10) (s : State) (dom top e n : Nat) (rest : List (Nat × Nat × Nat)), s.dev.tileDom c = some dom →
    (s.dev.sqGet c m).stuck = false → (s.dev.sqGet c m).tried ≠ s.dev.cycle + 1 → (s.dev.sqGet c m).readyAt ≤ s.dev.dcyc dom →
    s.dev.flag (Pg.mtile c m) Reg.HDR.QUIESCE = false → (s.dev.sqGet c m).runs = [] →
    s.dev.instrAt c m (s.dev.rd (Pg.mtile c m) Reg.MTILE.PC) = 0 → s.dev.seqUpset c m (s.dev.rd (Pg.mtile c m) Reg.MTILE.PC) = none →
    (s.dev.sqGet c m).loops = (top, e, n) :: rest →
    s.dev.rd (Pg.mtile c m) Reg.MTILE.PC = e → 1 < n → top < 256 →
    GivesDev (.mNop c m) s (fun d => d.rd (Pg.mtile c m) Reg.MTILE.PC = top ∧ (d.sqGet c m).loops = (top, e, n - 1) :: rest)) ∧
  (∀ (c : Fin 32) (m : Fin 10) (s : State) (dom iw : Nat), AtStep s.dev c m dom iw → bitsOf iw 58 6 = 1 → bitsOf iw 48 10 = 0 →
    bitsOf iw 8 24 = 0 → 0 < bitsOf iw 32 16 → s.dev.rd (Pg.mtile c m) Reg.MTILE.PC < bitsOf iw 0 8 →
    bitsOf iw 0 8 ≤ s.dev.rd (Pg.mtile c m) Reg.MTILE.PROG_LEN_M1 →
    GivesDev (.mLoop c m) s (fun d => d = { s.dev with tl := d.tl, regs := d.regs, perf := d.perf, hold := d.hold } ∧
      Stepped s.dev d c m dom 1 ∧ d.rd (Pg.mtile c m) Reg.MTILE.LOOP_DEPTH = 1 ∧
      (d.sqGet c m).loops = [(s.dev.rd (Pg.mtile c m) Reg.MTILE.PC + 1, bitsOf iw 0 8, bitsOf iw 32 16)])) ∧
  (∀ (c : Fin 32) (v : Fin 2) (s : State) (dom iw : Nat), AtStep s.dev c (10 + v) dom iw → bitsOf iw 58 6 = 1 → bitsOf iw 48 10 = 0 →
    bitsOf iw 9 23 = 0 → 0 < bitsOf iw 32 16 → s.dev.rd (Pg.vtile c v) Reg.VTILE.PC < bitsOf iw 0 9 →
    bitsOf iw 0 9 ≤ s.dev.rd (Pg.vtile c v) Reg.VTILE.PROG_LEN_M1 →
    GivesDev (.vLoop c v) s (fun d => d = { s.dev with tl := d.tl, regs := d.regs, perf := d.perf, hold := d.hold } ∧
      Stepped s.dev d c (10 + v) dom 1 ∧ d.rd (Pg.vtile c v) Reg.VTILE.LOOP_DEPTH = 1 ∧
      (d.sqGet c (10 + v)).loops = [(s.dev.rd (Pg.vtile c v) Reg.VTILE.PC + 1, bitsOf iw 0 9, bitsOf iw 32 16)]))

/-- A step of a reserved opcode raises ILLEGAL_OP, its PC and reason 0 are recorded and the sequencer stays; a step whose item has not
arrived takes nothing, stays at its PC and counts in STALL_IN; a put without credit or without room counts in STALL_OUT (R36 to R38,
R158). -/
def Obligations.StepsStopAndWait : Prop :=
  (∀ (c : Fin 32) (m : Fin 10) (s : State) (dom iw : Nat), AtStep s.dev c m dom iw → 0x0A < bitsOf iw 58 6 →
    s.dev.flag (Pg.mtile c m) Reg.MTILE.ILL_VALID = false →
    GivesDev (.mNop c m) s (fun d => (d.sqGet c m).stuck = true ∧
      d.rd (Pg.mtile c m) Reg.MTILE.PC = s.dev.rd (Pg.mtile c m) Reg.MTILE.PC ∧
      d.rd (Pg.mtile c m) Reg.MTILE.ILL_ADDR = s.dev.rd (Pg.mtile c m) Reg.MTILE.PC ∧
      d.rd (Pg.mtile c m) Reg.MTILE.ILL_REASON = 0 ∧ d.flag (Pg.mtile c m) Reg.MTILE.ILL_VALID = true ∧
      bitAt (d.rd (Pg.mtile c m) Reg.HDR.FLT_STAT) 3 = true)) ∧
  (∀ (c : Fin 32) (m : Fin 10) (s : State) (dom iw q : Nat), AtStep s.dev c m dom iw → bitsOf iw 58 6 = 10 → bitsOf iw 0 53 = 0 →
    bitsOf iw 56 2 ≠ 3 → s.dev.queueAtHead c (inPort m (bitsOf iw 56 2)) (bitsOf iw 53 3) = some q → s.dev.qHead q = [] →
    GivesDev (.mDrop c m) s (fun d => d.rd (Pg.mtile c m) Reg.MTILE.PC = s.dev.rd (Pg.mtile c m) Reg.MTILE.PC ∧ d.qs = s.dev.qs ∧
      d.rd (Pg.mtile c m) Reg.HDR.STALL_IN = min (s.dev.rd (Pg.mtile c m) Reg.HDR.STALL_IN + 1) (2 ^ 32 - 1))) ∧
  (∀ (c : Fin 32) (m : Fin 10) (s : State) (dom iw : Nat), AtStep s.dev c m dom iw → bitsOf iw 58 6 = 9 → bitsOf iw 0 54 = 0 →
    (s.dev.creditOk c m (bitsOf iw 54 4) 1 = false ∨ 4 ≤ (Tab.get s.dev.fab.outp (outKey c m 0) []).length) →
    GivesDev (.mPhold c m) s (fun d => d.rd (Pg.mtile c m) Reg.MTILE.PC = s.dev.rd (Pg.mtile c m) Reg.MTILE.PC ∧ d.fab = s.dev.fab ∧
      d.rd (Pg.mtile c m) Reg.HDR.STALL_OUT = min (s.dev.rd (Pg.mtile c m) Reg.HDR.STALL_OUT + 1) (2 ^ 32 - 1)))

/-- WPSET sets the weight pointer; WSWAP takes an item of SI and exchanges the halves of the weight store; EMIT puts the slot row that EP
names and advances EP; PHOLD puts a placeholder; DROP takes one item (R132, R136, R157, R159). -/
def Obligations.MultiplierTileMoves : Prop :=
  (∀ (c : Fin 32) (m : Fin 10) (s : State) (dom iw : Nat), AtStep s.dev c m dom iw → bitsOf iw 58 6 = 8 → bitsOf iw 12 46 = 0 →
    bitsOf iw 0 12 ≤ 3071 →
    GivesDev (.wpset c m) s (fun d => d = { s.dev with tl := d.tl, regs := d.regs, perf := d.perf, hold := d.hold } ∧
      Stepped s.dev d c m dom 1 ∧ d.rd (Pg.mtile c m) Reg.MTILE.WP = bitsOf iw 0 12)) ∧
  (∀ (c : Fin 32) (m : Fin 10) (s : State) (dom iw q : Nat) (x : Item) (rest : List Item), AtStep s.dev c m dom iw →
    bitsOf iw 58 6 = 7 → bitsOf iw 0 55 = 0 → s.dev.queueAtHead c (inPort m 2) (bitsOf iw 55 3) = some q →
    s.dev.qHead q = x :: rest → x.valid = true →
    GivesDev (.wswap c m) s (fun d => Stepped s.dev d c m dom (2 + s.dev.equaliser dom 4) ∧ d.qHead q = rest ∧
      d.rd (Pg.mtile c m) Reg.MTILE.ACTIVE_HALF = 1 - s.dev.rd (Pg.mtile c m) Reg.MTILE.ACTIVE_HALF ∧
      Tab.get d.ldr.shadow (10 * c.val + m.val) false = false)) ∧
  (∀ (c : Fin 32) (m : Fin 10) (s : State) (dom iw ns k : Nat), AtStep s.dev c m dom iw → bitsOf iw 58 6 = 6 → bitsOf iw 0 46 = 0 →
    ns = bitsOf iw 46 4 + 1 → bitsOf iw 50 4 + ns ≤ 16 → bitAt (s.dev.mtGet c m).slotA12 (bitsOf iw 50 4) = false →
    k = 32 * (bitsOf iw 50 4 + s.dev.rd (Pg.mtile c m) Reg.MTILE.EP % (32 * ns) % ns) +
      s.dev.rd (Pg.mtile c m) Reg.MTILE.EP % (32 * ns) / ns →
    0 < Tab.get (s.dev.mtGet c m).slotAt k 0 → Tab.get (s.dev.mtGet c m).slotAt k 0 < s.dev.dcyc dom →
    s.dev.creditOk c m (bitsOf iw 54 4) 1 = true →
    (Tab.get s.dev.fab.outp (outKey c m 0) []).length < 4 →
    GivesDev (.mEmit c m) s (fun d => Stepped s.dev d c m dom 1 ∧
      d.fab = { s.dev.fab with outp := Tab.set s.dev.fab.outp (outKey c m 0) (Tab.get s.dev.fab.outp (outKey c m 0) [] ++
        [⟨⟨BitVec.ofNat 256 (emitData false 0 (Tab.get (s.dev.mtGet c m).slots k [])), !bitAt (s.dev.mtGet c m).slotPh k,
          bitAt (s.dev.mtGet c m).slotPoison k, 0, 0, false⟩, s.dev.cycle + (3 + s.dev.equaliser dom 3), false⟩]) [] } ∧
      d.rd (Pg.mtile c m) Reg.MTILE.EP = (s.dev.rd (Pg.mtile c m) Reg.MTILE.EP % (32 * ns) + 1) % (32 * ns) ∧ d.qs = s.dev.qs)) ∧
  (∀ (c : Fin 32) (m : Fin 10) (s : State) (dom iw : Nat), AtStep s.dev c m dom iw → bitsOf iw 58 6 = 9 → bitsOf iw 0 54 = 0 →
    s.dev.creditOk c m (bitsOf iw 54 4) 1 = true → (Tab.get s.dev.fab.outp (outKey c m 0) []).length < 4 →
    GivesDev (.mPhold c m) s (fun d => Stepped s.dev d c m dom 1 ∧
      d.fab = { s.dev.fab with outp := Tab.set s.dev.fab.outp (outKey c m 0) (Tab.get s.dev.fab.outp (outKey c m 0) [] ++
        [⟨Item.placeholder, s.dev.cycle + (3 + s.dev.equaliser dom 3), false⟩]) [] } ∧
      (s.dev.flag (Pg.mtile c m) Reg.MTILE.EXEMPT (bitsOf iw 54 4) = false →
        d.rd (Pg.mtile c m) Reg.MTILE.CCNT (bitsOf iw 54 4) = s.dev.rd (Pg.mtile c m) Reg.MTILE.CCNT (bitsOf iw 54 4) - 1))) ∧
  (∀ (c : Fin 32) (m : Fin 10) (s : State) (dom iw q : Nat) (x : Item) (rest : List Item), AtStep s.dev c m dom iw →
    bitsOf iw 58 6 = 10 → bitsOf iw 0 53 = 0 → bitsOf iw 56 2 ≠ 3 →
    s.dev.queueAtHead c (inPort m (bitsOf iw 56 2)) (bitsOf iw 53 3) = some q → s.dev.qHead q = x :: rest → x.valid = true →
    GivesDev (.mDrop c m) s (fun d => Stepped s.dev d c m dom 1 ∧ d.qHead q = rest ∧
      (x.poison = true → d.flag (Pg.mtile c m) Reg.HDR.POISON_SEEN = true)))

/-- With its last items taken, CONV adds its products to its accumulator entries and to no other, and WCONV and MMUL end likewise; each
moves the weight pointer past the weights it read and is no longer in progress. RSC fills slot rows with the rescaled rows of the
entries it reads, and clears these entries (R140, R145, R147, R153, R154, R156). The seed stands for the operands of log 21. -/
def Obligations.MultiplierTileComputes : Prop :=
  (∀ (c : Fin 32) (m : Fin 10) (s : State) (dom : Nat) (d1 : Dev) (r0 r : Run) (de : MDesc) (taps : List Tap) (per wp e0 nx fb : Nat),
    s.dev.tileDom c = some dom → (s.dev.sqGet c m).runs = [r0] → r0.op = 2 → s.dev.mTake c m dom = d1 → d1.mDone c m 2 = some r →
    bitAt r.iw 44 = false → de = d1.mDesc c m (bitsOf r.iw 54 4) → per = chunksPer de.wfmt → wp = d1.rd (Pg.mtile c m) Reg.MTILE.WP →
    e0 = bitsOf r.iw 29 4 → nx = bitsOf r.iw 33 4 + 1 →
    fb = ((needed de.iw de.pl de.dil de.kw de.s (bitsOf r.iw 37 6) nx de.ow).1 / (de.n : Int)).toNat →
    taps = (List.range de.kw).map (fun k =>
      tapOf de.wfmt (bitsOf (d1.wsRead s.wmem c m dom wp (per * de.kw) de.kw nx).1 (128 * per * k) (128 * per))) →
    GivesDev (.conv c m) s (fun d =>
      (∃ seed, ∀ e < nx, Tab.get (d.mtGet c m).acc (e0 + e) [] =
        (convEntry de taps (gotOf r 0) (gotOf r 1) fb (bitsOf r.iw 37 6 + e) seed (Tab.get (d1.mtGet c m).acc (e0 + e) [])).1) ∧
      (∀ e, (e < e0 ∨ e0 + nx ≤ e) → Tab.get (d.mtGet c m).acc e [] = Tab.get (d1.mtGet c m).acc e []) ∧
      d.rd (Pg.mtile c m) Reg.MTILE.WP = (wp + per * de.kw) % 2 ^ 12 ∧ (d.sqGet c m).runs = [] ∧ d.qs = d1.qs)) ∧
  (∀ (c : Fin 32) (m : Fin 10) (s : State) (dom : Nat) (d1 : Dev) (r0 r : Run), s.dev.tileDom c = some dom →
    (s.dev.sqGet c m).runs = [r0] → r0.op = 3 → s.dev.mTake c m dom = d1 → d1.mDone c m 3 = some r →
    GivesDev (.wconv c m) s (fun d => d = d1.finishWconv s.wmem c m dom r ∧
      d.rd (Pg.mtile c m) Reg.MTILE.WP = (d1.rd (Pg.mtile c m) Reg.MTILE.WP + 48) % 2 ^ 12 ∧ (d.sqGet c m).runs = [] ∧ d.qs = d1.qs ∧
      (∀ e < 16, bitAt (d.mtGet c m).accUsed e = true))) ∧
  (∀ (c : Fin 32) (m : Fin 10) (s : State) (dom : Nat) (d1 : Dev) (r0 r : Run), s.dev.tileDom c = some dom →
    (s.dev.sqGet c m).runs = [r0] → r0.op = 4 → s.dev.mTake c m dom = d1 → d1.mDone c m 4 = some r → bitsOf r.iw 43 2 ≠ 0 →
    GivesDev (.mmul c m) s (fun d => d = d1.finishMmul s.wmem c m dom r ∧
      d.rd (Pg.mtile c m) Reg.MTILE.WP = d1.rd (Pg.mtile c m) Reg.MTILE.WP ∧ (d.sqGet c m).runs = [] ∧ d.qs = d1.qs ∧
      (∀ e, (e < bitsOf r.iw 34 4 ∨ bitsOf r.iw 34 4 + (bitsOf r.iw 38 4 + 1) ≤ e) →
        Tab.get (d.mtGet c m).acc e [] = Tab.get (d1.mtGet c m).acc e []))) ∧
  (∀ (c : Fin 32) (m : Fin 10) (s : State) (dom iw e0 nx o0 : Nat) (de : MDesc), AtStep s.dev c m dom iw → bitsOf iw 58 6 = 5 →
    bitsOf iw 0 21 = 0 → bitAt iw 45 = false → de = s.dev.mDesc c m (bitsOf iw 54 4) → de.bad = false → e0 = bitsOf iw 50 4 →
    nx = bitsOf iw 46 4 + 1 → o0 = bitsOf iw 27 4 → o0 + nx ≤ 16 → e0 + nx ≤ 16 →
    (∀ e < nx, Tab.get (s.dev.mtGet c m).accAt (e0 + e) 0 < s.dev.dcyc dom) →
    GivesDev (.rsc c m) s (fun d => Stepped s.dev d c m dom (32 * nx) ∧
      (∀ yy < nx, ∀ j < 32, Tab.get (d.mtGet c m).slots (32 * (o0 + yy) + j) [] =
        rscRow de (bitsOf iw 21 6 + yy) ((((s.dev.tryIssue c m 5 0x0A (planRsc c m)).2.rsTable c dom de (bitsOf iw 31 12) 16).1).getD j none)
          (if Tab.get (s.dev.mtGet c m).acc (e0 + yy) [] = [] then zeros32
           else ((Tab.get (s.dev.mtGet c m).acc (e0 + yy) []).drop (32 * j)).take 32)) ∧
      (∀ e, Tab.get (d.mtGet c m).acc e [] = if e0 ≤ e ∧ e < e0 + nx then [] else Tab.get (s.dev.mtGet c m).acc e []) ∧
      d.rd (Pg.mtile c m) Reg.MTILE.EP = 0))

/-- With their last items taken, the window and arithmetic steps of a V tile write their results: DWC, POOL and FUNC those of their
definitions; ARGM the channel of the greatest value; ELT of SUB 7 with an immediate the comparison of each value; RED without AX the
saturated reduction of integers; CVT of SUB 3 the values as they are; SMX and LNA the normalised vector (R179, R181 to R189, R198). -/
def Obligations.VectorTileComputes : Prop :=
  (∀ (c : Fin 32) (v : Fin 2) (s : State) (dom : Nat) (d1 : Dev) (r : Run), LastTakes s.dev c v dom 0x02 (planDwc c v) d1 r →
    GivesDev (.dwc c v) s (fun d => Wrote d1 d c v r (d1.dwcResult s.scr c v dom r).slots ∧ d.qs = d1.qs)) ∧
  (∀ (c : Fin 32) (v : Fin 2) (s : State) (dom : Nat) (d1 : Dev) (r : Run), LastTakes s.dev c v dom 0x03 (planPool c v) d1 r →
    GivesDev (.pool c v) s (fun d => Wrote d1 d c v r (d1.poolResult c v dom r).slots ∧ d.mem = d1.mem ∧ d.qs = d1.qs)) ∧
  (∀ (c : Fin 32) (v : Fin 2) (s : State) (dom : Nat) (d1 : Dev) (r : Run), LastTakes s.dev c v dom 0x07 (planFunc c v) d1 r →
    GivesDev (.func c v) s (fun d => Wrote d1 d c v r (d1.funcResult c v dom r).slots ∧ d.mem = d1.mem ∧ d.qs = d1.qs)) ∧
  (∀ (c : Fin 32) (v : Fin 2) (s : State) (dom nx : Nat) (d1 : Dev) (r : Run) (de : VDesc), LastTakes s.dev c v dom 0x04 (planArgm c v) d1 r →
    de = d1.vDescOf c v r.iw → nx = bitsOf r.iw 21 4 + 1 → r.items.length = de.chn * nx →
    (∀ x ∈ r.items, x.valid = true ∧ x.poison = false) →
    GivesDev (.argm c v) s (fun d => Wrote d1 d c v r (packSlots 16 ((List.range nx).flatMap (fun f =>
      (List.range (perFlit de.ifmt)).map (fun j => (⟨argmaxOf de.ifmt ((List.range de.chn).map (fun ch =>
        codeAt de.ifmt (r.items.getD (ch * nx + f) Item.zero).data.toNat j)), false, false⟩ : El))))))) ∧
  (∀ (c : Fin 32) (v : Fin 2) (s : State) (dom : Nat) (d1 : Dev) (r : Run) (de : VDesc), LastTakes s.dev c v dom 0x05 (planElt c v) d1 r →
    de = d1.vDescOf c v r.iw → bitsOf r.iw 29 2 = 3 → vSUB r.iw = 7 → de.ifmt ≠ 2 → (r.fromSrc 0).length = vNF r.iw →
    (∀ x ∈ r.fromSrc 0, x.valid = true) →
    GivesDev (.elt c v) s (fun d => Wrote d1 d c v r (packSlots (perFlit de.ofmt) ((r.fromSrc 0).flatMap (fun x =>
      (operands de.ifmt de.izp x).map (fun a =>
        (⟨patI de.ofmt (if sextN (bitsOf r.iw 0 16) 16 < a then 1 else 0), false, x.poison⟩ : El))))))) ∧
  (∀ (c : Fin 32) (v : Fin 2) (s : State) (dom : Nat) (d1 : Dev) (r : Run) (de : VDesc), LastTakes s.dev c v dom 0x06 (planRed c v) d1 r →
    de = d1.vDescOf c v r.iw → bitAt r.iw 23 = false → de.ifmt ≠ 2 → (∀ x ∈ r.items, x.valid = true) →
    GivesDev (.red c v) s (fun d => Wrote d1 d c v r
      [⟨twos (sat32 (redInt (vSUB r.iw) (r.items.flatMap (operands de.ifmt de.izp)))) 32, true, r.items.any (·.poison)⟩])) ∧
  (∀ (c : Fin 32) (v : Fin 2) (s : State) (dom : Nat) (d1 : Dev) (r : Run) (de : VDesc), LastTakes s.dev c v dom 0x12 (planCvt c v) d1 r →
    de = d1.vDescOf c v r.iw → vSUB r.iw = 3 → (∀ x ∈ r.items, x.valid = true) →
    GivesDev (.cvt c v) s (fun d => Wrote d1 d c v r (packSlots (perFlit de.ofmt) (r.items.flatMap (fun x =>
      (floats x).map (fun y => (⟨y.encode .b16, false, x.poison⟩ : El))))))) ∧
  (∀ (c : Fin 32) (v : Fin 2) (s : State) (dom : Nat) (d1 : Dev) (r : Run), LastTakes s.dev c v dom 0x08 (planNorm c v true) d1 r →
    d1.flt.upset = [] → (∀ x ∈ r.items, x.valid = true) →
    GivesDev (.smx c v) s (fun d => Wrote d1 d c v r (packSlots 16 ((softmax (d1.fTable c v (bitsOf r.iw 0 3)) (r.items.flatMap floats)).map
      (fun y => (⟨y.encode .b16, false, r.items.any (·.poison)⟩ : El)))))) ∧
  (∀ (c : Fin 32) (v : Fin 2) (s : State) (dom : Nat) (d1 : Dev) (r : Run), LastTakes s.dev c v dom 0x09 (planNorm c v false) d1 r →
    (∀ x ∈ r.items, x.valid = true) →
    GivesDev (.lna c v) s (fun d => Wrote d1 d c v r (packSlots 16 ((layerNorm (FV.decode .b32 (bitsOf (d1.vDescOf c v r.iw).w1 0 32))
      (r.items.flatMap floats)).map (fun y => (⟨y.encode .b16, false, r.items.any (·.poison)⟩ : El))))))

/-- CREQ writes the gather requests of its box, and a new box enters the box FIFO; CSMP samples with the oldest box, which leaves with
the last row; TOPK of MODE 1 writes the size of the set and of MODE 3 clears the set; SEL passes the stream that its token names; TOK
makes a token of a word above the threshold; CCV, BGM and TRK write the results of their stages (R190 to R197). -/
def Obligations.VectorTileSelects : Prop :=
  (∀ (c : Fin 32) (v : Fin 2) (s : State) (dom : Nat) (d1 : Dev) (r : Run), LastTakes s.dev c v dom 0x0A (planCreq c v) d1 r →
    (d1.vtGet c v).boxes.length < 64 →
    GivesDev (.creq c v) s (fun d => ∃ res, d1.creqResult c v dom r = some res ∧ Wrote d1 d c v r res.slots ∧
      (d.vtGet c v).boxes.length = (d1.vtGet c v).boxes.length + (if bitAt r.iw 30 then 1 else 0))) ∧
  (∀ (c : Fin 32) (v : Fin 2) (s : State) (dom : Nat) (d1 : Dev) (r : Run) (b : Box) (rest : List Box),
    LastTakes s.dev c v dom 0x0B (planCsmp c v) d1 r → (d1.vtGet c v).boxes = b :: rest →
    GivesDev (.csmp c v) s (fun d => ∃ res, d1.csmpResult c v dom r = some res ∧ Wrote d1 d c v r res.slots ∧
      (d.vtGet c v).boxes = (if bitAt r.iw 30 then rest else b :: rest) ∧
      (d.vtGet c v).boxK = (if bitAt r.iw 30 then 0 else (d1.vtGet c v).boxK + 1))) ∧
  (∀ (c : Fin 32) (v : Fin 2) (s : State) (dom : Nat) (d1 : Dev) (r : Run), LastTakes s.dev c v dom 0x0C (planTopk c v) d1 r →
    (bitsOf r.iw 29 2 = 1 → GivesDev (.topk c v) s (fun d =>
      Wrote d1 d c v r [⟨(d1.vtGet c v).topk.length, true, (d1.vtGet c v).tkPoison⟩] ∧ (d.vtGet c v).topk = (d1.vtGet c v).topk)) ∧
    (bitsOf r.iw 29 2 = 3 → GivesDev (.topk c v) s (fun d => Wrote d1 d c v r [] ∧ (d.vtGet c v).topk = [] ∧ (d.vtGet c v).idx = 0 ∧
      d.rd (Pg.vtile c v) Reg.VTILE.TOPK_N = 0))) ∧
  (∀ (c : Fin 32) (v : Fin 2) (s : State) (dom : Nat) (d1 : Dev) (r : Run) (tok : Item), LastTakes s.dev c v dom 0x0D (planSel c v) d1 r →
    r.fromSrc 0 = [tok] → tok.valid = true → tokKind tok.data.toNat = 0 →
    (∀ x ∈ r.fromSrc 1 ++ r.fromSrc 2, x.valid = true ∧ x.seq.toNat = bitsOf tok.data.toNat 12 2) →
    GivesDev (.sel c v) s (fun d => Wrote d1 d c v r ((if bitAt tok.data.toNat 0 then r.fromSrc 2 else r.fromSrc 1).map
      (fun x => (⟨x.data.toNat, true, x.poison || tok.poison⟩ : Slot))))) ∧
  (∀ (c : Fin 32) (v : Fin 2) (s : State) (dom : Nat) (d1 : Dev) (r : Run) (x : Item) (w1 : Nat), LastTakes s.dev c v dom 0x0E (planTok c v) d1 r →
    w1 = (d1.vDescOf c v r.iw).w1 → vSA r.iw / 8 = 2 → bitAt w1 32 = false → bitAt w1 33 = false → r.items = [x] → x.valid = true →
    GivesDev (.tok c v) s (fun d => Wrote d1 d c v r
      [⟨if sextN (bitsOf w1 0 32) 32 < sextN (bitsOf x.data.toNat 0 32) 32 then 1 else 0, true, x.poison⟩])) ∧
  (∀ (c : Fin 32) (v : Fin 2) (s : State) (dom : Nat) (d1 : Dev) (r : Run), LastTakes s.dev c v dom 0x0F (planCcv c v) d1 r →
    GivesDev (.ccv c v) s (fun d => Wrote d1 d c v r (d1.ccvResult s.scr c v dom r).slots)) ∧
  (∀ (c : Fin 32) (v : Fin 2) (s : State) (dom : Nat) (d1 : Dev) (r : Run), LastTakes s.dev c v dom 0x10 (planBgm c v) d1 r →
    GivesDev (.bgm c v) s (fun d => Wrote d1 d c v r (d1.bgmResult c v dom r).slots)) ∧
  (∀ (c : Fin 32) (v : Fin 2) (s : State) (dom : Nat) (d1 : Dev) (r : Run), LastTakes s.dev c v dom 0x11 (planTrk c v) d1 r →
    (∀ x ∈ r.items, x.valid = true) → r.segs.length = 2 →
    GivesDev (.trk c v) s (fun d => Wrote d1 d c v r (List.zipWith (fun a b =>
      (⟨trackStep (d1.vDescOf c v r.iw).w1 a.data.toNat b.data.toNat, true, a.poison || b.poison⟩ : Slot)) (r.fromSrc 0) (r.fromSrc 1))))

/-- SST stores its flits in consecutive scratch entries and changes no other byte; SLD writes entries of the scratch to its slots; EMIT of
a flit output puts the slot that EP names, PHOLD a placeholder, each where its credits and room allow; DROP takes one item and writes
nothing (R175, R176, R198). -/
def Obligations.VectorTileMoves : Prop :=
  (∀ (c : Fin 32) (v : Fin 2) (s : State) (dom e0 : Nat) (d1 : Dev) (r : Run), LastTakes s.dev c v dom 0x13 (planSst c v) d1 r →
    e0 = bitsOf r.iw 13 11 → (∀ x ∈ r.items, x.valid = true) →
    Gives (.sst c v) s (fun t => (∀ i < r.items.length, ∀ k < 32, Memory.read t.scr (scrAddr c v (e0 + i) + k) 0 =
        (leBytes 32 (r.items.getD i Item.zero).data.toNat).getD k 0) ∧
      (∀ a, (a < scrAddr c v e0 ∨ scrAddr c v (e0 + r.items.length) ≤ a) → Memory.read t.scr a 0 = Memory.read s.scr a 0) ∧
      t.wmem = s.wmem ∧ t.flash = s.flash ∧ t.pending = s.pending ∧ (t.dev.vtGet c v).sq.runs = [])) ∧
  (∀ (c : Fin 32) (v : Fin 2) (s : State) (dom : Nat) (d1 : Dev) (r : Run), LastTakes s.dev c v dom 0x14 (planSld c v) d1 r →
    GivesDev (.sld c v) s (fun d => Wrote d1 d c v r ((d1.scrReads s.scr c v dom (bitsOf r.iw 13 11) (vNF r.iw)).1.map
      (fun x => (⟨x.1, true, x.2⟩ : Slot))))) ∧
  (∀ (c : Fin 32) (v : Fin 2) (s : State) (dom iw p b len ep : Nat) (sl : Slot), AtStep s.dev c (10 + v) dom iw → bitsOf iw 58 6 = 0x15 →
    bitsOf iw 0 13 = 0 → vUnused iw false false false false false false = false → p = bitsOf iw 29 2 → p < 2 → b = bitsOf iw 19 6 →
    len = bitsOf iw 13 6 + 1 → b + len ≤ 64 → ep = s.dev.vEp c v p % len → sl = Tab.get (s.dev.vtGet c v).slots (b + ep) Slot.zero →
    0 < Tab.get (s.dev.vtGet c v).slotAt (b + ep) 0 → Tab.get (s.dev.vtGet c v).slotAt (b + ep) 0 < s.dev.dcyc dom →
    (∀ i < 4, s.dev.upsetAt (Upset.slot c v (4 * (b + ep) + i)) = 0) → s.dev.creditOk c (10 + v) (bitsOf iw 25 4) 1 = true →
    (Tab.get s.dev.fab.outp (outKey c (10 + v) p) []).length < 4 → s.dev.flag (Pg.vtile c v) Reg.VTILE.SQ_EN (bitsOf iw 25 4) = false →
    GivesDev (.vEmit c v) s (fun d => Stepped s.dev d c (10 + v) dom 1 ∧
      d.fab = { s.dev.fab with outp := Tab.set s.dev.fab.outp (outKey c (10 + v) p) (Tab.get s.dev.fab.outp (outKey c (10 + v) p) [] ++
        [⟨⟨BitVec.ofNat 256 sl.data, sl.valid, sl.poison, 0, 0, false⟩, s.dev.cycle + s.dev.vLat dom 15, false⟩]) [] } ∧
      d.vEp c v p = (ep + 1) % len)) ∧
  (∀ (c : Fin 32) (v : Fin 2) (s : State) (dom iw p : Nat), AtStep s.dev c (10 + v) dom iw → bitsOf iw 58 6 = 0x16 →
    bitsOf iw 0 25 = 0 → vUnused iw false false false false false false = false → p = bitsOf iw 29 2 → p < 2 →
    s.dev.creditOk c (10 + v) (bitsOf iw 25 4) 1 = true → (Tab.get s.dev.fab.outp (outKey c (10 + v) p) []).length < 4 →
    s.dev.flag (Pg.vtile c v) Reg.VTILE.SQ_EN (bitsOf iw 25 4) = false →
    GivesDev (.vPhold c v) s (fun d => Stepped s.dev d c (10 + v) dom 1 ∧
      d.fab = { s.dev.fab with outp := Tab.set s.dev.fab.outp (outKey c (10 + v) p) (Tab.get s.dev.fab.outp (outKey c (10 + v) p) [] ++
        [⟨Item.placeholder, s.dev.cycle + s.dev.vLat dom 15, false⟩]) [] })) ∧
  (∀ (c : Fin 32) (v : Fin 2) (s : State) (dom iw q : Nat) (x : Item) (rest : List Item), AtStep s.dev c (10 + v) dom iw →
    bitsOf iw 58 6 = 0x17 → bitsOf iw 0 31 = 0 → vUnused iw false true false false false false = false →
    s.dev.queueAtHead c (inPort (10 + v) (vSA iw / 8)) (vSA iw % 8) = some q → s.dev.qHead q = x :: rest →
    Tab.get (s.dev.vtGet c v).sq.portUse (vSA iw / 8) 0 ≠ s.dev.cycle + 1 →
    GivesDev (.vDrop c v) s (fun d => d.rd (Pg.vtile c v) Reg.VTILE.PC =
        (s.dev.rd (Pg.vtile c v) Reg.VTILE.PC + 1) % (s.dev.rd (Pg.vtile c v) Reg.VTILE.PROG_LEN_M1 + 1) ∧
      (d.vtGet c v).sq.runs = [] ∧ d.qHead q = rest ∧ (d.vtGet c v).slots = (s.dev.vtGet c v).slots))

/-! ### Packets at a core's bulk port and at the host port (R87, R135, R217, R282) -/

/-- B_TILE_WRITE of one flit within the bulk range, when port 3 is free, stores its 32 bytes at the address of the header and changes no
other byte of any B tile; a longer packet goes on in later cycles, and one that finds port 3 in use begins with a later cycle; a
misaligned packet stores nothing. READ_REQUEST of one flit answers it and changes no byte. While a packet is served the next one waits
(R207, R211, R212, R217). -/
def Obligations.BulkPacketsAccessTiles : Prop :=
  (∀ (c : Fin 32) (s : State) (h b : Nat) (x : Item) (d1 d2 : Dev), s.dev.popPacket c 0 = some (h, [x], d1) → b = Hdr.target h % 4 →
    Hdr.addr h % 32 = 0 → bitAt (Hdr.target h) 2 = false → s.dev.bulkFree c b = true →
    d2 = Serving d1 c ⟨0, h, 0, b, Hdr.addr h, [x], [], 1, false⟩ → BulkAlone d2 c b (Hdr.addr h / 8) →
    s.dev.bBulkOk c b (Hdr.addr h / 8) 4 true = true →
    GivesDev (.bTileWrite c) s (fun d => Tab.get d.mem.bulk c none = none ∧ d.qs = s.dev.qs ∧
      (∀ k < 32, Memory.read d.mem.bmem (bBase c b + Hdr.addr h + k) 0 = (leBytes 32 x.data.toNat).getD k 0) ∧
      (∀ a, (a < bBase c b + Hdr.addr h ∨ bBase c b + Hdr.addr h + 32 ≤ a) →
        Memory.read d.mem.bmem a 0 = Memory.read s.dev.mem.bmem a 0))) ∧
  (∀ (c : Fin 32) (s : State) (h b : Nat) (x y : Item) (rest : List Item) (d1 d2 : Dev), s.dev.popPacket c 0 = some (h, x :: y :: rest, d1) →
    b = Hdr.target h % 4 → Hdr.addr h % 32 = 0 → s.dev.bulkFree c b = true →
    d2 = Serving d1 c ⟨0, h, 0, b, Hdr.addr h, x :: y :: rest, [], rest.length + 2, false⟩ → BulkAlone d2 c b (Hdr.addr h / 8) →
    s.dev.bBulkOk c b (Hdr.addr h / 8) 4 true = true →
    GivesDev (.bTileWrite c) s (fun d =>
      Tab.get d.mem.bulk c none = some ⟨0, h, 0, b, Hdr.addr h + 32, y :: rest, [], rest.length + 1, false⟩ ∧
      (∀ k < 32, Memory.read d.mem.bmem (bBase c b + Hdr.addr h + k) 0 = (leBytes 32 x.data.toNat).getD k 0) ∧
      (∀ a, (a < bBase c b + Hdr.addr h ∨ bBase c b + Hdr.addr h + 32 ≤ a) →
        Memory.read d.mem.bmem a 0 = Memory.read s.dev.mem.bmem a 0))) ∧
  (∀ (c : Fin 32) (s : State) (h b : Nat) (x : Item) (payload : List Item) (d1 : Dev),
    s.dev.popPacket c 0 = some (h, x :: payload, d1) → b = Hdr.target h % 4 → Hdr.addr h % 32 = 0 → s.dev.bulkFree c b = true →
    s.dev.bUsed (4 * c + b) 3 = true →
    GivesDev (.bTileWrite c) s (fun d => d = Serving d1 c ⟨0, h, 0, b, Hdr.addr h, x :: payload, [], payload.length + 1, false⟩)) ∧
  (∀ (c : Fin 32) (s : State) (h b : Nat) (payload : List Item) (d1 : Dev), s.dev.popPacket c 0 = some (h, payload, d1) →
    b = Hdr.target h % 4 → s.dev.bulkFree c b = true → Hdr.addr h % 32 ≠ 0 →
    GivesDev (.bTileWrite c) s (fun d => d.mem = s.dev.mem ∧ bitAt (d.rd (Pg.btile c b) Reg.HDR.FLT_STAT) 3 = true)) ∧
  (∀ (c : Fin 32) (s : State) (h b : Nat) (payload : List Item) (d1 : Dev), s.dev.popPacket c 0 = some (h, payload, d1) →
    b = Hdr.target h % 4 → (Tab.get s.dev.mem.bulk c none).isSome = true →
    GivesDev (.bTileWrite c) s (fun d => d = s.dev)) ∧
  (∀ (c : Fin 32) (s : State) (h b v : Nat) (p : Bool) (payload : List Item) (d1 d2 d3 : Dev),
    s.dev.popPacket c 3 = some (h, payload, d1) → b = Hdr.target h % 4 → Hdr.addr h % 32 = 0 → bitsOf (Hdr.target h) 6 10 = 0 →
    s.dev.bulkFree c b = true → d2 = Serving d1 c ⟨3, h, 0, b, Hdr.addr h, [], [], 1, false⟩ →
    BulkAlone d2 c b (Hdr.addr h / 8) → s.dev.bBulkOk c b (Hdr.addr h / 8) 4 false = true →
    (d2.bTake c b 3 (banksOf (Hdr.addr h / 8) 4)).bReadWords c b (Hdr.addr h / 8) 4 .none_ = (v, p, d3) →
    GivesDev (.readRequest c) s (fun d => d.mem.bmem = s.dev.mem.bmem ∧
      d = ((({ d3 with mem := { d3.mem with bulk := Tab.set d3.mem.bulk c none none } } : Dev).sendPacket c (Hdr.srcn h) 4 (Hdr.target h)
        (Hdr.addr h) (Hdr.txid h) (Hdr.cls h) [Item.ofNat v p] none false).2).bulkServed c b))

/-- WEIGHT_STORE_WRITE to a named half of a tile whose domain does not run stores the payload at the header's address of that half and
changes no other byte of any weight store (R135). CONFIGURATION_WRITE at a core stages each entry of its table, and a scratch record of a
V tile whose domain does not run is stored at the header's address of that scratch and nowhere else (R282, R283, R285). -/
def Obligations.StoreWritesLand : Prop :=
  (∀ (c : Fin 32) (s : State) (h : Nat) (payload : List Item) (d1 : Dev) (half : Nat), s.dev.popPacket c 1 = some (h, payload, d1) →
      Hdr.target h % 16 < 10 → bitsOf (Hdr.target h) 4 2 = half + 1 → half < 2 → s.dev.coreDom c = none → Hdr.addr h % 32 = 0 →
      Hdr.addr h + 32 * payload.length ≤ 49152 →
      Gives (.weightStoreWrite c) s (fun t =>
        t.wmem = Memory.writeList s.wmem (((10 * c.val + Hdr.target h % 16) * 2 + half) * 49152 + Hdr.addr h) (payloadBytes payload) 0 ∧
        t.scr = s.scr ∧ t.flash = s.flash ∧ t.pending = s.pending ∧ t.dev.mem = s.dev.mem ∧ t.dev.qs = s.dev.qs ∧
        (∀ a, (a < ((10 * c.val + Hdr.target h % 16) * 2 + half) * 49152 + Hdr.addr h ∨
            ((10 * c.val + Hdr.target h % 16) * 2 + half) * 49152 + Hdr.addr h + 32 * payload.length ≤ a) →
          Memory.read t.wmem a 0 = Memory.read s.wmem a 0))) ∧
  (∀ (n : Fin 64) (s : State) (h : Nat) (payload : List Item) (d1 : Dev), n.val < 32 → s.dev.popPacket n 6 = some (h, payload, d1) →
    bitsOf (Hdr.target h) 4 4 ≠ 4 →
    Gives (.configurationWrite n) s (fun t => t.scr = s.scr ∧ t.wmem = s.wmem ∧ t.flash = s.flash ∧ t.dev = d1.cfgCore n h payload)) ∧
  (∀ (n : Fin 64) (s : State) (h : Nat) (payload : List Item) (d1 : Dev) (v : Nat), n.val < 32 →
    s.dev.popPacket n 6 = some (h, payload, d1) → Hdr.target h % 16 = 10 + v → v < 2 → bitsOf (Hdr.target h) 4 4 = 4 →
    d1.coreDom n = none → Hdr.addr h % 32 = 0 → Hdr.addr h + 32 * payload.length ≤ 65536 →
    Gives (.configurationWrite n) s (fun t =>
      t.scr = Memory.writeList s.scr ((2 * n.val + v) * 65536 + Hdr.addr h) (payloadBytes payload) 0 ∧ t.wmem = s.wmem ∧
      t.dev.mem = d1.mem ∧ t.dev.qs = d1.qs)) ∧
  (∀ (n : Fin 64) (s : State) (h : Nat) (payload : List Item) (d1 : Dev), n.val = 44 → s.dev.popPacket n 6 = some (h, payload, d1) →
    GivesDev (.configurationWrite n) s (fun d => d = d1.cfgHost h payload))

/-- QUEUE_PUSH of one flit puts it at the end of the body of the queue that its header names, which has room, when port 3 is free; at a
full queue it is discarded with Q_OVERRUN; a queue that is not enabled takes nothing. READ_RESPONSE ends the aperture access that waits
for it; WRITE_ACKNOWLEDGEMENT ends what waits for its transaction at a core, a fetch engine or the loader (R87, R106, R217, R360).
SPILL_SEND reads SPKT items of a spill body, the first of them at once when port 3 is free, and a packet of one item is sent and counted
as sent; SPILL_PACKET gives a live SPILL stream the packet to store; SPILL_ACK acknowledges the oldest packet once all of it is stored
(R237, R245, R249). -/
def Obligations.AnswersAndSpillsMove : Prop :=
  (∀ (n : Fin 64) (s : State) (h q : Nat) (x : Item) (d1 d2 : Dev), n.val < 32 → s.dev.popPacket n 2 = some (h, [x], d1) →
    q = 1920 * n.val + Hdr.target h % 2048 → Hdr.target h % 2048 < 1920 → s.dev.qEn q = true → s.dev.qSize q ≠ 0 → s.dev.qNet q = 0 →
    s.dev.qMode q = 0 → s.dev.qFull q = false → s.dev.bodyRoom q = true → s.dev.bulkFree n (s.dev.qTile q) = true →
    d2 = Serving d1 n ⟨2, h, q, s.dev.qTile q, 0, [{ x with fsb := false }], [], 1, false⟩ →
    BulkAlone d2 n (s.dev.qTile q) (s.dev.bodyWord q) →
    GivesDev (.queuePush n) s (fun d => d.qBody q = s.dev.qBody q ++ [⟨q, { x with data := 0, fsb := false }, s.dev.cycle + 1⟩] ∧
      d.rd (Pg.queue q) Reg.FQ.COUNT = (s.dev.rd (Pg.queue q) Reg.FQ.COUNT + 1) % 2 ^ Reg.FQ.COUNT.w ∧
      Tab.get d.mem.bulk n none = none)) ∧
  (∀ (n : Fin 64) (s : State) (h q : Nat) (x : Item) (d1 : Dev), n.val < 32 → s.dev.popPacket n 2 = some (h, [x], d1) →
    q = 1920 * n.val + Hdr.target h % 2048 → Hdr.target h % 2048 < 1920 → s.dev.qEn q = true → s.dev.qSize q ≠ 0 →
    s.dev.qFull q = true → s.dev.bulkFree n (s.dev.qTile q) = true →
    GivesDev (.queuePush n) s (fun d => d.qs.body = s.dev.qs.body ∧ bitAt (d.rd (Pg.qeng n) Reg.HDR.FLT_STAT) 0 = true)) ∧
  (∀ (n : Fin 64) (s : State) (h q : Nat) (payload : List Item) (d1 : Dev), n.val < 32 → s.dev.popPacket n 2 = some (h, payload, d1) →
    q = 1920 * n.val + Hdr.target h % 2048 → (1920 ≤ Hdr.target h % 2048 ∨ s.dev.qEn q = false) →
    GivesDev (.queuePush n) s (fun d => d.qs = s.dev.qs ∧ bitAt (d.rd (Pg.qeng n) Reg.HDR.FLT_STAT) 3 = true)) ∧
  (∀ (n : Fin 64) (s : State) (h : Nat) (payload : List Item) (d1 : Dev) (a : AperReq) (rest : List AperReq), n.val = 44 →
    s.dev.popPacket n 4 = some (h, payload, d1) → s.dev.hp.aper = a :: rest → a.tx = some (Hdr.txid h) →
    GivesDev (.readResponse n) s (fun d => d = (d1.owedDone 44 (Hdr.srcn h)).aperResponse a rest payload (Hdr.psum h))) ∧
  (∀ (n : Fin 64) (s : State) (h : Nat) (payload : List Item) (d1 : Dev) (e : Nat × Nat), n.val = 44 →
    s.dev.popPacket n 5 = some (h, payload, d1) → s.dev.hp.ldrTx.find? (fun e => e.1 == Hdr.txid h) = some e →
    GivesDev (.writeAcknowledgement n) s (fun d => d = { d1.owedDone 44 (Hdr.srcn h) with hp := d.hp } ∧
      d.hp.ldrTx = s.dev.hp.ldrTx.erase e ∧
      d.hp.refused = if Hdr.psum h then (e.2, s.dev.recordOff (Hdr.txid h)) :: s.dev.hp.refused else s.dev.hp.refused)) ∧
  (∀ (n : Fin 64) (s : State) (h : Nat) (payload : List Item) (d1 : Dev), n.val < 32 → s.dev.popPacket n 5 = some (h, payload, d1) →
    GivesDev (.writeAcknowledgement n) s (fun d => d = (d1.owedDone n (Hdr.srcn h)).spillFreed n (Hdr.txid h))) ∧
  (∀ (n : Fin 64) (s : State) (h : Nat) (payload : List Item) (d1 : Dev), 32 ≤ n.val → n.val < 40 →
    s.dev.popPacket n 5 = some (h, payload, d1) →
    GivesDev (.writeAcknowledgement n) s (fun d => d = (d1.owedDone n (Hdr.srcn h)).fetchAck (n.val - 32) (Hdr.txid h))) ∧
  (∀ (c : Fin 32) (b : Fin 4) (i : Fin 16) (s : State) (a q n k : Nat) (d1 : Dev), a = s.dev.bmdAt c b i false →
    q = 1920 * c.val + s.dev.rd a Reg.BMD.QUEUE → s.dev.rd a Reg.BMD.MODE = 4 → s.dev.qEn q = true → s.dev.running (s.dev.qDom q) = true →
    s.dev.qTile q = b.val → s.dev.fenced c = false → s.dev.bulkFree c b = true → n = bitsOf (s.dev.rd a Reg.BMD.MODEARG) 6 6 + 1 →
    n ≤ ((s.dev.qBody q).filter (fun x => decide (x.at_ ≤ s.dev.cycle))).length → k = s.dev.bodyIndex q 0 →
    d1 = Serving s.dev c ⟨5, bitsOf (s.dev.rd a Reg.BMD.MODEARG) 0 6, q, b, k, [], [], n, false⟩ →
    BulkAlone d1 c b ((s.dev.bodyAddr q k).1 / 32 * 4) →
    GivesDev (.spillSend c b i) s (fun d =>
      (n = 1 → Tab.get d.qs.spSent q 0 = Tab.get s.dev.qs.spSent q 0 + 1 ∧ d.qBody q = (s.dev.qBody q).drop 1) ∧
      (1 < n → d.qBody q = s.dev.qBody q ∧ ∃ x : Item, Tab.get d.mem.bulk c none =
        some ⟨5, bitsOf (s.dev.rd a Reg.BMD.MODEARG) 0 6, q, b, k + 1, [], [x], n - 1, false⟩))) ∧
  (∀ (f : Fin 8) (s : State) (h : Nat) (payload : List Item) (d1 : Dev), s.dev.popPacket (32 + f) 0 = some (h, payload, d1) →
    Hdr.target h < 64 → s.dev.sd f (Hdr.target h) Reg.SDESC.KIND = 6 → s.dev.stLive f (Hdr.target h) = true →
    s.dev.passDue f (Hdr.target h) ((Hdr.addr h + payload.length - 1) / max 1 (s.dev.passItems f (Hdr.target h))) = true →
    GivesDev (.spillPacket f) s (fun d => d = { d1 with mem := d.mem, regs := d.regs } ∧
      (d.stGet f (Hdr.target h)).spill = (s.dev.stGet f (Hdr.target h)).spill ++ [(h, payload)] ∧
      d.stState f (Hdr.target h) = if s.dev.stState f (Hdr.target h) = 0 then 1 else s.dev.stState f (Hdr.target h))) ∧
  (∀ (f : Fin 8) (st : Fin 64) (s : State) (h : Nat) (payload : List Item) (rest : List (Nat × List Item)),
    (s.dev.stGet f st).spill = (h, payload) :: rest → (s.dev.stGet f st).wq = [] →
    s.dev.mem.reqs.any (fun r => r.f == f.val && r.st == st.val && r.write && !r.done) = false →
    GivesDev (.spillAck f st) s (fun d => (d.stGet f st).spill = rest ∧
      (d.stGet f st).spDone = max (s.dev.stGet f st).spDone (Hdr.addr h + payload.length) ∧
      (rest = [] → d.stState f st = 0)))

/-! ### Fetch engines (R242 to R258) -/

/-- A request of a fetch engine carries its stream's EPOCH at issue. A return whose epoch differs from the stream's EPOCH frees its tag,
is counted in DISCARD_CNT and delivers nothing: no queue changes and the stream has no data that it had not before (R255). -/
def Obligations.StaleReturnsAreDiscarded : Prop :=
  (∀ (f : Fin 8) (s : State) (st : Nat) (rest : List Nat) (va i o pa : Nat) (d1 : Dev), (s.dev.mem.used.filter (· == 32 + f.val)).length < 2 →
    s.dev.flag (Pg.fetch f) Reg.HDR.QUIESCE = false → (∀ k < 64, (s.dev.stGet f k).rets = []) →
    s.dev.rrOrder f 1 = st :: rest → s.dev.stLive f st = true → s.dev.sd f st Reg.SDESC.KIND ≠ 5 →
    s.dev.sd f st Reg.SDESC.KIND ≠ 6 → s.dev.nextRead f st = some (va, i, o) → s.dev.translate f st va false = (some pa, d1) →
    d1.tagRoom (d1.paPort (pa / 64 * 64)) 1 = true →
    GivesDev (.fetchIssue f) s (fun d => ∃ r : MemReq, d.mem.reqs = s.dev.mem.reqs ++ [r] ∧ r.f = f.val ∧ r.st = st ∧
      r.epoch = s.dev.rd (Pg.fetch f) Reg.FETCH.EPOCH st ∧ r.epoch < 256 ∧ r.pa = pa / 64 * 64 ∧ r.va = va / 64 * 64 ∧ r.len = 64 ∧
      r.write = false ∧ r.done = false ∧ r.port = d1.paPort (pa / 64 * 64))) ∧
  (∀ (f : Fin 8) (tag : Fin 2048) (host : HostRead) (s : State) (r : MemReq), (s.dev.mem.used.filter (· == 8 + f.val)).length < 2 →
    tag.val < 1024 → s.dev.reqAt (tag.val / 256) (tag.val % 256) = some r → r.f = f.val → r.done = true →
    r.epoch ≠ s.dev.rd (Pg.fetch f) Reg.FETCH.EPOCH r.st → r.st < 64 →
    GivesDev (.fetchReturn f tag host) s (fun d => d.mem.reqs = s.dev.mem.reqs.erase r ∧ d.qs = s.dev.qs ∧
      d.rd (Pg.fetch f) Reg.FETCH.DISCARD_CNT =
        min (s.dev.rd (Pg.fetch f) Reg.FETCH.DISCARD_CNT + 1) (2 ^ Reg.FETCH.DISCARD_CNT.w - 1) ∧
      (∀ e ∈ (d.stGet f r.st).rets, e ∈ (s.dev.stGet f r.st).rets)))

/-- A return of the current epoch goes to its stream with the data of the memory port, or with what the host returned, a missing byte
poisoned; TAG_TIMEOUT of a read after 2 us delivers zeros with POISON, and its later return is known as late (R255, R258). CANCEL moves
EPOCH on by 1 modulo 256 and forgets the stream's work, its packets under way are cut: with no tag outstanding the stream is idle at once,
with older tags outstanding it drains, and a cancel that would reach an outstanding epoch waits. CANCEL_COMPLETE of a drained stream makes
it idle and signals its sync object (R256, R257). -/
def Obligations.ReturnsAndCancels : Prop :=
  (∀ (f : Fin 8) (tag : Fin 2048) (host : HostRead) (s : State) (r : MemReq), (s.dev.mem.used.filter (· == 8 + f.val)).length < 2 →
    tag.val < 1024 → s.dev.reqAt (tag.val / 256) (tag.val % 256) = some r → r.f = f.val → r.done = true → r.write = false → r.cls ≠ 1 →
    r.epoch = s.dev.rd (Pg.fetch f) Reg.FETCH.EPOCH r.st →
    GivesDev (.fetchReturn f tag host) s (fun d =>
      d = ((({ s.dev with mem := { s.dev.mem with used := (8 + f.val) :: s.dev.mem.used } } : Dev).dropReq r).tagFreed f r.st).acceptReturn
        r r.rdata r.rpoison)) ∧
  (∀ (p : Fin 4) (tag : Fin 256) (s : State) (r : MemReq), s.dev.reqAt p tag = some r → r.at_ + 800 ≤ s.dev.cycle → r.f < 8 →
    r.write = false → r.epoch = s.dev.rd (Pg.fetch r.f) Reg.FETCH.EPOCH r.st →
    GivesDev (.tagTimeout p tag) s (fun d =>
      let d1 := ((s.dev.dropReq r).bump (Pg.fetch r.f) Reg.FETCH.TIMEOUT_CNT).raise (Pg.fetch r.f) 5 (.dom r.dom)
      d = (({ d1 with mem := { d1.mem with late := r :: d1.mem.late } } : Dev).tagFreed r.f r.st).acceptReturn r
        (List.replicate 64 0) (List.replicate 64 true))) ∧
  (∀ (p : Fin 4) (tag : Fin 256) (s : State) (r : MemReq), s.dev.reqAt p tag = some r → r.at_ + 800 ≤ s.dev.cycle → r.f < 8 →
    r.st < 64 → r.epoch ≠ s.dev.rd (Pg.fetch r.f) Reg.FETCH.EPOCH r.st →
    GivesDev (.tagTimeout p tag) s (fun d => d.mem.reqs = s.dev.mem.reqs.erase r ∧ d.mem.late = r :: s.dev.mem.late ∧
      bitAt (d.rd (Pg.fetch r.f) Reg.HDR.FLT_STAT) 5 = true ∧ d.qs = s.dev.qs)) ∧
  (∀ (p : Fin 4) (tag : Fin 256) (s : State) (r : MemReq), s.dev.reqAt p tag = some r → r.at_ + 800 ≤ s.dev.cycle → r.f = 8 →
    r.write = false →
    GivesDev (.tagTimeout p tag) s (fun d => d = s.dev.aperReturn r (List.replicate r.len 0) true)) ∧
  (∀ (f : Fin 8) (st : Fin 64) (s : State), s.dev.mem.reqs.all (fun r => !(r.f == f.val && r.st == st.val)) = true →
    s.dev.flag (Pg.fetch f) Reg.FETCH.CSYNC_EN st = false →
    GivesDev (.cancel f st) s (fun d => d = { s.dev.cutPackets (fkey f st + 1) with mem := d.mem, regs := d.regs } ∧
      d.rd (Pg.fetch f) Reg.FETCH.EPOCH st = (s.dev.rd (Pg.fetch f) Reg.FETCH.EPOCH st + 1) % 256 ∧ d.stState f st = 0 ∧
      d.stGet f st = { (s.dev.stGet f st).cancelled with csyncDue := false })) ∧
  (∀ (f : Fin 8) (st : Fin 64) (s : State) (r : MemReq), r ∈ s.dev.mem.reqs → r.f = f.val → r.st = st.val →
    (∀ x ∈ s.dev.mem.reqs, x.f = f.val → x.st = st.val → x.epoch ≠ (s.dev.rd (Pg.fetch f) Reg.FETCH.EPOCH st + 1) % 256) →
    GivesDev (.cancel f st) s (fun d => d = { s.dev.cutPackets (fkey f st + 1) with mem := d.mem, regs := d.regs } ∧
      d.rd (Pg.fetch f) Reg.FETCH.EPOCH st = (s.dev.rd (Pg.fetch f) Reg.FETCH.EPOCH st + 1) % 256 ∧ d.stState f st = 4 ∧
      d.stGet f st = (s.dev.stGet f st).cancelled)) ∧
  (∀ (f : Fin 8) (st : Fin 64) (s : State), s.dev.mem.reqs.any (fun r => r.f == f.val && r.st == st.val &&
      r.epoch == (s.dev.rd (Pg.fetch f) Reg.FETCH.EPOCH st + 1) % 256) = true →
    GivesDev (.cancel f st) s (fun d => d = s.dev.stSet f st { s.dev.stGet f st with cancelWait := true })) ∧
  (∀ (f : Fin 8) (st : Fin 64) (s : State), s.dev.stState f st = 4 → s.dev.staleCount f st = 0 → (s.dev.stGet f st).csyncDue = true →
    (s.dev.stGet f st).again = false → s.dev.flag (Pg.fetch f) Reg.FETCH.CSYNC_EN st = true →
    GivesDev (.cancelComplete f st) s (fun d => d = ((s.dev.stSet f st { s.dev.stGet f st with csyncDue := false }).setStState f st 0).signal
      (s.dev.rd (Pg.fetch f) Reg.FETCH.CSYNC st) 1))

/-- PASS_START begins the pass of an idle live stream; GATHER_REQUEST takes a request of two words and serves it, a null box giving four
placeholders; PREFETCH_DONE ends a PREFETCH whose records are all acknowledged (R245, R248, R250). WALK_DONE gives a stream its
translation and lets it go on, or suspends it and captures the first failure; RESOLVE_RETRY walks again; RESOLVE_CANCEL and an expired
XLATE_WAIT cancel the suspended stream (R271, R273). -/
def Obligations.StreamsBeginAndWalk : Prop :=
  (∀ (f : Fin 8) (st : Fin 64) (s : State), s.dev.stState f st = 0 → s.dev.stLive f st = true → s.dev.sd f st Reg.SDESC.KIND = 1 →
    s.dev.flag (Pg.sdesc f st) Reg.SDESC.AFTEN = false →
    GivesDev (.passStart f st) s (fun d => d = { s.dev with regs := d.regs } ∧ d.stState f st = 1)) ∧
  (∀ (f : Fin 8) (st : Fin 64) (s : State), s.dev.flag (Pg.sdesc f st) Reg.SDESC.AFTEN = true →
    (s.dev.stGet f (s.dev.sd f st Reg.SDESC.AFTER)).passDone ≤ (s.dev.stGet f st).pass →
    GivesDev (.passStart f st) s (fun d => d = s.dev)) ∧
  (∀ (f : Fin 8) (st : Fin 64) (s : State) (x0 x1 : Item) (d1 d2 : Dev), s.dev.stLive f st = true → s.dev.sd f st Reg.SDESC.KIND = 4 →
    s.dev.stState f st = 0 → (s.dev.stGet f st).gath = [] → 2 ≤ s.dev.bqVisible (fbq f (s.dev.sd f st Reg.SDESC.BQ)) →
    s.dev.itemRoom f st 0 = true → s.dev.bqPop (fbq f (s.dev.sd f st Reg.SDESC.BQ)) = (x0, d1) →
    d1.bqPop (fbq f (s.dev.sd f st Reg.SDESC.BQ)) = (x1, d2) →
    (bitAt (x0.data.toNat % 2 ^ 32) 31 = true → GivesDev (.gatherRequest f st) s (fun d =>
      d = (List.replicate 4 Item.placeholder).foldl (fun (d : Dev) x => d.bqPush (fbq f (s.dev.sd f st Reg.SDESC.BQ) + 1) x) d2)) ∧
    (∀ (b fs ch fw fh : Nat), bitAt (x0.data.toNat % 2 ^ 32) 31 = false →
      d2.gslot f (x0.data.toNat % 2 ^ 32) = some (b, fs, ch, fw, fh) →
      bitsOf (x0.data.toNat % 2 ^ 32) 12 12 < ch → bitsOf (x0.data.toNat % 2 ^ 32) 0 12 + 1 < fh →
      GivesDev (.gatherRequest f st) s (fun d =>
        (d.stGet f st).gath = [x0.data.toNat % 2 ^ 32, x1.data.toNat % 2 ^ 32] ∧ (d.stGet f st).pos = 0 ∧ d.stState f st = 1))) ∧
  (∀ (f : Fin 8) (st : Fin 64) (s : State), s.dev.sd f st Reg.SDESC.KIND = 7 → s.dev.stState f st = 1 → (s.dev.stGet f st).ended = true →
    (s.dev.stGet f st).ackTx = [] →
    GivesDev (.prefetchDone f st) s (fun d => d = { s.dev with mem := d.mem, regs := d.regs } ∧ d.stState f st = 5 ∧
      d.stGet f st = { s.dev.stGet f st with started := false })) ∧
  (∀ (f : Fin 8) (st : Fin 64) (hs rest : List HostPte) (s : State) (e : TlbEnt) (d0 : Dev), s.dev.stState f st = 2 →
    s.dev.sd f st Reg.SDESC.KIND = 1 →
    s.dev.walk (s.dev.sd f st Reg.SDESC.AS) (s.dev.stGet f st).walkVa 0 hs
      (if s.dev.sd f st Reg.SDESC.CLS = 3 then .none_ else .dom (s.dev.sd f st Reg.SDESC.DOM)) = (.ok e, rest, d0) →
    GivesDev (.walkDone f st hs) s (fun d => d.stState f st = 1 ∧
      (d.stGet f st).xl = some ((s.dev.stGet f st).walkVa / 4096 * 4096,
        (e.pa + (s.dev.stGet f st).walkVa % 2 ^ e.lg) / 4096 * 4096))) ∧
  (∀ (f : Fin 8) (st : Fin 64) (hs rest : List HostPte) (s : State) (kind level : Nat) (d0 : Dev), s.dev.stState f st = 2 →
    s.dev.sd f st Reg.SDESC.KIND = 1 →
    s.dev.walk (s.dev.sd f st Reg.SDESC.AS) (s.dev.stGet f st).walkVa 0 hs
      (if s.dev.sd f st Reg.SDESC.CLS = 3 then .none_ else .dom (s.dev.sd f st Reg.SDESC.DOM)) = (.fail kind level, rest, d0) →
    GivesDev (.walkDone f st hs) s (fun d => d.stState f st = 3 ∧ (d.stGet f st).suspAt = s.dev.cycle ∧
      d.flag (Pg.fetch f) Reg.FETCH.FLT_VALID = true)) ∧
  (∀ (f : Fin 8) (st : Fin 64) (s : State), s.dev.stState f st = 3 →
    GivesDev (.resolveRetry f st) s (fun d => d = { s.dev with regs := d.regs } ∧ d.stState f st = 2)) ∧
  (∀ (f : Fin 8) (st : Fin 64) (s : State), s.dev.stState f st = 3 →
    GivesDev (.resolveCancel f st) s (fun d => d = s.dev.cancelStream f st)) ∧
  (∀ (f : Fin 8) (st : Fin 64) (s : State), s.dev.stState f st = 3 → 0 < s.dev.rd (Pg.fetch f) Reg.FETCH.XLATE_WAIT →
    s.dev.flt.dealerDown = false →
    (s.dev.stGet f st).suspAt + usCycles (1000 * s.dev.rd (Pg.fetch f) Reg.FETCH.XLATE_WAIT) ≤ s.dev.cycle →
    GivesDev (.xlateWaitExpiry f st) s (fun d => d = s.dev.cancelStream f st))

/-! ### Translation buffers (R272 to R278) -/

/-- INVAL of a range that holds no pinned translation of a running domain removes every translation of the range and is BUSY until
INVAL_COMPLETE, after the walks begun before it have ended; LOCK is BUSY until LOCK_COMPLETE pins its pages; UNLOCK unpins every
translation of its range (R272, R275, R278). -/
def Obligations.TranslationsChange : Prop :=
  (∀ (s : State), s.dev.flag Pg.mmu Reg.MMU.BUSY = false →
    s.dev.mem.shared.filter (fun e => e.pinned && e.overlaps s.dev.opRange.1 s.dev.opRange.2.1 s.dev.opRange.2.2) = [] →
    GivesDev .inval s (fun d => d = { s.dev with mem := d.mem, regs := d.regs } ∧ d.flag Pg.mmu Reg.MMU.BUSY = true ∧
      d.mem.op = 1 ∧ d.mem.opArg = s.dev.opRange ∧
      (∀ e ∈ d.mem.shared, e.overlaps s.dev.opRange.1 s.dev.opRange.2.1 s.dev.opRange.2.2 = false) ∧
      (∀ t ∈ d.mem.tlb, ∀ e ∈ t.2, e.overlaps s.dev.opRange.1 s.dev.opRange.2.1 s.dev.opRange.2.2 = false))) ∧
  (∀ (s : State), s.dev.flag Pg.mmu Reg.MMU.BUSY = false → s.dev.flag Pg.mmu Reg.MMU.FORCE = false →
    s.dev.mem.shared.filter (fun e => e.pinned && e.overlaps s.dev.opRange.1 s.dev.opRange.2.1 s.dev.opRange.2.2) ≠ [] →
    s.dev.asRunning s.dev.opRange.1 = true →
    GivesDev .inval s (fun d => d = { s.dev with flt := d.flt, regs := d.regs } ∧ d.flag Pg.mmu Reg.MMU.REFUSED = true ∧
      bitAt (d.rd Pg.mmu Reg.HDR.FLT_STAT) 1 = true)) ∧
  (∀ (s : State), s.dev.mem.op = 1 → s.dev.mem.opWalks = [] →
    GivesDev .invalComplete s (fun d => d = { s.dev with mem := d.mem, regs := d.regs } ∧ d.flag Pg.mmu Reg.MMU.BUSY = false ∧
      d.mem.op = 0)) ∧
  (∀ (s : State), s.dev.flag Pg.mmu Reg.MMU.BUSY = false →
    GivesDev .lock s (fun d => d = { s.dev with mem := { s.dev.mem with op := 2, opArg := s.dev.opRange }, regs := d.regs } ∧
      d.flag Pg.mmu Reg.MMU.BUSY = true)) ∧
  (∀ (hs : List HostPte) (s : State) (es : List TlbEnt) (rest : List HostPte) (d1 : Dev), s.dev.mem.op = 2 →
    s.dev.lockRange s.dev.mem.opArg.1 s.dev.mem.opArg.2.1 s.dev.mem.opArg.2.2 hs = (none, es, rest, d1) →
    GivesDev (.lockComplete hs) s (fun d => d = { d1 with mem := { d1.mem with op := 0 }, regs := d.regs } ∧
      d.flag Pg.mmu Reg.MMU.BUSY = false)) ∧
  (∀ (s : State), s.dev.flag Pg.mmu Reg.MMU.BUSY = false →
    GivesDev .unlock s (fun d => d = { s.dev with mem := d.mem, regs := d.regs } ∧
      (∀ e ∈ d.mem.shared, e.overlaps s.dev.opRange.1 s.dev.opRange.2.1 s.dev.opRange.2.2 = true → e.pinned = false) ∧
      d.mem.shared.length = s.dev.mem.shared.length))

/-! ### Memory ports (R260 to R268) -/

/-- MEM_ACCESS performs a request once: a read keeps every byte of DDR5 and answers the bytes of the request, and a write changes no byte
outside its 64-byte burst (R252, R260, R261). REFRESH takes the port's slot; DDR_SCRUB, when it is due and has the slot, reads the next
burst, moves its position on and changes no byte; DDR_SCRUB_WRITEBACK writes back the corrected value of each correctable beat of its
burst, with good check bits, and changes no other burst (R262, R268). -/
def Obligations.MemoryPortsServe : Prop :=
  (∀ (p : Fin 4) (tag : Fin 256) (s : State) (r : MemReq), s.dev.reqAt p tag = some r → r.done = false →
    s.dev.mem.used.contains (16 + p.val) = false → s.dev.mayAccess r = true → s.dev.ordered r = true →
    s.dev.flag (Pg.memport p) Reg.HDR.QUIESCE = false → r.pa + r.len ≤ s.dev.ddrCap → r.f < 8 → r.write = false →
    GivesDev (.memAccess p tag) s (fun d => d.mem.ddr = s.dev.mem.ddr ∧ d.mem.used = (16 + p.val) :: s.dev.mem.used ∧
      (∃ bs ps, bs.length = r.len ∧
        d.mem.reqs = s.dev.mem.reqs.map (fun x => if x = r then { x with done := true, rdata := bs, rpoison := ps } else x) ∧
        ((∀ b, Tab.get s.dev.mem.derr b 0 = 0) → bs = (List.range r.len).map (fun k => Memory.read s.dev.mem.ddr (r.pa + k) 0))))) ∧
  (∀ (p : Fin 4) (tag : Fin 256) (s : State) (r : MemReq), s.dev.reqAt p tag = some r → r.done = false →
    s.dev.mem.used.contains (16 + p.val) = false → s.dev.mayAccess r = true → s.dev.ordered r = true →
    s.dev.flag (Pg.memport p) Reg.HDR.QUIESCE = false → r.pa + r.len ≤ s.dev.ddrCap → r.write = true →
    r.wdata.length = r.len → r.pa % 64 + r.len ≤ 64 → (∀ o ∈ r.wdata, o.isSome = true) →
    (∀ b, Tab.get s.dev.mem.derr b 0 = 0) →
    GivesDev (.memAccess p tag) s (fun d =>
      (∀ k < r.len, Memory.read d.mem.ddr (r.pa + k) 0 = ((r.wdata.getD k none).getD 0)) ∧
      (∀ a, (a < r.pa ∨ r.pa + r.len ≤ a) → Memory.read d.mem.ddr a 0 = Memory.read s.dev.mem.ddr a 0))) ∧
  (∀ (p : Fin 4) (s : State), s.dev.mem.used.contains (16 + p.val) = false →
    GivesDev (.refresh p) s (fun d =>
      d = { s.dev with mem := { s.dev.mem with used := (24 + p.val) :: (16 + p.val) :: s.dev.mem.used } })) ∧
  (∀ (p : Fin 4) (s : State), s.dev.ddrScrubTurn p = true →
    Tab.get s.dev.mem.scrubPos p 0 + 64 < s.dev.rd (Pg.memport p) Reg.MEMPORT.CAP * 2 ^ 30 →
    GivesDev (.ddrScrub p) s (fun d => d.mem.ddr = s.dev.mem.ddr ∧
      Tab.get d.mem.scrubPos p 0 = Tab.get s.dev.mem.scrubPos p 0 + 64 ∧
      Tab.get d.mem.scrubAt p 0 = max (Tab.get s.dev.mem.scrubAt p 0 + s.dev.ddrScrubPeriod p) s.dev.cycle)) ∧
  (∀ (p : Fin 4) (s : State) (e : Nat × Nat), s.dev.mem.used.contains (16 + p.val) = false →
    s.dev.mem.scrubWb.find? (fun e => e.1 == p.val) = some e →
    GivesDev (.ddrScrubWriteback p) s (fun d =>
      (∀ i < 16, ∀ (j : Nat) (x : Nat), beatDecode (Tab.get s.dev.mem.derr (16 * e.2 + i) 0) = (.corrected j, x) →
        Tab.get d.mem.derr (16 * e.2 + i) 0 = 0 ∧
        d.ddrRaw (16 * e.2 + i) = Nat.xor (s.dev.ddrRaw (16 * e.2 + i)) x % 2 ^ 32) ∧
      (∀ a, (a < 64 * e.2 ∨ 64 * e.2 + 64 ≤ a) → Memory.read d.mem.ddr a 0 = Memory.read s.dev.mem.ddr a 0)))


/-! ### The BAR4 aperture (R360) -/

/-- An aperture access of DDR5 asks the memory port of its address for its first burst in class C; the port's access to the last burst of a
read answers its bytes, and of a write stores them; an access of a B tile asks its core and waits; a read that waited 1 ms answers zeros
with EP (R29, R253, R260, R360). -/
def Obligations.ApertureAccesses : Prop :=
  (∀ (off : BitVec 36) (len : Fin 513) (s : State) (pa n : Nat), 0 < len.val → off.toNat + len.val ≤ s.dev.hp.cfg.bar4 →
    s.dev.aperSram = false → s.dev.hp.aper = [] → off.toNat < s.dev.aperSplit → pa = s.dev.aperBase + off.toNat → pa < s.dev.ddrCap →
    s.dev.aperRoom (s.dev.ddrPort pa) = true → n = min (64 - pa % 64) (min len.val (s.dev.ddrCap - pa)) →
    GivesDev (.apertureRead off len) s (fun d => d.mem.ddr = s.dev.mem.ddr ∧ d.out = s.dev.out ∧
      ∃ r : MemReq, d.mem.reqs = s.dev.mem.reqs ++ [r] ∧ r.cls = 3 ∧ r.pa = pa ∧ r.len = n ∧ r.write = false ∧
        r.port = s.dev.ddrPort pa ∧ d.hp.aper = [aperBegun pa len.val off.toNat [] false r])) ∧
  (∀ (off : BitVec 36) (data : List Byte) (s : State) (pa n : Nat), 0 < data.length →
    off.toNat + data.length ≤ s.dev.hp.cfg.bar4 → s.dev.aperSram = false → s.dev.hp.aper = [] → off.toNat < s.dev.aperSplit →
    pa = s.dev.aperBase + off.toNat → pa < s.dev.ddrCap → s.dev.aperRoom (s.dev.ddrPort pa) = true →
    n = min (64 - pa % 64) (min data.length (s.dev.ddrCap - pa)) →
    GivesDev (.apertureWrite off data) s (fun d => d.mem.ddr = s.dev.mem.ddr ∧
      ∃ r : MemReq, d.mem.reqs = s.dev.mem.reqs ++ [r] ∧ r.cls = 3 ∧ r.pa = pa ∧ r.len = n ∧ r.write = true ∧
        r.wdata = (data.take n).map some ∧ r.port = s.dev.ddrPort pa ∧
        d.hp.aper = [aperBegun pa data.length off.toNat data true r])) ∧
  (∀ (p : Fin 4) (tag : Fin 256) (s : State) (r : MemReq) (a : AperReq), s.dev.reqAt p tag = some r → r.done = false → r.f = 8 →
    r.write = false → s.dev.mem.used.contains (16 + p.val) = false → s.dev.mayAccess r = true → s.dev.ordered r = true →
    s.dev.flag (Pg.memport p) Reg.HDR.QUIESCE = false → r.pa + r.len ≤ s.dev.ddrCap → (∀ b, Tab.get s.dev.mem.derr b 0 = 0) →
    s.dev.hp.aper = [a] → a.tag = some (256 * r.port + r.tag) → a.tx = none → a.write = false → a.off < s.dev.aperSplit →
    s.dev.aperHave a ≤ a.pos → a.got.length + r.len = a.len →
    GivesDev (.memAccess p tag) s (fun d => d.hp.aper = [] ∧ d.mem.ddr = s.dev.mem.ddr ∧
      d.out = .aperDone a.off (a.got ++ (List.range r.len).map (fun k => Memory.read s.dev.mem.ddr (r.pa + k) 0))
        (a.bad || false) :: s.dev.out)) ∧
  (∀ (off : BitVec 36) (len : Fin 513) (s : State) (a : AperReq) (tx : Nat) (d1 d2 : Dev), 0 < len.val →
    off.toNat + len.val ≤ s.dev.hp.cfg.bar4 → s.dev.aperSram = false → s.dev.hp.aper = [] → s.dev.aperSplit ≤ off.toNat →
    a = ⟨off.toNat - s.dev.aperSplit, len.val, [], false, off.toNat, none, 0, none, 0, [], false⟩ →
    Tab.get s.dev.fab.rdOut (64 * 44 + a.addr / 2 ^ 22 % 32) 0 < 8 → (s.dev.setAper [a]).nextTxid 44 = (tx, d1) →
    d1.sendPacket 44 (a.addr / 2 ^ 22 % 32) 3 (a.addr / 2 ^ 20 % 4 + (a.span.2 - 1) * 64) (a.span.1 % 2 ^ 20) tx 1 [] none = (true, d2) →
    GivesDev (.apertureRead off len) s (fun d => d.hp.aper = [{ a with tx := some tx, at_ := s.dev.cycle }] ∧
      d.fab.buf = d2.fab.buf ∧ d.mem = s.dev.mem)) ∧
  (∀ (tx : Word) (s : State) (a : AperReq), s.dev.hp.aper = [a] → a.tx = some tx.toNat → a.at_ + usCycles 1000 ≤ s.dev.cycle →
    a.write = false →
    GivesDev (.apertureReadTimeout tx) s (fun d => d.hp.aper = [] ∧
      d.out = .aperDone a.off (List.replicate a.len 0) true :: s.dev.out))

/-! ### Camera ports (R378 to R384) -/

/-- CSI_FS opens a frame of a channel whose queues run and keeps its number; CSI_LONG_PACKET of the channel's data type writes the next
line; CSI_FE closes the frame, which counts as good when no line is missing and none was dropped (R381, R382). CSI_TIMING of a data lane
counts the condition, raises CSI_TIMING and drops the open frame of the struck channel; CSI_DESKEW keeps the measured skew of each lane in
use (R383, R384). -/
def Obligations.CamerasDeliver : Prop :=
  (∀ (n : Fin 4) (v : Fin 16) (fnum : BitVec 16) (s : State) (c : CsiCtx), s.dev.csiCtx n v = some c →
    (∀ l < 4, s.dev.flag (Pg.csi n) Reg.INGRESS.SKEW_VALID l = false) → (s.dev.csiGet n v).open_ = false →
    ((List.range c.planes).all (fun p => !(s.dev.bqGet (c.queue n p)).stopped)) = true →
    GivesDev (.csiFs n v fnum) s (fun d => (d.csiGet n v) = { open_ := true, dropped := false, line := 0, seen := true } ∧
      d.rd (Pg.csi n) Reg.INGRESS.LAST_FNUM v = fnum.toNat ∧ d.mem = s.dev.mem ∧ d.fab = s.dev.fab)) ∧
  (∀ (n : Fin 4) (v : Fin 16) (dt : BitVec 6) (payload : List Byte) (s : State) (c : CsiCtx), s.dev.csiCtx n v = some c →
    (∀ l < 4, s.dev.flag (Pg.csi n) Reg.INGRESS.SKEW_VALID l = false) → dt.toNat = c.dt → (s.dev.csiGet n v).open_ = true →
    (s.dev.csiGet n v).line < c.lines → payload.length = csiBytes c.dt c.w →
    GivesDev (.csiLongPacket n .ok v dt payload true) s (fun d =>
      d = ((s.dev.count (Pg.csi n) 0xF 0).csiLine n c (s.dev.csiGet n v).line payload.toArray (s.dev.csiGet n v).dropped).csiSet n v
        { s.dev.csiGet n v with line := (s.dev.csiGet n v).line + 1 } ∧
      (d.csiGet n v).line = (s.dev.csiGet n v).line + 1)) ∧
  (∀ (n : Fin 4) (v : Fin 16) (s : State) (c : CsiCtx), s.dev.csiCtx n v = some c →
    (∀ l < 4, s.dev.flag (Pg.csi n) Reg.INGRESS.SKEW_VALID l = false) → (s.dev.csiGet n v).open_ = true →
    c.lines ≤ (s.dev.csiGet n v).line → (s.dev.csiGet n v).dropped = false →
    GivesDev (.csiFe n v) s (fun d => d = { s.dev with regs := d.regs, links := d.links, perf := d.perf } ∧
      (d.csiGet n v) = { s.dev.csiGet n v with open_ := false, dropped := false, line := 0 } ∧
      d.rd (Pg.csi n) Reg.INGRESS.FRAMES_OK v = min (s.dev.rd (Pg.csi n) Reg.INGRESS.FRAMES_OK v + 1) (2 ^ 32 - 1))) ∧
  (∀ (n : Fin 4) (why : CsiTimingKind) (lane : Fin 5) (v : Fin 16) (s : State), s.dev.flag (Pg.csi n) Reg.INGRESS.EN = true →
    s.dev.rd (Pg.csi n) Reg.INGRESS.LANES ≠ 3 → lane.val < 4 → why ≠ .clockLoss → (s.dev.csiGet n v).open_ = true →
    (s.dev.csiGet n v).dropped = false →
    GivesDev (.csiTiming n why lane v) s (fun d =>
      d.rd (Pg.csi n) Reg.INGRESS.TIM_ERR = min (s.dev.rd (Pg.csi n) Reg.INGRESS.TIM_ERR + 1) (2 ^ 32 - 1) ∧
      bitAt (d.rd (Pg.csi n) Reg.HDR.FLT_STAT) 4 = true ∧ (d.csiGet n v).dropped = true ∧
      d.rd (Pg.csi n) Reg.INGRESS.FRAMES_BAD v = min (s.dev.rd (Pg.csi n) Reg.INGRESS.FRAMES_BAD v + 1) (2 ^ 32 - 1))) ∧
  (∀ (n : Fin 4) (skew : List (BitVec 12)) (s : State), s.dev.flag (Pg.csi n) Reg.INGRESS.EN = true →
    s.dev.rd (Pg.csi n) Reg.INGRESS.LANES = 2 → skew.length = 4 →
    GivesDev (.csiDeskew n skew) s (fun d => d = { s.dev with regs := d.regs } ∧
      d.flag (Pg.csi n) Reg.INGRESS.DESKEWED = true ∧
      (∀ l < 4, d.rd (Pg.csi n) Reg.INGRESS.SKEW l = (skew.getD l 0).toNat ∧
        d.flag (Pg.csi n) Reg.INGRESS.SKEW_VALID l = true)))

/-! ### Gostan links (R386 to R398) -/

/-- A data frame with the expected number is accepted and its item goes to its stream's queue; a frame with a bad CRC is counted and makes
a NAK due, and the expected number stays; a CTRL frame acknowledges what its ACK covers and brings its credits (R387, R389, R390).
GL_TRANSMIT sends the first waiting item of class A in a frame that is kept until it is acknowledged, with the next number; with nothing
to send it sends an idle frame; GL_REPLAY sends again every frame that is not acknowledged (R388, R389). -/
def Obligations.LinkFramesFlow : Prop :=
  (∀ (k : Fin 2) (f : List Byte) (s : State) (b : Nat), s.dev.lstate k = 5 → glFrameOk f = true → glHdr f % 4 = 1 →
    bitsOf (glHdr f) 2 8 = (s.dev.glGet k).rxSeq → (s.dev.glGet k).rxSeq < 256 → (s.dev.glGet k).repEnd = 0 →
    b = glB k (bitsOf (glHdr f) 10 8) → s.dev.bqEn b = true → s.dev.bqOut b = false →
    (glItem f).fsb = false → (s.dev.rd (Pg.bq b) Reg.BQD.CLS ≠ 1 ∨ (s.dev.bqGet b).dropping = false) →
    GivesDev (.glDataFrame k f) s (fun d =>
      d = (((s.dev.glSet k { s.dev.glGet k with inReplay := false }).glSet k { s.dev.glGet k with
        rxSeq := ((s.dev.glGet k).rxSeq + 1) % 256, ackCnt := (s.dev.glGet k).ackCnt + 1, nakSent := false, repEnd := 0
        inReplay := false }).count (Pg.gl k) 0xF 1).bqOffer b (glItem f) false)) ∧
  (∀ (k : Fin 2) (f : List Byte) (s : State), s.dev.lstate k = 5 → glFrameOk f = false → (s.dev.glGet k).nakSent = false →
    GivesDev (.glDataFrame k f) s (fun d => d = { s.dev with links := d.links, regs := d.regs } ∧
      (d.glGet k).rxSeq = (s.dev.glGet k).rxSeq ∧ (d.glGet k).nakDue = true ∧
      d.rd (Pg.gl k) Reg.GLINK.CRC_CNT = min (s.dev.rd (Pg.gl k) Reg.GLINK.CRC_CNT + 1) (2 ^ 32 - 1))) ∧
  (∀ (k : Fin 2) (f : List Byte) (s : State) (base n : Nat) (f0 : List Byte) (rest : List (Nat × List Byte)), 4 ≤ s.dev.lstate k → glFrameOk f = true →
    glHdr f % 4 = 2 → leNat (((f.drop 4).drop 2).take 1) = 0 → bitAt (leNat (((f.drop 4).drop 1).take 1)) 0 = false →
    (s.dev.glGet k).buf = (base, f0) :: rest → n = (leNat ((f.drop 4).take 1) % 256 + 257 - base) % 256 →
    0 < n → n ≤ (s.dev.glGet k).buf.length →
    GivesDev (.glCtrlFrame k f) s (fun d => d = { s.dev with links := d.links } ∧
      (d.glGet k).buf = (s.dev.glGet k).buf.drop n ∧ (d.glGet k).replays = 0)) ∧
  (∀ (k : Fin 2) (f : List Byte) (s : State) (d1 : Dev), s.dev.lstate k = 5 → glFrameOk f = true → glHdr f % 4 = 3 →
    s.dev.glSeqIn k f = (true, d1) →
    (leNat (((f.drop 4).take 32).take 1) % 8 = s.dev.rd Pg.pins Reg.PINS.POS →
      GivesDev (.glTunnelFrame k f) s (fun d => d = (d1.count (Pg.gl k) 0xF 4).tunExec k ((f.drop 4).take 32))) ∧
    (leNat (((f.drop 4).take 32).take 1) % 8 ≠ s.dev.rd Pg.pins Reg.PINS.POS → s.dev.lstate (1 - k.val) ≠ 5 →
      GivesDev (.glTunnelFrame k f) s (fun d => d = (d1.count (Pg.gl k) 0xF 4).bump (Pg.gl k) Reg.GLINK.TUN_DROP))) ∧
  (∀ (k : Fin 2) (s : State) (st : Nat) (rest : List Nat), s.dev.lstate k = 5 → (s.dev.glGet k).resend = 0 →
    (s.dev.glGet k).buf.length < 64 → (s.dev.glGet k).txSeq < 256 →
    s.dev.glCtrlDue k = false → s.dev.glReady k 1 = st :: rest →
    GivesDev (.glTransmit k) s (fun d => ∃ f : List Byte, d.out.head? = some (.frame k f) ∧ f.length = 38 ∧
      (d.glGet k).buf = (s.dev.glGet k).buf ++ [((s.dev.glGet k).txSeq, f)] ∧
      (d.glGet k).txSeq = ((s.dev.glGet k).txSeq + 1) % 256 ∧
      Tab.get (d.glGet k).sent st 0 = (Tab.get (s.dev.glGet k).sent st 0 + 1) % 65536)) ∧
  (∀ (k : Fin 2) (s : State), s.dev.lstate k = 5 → (s.dev.glGet k).resend = 0 → (s.dev.glGet k).buf.length < 64 →
    s.dev.glCtrlDue k = false → s.dev.glStreams k true = [] → (s.dev.glGet k).tun = [] →
    GivesDev (.glTransmit k) s (fun d => d.out = .frame k (glFrame 0 []) :: s.dev.out ∧ d.links = s.dev.links)) ∧
  (∀ (k : Fin 2) (s : State), s.dev.lstate k = 5 → (s.dev.glGet k).buf ≠ [] →
    ((s.dev.glGet k).nakRx = true ∨ (s.dev.glGet k).ackAt + 400 ≤ s.dev.cycle) →
    GivesDev (.glReplay k) s (fun d => d = { s.dev with links := d.links, regs := d.regs, flt := d.flt } ∧
      d.glGet k = { s.dev.glGet k with
        resend := (s.dev.glGet k).buf.length, nakRx := false, ackAt := s.dev.cycle, replays := (s.dev.glGet k).replays + 1 } ∧
      d.rd (Pg.gl k) Reg.GLINK.REPLAY_CNT = min (s.dev.rd (Pg.gl k) Reg.GLINK.REPLAY_CNT + 1) (2 ^ 32 - 1) ∧
      bitAt (d.rd (Pg.gl k) Reg.HDR.FLT_STAT) 3 = true))

/-- Training goes from DETECT to TRAIN, EQ, EXCH and ACTIVE, each on the end of the one before; a link that loses a lane, replays four
times or is retrained begins at DETECT again with nothing acknowledged twice; a key change on an active link sends the capabilities and
both key halves again (R389, R393 to R395). TUN_WR queues a write of TUN_WDATA for the partner's BAR0 and stays idle; TUN_RD queues a read
and is BUSY with its tag; TUN_TIMEOUT ends a read after 1 ms with zeros and TERR (R398). -/
def Obligations.LinksTrainAndTunnel : Prop :=
  (∀ (k : Fin 2) (s : State), s.dev.flag (Pg.gl k) Reg.GLINK.EN = true → s.dev.lstate k < 2 →
    GivesDev (.glTrainAdvance k .detected) s (fun d => d = { s.dev with regs := d.regs } ∧ d.lstate k = 2)) ∧
  (∀ (k : Fin 2) (rev : Bool) (pol : BitVec 4) (s : State), s.dev.flag (Pg.gl k) Reg.GLINK.EN = true → s.dev.lstate k = 2 →
    GivesDev (.glTrainAdvance k (.locked rev pol)) s (fun d => d = { s.dev with regs := d.regs } ∧ d.lstate k = 3 ∧
      d.flag (Pg.gl k) Reg.GLINK.REVERSED = rev ∧ d.rd (Pg.gl k) Reg.GLINK.POL = pol.toNat)) ∧
  (∀ (k : Fin 2) (loss : BitVec 10) (s : State), s.dev.flag (Pg.gl k) Reg.GLINK.EN = true → s.dev.lstate k = 3 → loss.toNat ≤ 300 →
    GivesDev (.glTrainAdvance k (.equalised loss)) s (fun d => d.lstate k = 4 ∧ d.rd (Pg.gl k) Reg.GLINK.LOSS = loss.toNat ∧
      d.glGet k = { s.dev.glGet k with caps := [1, 2, 3] })) ∧
  (∀ (k : Fin 2) (s : State), s.dev.flag (Pg.gl k) Reg.GLINK.EN = true → s.dev.lstate k = 4 →
    GivesDev (.glTrainAdvance k (.exchanged true)) s (fun d => d = { s.dev with links := d.links, regs := d.regs } ∧ d.lstate k = 5 ∧
      (d.glGet k).buf = (s.dev.glGet k).buf ∧ (d.glGet k).resend = (s.dev.glGet k).buf.length ∧
      (d.glGet k).rxSeq = (s.dev.glGet k).rxSeq)) ∧
  (∀ (k : Fin 2) (s : State), s.dev.flag (Pg.gl k) Reg.GLINK.EN = true → s.dev.lstate k = 5 → 4 ≤ (s.dev.glGet k).replays →
    GivesDev (.glDown k .replays) s (fun d => d.lstate k = 1 ∧ d.rd (Pg.gl k) Reg.GLINK.FAIL = 5 ∧
      (d.glGet k).buf = (s.dev.glGet k).buf ∧ (d.glGet k).replays = 0 ∧
      d.rd (Pg.gl k) Reg.GLINK.RETRAIN_CNT = min (s.dev.rd (Pg.gl k) Reg.GLINK.RETRAIN_CNT + 1) (2 ^ 16 - 1))) ∧
  (∀ (k : Fin 2) (s : State), s.dev.flag (Pg.gl k) Reg.GLINK.EN = true → 2 ≤ s.dev.lstate k →
    GivesDev (.glDown k .laneLost) s (fun d => d.lstate k = 1 ∧ d.rd (Pg.gl k) Reg.GLINK.FAIL = 6)) ∧
  (∀ (k : Fin 2) (s : State), s.dev.flag (Pg.gl k) Reg.GLINK.EN = true → s.dev.lstate k ≠ 0 →
    GivesDev (.retrain k) s (fun d => d.lstate k = 1 ∧ (d.glGet k).buf = (s.dev.glGet k).buf)) ∧
  (∀ (k : Fin 2) (s : State), s.dev.lstate k = 5 →
    GivesDev (.glKeyUpdate k) s (fun d => d = { s.dev with links := d.links } ∧
      d.glGet k = { s.dev.glGet k with caps := [1, 2, 3] })) ∧
  (∀ (k : Fin 2) (s : State), s.dev.flag (Pg.gl k) Reg.GLINK.TUN_BUSY = false →
    s.dev.flag (Pg.gl k) Reg.GLINK.TUN_SPACE = false →
    GivesDev (.tunWr k) s (fun d => d = { s.dev with links := d.links } ∧
      (d.glGet k).tun = (s.dev.glGet k).tun ++ [tunPayload (s.dev.rd (Pg.gl k) Reg.GLINK.TUN_TPOS) (s.dev.rd Pg.pins Reg.PINS.POS) 0
        (s.dev.glGet k).tunTag 0xF (s.dev.rd (Pg.gl k) Reg.GLINK.TUN_OFFSET) (leBytes 4 (s.dev.rd (Pg.gl k) Reg.GLINK.TUN_WDATA))])) ∧
  (∀ (k : Fin 2) (s : State), s.dev.flag (Pg.gl k) Reg.GLINK.TUN_BUSY = false →
    s.dev.flag (Pg.gl k) Reg.GLINK.TUN_SPACE = false →
    GivesDev (.tunRd k) s (fun d => d = { s.dev with links := d.links, regs := d.regs } ∧
      d.flag (Pg.gl k) Reg.GLINK.TUN_BUSY = true ∧
      (d.glGet k).tunOut = some (s.dev.cycle, (s.dev.glGet k).tunTag, true) ∧
      (d.glGet k).tun = (s.dev.glGet k).tun ++ [tunPayload (s.dev.rd (Pg.gl k) Reg.GLINK.TUN_TPOS) (s.dev.rd Pg.pins Reg.PINS.POS) 1
        (s.dev.glGet k).tunTag 0xF (s.dev.rd (Pg.gl k) Reg.GLINK.TUN_OFFSET) []])) ∧
  (∀ (k : Fin 2) (s : State) (t tag : Nat) (r : Bool), (s.dev.glGet k).tunOut = some (t, tag, r) → t + usCycles 1000 ≤ s.dev.cycle →
    GivesDev (.tunTimeout k) s (fun d => d = { s.dev with links := d.links, regs := d.regs } ∧
      (d.glGet k).tunOut = none ∧ d.flag (Pg.gl k) Reg.GLINK.TUN_BUSY = false ∧ d.flag (Pg.gl k) Reg.GLINK.TERR = true ∧
      d.rd (Pg.gl k) Reg.GLINK.TUN_RDATA = 0))


/-! ### Register accesses (R25, R94, R124, R163, R201, R276, R279, R356, R358, R377, R399, R400) -/

/-- QUIESCE sets the bit of its page and keeps ENABLE; BLOCK_RESET puts an M tile, a V tile or a memory port's counters at their first
values and keeps its programs; a write of PERF_SEL clears the counter and a read answers its low half and latches the high half; RTT_CLR
clears RTT_MAX; a write of a whole word acts as that word's write, of a part of a word it is ignored and counted in BAD_ACC, at the block
of a stalled read it waits, and at a doorbell it rings; a write to a page of a fenced core is dropped and counted (R25, R123, R163, R201,
R276, R279, R356, R358, R359). -/
def Obligations.PageRegistersAct : Prop :=
  (∀ (pg : Fin 16384) (on : Bool) (s : State) (k : PageKind) (n : Nat), pageKind pg = some (k, n) →
    (k.isCore = true → s.dev.fenced (pageCore pg) = false) →
    NoStall s.dev (pg.val * 4096) →
    GivesDev (.quiesce pg on) s (fun d => d = { s.dev with regs := d.regs } ∧ d.flag (pg.val * 4096) Reg.HDR.QUIESCE = on ∧
      d.flag (pg.val * 4096) Reg.HDR.ENABLE = s.dev.flag (pg.val * 4096) Reg.HDR.ENABLE)) ∧
  (∀ (pg : Fin 16384) (s : State) (m c : Nat), pageKind pg = some (.mtile, m) → c = pageCore pg → s.dev.fenced c = false →
    NoStall s.dev (pg.val * 4096) →
    GivesDev (.blockReset pg) s (fun d => d = { s.dev with regs := d.regs, tl := { s.dev.tl with mt := d.tl.mt } } ∧
      d.mtGet c m = MTile.zero ∧ d.rd (Pg.mtile c m) Reg.MTILE.PC = 0 ∧ d.rd (Pg.mtile c m) Reg.MTILE.LOOP_DEPTH = 0 ∧
      d.rd (Pg.mtile c m) Reg.MTILE.WP = 0 ∧ d.rd (Pg.mtile c m) Reg.MTILE.EP = 0 ∧ d.rd (Pg.mtile c m) Reg.MTILE.ACTIVE_HALF = 0)) ∧
  (∀ (pg : Fin 16384) (s : State) (v c : Nat), pageKind pg = some (.vtile, v) → c = pageCore pg → s.dev.fenced c = false →
    NoStall s.dev (pg.val * 4096) →
    GivesDev (.blockReset pg) s (fun d => d = { s.dev with regs := d.regs, tl := { s.dev.tl with vt := d.tl.vt } } ∧
      d.vtGet c v = VTile.zero ∧ d.rd (Pg.vtile c v) Reg.VTILE.PC = 0 ∧ d.rd (Pg.vtile c v) Reg.VTILE.LOOP_DEPTH = 0 ∧
      d.rd (Pg.vtile c v) Reg.VTILE.EP = 0 ∧ d.rd (Pg.vtile c v) Reg.VTILE.BOXQ = 0 ∧
      (∀ i < 16, d.rd (Pg.vtile c v) Reg.VTILE.CH i = 0 ∧ d.rd (Pg.vtile c v) Reg.VTILE.SQ i = 0))) ∧
  (∀ (p : Fin 4) (s : State), NoStall s.dev (Pg.memport p) → GivesDev (.blockReset ⟨0x19 + p.val, by omega⟩) s (fun d => d = { s.dev with regs := d.regs } ∧
    d.rd (Pg.memport p) Reg.MEMPORT.CORR_CNT = 0 ∧ d.rd (Pg.memport p) Reg.MEMPORT.UE_CNT = 0 ∧
    (∀ i < 10, d.rd (Pg.memport p) Reg.MEMPORT.CORR_DEV i = 0))) ∧
  (∀ (pg : Fin 16384) (v : Word) (s : State) (k : PageKind) (n : Nat), pageKind pg = some (k, n) → k ≠ .score → k ≠ .journal →
    (k.isCore = true → s.dev.fenced (pageCore pg) = false) →
    NoStall s.dev (pg.val * 4096) →
    GivesDev (.perfSelWrite pg v) s (fun d => d = { s.dev with regs := d.regs, perf := d.perf } ∧ Tab.get d.perf pg.val 0 = 0 ∧
      d.rd (pg.val * 4096) Reg.HDR.PERF_SEL = v.toNat)) ∧
  (∀ (pg : Fin 16384) (s : State) (k : PageKind) (n : Nat), pageKind pg = some (k, n) → Tab.get s.dev.perf pg.val 0 < 2 ^ 64 →
    NoStall s.dev (pg.val * 4096) →
    GivesDev (.perfCntRead pg) s (fun d => d = { s.dev with regs := d.regs, out := d.out } ∧
      d.out = .readDone .host (pg.val * 4096 + 0x28) (Tab.get s.dev.perf pg.val 0 % 2 ^ 32) :: s.dev.out ∧
      d.rd (pg.val * 4096) Reg.HDR.PERF_CNT_HI = Tab.get s.dev.perf pg.val 0 / 2 ^ 32)) ∧
  (∀ (p : Fin 4) (s : State), GivesDev (.rttClr p) s (fun d => d = { s.dev with regs := d.regs } ∧
    d.rd (Pg.memport p) Reg.MEMPORT.RTT_MAX = 0)) ∧
  (∀ (off : BitVec 26) (w : Word) (s : State), off.toNat % 4 = 0 → NoStall s.dev off.toNat →
    GivesDev (.registerWrite (.bar0 off) ((leBytes 4 w.toNat).map some)) s (fun d => d = s.dev.wordWrite off.toNat w.toNat)) ∧
  (∀ (off : BitVec 26) (b0 b1 b2 b3 : Option Byte) (s : State), off.toNat % 4 = 0 → NoStall s.dev off.toNat →
    (∃ b ∈ [b0, b1, b2, b3], b = none) → (∃ b ∈ [b0, b1, b2, b3], b ≠ none) →
    GivesDev (.registerWrite (.bar0 off) [b0, b1, b2, b3]) s (fun d => d = { s.dev with regs := d.regs } ∧
      d.rd Pg.host Reg.HOSTPORT.BAD_ACC = min (s.dev.rd Pg.host Reg.HOSTPORT.BAD_ACC + 1) (2 ^ 32 - 1))) ∧
  (∀ (off : BitVec 26) (data : List (Option Byte)) (s : State), s.dev.waitsAt .host (blockAt off.toNat) = true →
    off.toNat + data.length ≤ 2 ^ 26 →
    GivesDev (.registerWrite (.bar0 off) data) s (fun d => d = { s.dev with qs := { s.dev.qs with
      stalls := s.dev.qs.stalls ++ [⟨.host, blockAt off.toNat, 0, s.dev.cycle, .write off.toNat data⟩] } })) ∧
  (∀ (off : BitVec 20) (w : Word) (s : State), off.toNat < 0x18000 → off.toNat % 64 = 0 →
    GivesDev (.registerWrite (.bar2 off) ((leBytes 4 w.toNat).map some)) s (fun d => d = s.dev.doorbell (off.toNat / 64) w.toNat)) ∧
  (∀ (c : Fin 32) (w : Word) (s : State), s.dev.fenced c = true → NoStall s.dev (Pg.xnode c) →
    GivesDev (.ttData c (some w)) s (fun d => d.fab = s.dev.fab ∧
      d.rd (Pg.rank (rankOf c)) Reg.RANKCTL.DROP_PAGE = Pg.xnode c / 4096 ∧
      bitAt (d.rd (Pg.rank (rankOf c)) Reg.HDR.FLT_STAT) 1 = true))

/-- A write of TT_DATA or LT_DATA stores the addressed trick's entry in the bank that STAGED names, and a read answers it; the index goes
on with AUTOINC. The host port's ET_DATA, a camera port's PT_DATA and a link's ET_DATA act so on the edge tables, and CT_DATA stages the
credit target of its queue (R94, R124, R377, R399, R400). -/
def Obligations.RouteTablesFollow : Prop :=
  (∀ (c : Fin 32) (w : Word) (s : State) (p t key : Nat) (st : Bool), s.dev.fenced c = false →
    p = s.dev.rd (Pg.xnode c) Reg.XNODE.TT_PORT → t = s.dev.rd (Pg.xnode c) Reg.XNODE.TT_TRICK →
    st = s.dev.flag (Pg.xnode c) Reg.XNODE.TT_STAGED → key = s.dev.bankKey (Bank.port c p) (64 * c.val + p) t st →
    (portNet p).isSome = true → (st = true ∨ s.dev.ownerRuns (s.dev.ownerA c p) = false) →
    NoStall s.dev (Pg.xnode c) →
    GivesDev (.ttData c (some w)) s (fun d =>
      d = { s.dev.setUpset (Upset.tt key) 0 with regs := d.regs, fab := { s.dev.fab with tt := Tab.set s.dev.fab.tt key (w.toNat % 256) 0x20 } } ∧
      d.rd (Pg.xnode c) Reg.XNODE.TT_TRICK = (if s.dev.flag (Pg.xnode c) Reg.XNODE.TT_AUTOINC then (t + 1) % 256 else t))) ∧
  (∀ (c : Fin 32) (s : State) (p : Nat), p = s.dev.rd (Pg.xnode c) Reg.XNODE.TT_PORT → (portNet p).isSome = true →
    GivesDev (.ttData c none) s (fun d => d = { s.dev with regs := d.regs, out := d.out } ∧
      d.out = .readDone .host (Pg.xnode c + 0x84) (Tab.get s.dev.fab.tt (s.dev.bankKey (Bank.port c p) (64 * c.val + p)
        (s.dev.rd (Pg.xnode c) Reg.XNODE.TT_TRICK) (s.dev.flag (Pg.xnode c) Reg.XNODE.TT_STAGED)) 0x20) :: s.dev.out)) ∧
  (∀ (c : Fin 32) (w : Word) (s : State) (p t key : Nat) (st : Bool), s.dev.fenced c = false →
    p = s.dev.rd (Pg.qeng c) Reg.QENG.PORT → t = s.dev.rd (Pg.qeng c) Reg.QENG.TRICK → st = s.dev.flag (Pg.qeng c) Reg.QENG.STAGED →
    key = s.dev.bankKey (Bank.port c p) (64 * c.val + p) t st → (st = true ∨ s.dev.coreRuns c = false) →
    NoStall s.dev (Pg.qeng c) →
    GivesDev (.ltData c (some w)) s (fun d =>
      d = { s.dev with regs := d.regs, fab := { s.dev.fab with lt := Tab.set s.dev.fab.lt key (w.toNat % 2 ^ 16) 0 } } ∧
      d.rd (Pg.qeng c) Reg.QENG.TRICK = (if s.dev.flag (Pg.qeng c) Reg.QENG.AUTOINC then (t + 1) % 256 else t))) ∧
  (∀ (w : Word) (s : State) (tb t key : Nat) (st : Bool), tb = s.dev.rd Pg.host Reg.HOSTPORT.TBL → tb < 12 →
    t = s.dev.rd Pg.host Reg.HOSTPORT.TRICK → st = s.dev.flag Pg.host Reg.HOSTPORT.STAGED →
    key = s.dev.bankKey (Bank.edge tb) tb t st → (st = true ∨ s.dev.ownerRuns (s.dev.edgeOwner tb) = false) →
    NoStall s.dev (Pg.host) →
    GivesDev (.hostEtData (some w)) s (fun d =>
      d = { s.dev with regs := d.regs, fab := { s.dev.fab with et := Tab.set s.dev.fab.et key (w.toNat % 2 ^ 16) 0 } } ∧
      d.rd Pg.host Reg.HOSTPORT.TRICK = (if s.dev.flag Pg.host Reg.HOSTPORT.AUTOINC then (t + 1) % 256 else t))) ∧
  (∀ (n : Fin 4) (w : Word) (s : State) (t key : Nat) (st : Bool), t = s.dev.rd (Pg.csi n) Reg.INGRESS.TRICK →
    st = s.dev.flag (Pg.csi n) Reg.INGRESS.STAGED → key = s.dev.bankKey (Bank.edge (12 + n)) (12 + n) t st →
    (st = true ∨ s.dev.ownerRuns (s.dev.edgeOwner (12 + n)) = false) →
    NoStall s.dev (Pg.csi n) →
    GivesDev (.ptData n (some w)) s (fun d =>
      d = { s.dev with regs := d.regs, fab := { s.dev.fab with et := Tab.set s.dev.fab.et key (w.toNat % 2 ^ 16) 0 } } ∧
      d.rd (Pg.csi n) Reg.INGRESS.TRICK = (if s.dev.flag (Pg.csi n) Reg.INGRESS.AUTOINC then (t + 1) % 256 else t))) ∧
  (∀ (k : Fin 2) (w : Word) (s : State) (tb t key : Nat) (st : Bool), tb = s.dev.rd (Pg.gl k) Reg.GLINK.TBL → tb < 6 →
    t = s.dev.rd (Pg.gl k) Reg.GLINK.TRICK → st = s.dev.flag (Pg.gl k) Reg.GLINK.STAGED →
    key = s.dev.bankKey (Bank.edge (16 + 6 * k + tb)) (16 + 6 * k + tb) t st →
    (st = true ∨ s.dev.ownerRuns (s.dev.edgeOwner (16 + 6 * k + tb)) = false) →
    NoStall s.dev (Pg.gl k) →
    GivesDev (.glEtData k (some w)) s (fun d =>
      d = { s.dev with regs := d.regs, fab := { s.dev.fab with et := Tab.set s.dev.fab.et key (w.toNat % 2 ^ 16) 0 } } ∧
      d.rd (Pg.gl k) Reg.GLINK.TRICK = (if s.dev.flag (Pg.gl k) Reg.GLINK.AUTOINC then (t + 1) % 256 else t))) ∧
  (∀ (w : Word) (s : State), s.dev.rd Pg.host Reg.HOSTPORT.CT_INDEX < 1536 →
    NoStall s.dev (Pg.host) →
    GivesDev (.ctData w) s (fun d => d = { s.dev with regs := d.regs, qs := { s.dev.qs with
      ctgt := Tab.set s.dev.qs.ctgt (4096 + s.dev.rd Pg.host Reg.HOSTPORT.CT_INDEX) (w.toNat % 256 + 2 ^ 40) 0 } } ∧
      d.rd Pg.host Reg.HOSTPORT.CT_DATA = w.toNat % 256))

/-- A write of the high half of an instruction, a descriptor word or a function table entry of a tile puts the whole of it into the bank
that STAGED names, the active one only while the core's domain does not run, and no other entry changes; with AUTOINC the index goes on
(R163, R201). -/
def Obligations.TileTablesFollow : Prop :=
  (∀ (c : Fin 32) (m : Fin 10) (w : Word) (s : State) (i b : Nat), s.dev.fenced c = false →
    i = s.dev.rd (Pg.mtile c m) Reg.MTILE.PI_INDEX →
    s.dev.unitBank c m (s.dev.flag (Pg.mtile c m) Reg.MTILE.PI_STAGED) = some b →
    NoStall s.dev (Pg.mtile c m) →
    GivesDev (.mPiHi c m w) s (fun d => d = { s.dev.setUpset (Upset.prog (((16 * c.val + m.val) * 2 + b) * 512 + i)) 0 with regs := d.regs, tl := { s.dev.tl with
        prog := Tab.set s.dev.tl.prog (((16 * c.val + m.val) * 2 + b) * 512 + i)
          (s.dev.rd (Pg.mtile c m) Reg.MTILE.PI_LO + w.toNat * 2 ^ 32) 0 } } ∧
      d.rd (Pg.mtile c m) Reg.MTILE.PI_INDEX = (if s.dev.flag (Pg.mtile c m) Reg.MTILE.PI_AUTOINC then (i + 1) % 256 else i))) ∧
  (∀ (c : Fin 32) (m : Fin 10) (w : Word) (s : State) (i x b : Nat), s.dev.fenced c = false →
    i = s.dev.rd (Pg.mtile c m) Reg.MTILE.DI_INDEX → x = s.dev.rd (Pg.mtile c m) Reg.MTILE.DI_WORD →
    s.dev.unitBank c m (s.dev.flag (Pg.mtile c m) Reg.MTILE.DI_STAGED) = some b →
    NoStall s.dev (Pg.mtile c m) →
    GivesDev (.mDiHi c m w) s (fun d => d = { s.dev.setUpset (Upset.desc (((16 * c.val + m.val) * 2 + b) * 32 + 2 * i + x)) 0 with regs := d.regs, tl := { s.dev.tl with
        desc := Tab.set s.dev.tl.desc (((16 * c.val + m.val) * 2 + b) * 32 + 2 * i + x)
          (s.dev.rd (Pg.mtile c m) Reg.MTILE.DI_LO + w.toNat * 2 ^ 32) 0 } } ∧
      2 * d.rd (Pg.mtile c m) Reg.MTILE.DI_INDEX + d.rd (Pg.mtile c m) Reg.MTILE.DI_WORD =
        (if s.dev.flag (Pg.mtile c m) Reg.MTILE.DI_AUTOINC then (2 * i + x + 1) % 32 else 2 * i + x))) ∧
  (∀ (c : Fin 32) (v : Fin 2) (w : Word) (s : State) (i b : Nat), s.dev.fenced c = false →
    i = s.dev.rd (Pg.vtile c v) Reg.VTILE.PI_INDEX →
    s.dev.unitBank c (10 + v) (s.dev.flag (Pg.vtile c v) Reg.VTILE.PI_STAGED) = some b →
    NoStall s.dev (Pg.vtile c v) →
    GivesDev (.vPiHi c v w) s (fun d => d = { s.dev.setUpset (Upset.prog (((16 * c.val + (10 + v.val)) * 2 + b) * 512 + i)) 0 with regs := d.regs, tl := { s.dev.tl with
        prog := Tab.set s.dev.tl.prog (((16 * c.val + (10 + v.val)) * 2 + b) * 512 + i)
          (s.dev.rd (Pg.vtile c v) Reg.VTILE.PI_LO + w.toNat * 2 ^ 32) 0 } } ∧
      d.rd (Pg.vtile c v) Reg.VTILE.PI_INDEX = (if s.dev.flag (Pg.vtile c v) Reg.VTILE.PI_AUTOINC then (i + 1) % 512 else i))) ∧
  (∀ (c : Fin 32) (v : Fin 2) (w : Word) (s : State) (i x b : Nat), s.dev.fenced c = false →
    i = s.dev.rd (Pg.vtile c v) Reg.VTILE.DI_INDEX → x = s.dev.rd (Pg.vtile c v) Reg.VTILE.DI_WORD →
    s.dev.unitBank c (10 + v) (s.dev.flag (Pg.vtile c v) Reg.VTILE.DI_STAGED) = some b →
    NoStall s.dev (Pg.vtile c v) →
    GivesDev (.vDiHi c v w) s (fun d => d = { s.dev.setUpset (Upset.desc (((16 * c.val + (10 + v.val)) * 2 + b) * 32 + 2 * i + x)) 0 with regs := d.regs, tl := { s.dev.tl with
        desc := Tab.set s.dev.tl.desc (((16 * c.val + (10 + v.val)) * 2 + b) * 32 + 2 * i + x)
          (s.dev.rd (Pg.vtile c v) Reg.VTILE.DI_LO + w.toNat * 2 ^ 32) 0 } } ∧
      2 * d.rd (Pg.vtile c v) Reg.VTILE.DI_INDEX + d.rd (Pg.vtile c v) Reg.VTILE.DI_WORD =
        (if s.dev.flag (Pg.vtile c v) Reg.VTILE.DI_AUTOINC then (2 * i + x + 1) % 32 else 2 * i + x))) ∧
  (∀ (c : Fin 32) (v : Fin 2) (w : Word) (s : State) (t e b : Nat), s.dev.fenced c = false →
    t = s.dev.rd (Pg.vtile c v) Reg.VTILE.FT_TABLE → e = s.dev.rd (Pg.vtile c v) Reg.VTILE.FT_ENTRY → e < 64 →
    s.dev.unitBank c (10 + v) (s.dev.flag (Pg.vtile c v) Reg.VTILE.FT_STAGED) = some b →
    NoStall s.dev (Pg.vtile c v) →
    GivesDev (.ftHi c v w) s (fun d => d = { s.dev.setUpset (Upset.ftab (((2 * c.val + v.val) * 2 + b) * 1024 + 128 * t + e)) 0 with regs := d.regs, tl := { s.dev.tl with
        ftab := Tab.set s.dev.tl.ftab (((2 * c.val + v.val) * 2 + b) * 1024 + 128 * t + e)
          (s.dev.rd (Pg.vtile c v) Reg.VTILE.FT_LO + w.toNat * 2 ^ 32) 0 } } ∧
      d.rd (Pg.vtile c v) Reg.VTILE.FT_TABLE = t ∧
      d.rd (Pg.vtile c v) Reg.VTILE.FT_ENTRY = (if s.dev.flag (Pg.vtile c v) Reg.VTILE.FT_AUTOINC then e + 1 else e)))

/-! ### Scoresheet, journal and wear -/

/-- OPSEC_TICK: a second of operation counts in the wear record when more than half of its 1 ms samples show the condition, and the
count acts on nothing else of the device: only the two second counts and the time of the last second change (R419). -/
def Obligations.WearCountsSeconds : Prop :=
  ∀ (wear : Fin 1001) (s : State), s.dev.flag Pg.journal Reg.JOURNAL.READY = true →
    s.dev.sco.secAt + usCycles 1000000 ≤ s.dev.cycle → s.dev.rd Pg.journal Reg.JOURNAL.WEAR < 2 ^ 32 - 1 →
    GivesDev (.opsecTick wear) s (fun d =>
      d = { s.dev with regs := d.regs, sco := { s.dev.sco with secAt := s.dev.sco.secAt + usCycles 1000000 } } ∧
      d.rd Pg.journal Reg.JOURNAL.WEAR = s.dev.rd Pg.journal Reg.JOURNAL.WEAR + (if 500 < wear.val then 1 else 0))

/-- RECORD_COMMIT programs the oldest record with its commit word at WRPTR, moves WRPTR past it, counts it and takes it into HEAD, or drops
it with FULL when it does not fit; SCORESHEET_SCAN sets HEAD, COUNT and WRPTR to what the partition's records give; CLEAR_SCORESHEET with a
valid signature of an owned device begins the clear and with another changes nothing; SCORESHEET_ERASE_DONE leaves an erased partition
with the record CLEARED (R336, R338 to R342). -/
def Obligations.ScoresheetFollows : Prop :=
  (∀ (s : State) (r : RecReq) (rest : List RecReq), s.dev.sco.queue = r :: rest → s.dev.flag Pg.score Reg.SCORE.NOPART = false →
    s.dev.flag Pg.score Reg.SCORE.READY = true → s.dev.sco.clr = none → s.dev.sco.jdue.contains 0x200 = false →
    s.dev.flag Pg.score Reg.SCORE.FULL = false →
    s.dev.rd Pg.score Reg.SCORE.WRPTR + r.length ≤ s.dev.rd Pg.score Reg.SCORE.SIZE →
    Gives .recordCommit s (fun t => t = { s with flash := t.flash, dev := t.dev } ∧ t.dev.sco.queue = rest ∧
      t.flash = flashProgram s.flash (s.dev.sco.base + s.dev.rd Pg.score Reg.SCORE.WRPTR) (r.bytes ++ [0, 0, 0, 0]) ∧
      t.dev.rd Pg.score Reg.SCORE.WRPTR = s.dev.rd Pg.score Reg.SCORE.WRPTR + r.length ∧
      t.dev.rd Pg.score Reg.SCORE.COUNT = min (s.dev.rd Pg.score Reg.SCORE.COUNT + 1) (2 ^ 32 - 1) ∧
      t.dev.headBytes = sha256 (s.dev.headBytes ++ r.bytes))) ∧
  (∀ (s : State) (r : RecReq) (rest : List RecReq), s.dev.sco.queue = r :: rest → s.dev.flag Pg.score Reg.SCORE.NOPART = false →
    s.dev.flag Pg.score Reg.SCORE.READY = true → s.dev.sco.clr = none → s.dev.sco.jdue.contains 0x200 = false →
    s.dev.rd Pg.score Reg.SCORE.SIZE < s.dev.rd Pg.score Reg.SCORE.WRPTR + r.length →
    GivesDev .recordCommit s (fun d => d.sco.queue = rest ∧ d.flag Pg.score Reg.SCORE.FULL = true ∧
      d.rd Pg.score Reg.SCORE.DROP_FULL = min (s.dev.rd Pg.score Reg.SCORE.DROP_FULL + 1) (2 ^ 32 - 1))) ∧
  (∀ (s : State) (sc : Scan), s.dev.flag Pg.score Reg.SCORE.READY = false → s.dev.flag Pg.journal Reg.JOURNAL.READY = true →
    s.dev.flag Pg.score Reg.SCORE.NOPART = false → Tab.get s.dev.sco.jcopy 0x700 [] = [] →
    scanFrom s.flash s.dev.sco.base (s.dev.rd Pg.score Reg.SCORE.SIZE) ⟨0, scoreHead0, 0, []⟩ (s.dev.rd Pg.score Reg.SCORE.SIZE / 4 + 1) = sc →
    sc.torn = [] → sc.pos < 2 ^ 32 → sc.count < 2 ^ 32 →
    GivesDev .scoresheetScan s (fun d => d = { s.dev with regs := d.regs } ∧ d.flag Pg.score Reg.SCORE.READY = true ∧
      d.rd Pg.score Reg.SCORE.COUNT = sc.count ∧ d.rd Pg.score Reg.SCORE.WRPTR = sc.pos ∧ d.rd Pg.score Reg.SCORE.TORN_CNT = 0 ∧
      (∀ i < 8, d.rd Pg.score Reg.SCORE.HEAD i = leNat ((sc.head.drop (4 * i)).take 4)))) ∧
  (∀ (r : Fin 64) (sig : HostRead) (s : State) (c : RingCmd) (h : Nat), s.dev.cmdBegin r 9 = some c →
    s.dev.flag Pg.score Reg.SCORE.READY = true → s.dev.sco.clr = none → sig.poisoned = false → 64 ≤ sig.data.length →
    s.dev.plat.fuse.life = 2 → s.dev.plat.fuse.slotFused (c.field 24 1) = some h →
    ecdsaVerifyHash h (sig.data.take 64)
      (sha256 (strBytes "THN-3240 CLEAR v1" ++ s.dev.headBytes ++ leBytes 4 (s.dev.rd Pg.score Reg.SCORE.COUNT))) = true →
    s.dev.sco.queue = [] →
    GivesDev (.clearScoresheet r sig) s (fun d => d = { s.dev with regs := d.regs, sco := d.sco, hp := d.hp } ∧
      d.flag Pg.score Reg.SCORE.CLEARING = true ∧ d.sco.jdue.contains 0x700 = true ∧
      d.sco.clr = some ⟨r, c.field 24 1, s.dev.headBytes, s.dev.rd Pg.score Reg.SCORE.COUNT, s.dev.rd Pg.score Reg.SCORE.DROP_FULL,
        s.dev.rd Pg.score Reg.SCORE.DROP_BUSY⟩ ∧ d.cmdOf r = some { c with stage := 1 })) ∧
  (∀ (r : Fin 64) (sig : HostRead) (s : State) (c : RingCmd), s.dev.cmdBegin r 9 = some c →
    s.dev.flag Pg.score Reg.SCORE.READY = true → s.dev.sco.clr = none → sig.poisoned = false → 64 ≤ sig.data.length →
    (s.dev.plat.fuse.life ≠ 2 → GivesDev (.clearScoresheet r sig) s (fun d => d = s.dev.cmdDone r 0x20 0 0)) ∧
    (s.dev.plat.fuse.life = 2 → s.dev.plat.fuse.slotFused (c.field 24 1) = none →
      GivesDev (.clearScoresheet r sig) s (fun d => d = s.dev.cmdDone r 0x21 0 0))) ∧
  (∀ (s : State) (c : ClrSt) (q : RecReq), s.dev.sco.clr = some c → s.dev.sco.jdue.contains 0x700 = false →
    q = s.dev.mkRec 0x0A (digestWords c.head ++ [c.count, c.dropFull, c.dropBusy, c.slot]) →
    q.length ≤ s.dev.rd Pg.score Reg.SCORE.SIZE →
    Gives .scoresheetEraseDone s (fun t => t = { s with flash := t.flash, dev := t.dev } ∧
      t.flash = flashProgram (flashErase s.flash s.dev.sco.base (s.dev.rd Pg.score Reg.SCORE.SIZE)) s.dev.sco.base (q.bytes ++ [0, 0, 0, 0]) ∧
      t.dev.sco.clr = none ∧ t.dev.sco.queue = s.dev.sco.queue ∧ t.dev.flag Pg.score Reg.SCORE.CLEARING = false ∧
      t.dev.flag Pg.score Reg.SCORE.FULL = false ∧ t.dev.rd Pg.score Reg.SCORE.DROP_FULL = 0 ∧
      t.dev.rd Pg.score Reg.SCORE.COUNT = 1 ∧ t.dev.rd Pg.score Reg.SCORE.WRPTR = q.length ∧
      t.dev.headBytes = sha256 (scoreHead0 ++ q.bytes)))

/-- JOURNAL_RECORD programs the first change that waits at WRPTR of the partition in use and keeps its value as journalled, drops a change
that is none, and begins a compaction when the record does not fit; COMPACTION_DONE selects the other partition with a snapshot and erases
the one in use, or stops the journal when the flash fails; OPSEC_JOURNAL lets the counts be journalled after 60 s; USER_WRITE stores a
user word and lets it be journalled (R343 to R348). -/
def Obligations.JournalProceeds : Prop :=
  (∀ (s : State) (k p : Nat) (rest : List Nat), s.dev.sco.jdue = k :: rest → s.dev.flag Pg.journal Reg.JOURNAL.READY = true →
    s.dev.flag Pg.journal Reg.JOURNAL.JSTOP = false → s.dev.flag Pg.journal Reg.JOURNAL.COMPACTING = false →
    Tab.get s.dev.sco.jcopy k [] ≠ s.dev.jval k → p = s.dev.rd Pg.journal Reg.JOURNAL.WRPTR →
    p + (jRecord k (s.dev.jval k)).length ≤ 196608 →
    Gives (.journalRecord false) s (fun t => t = { s with flash := t.flash, dev := t.dev } ∧
      t.flash = flashProgram s.flash (s.dev.jPart (s.dev.rd Pg.journal Reg.JOURNAL.PART) + p) (jRecord k (s.dev.jval k)) ∧
      t.dev = { s.dev with regs := t.dev.regs, sco := t.dev.sco } ∧ t.dev.sco.jdue = rest ∧
      Tab.get t.dev.sco.jcopy k [] = s.dev.jval k ∧
      t.dev.rd Pg.journal Reg.JOURNAL.WRPTR = p + (jRecord k (s.dev.jval k)).length)) ∧
  (∀ (s : State) (k : Nat) (rest : List Nat) (fails : Bool), s.dev.sco.jdue = k :: rest → s.dev.flag Pg.journal Reg.JOURNAL.READY = true →
    s.dev.flag Pg.journal Reg.JOURNAL.JSTOP = false → s.dev.flag Pg.journal Reg.JOURNAL.COMPACTING = false →
    (Tab.get s.dev.sco.jcopy k [] = s.dev.jval k →
      GivesDev (.journalRecord fails) s (fun d => d = { s.dev with sco := { s.dev.sco with jdue := rest } })) ∧
    (Tab.get s.dev.sco.jcopy k [] ≠ s.dev.jval k →
      196608 < s.dev.rd Pg.journal Reg.JOURNAL.WRPTR + (jRecord k (s.dev.jval k)).length →
      GivesDev (.journalRecord fails) s (fun d => d = { s.dev with regs := d.regs } ∧
        d.flag Pg.journal Reg.JOURNAL.COMPACTING = true))) ∧
  (∀ (s : State) (p seq : Nat), s.dev.flag Pg.journal Reg.JOURNAL.COMPACTING = true → s.dev.flag Pg.journal Reg.JOURNAL.JSTOP = false →
    p = s.dev.rd Pg.journal Reg.JOURNAL.PART → seq = (s.dev.rd Pg.journal Reg.JOURNAL.SEQ + 1) % 2 ^ 32 →
    Gives (.compactionDone false) s (fun t => t = { s with flash := t.flash, dev := t.dev } ∧
      t.flash = flashErase (flashProgram (flashErase s.flash (s.dev.jPart (1 - p)) 0x40000) (s.dev.jPart (1 - p)) (s.dev.snapshot seq))
        (s.dev.jPart p) 0x40000 ∧ t.dev = { s.dev with regs := t.dev.regs } ∧ t.dev.rd Pg.journal Reg.JOURNAL.PART = 1 - p ∧
      t.dev.rd Pg.journal Reg.JOURNAL.SEQ = seq ∧ t.dev.flag Pg.journal Reg.JOURNAL.COMPACTING = false)) ∧
  (∀ (s : State), s.dev.flag Pg.journal Reg.JOURNAL.COMPACTING = true → s.dev.flag Pg.journal Reg.JOURNAL.JSTOP = false →
    GivesDev (.compactionDone true) s (fun d => d.flag Pg.journal Reg.JOURNAL.COMPACTING = false ∧
      d.flag Pg.journal Reg.JOURNAL.JSTOP = true)) ∧
  (∀ (s : State), s.dev.rd Pg.journal Reg.JOURNAL.OPSEC_J + 60 ≤ s.dev.rd Pg.score Reg.SCORE.OPSEC →
    GivesDev .opsecJournal s (fun d => d = { s.dev with sco := { s.dev.sco with jdue := d.sco.jdue } } ∧
      (∀ k, d.sco.jdue.contains k = (s.dev.sco.jdue.contains k || [0x100, 0x500, 0x600].contains k)))) ∧
  (∀ (s : State), s.dev.rd Pg.score Reg.SCORE.OPSEC < s.dev.rd Pg.journal Reg.JOURNAL.OPSEC_J + 60 →
    GivesDev .opsecJournal s (fun d => d = s.dev)) ∧
  (∀ (i : Fin 16) (v : Word) (s : State), GivesDev (.userWrite i v) s (fun d =>
    d = { s.dev with regs := d.regs, sco := { s.dev.sco with jdue := d.sco.jdue } } ∧
    d.rd Pg.journal Reg.JOURNAL.USER i = v.toNat ∧ (∀ j < 16, j ≠ i.val → d.rd Pg.journal Reg.JOURNAL.USER j = s.dev.rd Pg.journal Reg.JOURNAL.USER j) ∧
    d.sco.jdue.contains (0x800 + i.val) = true))
end

