-- ==== Sys2Proof/WellFormed.lean ====
section
/-!
DEFINITION. Which commands are well formed: the sizes of the payloads and lists that the rules give. Every meaning is total; an
ill-formed command is one that no bus, link or pin can bring.
-/

namespace Sys2Proof

/-- The sizes of a command's operands are those that the rules give. -/
def Instr.wf : Instr → Bool
  -- BAR4 requests and BAR0 writes carry at most 512 bytes (R351, R356, R360)
  | .apertureRead _ len => decide (0 < len.val)
  | .apertureWrite _ data => decide (0 < data.length ∧ data.length ≤ 512)
  | .registerWrite _ data => decide (0 < data.length ∧ data.length ≤ 512)
  -- ten devices of a memory port (R264), eight rails (R404), eight sensors (R416), four lanes (R384)
  | .ddrTrainingDone delays => decide (delays.length = 40)
  | .monitorSample mv _ => decide (mv.length = 8)
  | .governorMeasure _ tj => decide (tj.length = 8)
  | .csiDeskew _ skew => decide (skew.length = 4)
  -- frames of a Gostan link are 38 bytes (R387)
  | .glDataFrame _ f => decide (f.length = 38)
  | .glCtrlFrame _ f => decide (f.length = 38)
  | .glTunnelFrame _ f => decide (f.length = 38)
  | _ => true

end Sys2Proof
end

