-- ==== Sys2Proof/Laws/PerInstr.lean ====
section
/-!
SUPPORT. Facts about each command as syntax: the bytes that a well-formed command brings over a bus or a link are at most 512 (R351,
R356, R360, R387).
-/

namespace Sys2Proof

/-- How many bytes of payload a command brings over PCI Express or a Gostan link. -/
def Laws.busBytes : Instr → Nat
  | .apertureWrite _ data | .registerWrite _ data => data.length
  | .apertureRead _ len => len.val
  | .glDataFrame _ f | .glCtrlFrame _ f | .glTunnelFrame _ f => f.length
  | _ => 0

/-- A well-formed command brings at most 512 bytes. -/
def Laws.Sized.Statement (i : Instr) : Prop := i.wf = true → Laws.busBytes i ≤ 512

theorem Laws.sized (i : Instr) : Laws.Sized.Statement i := by
  intro h
  cases i <;> simp only [Laws.busBytes, Instr.wf, decide_eq_true_eq] at h ⊢ <;> omega

theorem Laws.Sized.nop : ∀ r, Laws.Sized.Statement (.nop r) := fun _ => Laws.sized _
theorem Laws.Sized.loadImage : ∀ img ptes, Laws.Sized.Statement (.loadImage img ptes) := fun _ _ => Laws.sized _
theorem Laws.Sized.unload : Laws.Sized.Statement (.unload) := Laws.sized _
theorem Laws.Sized.applyOverlay : Laws.Sized.Statement (.applyOverlay) := Laws.sized _
theorem Laws.Sized.start : Laws.Sized.Statement (.start) := Laws.sized _
theorem Laws.Sized.stop : Laws.Sized.Statement (.stop) := Laws.sized _
theorem Laws.Sized.drain : Laws.Sized.Statement (.drain) := Laws.sized _
theorem Laws.Sized.unfence : Laws.Sized.Statement (.unfence) := Laws.sized _
theorem Laws.Sized.readKey : ∀ r, Laws.Sized.Statement (.readKey r) := fun _ => Laws.sized _
theorem Laws.Sized.attest : ∀ r, Laws.Sized.Statement (.attest r) := fun _ => Laws.sized _
theorem Laws.Sized.attestReportWrite : ∀ failed, Laws.Sized.Statement (.attestReportWrite failed) := fun _ => Laws.sized _
theorem Laws.Sized.clearScoresheet : ∀ r sig, Laws.Sized.Statement (.clearScoresheet r sig) := fun _ _ => Laws.sized _
theorem Laws.Sized.scoresheetEraseDone : Laws.Sized.Statement (.scoresheetEraseDone) := Laws.sized _
theorem Laws.Sized.signal : ∀ r, Laws.Sized.Statement (.signal r) := fun _ => Laws.sized _
theorem Laws.Sized.fenceWait : ∀ r, Laws.Sized.Statement (.fenceWait r) := fun _ => Laws.sized _
theorem Laws.Sized.barrier : ∀ r, Laws.Sized.Statement (.barrier r) := fun _ => Laws.sized _
theorem Laws.Sized.fenceWaitComplete : ∀ r, Laws.Sized.Statement (.fenceWaitComplete r) := fun _ => Laws.sized _
theorem Laws.Sized.barrierComplete : ∀ r, Laws.Sized.Statement (.barrierComplete r) := fun _ => Laws.sized _
theorem Laws.Sized.waitTimeout : ∀ r, Laws.Sized.Statement (.waitTimeout r) := fun _ => Laws.sized _
theorem Laws.Sized.commandDispatch : Laws.Sized.Statement (.commandDispatch) := Laws.sized _
theorem Laws.Sized.completionEvent : ∀ r, Laws.Sized.Statement (.completionEvent r) := fun _ => Laws.sized _
theorem Laws.Sized.loaderQueueEnter : ∀ r, Laws.Sized.Statement (.loaderQueueEnter r) := fun _ => Laws.sized _
theorem Laws.Sized.loadComplete : ∀ d, Laws.Sized.Statement (.loadComplete d) := fun _ => Laws.sized _
theorem Laws.Sized.applyWrite : ∀ d, Laws.Sized.Statement (.applyWrite d) := fun _ => Laws.sized _
theorem Laws.Sized.drainComplete : ∀ d, Laws.Sized.Statement (.drainComplete d) := fun _ => Laws.sized _
theorem Laws.Sized.inputFrameStop : ∀ b, Laws.Sized.Statement (.inputFrameStop b) := fun _ => Laws.sized _
theorem Laws.Sized.inputFrameResume : ∀ b, Laws.Sized.Statement (.inputFrameResume b) := fun _ => Laws.sized _
theorem Laws.Sized.segmentBoundary : ∀ d, Laws.Sized.Statement (.segmentBoundary d) := fun _ => Laws.sized _
theorem Laws.Sized.segmentInstall : ∀ d, Laws.Sized.Statement (.segmentInstall d) := fun _ => Laws.sized _
theorem Laws.Sized.swap : ∀ c mask, Laws.Sized.Statement (.swap c mask) := fun _ _ => Laws.sized _
theorem Laws.Sized.trick : ∀ c p, Laws.Sized.Statement (.trick c p) := fun _ _ => Laws.sized _
theorem Laws.Sized.itemLand : ∀ c p, Laws.Sized.Statement (.itemLand c p) := fun _ _ => Laws.sized _
theorem Laws.Sized.bodyWrite : ∀ c p, Laws.Sized.Statement (.bodyWrite c p) := fun _ _ => Laws.sized _
theorem Laws.Sized.creditWord : ∀ c, Laws.Sized.Statement (.creditWord c) := fun _ => Laws.sized _
theorem Laws.Sized.holdRequest : ∀ d src, Laws.Sized.Statement (.holdRequest d src) := fun _ _ => Laws.sized _
theorem Laws.Sized.holdAssert : ∀ d, Laws.Sized.Statement (.holdAssert d) := fun _ => Laws.sized _
theorem Laws.Sized.holdRelease : ∀ d, Laws.Sized.Statement (.holdRelease d) := fun _ => Laws.sized _
theorem Laws.Sized.holdLong : ∀ d, Laws.Sized.Statement (.holdLong d) := fun _ => Laws.sized _
theorem Laws.Sized.mNop : ∀ c m, Laws.Sized.Statement (.mNop c m) := fun _ _ => Laws.sized _
theorem Laws.Sized.mLoop : ∀ c m, Laws.Sized.Statement (.mLoop c m) := fun _ _ => Laws.sized _
theorem Laws.Sized.conv : ∀ c m, Laws.Sized.Statement (.conv c m) := fun _ _ => Laws.sized _
theorem Laws.Sized.wconv : ∀ c m, Laws.Sized.Statement (.wconv c m) := fun _ _ => Laws.sized _
theorem Laws.Sized.mmul : ∀ c m, Laws.Sized.Statement (.mmul c m) := fun _ _ => Laws.sized _
theorem Laws.Sized.rsc : ∀ c m, Laws.Sized.Statement (.rsc c m) := fun _ _ => Laws.sized _
theorem Laws.Sized.mEmit : ∀ c m, Laws.Sized.Statement (.mEmit c m) := fun _ _ => Laws.sized _
theorem Laws.Sized.wswap : ∀ c m, Laws.Sized.Statement (.wswap c m) := fun _ _ => Laws.sized _
theorem Laws.Sized.wpset : ∀ c m, Laws.Sized.Statement (.wpset c m) := fun _ _ => Laws.sized _
theorem Laws.Sized.mPhold : ∀ c m, Laws.Sized.Statement (.mPhold c m) := fun _ _ => Laws.sized _
theorem Laws.Sized.mDrop : ∀ c m, Laws.Sized.Statement (.mDrop c m) := fun _ _ => Laws.sized _
theorem Laws.Sized.vNop : ∀ c v, Laws.Sized.Statement (.vNop c v) := fun _ _ => Laws.sized _
theorem Laws.Sized.vLoop : ∀ c v, Laws.Sized.Statement (.vLoop c v) := fun _ _ => Laws.sized _
theorem Laws.Sized.dwc : ∀ c v, Laws.Sized.Statement (.dwc c v) := fun _ _ => Laws.sized _
theorem Laws.Sized.pool : ∀ c v, Laws.Sized.Statement (.pool c v) := fun _ _ => Laws.sized _
theorem Laws.Sized.argm : ∀ c v, Laws.Sized.Statement (.argm c v) := fun _ _ => Laws.sized _
theorem Laws.Sized.elt : ∀ c v, Laws.Sized.Statement (.elt c v) := fun _ _ => Laws.sized _
theorem Laws.Sized.red : ∀ c v, Laws.Sized.Statement (.red c v) := fun _ _ => Laws.sized _
theorem Laws.Sized.func : ∀ c v, Laws.Sized.Statement (.func c v) := fun _ _ => Laws.sized _
theorem Laws.Sized.smx : ∀ c v, Laws.Sized.Statement (.smx c v) := fun _ _ => Laws.sized _
theorem Laws.Sized.lna : ∀ c v, Laws.Sized.Statement (.lna c v) := fun _ _ => Laws.sized _
theorem Laws.Sized.creq : ∀ c v, Laws.Sized.Statement (.creq c v) := fun _ _ => Laws.sized _
theorem Laws.Sized.csmp : ∀ c v, Laws.Sized.Statement (.csmp c v) := fun _ _ => Laws.sized _
theorem Laws.Sized.topk : ∀ c v, Laws.Sized.Statement (.topk c v) := fun _ _ => Laws.sized _
theorem Laws.Sized.sel : ∀ c v, Laws.Sized.Statement (.sel c v) := fun _ _ => Laws.sized _
theorem Laws.Sized.tok : ∀ c v, Laws.Sized.Statement (.tok c v) := fun _ _ => Laws.sized _
theorem Laws.Sized.ccv : ∀ c v, Laws.Sized.Statement (.ccv c v) := fun _ _ => Laws.sized _
theorem Laws.Sized.bgm : ∀ c v, Laws.Sized.Statement (.bgm c v) := fun _ _ => Laws.sized _
theorem Laws.Sized.trk : ∀ c v, Laws.Sized.Statement (.trk c v) := fun _ _ => Laws.sized _
theorem Laws.Sized.cvt : ∀ c v, Laws.Sized.Statement (.cvt c v) := fun _ _ => Laws.sized _
theorem Laws.Sized.sst : ∀ c v, Laws.Sized.Statement (.sst c v) := fun _ _ => Laws.sized _
theorem Laws.Sized.sld : ∀ c v, Laws.Sized.Statement (.sld c v) := fun _ _ => Laws.sized _
theorem Laws.Sized.vEmit : ∀ c v, Laws.Sized.Statement (.vEmit c v) := fun _ _ => Laws.sized _
theorem Laws.Sized.vPhold : ∀ c v, Laws.Sized.Statement (.vPhold c v) := fun _ _ => Laws.sized _
theorem Laws.Sized.vDrop : ∀ c v, Laws.Sized.Statement (.vDrop c v) := fun _ _ => Laws.sized _
theorem Laws.Sized.packetForward : ∀ c i k lane, Laws.Sized.Statement (.packetForward c i k lane) := fun _ _ _ _ => Laws.sized _
theorem Laws.Sized.bTileWrite : ∀ c, Laws.Sized.Statement (.bTileWrite c) := fun _ => Laws.sized _
theorem Laws.Sized.weightStoreWrite : ∀ c, Laws.Sized.Statement (.weightStoreWrite c) := fun _ => Laws.sized _
theorem Laws.Sized.queuePush : ∀ n, Laws.Sized.Statement (.queuePush n) := fun _ => Laws.sized _
theorem Laws.Sized.readRequest : ∀ c, Laws.Sized.Statement (.readRequest c) := fun _ => Laws.sized _
theorem Laws.Sized.readResponse : ∀ n, Laws.Sized.Statement (.readResponse n) := fun _ => Laws.sized _
theorem Laws.Sized.writeAcknowledgement : ∀ n, Laws.Sized.Statement (.writeAcknowledgement n) := fun _ => Laws.sized _
theorem Laws.Sized.configurationWrite : ∀ n, Laws.Sized.Statement (.configurationWrite n) := fun _ => Laws.sized _
theorem Laws.Sized.spillSend : ∀ c b i, Laws.Sized.Statement (.spillSend c b i) := fun _ _ _ => Laws.sized _
theorem Laws.Sized.spillPacket : ∀ f, Laws.Sized.Statement (.spillPacket f) := fun _ => Laws.sized _
theorem Laws.Sized.spillAck : ∀ f st, Laws.Sized.Statement (.spillAck f st) := fun _ _ => Laws.sized _
theorem Laws.Sized.isoMapUpdate : ∀ n, Laws.Sized.Statement (.isoMapUpdate n) := fun _ => Laws.sized _
theorem Laws.Sized.fetchIssue : ∀ f, Laws.Sized.Statement (.fetchIssue f) := fun _ => Laws.sized _
theorem Laws.Sized.fetchReturn : ∀ f tag host, Laws.Sized.Statement (.fetchReturn f tag host) := fun _ _ _ => Laws.sized _
theorem Laws.Sized.passStart : ∀ f st, Laws.Sized.Statement (.passStart f st) := fun _ _ => Laws.sized _
theorem Laws.Sized.gatherRequest : ∀ f st, Laws.Sized.Statement (.gatherRequest f st) := fun _ _ => Laws.sized _
theorem Laws.Sized.prefetchDone : ∀ f st, Laws.Sized.Statement (.prefetchDone f st) := fun _ _ => Laws.sized _
theorem Laws.Sized.tagTimeout : ∀ p tag, Laws.Sized.Statement (.tagTimeout p tag) := fun _ _ => Laws.sized _
theorem Laws.Sized.cancelComplete : ∀ f st, Laws.Sized.Statement (.cancelComplete f st) := fun _ _ => Laws.sized _
theorem Laws.Sized.cancel : ∀ f st, Laws.Sized.Statement (.cancel f st) := fun _ _ => Laws.sized _
theorem Laws.Sized.resolveRetry : ∀ f st, Laws.Sized.Statement (.resolveRetry f st) := fun _ _ => Laws.sized _
theorem Laws.Sized.resolveCancel : ∀ f st, Laws.Sized.Statement (.resolveCancel f st) := fun _ _ => Laws.sized _
theorem Laws.Sized.xlateWaitExpiry : ∀ f st, Laws.Sized.Statement (.xlateWaitExpiry f st) := fun _ _ => Laws.sized _
theorem Laws.Sized.walkDone : ∀ f st host, Laws.Sized.Statement (.walkDone f st host) := fun _ _ _ => Laws.sized _
theorem Laws.Sized.inval : Laws.Sized.Statement (.inval) := Laws.sized _
theorem Laws.Sized.invalComplete : Laws.Sized.Statement (.invalComplete) := Laws.sized _
theorem Laws.Sized.lock : Laws.Sized.Statement (.lock) := Laws.sized _
theorem Laws.Sized.lockComplete : ∀ host, Laws.Sized.Statement (.lockComplete host) := fun _ => Laws.sized _
theorem Laws.Sized.unlock : Laws.Sized.Statement (.unlock) := Laws.sized _
theorem Laws.Sized.memAccess : ∀ p tag, Laws.Sized.Statement (.memAccess p tag) := fun _ _ => Laws.sized _
theorem Laws.Sized.refresh : ∀ p, Laws.Sized.Statement (.refresh p) := fun _ => Laws.sized _
theorem Laws.Sized.ddrScrub : ∀ p, Laws.Sized.Statement (.ddrScrub p) := fun _ => Laws.sized _
theorem Laws.Sized.ddrScrubWriteback : ∀ p, Laws.Sized.Statement (.ddrScrubWriteback p) := fun _ => Laws.sized _
theorem Laws.Sized.btScrub : ∀ c b, Laws.Sized.Statement (.btScrub c b) := fun _ _ => Laws.sized _
theorem Laws.Sized.btScrubWriteback : ∀ c b, Laws.Sized.Statement (.btScrubWriteback c b) := fun _ _ => Laws.sized _
theorem Laws.Sized.btInitDone : ∀ c b, Laws.Sized.Statement (.btInitDone c b) := fun _ _ => Laws.sized _
theorem Laws.Sized.queueResetDone : ∀ b, Laws.Sized.Statement (.queueResetDone b) := fun _ => Laws.sized _
theorem Laws.Sized.tailTimeout : ∀ q, Laws.Sized.Statement (.tailTimeout q) := fun _ => Laws.sized _
theorem Laws.Sized.windowRead : ∀ who q, Laws.Sized.Statement (.windowRead who q) := fun _ _ => Laws.sized _
theorem Laws.Sized.windowWrite : ∀ q w, Laws.Sized.Statement (.windowWrite q w) := fun _ _ => Laws.sized _
theorem Laws.Sized.windowStallReturn : ∀ who q, Laws.Sized.Statement (.windowStallReturn who q) := fun _ _ => Laws.sized _
theorem Laws.Sized.windowStallTimeout : ∀ who q, Laws.Sized.Statement (.windowStallTimeout who q) := fun _ _ => Laws.sized _
theorem Laws.Sized.doorbell : ∀ b v, Laws.Sized.Statement (.doorbell b v) := fun _ _ => Laws.sized _
theorem Laws.Sized.ringEnable : ∀ b, Laws.Sized.Statement (.ringEnable b) := fun _ => Laws.sized _
theorem Laws.Sized.ringDisable : ∀ b, Laws.Sized.Statement (.ringDisable b) := fun _ => Laws.sized _
theorem Laws.Sized.ringRead : ∀ b, Laws.Sized.Statement (.ringRead b) := fun _ => Laws.sized _
theorem Laws.Sized.ringReadCompletion : ∀ b r, Laws.Sized.Statement (.ringReadCompletion b r) := fun _ _ => Laws.sized _
theorem Laws.Sized.ringWrite : ∀ b, Laws.Sized.Statement (.ringWrite b) := fun _ => Laws.sized _
theorem Laws.Sized.cplTimeout : ∀ tag, Laws.Sized.Statement (.cplTimeout tag) := fun _ => Laws.sized _
theorem Laws.Sized.hostPortReset : Laws.Sized.Statement (.hostPortReset) := Laws.sized _
theorem Laws.Sized.apertureRead : ∀ off len, Laws.Sized.Statement (.apertureRead off len) := fun _ _ => Laws.sized _
theorem Laws.Sized.apertureWrite : ∀ off data, Laws.Sized.Statement (.apertureWrite off data) := fun _ _ => Laws.sized _
theorem Laws.Sized.apertureReadTimeout : ∀ txid, Laws.Sized.Statement (.apertureReadTimeout txid) := fun _ => Laws.sized _
theorem Laws.Sized.syncAdd : ∀ n v, Laws.Sized.Statement (.syncAdd n v) := fun _ _ => Laws.sized _
theorem Laws.Sized.signalWord : ∀ r, Laws.Sized.Statement (.signalWord r) := fun _ => Laws.sized _
theorem Laws.Sized.causeResolve : Laws.Sized.Statement (.causeResolve) := Laws.sized _
theorem Laws.Sized.foldComplete : ∀ d, Laws.Sized.Statement (.foldComplete d) := fun _ => Laws.sized _
theorem Laws.Sized.keyUpdate : Laws.Sized.Statement (.keyUpdate) := Laws.sized _
theorem Laws.Sized.fenceNow : ∀ c, Laws.Sized.Statement (.fenceNow c) := fun _ => Laws.sized _
theorem Laws.Sized.firstClear : Laws.Sized.Statement (.firstClear) := Laws.sized _
theorem Laws.Sized.fltStatClear : ∀ pg bits, Laws.Sized.Statement (.fltStatClear pg bits) := fun _ _ => Laws.sized _
theorem Laws.Sized.rearmExpiry : ∀ pg bit, Laws.Sized.Statement (.rearmExpiry pg bit) := fun _ _ => Laws.sized _
theorem Laws.Sized.stalemate : ∀ d, Laws.Sized.Statement (.stalemate d) := fun _ => Laws.sized _
theorem Laws.Sized.quietExpiry : ∀ d, Laws.Sized.Statement (.quietExpiry d) := fun _ => Laws.sized _
theorem Laws.Sized.recoveryComplete : ∀ d, Laws.Sized.Statement (.recoveryComplete d) := fun _ => Laws.sized _
theorem Laws.Sized.quietMsWrite : ∀ d v, Laws.Sized.Statement (.quietMsWrite d v) := fun _ _ => Laws.sized _
theorem Laws.Sized.quietCurReset : ∀ d, Laws.Sized.Statement (.quietCurReset d) := fun _ => Laws.sized _
theorem Laws.Sized.pllLoss : ∀ xinLost, Laws.Sized.Statement (.pllLoss xinLost) := fun _ => Laws.sized _
theorem Laws.Sized.lockstep : Laws.Sized.Statement (.lockstep) := Laws.sized _
theorem Laws.Sized.security : ∀ why, Laws.Sized.Statement (.security why) := fun _ => Laws.sized _
theorem Laws.Sized.chipReset : Laws.Sized.Statement (.chipReset) := Laws.sized _
theorem Laws.Sized.dealerReloadDone : Laws.Sized.Statement (.dealerReloadDone) := Laws.sized _
theorem Laws.Sized.aliveToggle : Laws.Sized.Statement (.aliveToggle) := Laws.sized _
theorem Laws.Sized.aliveRestart : Laws.Sized.Statement (.aliveRestart) := Laws.sized _
theorem Laws.Sized.privLock : Laws.Sized.Statement (.privLock) := Laws.sized _
theorem Laws.Sized.injGo : Laws.Sized.Statement (.injGo) := Laws.sized _
theorem Laws.Sized.arm : Laws.Sized.Statement (.arm) := Laws.sized _
theorem Laws.Sized.injPriv : ∀ mask, Laws.Sized.Statement (.injPriv mask) := fun _ => Laws.sized _
theorem Laws.Sized.recordCommit : Laws.Sized.Statement (.recordCommit) := Laws.sized _
theorem Laws.Sized.scoresheetScan : Laws.Sized.Statement (.scoresheetScan) := Laws.sized _
theorem Laws.Sized.journalRecord : ∀ flashFails, Laws.Sized.Statement (.journalRecord flashFails) := fun _ => Laws.sized _
theorem Laws.Sized.compactionDone : ∀ flashFails, Laws.Sized.Statement (.compactionDone flashFails) := fun _ => Laws.sized _
theorem Laws.Sized.opsecTick : ∀ wear, Laws.Sized.Statement (.opsecTick wear) := fun _ => Laws.sized _
theorem Laws.Sized.opsecJournal : Laws.Sized.Statement (.opsecJournal) := Laws.sized _
theorem Laws.Sized.userWrite : ∀ i v, Laws.Sized.Statement (.userWrite i v) := fun _ _ => Laws.sized _
theorem Laws.Sized.pwrokFall : Laws.Sized.Statement (.pwrokFall) := Laws.sized _
theorem Laws.Sized.resetL : ∀ ns, Laws.Sized.Statement (.resetL ns) := fun _ => Laws.sized _
theorem Laws.Sized.pePerstLAssert : Laws.Sized.Statement (.pePerstLAssert) := Laws.sized _
theorem Laws.Sized.pePerstLDeassert : Laws.Sized.Statement (.pePerstLDeassert) := Laws.sized _
theorem Laws.Sized.bootStart : ∀ pd pu testmode, Laws.Sized.Statement (.bootStart pd pu testmode) := fun _ _ _ => Laws.sized _
theorem Laws.Sized.pllLock : Laws.Sized.Statement (.pllLock) := Laws.sized _
theorem Laws.Sized.firmwareVerified : ∀ upstream, Laws.Sized.Statement (.firmwareVerified upstream) := fun _ => Laws.sized _
theorem Laws.Sized.bootGo : Laws.Sized.Statement (.bootGo) := Laws.sized _
theorem Laws.Sized.ddrTrainingDone : ∀ lens, Laws.Sized.Statement (.ddrTrainingDone lens) := fun _ => Laws.sized _
theorem Laws.Sized.hostPortReady : Laws.Sized.Statement (.hostPortReady) := Laws.sized _
theorem Laws.Sized.autoload : ∀ k, Laws.Sized.Statement (.autoload k) := fun _ => Laws.sized _
theorem Laws.Sized.monitorSample : ∀ mv out, Laws.Sized.Statement (.monitorSample mv out) := fun _ _ => Laws.sized _
theorem Laws.Sized.pmbusPoll : ∀ rail reply, Laws.Sized.Statement (.pmbusPoll rail reply) := fun _ _ => Laws.sized _
theorem Laws.Sized.governorMeasure : ∀ p tj, Laws.Sized.Statement (.governorMeasure p tj) := fun _ _ => Laws.sized _
theorem Laws.Sized.governorCalibrate : Laws.Sized.Statement (.governorCalibrate) := Laws.sized _
theorem Laws.Sized.governorWindow : Laws.Sized.Statement (.governorWindow) := Laws.sized _
theorem Laws.Sized.thermtripHw : Laws.Sized.Statement (.thermtripHw) := Laws.sized _
theorem Laws.Sized.trgEdge : ∀ i level, Laws.Sized.Statement (.trgEdge i level) := fun _ _ => Laws.sized _
theorem Laws.Sized.trgStuck : ∀ i, Laws.Sized.Statement (.trgStuck i) := fun _ => Laws.sized _
theorem Laws.Sized.trgUnstuck : ∀ i, Laws.Sized.Statement (.trgUnstuck i) := fun _ => Laws.sized _
theorem Laws.Sized.trgTokenPush : ∀ i, Laws.Sized.Statement (.trgTokenPush i) := fun _ => Laws.sized _
theorem Laws.Sized.provision : ∀ trng arg, Laws.Sized.Statement (.provision trng arg) := fun _ _ => Laws.sized _
theorem Laws.Sized.own : ∀ arg, Laws.Sized.Statement (.own arg) := fun _ => Laws.sized _
theorem Laws.Sized.revoke : ∀ arg, Laws.Sized.Statement (.revoke arg) := fun _ => Laws.sized _
theorem Laws.Sized.return_ : ∀ arg, Laws.Sized.Statement (.return_ arg) := fun _ => Laws.sized _
theorem Laws.Sized.svnCommit : ∀ arg, Laws.Sized.Statement (.svnCommit arg) := fun _ => Laws.sized _
theorem Laws.Sized.keyLatch : Laws.Sized.Statement (.keyLatch) := Laws.sized _
theorem Laws.Sized.csiLongPacket : ∀ n hdr vc dt payload crcOk, Laws.Sized.Statement (.csiLongPacket n hdr vc dt payload crcOk) := fun _ _ _ _ _ _ => Laws.sized _
theorem Laws.Sized.csiFs : ∀ n vc fnum, Laws.Sized.Statement (.csiFs n vc fnum) := fun _ _ _ => Laws.sized _
theorem Laws.Sized.csiFe : ∀ n vc, Laws.Sized.Statement (.csiFe n vc) := fun _ _ => Laws.sized _
theorem Laws.Sized.csiTiming : ∀ n why lane vc, Laws.Sized.Statement (.csiTiming n why lane vc) := fun _ _ _ _ => Laws.sized _
theorem Laws.Sized.csiDeskew : ∀ n skew, Laws.Sized.Statement (.csiDeskew n skew) := fun _ _ => Laws.sized _
theorem Laws.Sized.glDataFrame : ∀ k frame, Laws.Sized.Statement (.glDataFrame k frame) := fun _ _ => Laws.sized _
theorem Laws.Sized.glCtrlFrame : ∀ k frame, Laws.Sized.Statement (.glCtrlFrame k frame) := fun _ _ => Laws.sized _
theorem Laws.Sized.glTunnelFrame : ∀ k frame, Laws.Sized.Statement (.glTunnelFrame k frame) := fun _ _ => Laws.sized _
theorem Laws.Sized.glTransmit : ∀ k, Laws.Sized.Statement (.glTransmit k) := fun _ => Laws.sized _
theorem Laws.Sized.glReplay : ∀ k, Laws.Sized.Statement (.glReplay k) := fun _ => Laws.sized _
theorem Laws.Sized.glDown : ∀ k why, Laws.Sized.Statement (.glDown k why) := fun _ _ => Laws.sized _
theorem Laws.Sized.glTrainAdvance : ∀ k e, Laws.Sized.Statement (.glTrainAdvance k e) := fun _ _ => Laws.sized _
theorem Laws.Sized.glKeyUpdate : ∀ k, Laws.Sized.Statement (.glKeyUpdate k) := fun _ => Laws.sized _
theorem Laws.Sized.retrain : ∀ k, Laws.Sized.Statement (.retrain k) := fun _ => Laws.sized _
theorem Laws.Sized.tunWr : ∀ k, Laws.Sized.Statement (.tunWr k) := fun _ => Laws.sized _
theorem Laws.Sized.tunRd : ∀ k, Laws.Sized.Statement (.tunRd k) := fun _ => Laws.sized _
theorem Laws.Sized.tunTimeout : ∀ k, Laws.Sized.Statement (.tunTimeout k) := fun _ => Laws.sized _
theorem Laws.Sized.quiesce : ∀ pg on, Laws.Sized.Statement (.quiesce pg on) := fun _ _ => Laws.sized _
theorem Laws.Sized.blockReset : ∀ pg, Laws.Sized.Statement (.blockReset pg) := fun _ => Laws.sized _
theorem Laws.Sized.perfSelWrite : ∀ pg v, Laws.Sized.Statement (.perfSelWrite pg v) := fun _ _ => Laws.sized _
theorem Laws.Sized.perfCntRead : ∀ pg, Laws.Sized.Statement (.perfCntRead pg) := fun _ => Laws.sized _
theorem Laws.Sized.syncValueRead : ∀ who n, Laws.Sized.Statement (.syncValueRead who n) := fun _ _ => Laws.sized _
theorem Laws.Sized.rttClr : ∀ p, Laws.Sized.Statement (.rttClr p) := fun _ => Laws.sized _
theorem Laws.Sized.ttData : ∀ c w, Laws.Sized.Statement (.ttData c w) := fun _ _ => Laws.sized _
theorem Laws.Sized.ltData : ∀ c w, Laws.Sized.Statement (.ltData c w) := fun _ _ => Laws.sized _
theorem Laws.Sized.mPiHi : ∀ c m v, Laws.Sized.Statement (.mPiHi c m v) := fun _ _ _ => Laws.sized _
theorem Laws.Sized.mDiHi : ∀ c m v, Laws.Sized.Statement (.mDiHi c m v) := fun _ _ _ => Laws.sized _
theorem Laws.Sized.vPiHi : ∀ c u v, Laws.Sized.Statement (.vPiHi c u v) := fun _ _ _ => Laws.sized _
theorem Laws.Sized.vDiHi : ∀ c u v, Laws.Sized.Statement (.vDiHi c u v) := fun _ _ _ => Laws.sized _
theorem Laws.Sized.ftHi : ∀ c u v, Laws.Sized.Statement (.ftHi c u v) := fun _ _ _ => Laws.sized _
theorem Laws.Sized.hostEtData : ∀ w, Laws.Sized.Statement (.hostEtData w) := fun _ => Laws.sized _
theorem Laws.Sized.ctData : ∀ v, Laws.Sized.Statement (.ctData v) := fun _ => Laws.sized _
theorem Laws.Sized.ptData : ∀ n w, Laws.Sized.Statement (.ptData n w) := fun _ _ => Laws.sized _
theorem Laws.Sized.glEtData : ∀ k w, Laws.Sized.Statement (.glEtData k w) := fun _ _ => Laws.sized _
theorem Laws.Sized.registerWrite : ∀ off data, Laws.Sized.Statement (.registerWrite off data) := fun _ _ => Laws.sized _
theorem Laws.Sized.pcieLinkUp : ∀ speed width reversed pol, Laws.Sized.Statement (.pcieLinkUp speed width reversed pol) := fun _ _ _ _ => Laws.sized _

end Sys2Proof
end

