-- ==== Sys2Proof/Laws/Tab.lean ====
section
/-!
SUPPORT. Laws of sparse tables and memories: what a read gives after a write, and that every operation keeps the canonical form.
-/

namespace Sys2Proof.Machine

variable {α : Type}

/-! ### Reads after writes -/

@[simp] theorem Tab.get_nil (k : Nat) (d : α) : Tab.get ([] : Tab α) k d = d := rfl

@[simp] theorem Tab.get_put_same (t : Tab α) (k : Nat) (v d : α) : Tab.get (Tab.put t k v) k d = v := by
  induction t with
  | nil => simp [Tab.put, Tab.get]
  | cons e r ih =>
    obtain ⟨j, w⟩ := e
    unfold Tab.put
    split
    · simp [Tab.get]
    · split
      · simp [Tab.get]
      · rename_i h1 h2
        simp [Tab.get, h1, ih]

theorem Tab.get_put_other (t : Tab α) {k j : Nat} (v d : α) (h : j ≠ k) : Tab.get (Tab.put t k v) j d = Tab.get t j d := by
  induction t with
  | nil => simp [Tab.put, Tab.get, h.symm]
  | cons e r ih =>
    obtain ⟨i, w⟩ := e
    unfold Tab.put
    split
    · rename_i h1
      subst h1
      simp [Tab.get, h.symm]
    · split
      · simp [Tab.get, h.symm]
      · simp [Tab.get, ih]

@[simp] theorem Tab.get_del_same (t : Tab α) (k : Nat) (d : α) : Tab.get (Tab.del t k) k d = d := by
  induction t with
  | nil => rfl
  | cons e r ih =>
    obtain ⟨j, w⟩ := e
    unfold Tab.del
    split
    · exact ih
    · rename_i h
      simp [Tab.get, h, ih]

theorem Tab.get_del_other (t : Tab α) {k j : Nat} (d : α) (h : j ≠ k) : Tab.get (Tab.del t k) j d = Tab.get t j d := by
  induction t with
  | nil => rfl
  | cons e r ih =>
    obtain ⟨i, w⟩ := e
    unfold Tab.del
    split
    · rename_i h1
      subst h1
      simp [Tab.get, h.symm, ih]
    · simp [Tab.get, ih]

@[simp] theorem Tab.get_set_same [DecidableEq α] (t : Tab α) (k : Nat) (v d : α) : Tab.get (Tab.set t k v d) k d = v := by
  unfold Tab.set
  split
  · rename_i h
    rw [h, Tab.get_del_same]
  · exact Tab.get_put_same t k v d

theorem Tab.get_set_other [DecidableEq α] (t : Tab α) {k j : Nat} (v d e : α) (h : j ≠ k) :
    Tab.get (Tab.set t k v d) j e = Tab.get t j e := by
  unfold Tab.set
  split
  · exact Tab.get_del_other t e h
  · exact Tab.get_put_other t v e h

/-- A read after a write, of any key. -/
theorem Tab.get_set [DecidableEq α] (t : Tab α) (k j : Nat) (v d : α) :
    Tab.get (Tab.set t k v d) j d = if j = k then v else Tab.get t j d := by
  split
  · rename_i h
    rw [h, Tab.get_set_same]
  · rename_i h
    exact Tab.get_set_other t v d d h

/-! ### The canonical form -/

theorem Tab.wfFrom_mono [DecidableEq α] {f : Nat → α} {lo lo' : Nat} (h : lo' ≤ lo) :
    ∀ {t : Tab α}, Tab.wfFrom f lo t = true → Tab.wfFrom f lo' t = true
  | [], _ => rfl
  | (k, v) :: r, hw => by
    simp only [Tab.wfFrom, Bool.and_eq_true, decide_eq_true_eq] at hw ⊢
    exact ⟨⟨le_trans h hw.1.1, hw.1.2⟩, hw.2⟩

theorem Tab.wfFrom_del [DecidableEq α] {f : Nat → α} (k : Nat) :
    ∀ {t : Tab α} {lo : Nat}, Tab.wfFrom f lo t = true → Tab.wfFrom f lo (Tab.del t k) = true
  | [], _, _ => rfl
  | (j, v) :: r, lo, h => by
    simp only [Tab.wfFrom, Bool.and_eq_true, decide_eq_true_eq] at h
    unfold Tab.del
    split
    · exact Tab.wfFrom_mono (by omega) (Tab.wfFrom_del k h.2)
    · simp only [Tab.wfFrom, Bool.and_eq_true, decide_eq_true_eq]
      exact ⟨h.1, Tab.wfFrom_del k h.2⟩

theorem Tab.wfFrom_put [DecidableEq α] {f : Nat → α} {k : Nat} {v : α} (hv : v ≠ f k) :
    ∀ {t : Tab α} {lo : Nat}, lo ≤ k → Tab.wfFrom f lo t = true → Tab.wfFrom f lo (Tab.put t k v) = true
  | [], lo, hk, _ => by simp [Tab.put, Tab.wfFrom, hk, hv]
  | (j, w) :: r, lo, hk, h => by
    simp only [Tab.wfFrom, Bool.and_eq_true, decide_eq_true_eq] at h
    unfold Tab.put
    split
    · rename_i e
      subst e
      simp only [Tab.wfFrom, Bool.and_eq_true, decide_eq_true_eq]
      exact ⟨⟨hk, hv⟩, h.2⟩
    · split
      · simp only [Tab.wfFrom, Bool.and_eq_true, decide_eq_true_eq]
        refine ⟨⟨hk, hv⟩, ⟨?_, h.1.2⟩, h.2⟩
        omega
      · simp only [Tab.wfFrom, Bool.and_eq_true, decide_eq_true_eq]
        exact ⟨h.1, Tab.wfFrom_put hv (by omega) h.2⟩

/-- A write keeps the canonical form. -/
theorem Tab.wf_set [DecidableEq α] {f : Nat → α} {t : Tab α} (h : Tab.wf f t = true) (k : Nat) (v : α) :
    Tab.wf f (Tab.set t k v (f k)) = true := by
  unfold Tab.set
  split
  · exact Tab.wfFrom_del k h
  · rename_i hv
    exact Tab.wfFrom_put hv (Nat.zero_le k) h

/-! ### Memories -/

theorem Memory.wf_nil (d : Byte) : Memory.wf d [] = true := rfl

theorem Memory.wf_write {d : Byte} {m : Memory} (h : Memory.wf d m = true) (a : Nat) (b : Byte) :
    Memory.wf d (Memory.write m a b d) = true := Tab.wf_set (f := fun _ => d) h a b

@[simp] theorem Memory.read_write_same (d : Byte) (m : Memory) (a : Nat) (b : Byte) :
    Memory.read (Memory.write m a b d) a d = b := Tab.get_set_same m a b d

theorem Memory.read_write_other {d : Byte} (m : Memory) {a x : Nat} (b : Byte) (hx : x ≠ a) :
    Memory.read (Memory.write m a b d) x d = Memory.read m x d := Tab.get_set_other m b d d hx

theorem Memory.wf_writeList {d : Byte} : ∀ {bs : List Byte} {m : Memory} {a : Nat}, Memory.wf d m = true →
    Memory.wf d (Memory.writeList m a bs d) = true
  | [], _, _, h => h
  | b :: r, m, a, h => by
    unfold Memory.writeList
    exact Memory.wf_writeList (Memory.wf_write h a b)

/-- Every byte outside the bytes written reads as before. -/
theorem Memory.read_writeList_other {d : Byte} {x : Nat} : ∀ {bs : List Byte} {m : Memory} {a : Nat},
    (x < a ∨ a + bs.length ≤ x) → Memory.read (Memory.writeList m a bs d) x d = Memory.read m x d
  | [], _, _, _ => rfl
  | b :: r, m, a, hx => by
    simp only [List.length_cons] at hx
    rw [Memory.writeList, Memory.read_writeList_other (by omega)]
    exact Memory.read_write_other m b (by omega)

/-- The bytes written read back. -/
theorem Memory.read_writeList_same {d : Byte} : ∀ {bs : List Byte} {m : Memory} {a i : Nat} (h : i < bs.length),
    Memory.read (Memory.writeList m a bs d) (a + i) d = bs[i]
  | b :: r, m, a, 0, _ => by
    rw [Memory.writeList, Memory.read_writeList_other (by omega)]
    exact Memory.read_write_same d m a b
  | b :: r, m, a, i + 1, h => by
    have hi : i < r.length := by simpa using h
    rw [Memory.writeList, show a + (i + 1) = (a + 1) + i by omega]
    simpa using Memory.read_writeList_same (bs := r) (m := Memory.write m a b d) (a := a + 1) hi

theorem Memory.readList_length (m : Memory) (d : Byte) : ∀ (n a : Nat), (Memory.readList m a n d).length = n
  | 0, _ => rfl
  | n + 1, a => by simp [Memory.readList, Memory.readList_length m d n (a + 1)]

end Sys2Proof.Machine
end

