-- ==== Sys2Proof/Laws/Regs.lean ====
section
/-!
SUPPORT. Laws of register words and fields: what a field reads after a write of it, of another field of its word, and of another word.
-/

namespace Sys2Proof.Machine

/-! ### Bit fields of a number -/

theorem bitsOf_lt (x lo w : Nat) : bitsOf x lo w < 2 ^ w := Nat.mod_lt _ (Nat.two_pow_pos w)

theorem testBit_bitsOf (x lo w i : Nat) : (bitsOf x lo w).testBit i = (decide (i < w) && x.testBit (lo + i)) := by
  simp [bitsOf, Nat.testBit_mod_two_pow, Nat.testBit_shiftRight]

/-- A number cut at bits `lo` and `lo + w`. -/
theorem setBits_eq (x lo w v : Nat) :
    setBits x lo w v = 2 ^ lo * (2 ^ w * (x / 2 ^ (lo + w)) + v % 2 ^ w) + x % 2 ^ lo := by
  have h1 : x / 2 ^ lo / 2 ^ w = x / 2 ^ (lo + w) := by rw [Nat.div_div_eq_div_mul, ← Nat.pow_add]
  have h2 : x = 2 ^ lo * (x / 2 ^ lo) + x % 2 ^ lo := (Nat.div_add_mod x (2 ^ lo)).symm
  have h3 : x / 2 ^ lo = 2 ^ w * (x / 2 ^ lo / 2 ^ w) + x / 2 ^ lo % 2 ^ w := (Nat.div_add_mod _ _).symm
  unfold setBits bitsOf
  simp only [Nat.shiftRight_eq_div_pow, Nat.shiftLeft_eq]
  rw [← h1]
  generalize x / 2 ^ lo / 2 ^ w = A at *
  generalize x / 2 ^ lo % 2 ^ w = B at *
  rw [h3] at h2
  generalize x % 2 ^ lo = C at *
  generalize v % 2 ^ w = V at *
  rw [h2, Nat.mul_add, Nat.mul_add, Nat.mul_comm B, Nat.mul_comm V]
  omega

theorem testBit_setBits (x lo w v i : Nat) :
    (setBits x lo w v).testBit i = if lo ≤ i ∧ i < lo + w then v.testBit (i - lo) else x.testBit i := by
  rw [setBits_eq, Nat.testBit_two_pow_mul_add _ (Nat.mod_lt _ (Nat.two_pow_pos lo))]
  by_cases h : i < lo
  · have h2 : ¬(lo ≤ i ∧ i < lo + w) := by omega
    simp [h, h2, Nat.testBit_mod_two_pow]
  · rw [if_neg h, Nat.testBit_two_pow_mul_add _ (Nat.mod_lt _ (Nat.two_pow_pos w))]
    by_cases h3 : i - lo < w
    · have h4 : lo ≤ i ∧ i < lo + w := by omega
      simp [h3, h4, Nat.testBit_mod_two_pow]
    · have h4 : ¬(lo ≤ i ∧ i < lo + w) := by omega
      rw [if_neg h3, if_neg h4, Nat.testBit_div_two_pow]
      congr 1
      omega

theorem bitsOf_setBits_same (x lo w v : Nat) : bitsOf (setBits x lo w v) lo w = v % 2 ^ w := by
  apply Nat.eq_of_testBit_eq
  intro i
  rw [testBit_bitsOf, testBit_setBits, Nat.testBit_mod_two_pow]
  by_cases h : i < w
  · have h2 : lo ≤ lo + i ∧ lo + i < lo + w := by omega
    simp [h]
  · simp [h]

theorem bitsOf_setBits_other (x lo w v : Nat) {lo' w' : Nat} (h : lo' + w' ≤ lo ∨ lo + w ≤ lo') :
    bitsOf (setBits x lo w v) lo' w' = bitsOf x lo' w' := by
  apply Nat.eq_of_testBit_eq
  intro i
  rw [testBit_bitsOf, testBit_bitsOf, testBit_setBits]
  by_cases h1 : i < w'
  · have h2 : ¬(lo ≤ lo' + i ∧ lo' + i < lo + w) := by omega
    rw [if_neg h2]
  · simp [h1]

theorem setBits_lt {x lo w v n : Nat} (hx : x < 2 ^ n) (h : lo + w ≤ n) : setBits x lo w v < 2 ^ n := by
  apply Nat.lt_pow_two_of_testBit
  intro i hi
  rw [testBit_setBits, if_neg (by omega)]
  exact Nat.testBit_lt_two_pow (lt_of_lt_of_le hx (Nat.pow_le_pow_right (by omega) hi))

/-! ### Words -/

theorem Dev.word_lt (d : Dev) (a : Nat) : d.word a < 2 ^ 32 := BitVec.isLt _

@[simp] theorem Dev.word_setWord_same (d : Dev) (a v : Nat) : (d.setWord a v).word a = v % 2 ^ 32 := by
  simp [Dev.word, Dev.setWord]

theorem Dev.word_setWord_other (d : Dev) {a b : Nat} (v : Nat) (h : b / 4 ≠ a / 4) : (d.setWord a v).word b = d.word b := by
  simp [Dev.word, Dev.setWord, Tab.get_set_other _ _ _ _ h]

/-- A store of a word at which a page keeps its fields leaves the words of other addresses alone. -/
theorem Dev.rd_setWord_other (d : Dev) {a : Nat} (v : Nat) {base : Nat} {F : Fld} {i : Nat}
    (h : (base + F.off + F.stride * i) / 4 ≠ a / 4) : (d.setWord a v).rd base F i = d.rd base F i := by
  simp [Dev.rd, Dev.word_setWord_other d v h]

/-! ### Fields -/

/-- A field reads what was written to it. -/
theorem Dev.rd_wr_same (d : Dev) (base : Nat) (F : Fld) (v i : Nat) (h : F.lo + F.w ≤ 32) :
    (d.wr base F v i).rd base F i = v % 2 ^ F.w := by
  unfold Dev.rd Dev.wr
  rw [Dev.word_setWord_same, Nat.mod_eq_of_lt (setBits_lt (Dev.word_lt d _) h), bitsOf_setBits_same]

/-- Another word's field keeps its value. -/
theorem Dev.rd_wr_other (d : Dev) {base : Nat} {F : Fld} (v : Nat) {i : Nat} {base' : Nat} {G : Fld} {j : Nat}
    (h : (base' + G.off + G.stride * j) / 4 ≠ (base + F.off + F.stride * i) / 4) :
    (d.wr base F v i).rd base' G j = d.rd base' G j := Dev.rd_setWord_other d _ h

/-- Another field of the same word keeps its value. -/
theorem Dev.rd_wr_disjoint (d : Dev) {base : Nat} {F : Fld} (v : Nat) {i : Nat} {base' : Nat} {G : Fld} {j : Nat}
    (ha : base' + G.off + G.stride * j = base + F.off + F.stride * i) (hF : F.lo + F.w ≤ 32)
    (h : G.lo + G.w ≤ F.lo ∨ F.lo + F.w ≤ G.lo) :
    (d.wr base F v i).rd base' G j = d.rd base' G j := by
  unfold Dev.rd Dev.wr
  rw [ha, Dev.word_setWord_same, Nat.mod_eq_of_lt (setBits_lt (Dev.word_lt d _) hF), bitsOf_setBits_other _ _ _ _ h]

theorem Dev.rd_lt (d : Dev) (base : Nat) (F : Fld) (i : Nat) : d.rd base F i < 2 ^ F.w := bitsOf_lt _ _ _

/-- A saturating count. -/
theorem Dev.rd_bump_same (d : Dev) (base : Nat) (F : Fld) (n i : Nat) (h : F.lo + F.w ≤ 32) :
    (d.bump base F n i).rd base F i = min (d.rd base F i + n) (2 ^ F.w - 1) := by
  unfold Dev.bump
  rw [Dev.rd_wr_same _ _ _ _ _ h]
  have h2 : 0 < 2 ^ F.w := Nat.two_pow_pos _
  exact Nat.mod_eq_of_lt (by omega)

end Sys2Proof.Machine
end

