-- ==== Sys2Proof/Laws/State.lean ====
section
/-!
SUPPORT. One lemma per field of the device and per named update: what the update leaves alone.
-/

namespace Sys2Proof.Machine


/-! ### Register words and fields -/

@[simp] theorem Dev.setWord_before (d : Dev) (a v : Nat) : (d.setWord a v).before = d.before := rfl
@[simp] theorem Dev.setWord_cycle (d : Dev) (a v : Nat) : (d.setWord a v).cycle = d.cycle := rfl
@[simp] theorem Dev.setWord_fv (d : Dev) (a v : Nat) : (d.setWord a v).fv = d.fv := rfl
@[simp] theorem Dev.setWord_perf (d : Dev) (a v : Nat) : (d.setWord a v).perf = d.perf := rfl
@[simp] theorem Dev.setWord_out (d : Dev) (a v : Nat) : (d.setWord a v).out = d.out := rfl
@[simp] theorem Dev.setWord_fab (d : Dev) (a v : Nat) : (d.setWord a v).fab = d.fab := rfl
@[simp] theorem Dev.setWord_qs (d : Dev) (a v : Nat) : (d.setWord a v).qs = d.qs := rfl
@[simp] theorem Dev.setWord_hold (d : Dev) (a v : Nat) : (d.setWord a v).hold = d.hold := rfl
@[simp] theorem Dev.setWord_flt (d : Dev) (a v : Nat) : (d.setWord a v).flt = d.flt := rfl
@[simp] theorem Dev.setWord_mem (d : Dev) (a v : Nat) : (d.setWord a v).mem = d.mem := rfl
@[simp] theorem Dev.setWord_ldr (d : Dev) (a v : Nat) : (d.setWord a v).ldr = d.ldr := rfl
@[simp] theorem Dev.setWord_tl (d : Dev) (a v : Nat) : (d.setWord a v).tl = d.tl := rfl
@[simp] theorem Dev.setWord_hp (d : Dev) (a v : Nat) : (d.setWord a v).hp = d.hp := rfl
@[simp] theorem Dev.setWord_sco (d : Dev) (a v : Nat) : (d.setWord a v).sco = d.sco := rfl
@[simp] theorem Dev.setWord_plat (d : Dev) (a v : Nat) : (d.setWord a v).plat = d.plat := rfl
@[simp] theorem Dev.setWord_links (d : Dev) (a v : Nat) : (d.setWord a v).links = d.links := rfl
@[simp] theorem Dev.wr64_before (d : Dev) (a v : Nat) : (d.wr64 a v).before = d.before := rfl
@[simp] theorem Dev.wr64_cycle (d : Dev) (a v : Nat) : (d.wr64 a v).cycle = d.cycle := rfl
@[simp] theorem Dev.wr64_fv (d : Dev) (a v : Nat) : (d.wr64 a v).fv = d.fv := rfl
@[simp] theorem Dev.wr64_perf (d : Dev) (a v : Nat) : (d.wr64 a v).perf = d.perf := rfl
@[simp] theorem Dev.wr64_out (d : Dev) (a v : Nat) : (d.wr64 a v).out = d.out := rfl
@[simp] theorem Dev.wr64_fab (d : Dev) (a v : Nat) : (d.wr64 a v).fab = d.fab := rfl
@[simp] theorem Dev.wr64_qs (d : Dev) (a v : Nat) : (d.wr64 a v).qs = d.qs := rfl
@[simp] theorem Dev.wr64_hold (d : Dev) (a v : Nat) : (d.wr64 a v).hold = d.hold := rfl
@[simp] theorem Dev.wr64_flt (d : Dev) (a v : Nat) : (d.wr64 a v).flt = d.flt := rfl
@[simp] theorem Dev.wr64_mem (d : Dev) (a v : Nat) : (d.wr64 a v).mem = d.mem := rfl
@[simp] theorem Dev.wr64_ldr (d : Dev) (a v : Nat) : (d.wr64 a v).ldr = d.ldr := rfl
@[simp] theorem Dev.wr64_tl (d : Dev) (a v : Nat) : (d.wr64 a v).tl = d.tl := rfl
@[simp] theorem Dev.wr64_hp (d : Dev) (a v : Nat) : (d.wr64 a v).hp = d.hp := rfl
@[simp] theorem Dev.wr64_sco (d : Dev) (a v : Nat) : (d.wr64 a v).sco = d.sco := rfl
@[simp] theorem Dev.wr64_plat (d : Dev) (a v : Nat) : (d.wr64 a v).plat = d.plat := rfl
@[simp] theorem Dev.wr64_links (d : Dev) (a v : Nat) : (d.wr64 a v).links = d.links := rfl
@[simp] theorem Dev.wr_before (d : Dev) (b : Nat) (F : Fld) (v i : Nat) : (d.wr b F v i).before = d.before := rfl
@[simp] theorem Dev.wr_cycle (d : Dev) (b : Nat) (F : Fld) (v i : Nat) : (d.wr b F v i).cycle = d.cycle := rfl
@[simp] theorem Dev.wr_fv (d : Dev) (b : Nat) (F : Fld) (v i : Nat) : (d.wr b F v i).fv = d.fv := rfl
@[simp] theorem Dev.wr_perf (d : Dev) (b : Nat) (F : Fld) (v i : Nat) : (d.wr b F v i).perf = d.perf := rfl
@[simp] theorem Dev.wr_out (d : Dev) (b : Nat) (F : Fld) (v i : Nat) : (d.wr b F v i).out = d.out := rfl
@[simp] theorem Dev.wr_fab (d : Dev) (b : Nat) (F : Fld) (v i : Nat) : (d.wr b F v i).fab = d.fab := rfl
@[simp] theorem Dev.wr_qs (d : Dev) (b : Nat) (F : Fld) (v i : Nat) : (d.wr b F v i).qs = d.qs := rfl
@[simp] theorem Dev.wr_hold (d : Dev) (b : Nat) (F : Fld) (v i : Nat) : (d.wr b F v i).hold = d.hold := rfl
@[simp] theorem Dev.wr_flt (d : Dev) (b : Nat) (F : Fld) (v i : Nat) : (d.wr b F v i).flt = d.flt := rfl
@[simp] theorem Dev.wr_mem (d : Dev) (b : Nat) (F : Fld) (v i : Nat) : (d.wr b F v i).mem = d.mem := rfl
@[simp] theorem Dev.wr_ldr (d : Dev) (b : Nat) (F : Fld) (v i : Nat) : (d.wr b F v i).ldr = d.ldr := rfl
@[simp] theorem Dev.wr_tl (d : Dev) (b : Nat) (F : Fld) (v i : Nat) : (d.wr b F v i).tl = d.tl := rfl
@[simp] theorem Dev.wr_hp (d : Dev) (b : Nat) (F : Fld) (v i : Nat) : (d.wr b F v i).hp = d.hp := rfl
@[simp] theorem Dev.wr_sco (d : Dev) (b : Nat) (F : Fld) (v i : Nat) : (d.wr b F v i).sco = d.sco := rfl
@[simp] theorem Dev.wr_plat (d : Dev) (b : Nat) (F : Fld) (v i : Nat) : (d.wr b F v i).plat = d.plat := rfl
@[simp] theorem Dev.wr_links (d : Dev) (b : Nat) (F : Fld) (v i : Nat) : (d.wr b F v i).links = d.links := rfl
@[simp] theorem Dev.bump_before (d : Dev) (b : Nat) (F : Fld) (n i : Nat) : (d.bump b F n i).before = d.before := rfl
@[simp] theorem Dev.bump_cycle (d : Dev) (b : Nat) (F : Fld) (n i : Nat) : (d.bump b F n i).cycle = d.cycle := rfl
@[simp] theorem Dev.bump_fv (d : Dev) (b : Nat) (F : Fld) (n i : Nat) : (d.bump b F n i).fv = d.fv := rfl
@[simp] theorem Dev.bump_perf (d : Dev) (b : Nat) (F : Fld) (n i : Nat) : (d.bump b F n i).perf = d.perf := rfl
@[simp] theorem Dev.bump_out (d : Dev) (b : Nat) (F : Fld) (n i : Nat) : (d.bump b F n i).out = d.out := rfl
@[simp] theorem Dev.bump_fab (d : Dev) (b : Nat) (F : Fld) (n i : Nat) : (d.bump b F n i).fab = d.fab := rfl
@[simp] theorem Dev.bump_qs (d : Dev) (b : Nat) (F : Fld) (n i : Nat) : (d.bump b F n i).qs = d.qs := rfl
@[simp] theorem Dev.bump_hold (d : Dev) (b : Nat) (F : Fld) (n i : Nat) : (d.bump b F n i).hold = d.hold := rfl
@[simp] theorem Dev.bump_flt (d : Dev) (b : Nat) (F : Fld) (n i : Nat) : (d.bump b F n i).flt = d.flt := rfl
@[simp] theorem Dev.bump_mem (d : Dev) (b : Nat) (F : Fld) (n i : Nat) : (d.bump b F n i).mem = d.mem := rfl
@[simp] theorem Dev.bump_ldr (d : Dev) (b : Nat) (F : Fld) (n i : Nat) : (d.bump b F n i).ldr = d.ldr := rfl
@[simp] theorem Dev.bump_tl (d : Dev) (b : Nat) (F : Fld) (n i : Nat) : (d.bump b F n i).tl = d.tl := rfl
@[simp] theorem Dev.bump_hp (d : Dev) (b : Nat) (F : Fld) (n i : Nat) : (d.bump b F n i).hp = d.hp := rfl
@[simp] theorem Dev.bump_sco (d : Dev) (b : Nat) (F : Fld) (n i : Nat) : (d.bump b F n i).sco = d.sco := rfl
@[simp] theorem Dev.bump_plat (d : Dev) (b : Nat) (F : Fld) (n i : Nat) : (d.bump b F n i).plat = d.plat := rfl
@[simp] theorem Dev.bump_links (d : Dev) (b : Nat) (F : Fld) (n i : Nat) : (d.bump b F n i).links = d.links := rfl
@[simp] theorem Dev.hit_before (d : Dev) (b : Nat) (F : Fld) (v i : Nat) : (d.hit b F v i).before = d.before := rfl
@[simp] theorem Dev.hit_cycle (d : Dev) (b : Nat) (F : Fld) (v i : Nat) : (d.hit b F v i).cycle = d.cycle := rfl
@[simp] theorem Dev.hit_fv (d : Dev) (b : Nat) (F : Fld) (v i : Nat) : (d.hit b F v i).fv = d.fv := rfl
@[simp] theorem Dev.hit_perf (d : Dev) (b : Nat) (F : Fld) (v i : Nat) : (d.hit b F v i).perf = d.perf := rfl
@[simp] theorem Dev.hit_out (d : Dev) (b : Nat) (F : Fld) (v i : Nat) : (d.hit b F v i).out = d.out := rfl
@[simp] theorem Dev.hit_fab (d : Dev) (b : Nat) (F : Fld) (v i : Nat) : (d.hit b F v i).fab = d.fab := rfl
@[simp] theorem Dev.hit_qs (d : Dev) (b : Nat) (F : Fld) (v i : Nat) : (d.hit b F v i).qs = d.qs := rfl
@[simp] theorem Dev.hit_hold (d : Dev) (b : Nat) (F : Fld) (v i : Nat) : (d.hit b F v i).hold = d.hold := rfl
@[simp] theorem Dev.hit_flt (d : Dev) (b : Nat) (F : Fld) (v i : Nat) : (d.hit b F v i).flt = d.flt := rfl
@[simp] theorem Dev.hit_mem (d : Dev) (b : Nat) (F : Fld) (v i : Nat) : (d.hit b F v i).mem = d.mem := rfl
@[simp] theorem Dev.hit_ldr (d : Dev) (b : Nat) (F : Fld) (v i : Nat) : (d.hit b F v i).ldr = d.ldr := rfl
@[simp] theorem Dev.hit_tl (d : Dev) (b : Nat) (F : Fld) (v i : Nat) : (d.hit b F v i).tl = d.tl := rfl
@[simp] theorem Dev.hit_hp (d : Dev) (b : Nat) (F : Fld) (v i : Nat) : (d.hit b F v i).hp = d.hp := rfl
@[simp] theorem Dev.hit_sco (d : Dev) (b : Nat) (F : Fld) (v i : Nat) : (d.hit b F v i).sco = d.sco := rfl
@[simp] theorem Dev.hit_plat (d : Dev) (b : Nat) (F : Fld) (v i : Nat) : (d.hit b F v i).plat = d.plat := rfl
@[simp] theorem Dev.hit_links (d : Dev) (b : Nat) (F : Fld) (v i : Nat) : (d.hit b F v i).links = d.links := rfl

/-! ### Free values, counters, outputs -/

@[simp] theorem Dev.free_before (d : Dev) (w : Nat) : (d.free w).2.before = d.before := rfl
@[simp] theorem Dev.free_cycle (d : Dev) (w : Nat) : (d.free w).2.cycle = d.cycle := rfl
@[simp] theorem Dev.free_regs (d : Dev) (w : Nat) : (d.free w).2.regs = d.regs := rfl
@[simp] theorem Dev.free_perf (d : Dev) (w : Nat) : (d.free w).2.perf = d.perf := rfl
@[simp] theorem Dev.free_out (d : Dev) (w : Nat) : (d.free w).2.out = d.out := rfl
@[simp] theorem Dev.free_fab (d : Dev) (w : Nat) : (d.free w).2.fab = d.fab := rfl
@[simp] theorem Dev.free_qs (d : Dev) (w : Nat) : (d.free w).2.qs = d.qs := rfl
@[simp] theorem Dev.free_hold (d : Dev) (w : Nat) : (d.free w).2.hold = d.hold := rfl
@[simp] theorem Dev.free_flt (d : Dev) (w : Nat) : (d.free w).2.flt = d.flt := rfl
@[simp] theorem Dev.free_mem (d : Dev) (w : Nat) : (d.free w).2.mem = d.mem := rfl
@[simp] theorem Dev.free_ldr (d : Dev) (w : Nat) : (d.free w).2.ldr = d.ldr := rfl
@[simp] theorem Dev.free_tl (d : Dev) (w : Nat) : (d.free w).2.tl = d.tl := rfl
@[simp] theorem Dev.free_hp (d : Dev) (w : Nat) : (d.free w).2.hp = d.hp := rfl
@[simp] theorem Dev.free_sco (d : Dev) (w : Nat) : (d.free w).2.sco = d.sco := rfl
@[simp] theorem Dev.free_plat (d : Dev) (w : Nat) : (d.free w).2.plat = d.plat := rfl
@[simp] theorem Dev.free_links (d : Dev) (w : Nat) : (d.free w).2.links = d.links := rfl
@[simp] theorem Dev.count_before (d : Dev) (b m e n : Nat) : (d.count b m e n).before = d.before := by unfold Dev.count; repeat (first | split | rfl)
@[simp] theorem Dev.count_cycle (d : Dev) (b m e n : Nat) : (d.count b m e n).cycle = d.cycle := by unfold Dev.count; repeat (first | split | rfl)
@[simp] theorem Dev.count_fv (d : Dev) (b m e n : Nat) : (d.count b m e n).fv = d.fv := by unfold Dev.count; repeat (first | split | rfl)
@[simp] theorem Dev.count_regs (d : Dev) (b m e n : Nat) : (d.count b m e n).regs = d.regs := by unfold Dev.count; repeat (first | split | rfl)
@[simp] theorem Dev.count_out (d : Dev) (b m e n : Nat) : (d.count b m e n).out = d.out := by unfold Dev.count; repeat (first | split | rfl)
@[simp] theorem Dev.count_fab (d : Dev) (b m e n : Nat) : (d.count b m e n).fab = d.fab := by unfold Dev.count; repeat (first | split | rfl)
@[simp] theorem Dev.count_qs (d : Dev) (b m e n : Nat) : (d.count b m e n).qs = d.qs := by unfold Dev.count; repeat (first | split | rfl)
@[simp] theorem Dev.count_hold (d : Dev) (b m e n : Nat) : (d.count b m e n).hold = d.hold := by unfold Dev.count; repeat (first | split | rfl)
@[simp] theorem Dev.count_flt (d : Dev) (b m e n : Nat) : (d.count b m e n).flt = d.flt := by unfold Dev.count; repeat (first | split | rfl)
@[simp] theorem Dev.count_mem (d : Dev) (b m e n : Nat) : (d.count b m e n).mem = d.mem := by unfold Dev.count; repeat (first | split | rfl)
@[simp] theorem Dev.count_ldr (d : Dev) (b m e n : Nat) : (d.count b m e n).ldr = d.ldr := by unfold Dev.count; repeat (first | split | rfl)
@[simp] theorem Dev.count_tl (d : Dev) (b m e n : Nat) : (d.count b m e n).tl = d.tl := by unfold Dev.count; repeat (first | split | rfl)
@[simp] theorem Dev.count_hp (d : Dev) (b m e n : Nat) : (d.count b m e n).hp = d.hp := by unfold Dev.count; repeat (first | split | rfl)
@[simp] theorem Dev.count_sco (d : Dev) (b m e n : Nat) : (d.count b m e n).sco = d.sco := by unfold Dev.count; repeat (first | split | rfl)
@[simp] theorem Dev.count_plat (d : Dev) (b m e n : Nat) : (d.count b m e n).plat = d.plat := by unfold Dev.count; repeat (first | split | rfl)
@[simp] theorem Dev.count_links (d : Dev) (b m e n : Nat) : (d.count b m e n).links = d.links := by unfold Dev.count; repeat (first | split | rfl)
@[simp] theorem Dev.emit_before (d : Dev) (o : Out) : (d.emit o).before = d.before := by unfold Dev.emit; simp only []; repeat (first | split | rfl)
@[simp] theorem Dev.emit_cycle (d : Dev) (o : Out) : (d.emit o).cycle = d.cycle := by unfold Dev.emit; simp only []; repeat (first | split | rfl)
@[simp] theorem Dev.emit_fv (d : Dev) (o : Out) : (d.emit o).fv = d.fv := by unfold Dev.emit; simp only []; repeat (first | split | rfl)
@[simp] theorem Dev.emit_regs (d : Dev) (o : Out) : (d.emit o).regs = d.regs := by unfold Dev.emit; simp only []; repeat (first | split | rfl)
@[simp] theorem Dev.emit_perf (d : Dev) (o : Out) : (d.emit o).perf = d.perf := by unfold Dev.emit; simp only []; repeat (first | split | rfl)
@[simp] theorem Dev.emit_fab (d : Dev) (o : Out) : (d.emit o).fab = d.fab := by unfold Dev.emit; simp only []; repeat (first | split | rfl)
@[simp] theorem Dev.emit_qs (d : Dev) (o : Out) : (d.emit o).qs = d.qs := by unfold Dev.emit; simp only []; repeat (first | split | rfl)
@[simp] theorem Dev.emit_hold (d : Dev) (o : Out) : (d.emit o).hold = d.hold := by unfold Dev.emit; simp only []; repeat (first | split | rfl)
@[simp] theorem Dev.emit_flt (d : Dev) (o : Out) : (d.emit o).flt = d.flt := by unfold Dev.emit; simp only []; repeat (first | split | rfl)
@[simp] theorem Dev.emit_mem (d : Dev) (o : Out) : (d.emit o).mem = d.mem := by unfold Dev.emit; simp only []; repeat (first | split | rfl)
@[simp] theorem Dev.emit_ldr (d : Dev) (o : Out) : (d.emit o).ldr = d.ldr := by unfold Dev.emit; simp only []; repeat (first | split | rfl)
@[simp] theorem Dev.emit_tl (d : Dev) (o : Out) : (d.emit o).tl = d.tl := by unfold Dev.emit; simp only []; repeat (first | split | rfl)
@[simp] theorem Dev.emit_hp (d : Dev) (o : Out) : (d.emit o).hp = d.hp := by unfold Dev.emit; simp only []; repeat (first | split | rfl)
@[simp] theorem Dev.emit_sco (d : Dev) (o : Out) : (d.emit o).sco = d.sco := by unfold Dev.emit; simp only []; repeat (first | split | rfl)
@[simp] theorem Dev.emit_plat (d : Dev) (o : Out) : (d.emit o).plat = d.plat := by unfold Dev.emit; simp only []; repeat (first | split | rfl)

/-! ### Causes -/

@[simp] theorem Dev.capture_before (d : Dev) (b i : Nat) : (d.capture b i).before = d.before := by unfold Dev.capture; split <;> simp
@[simp] theorem Dev.capture_cycle (d : Dev) (b i : Nat) : (d.capture b i).cycle = d.cycle := by unfold Dev.capture; split <;> simp
@[simp] theorem Dev.capture_fv (d : Dev) (b i : Nat) : (d.capture b i).fv = d.fv := by unfold Dev.capture; split <;> simp
@[simp] theorem Dev.capture_perf (d : Dev) (b i : Nat) : (d.capture b i).perf = d.perf := by unfold Dev.capture; split <;> simp
@[simp] theorem Dev.capture_out (d : Dev) (b i : Nat) : (d.capture b i).out = d.out := by unfold Dev.capture; split <;> simp
@[simp] theorem Dev.capture_fab (d : Dev) (b i : Nat) : (d.capture b i).fab = d.fab := by unfold Dev.capture; split <;> simp
@[simp] theorem Dev.capture_qs (d : Dev) (b i : Nat) : (d.capture b i).qs = d.qs := by unfold Dev.capture; split <;> simp
@[simp] theorem Dev.capture_hold (d : Dev) (b i : Nat) : (d.capture b i).hold = d.hold := by unfold Dev.capture; split <;> simp
@[simp] theorem Dev.capture_mem (d : Dev) (b i : Nat) : (d.capture b i).mem = d.mem := by unfold Dev.capture; split <;> simp
@[simp] theorem Dev.capture_ldr (d : Dev) (b i : Nat) : (d.capture b i).ldr = d.ldr := by unfold Dev.capture; split <;> simp
@[simp] theorem Dev.capture_tl (d : Dev) (b i : Nat) : (d.capture b i).tl = d.tl := by unfold Dev.capture; split <;> simp
@[simp] theorem Dev.capture_hp (d : Dev) (b i : Nat) : (d.capture b i).hp = d.hp := by unfold Dev.capture; split <;> simp
@[simp] theorem Dev.capture_sco (d : Dev) (b i : Nat) : (d.capture b i).sco = d.sco := by unfold Dev.capture; split <;> simp
@[simp] theorem Dev.capture_plat (d : Dev) (b i : Nat) : (d.capture b i).plat = d.plat := by unfold Dev.capture; split <;> simp
@[simp] theorem Dev.capture_links (d : Dev) (b i : Nat) : (d.capture b i).links = d.links := by unfold Dev.capture; split <;> simp
@[simp] theorem Dev.raiseFull_before (d : Dev) (b i : Nat) (a : Attr) (j : Bool) : (d.raiseFull b i a j).before = d.before := by
  unfold Dev.raiseFull; simp only []; split <;> simp
@[simp] theorem Dev.raiseFull_cycle (d : Dev) (b i : Nat) (a : Attr) (j : Bool) : (d.raiseFull b i a j).cycle = d.cycle := by
  unfold Dev.raiseFull; simp only []; split <;> simp
@[simp] theorem Dev.raiseFull_fv (d : Dev) (b i : Nat) (a : Attr) (j : Bool) : (d.raiseFull b i a j).fv = d.fv := by
  unfold Dev.raiseFull; simp only []; split <;> simp
@[simp] theorem Dev.raiseFull_perf (d : Dev) (b i : Nat) (a : Attr) (j : Bool) : (d.raiseFull b i a j).perf = d.perf := by
  unfold Dev.raiseFull; simp only []; split <;> simp
@[simp] theorem Dev.raiseFull_out (d : Dev) (b i : Nat) (a : Attr) (j : Bool) : (d.raiseFull b i a j).out = d.out := by
  unfold Dev.raiseFull; simp only []; split <;> simp
@[simp] theorem Dev.raiseFull_fab (d : Dev) (b i : Nat) (a : Attr) (j : Bool) : (d.raiseFull b i a j).fab = d.fab := by
  unfold Dev.raiseFull; simp only []; split <;> simp
@[simp] theorem Dev.raiseFull_qs (d : Dev) (b i : Nat) (a : Attr) (j : Bool) : (d.raiseFull b i a j).qs = d.qs := by
  unfold Dev.raiseFull; simp only []; split <;> simp
@[simp] theorem Dev.raiseFull_hold (d : Dev) (b i : Nat) (a : Attr) (j : Bool) : (d.raiseFull b i a j).hold = d.hold := by
  unfold Dev.raiseFull; simp only []; split <;> simp
@[simp] theorem Dev.raiseFull_mem (d : Dev) (b i : Nat) (a : Attr) (j : Bool) : (d.raiseFull b i a j).mem = d.mem := by
  unfold Dev.raiseFull; simp only []; split <;> simp
@[simp] theorem Dev.raiseFull_ldr (d : Dev) (b i : Nat) (a : Attr) (j : Bool) : (d.raiseFull b i a j).ldr = d.ldr := by
  unfold Dev.raiseFull; simp only []; split <;> simp
@[simp] theorem Dev.raiseFull_tl (d : Dev) (b i : Nat) (a : Attr) (j : Bool) : (d.raiseFull b i a j).tl = d.tl := by
  unfold Dev.raiseFull; simp only []; split <;> simp
@[simp] theorem Dev.raiseFull_hp (d : Dev) (b i : Nat) (a : Attr) (j : Bool) : (d.raiseFull b i a j).hp = d.hp := by
  unfold Dev.raiseFull; simp only []; split <;> simp
@[simp] theorem Dev.raiseFull_sco (d : Dev) (b i : Nat) (a : Attr) (j : Bool) : (d.raiseFull b i a j).sco = d.sco := by
  unfold Dev.raiseFull; simp only []; split <;> simp
@[simp] theorem Dev.raiseFull_plat (d : Dev) (b i : Nat) (a : Attr) (j : Bool) : (d.raiseFull b i a j).plat = d.plat := by
  unfold Dev.raiseFull; simp only []; split <;> simp
@[simp] theorem Dev.raiseFull_links (d : Dev) (b i : Nat) (a : Attr) (j : Bool) : (d.raiseFull b i a j).links = d.links := by
  unfold Dev.raiseFull; simp only []; split <;> simp
@[simp] theorem Dev.raise_before (d : Dev) (b i : Nat) (a : Attr) : (d.raise b i a).before = d.before := by simp [Dev.raise]
@[simp] theorem Dev.raise_cycle (d : Dev) (b i : Nat) (a : Attr) : (d.raise b i a).cycle = d.cycle := by simp [Dev.raise]
@[simp] theorem Dev.raise_fv (d : Dev) (b i : Nat) (a : Attr) : (d.raise b i a).fv = d.fv := by simp [Dev.raise]
@[simp] theorem Dev.raise_perf (d : Dev) (b i : Nat) (a : Attr) : (d.raise b i a).perf = d.perf := by simp [Dev.raise]
@[simp] theorem Dev.raise_out (d : Dev) (b i : Nat) (a : Attr) : (d.raise b i a).out = d.out := by simp [Dev.raise]
@[simp] theorem Dev.raise_fab (d : Dev) (b i : Nat) (a : Attr) : (d.raise b i a).fab = d.fab := by simp [Dev.raise]
@[simp] theorem Dev.raise_qs (d : Dev) (b i : Nat) (a : Attr) : (d.raise b i a).qs = d.qs := by simp [Dev.raise]
@[simp] theorem Dev.raise_hold (d : Dev) (b i : Nat) (a : Attr) : (d.raise b i a).hold = d.hold := by simp [Dev.raise]
@[simp] theorem Dev.raise_mem (d : Dev) (b i : Nat) (a : Attr) : (d.raise b i a).mem = d.mem := by simp [Dev.raise]
@[simp] theorem Dev.raise_ldr (d : Dev) (b i : Nat) (a : Attr) : (d.raise b i a).ldr = d.ldr := by simp [Dev.raise]
@[simp] theorem Dev.raise_tl (d : Dev) (b i : Nat) (a : Attr) : (d.raise b i a).tl = d.tl := by simp [Dev.raise]
@[simp] theorem Dev.raise_hp (d : Dev) (b i : Nat) (a : Attr) : (d.raise b i a).hp = d.hp := by simp [Dev.raise]
@[simp] theorem Dev.raise_sco (d : Dev) (b i : Nat) (a : Attr) : (d.raise b i a).sco = d.sco := by simp [Dev.raise]
@[simp] theorem Dev.raise_plat (d : Dev) (b i : Nat) (a : Attr) : (d.raise b i a).plat = d.plat := by simp [Dev.raise]
@[simp] theorem Dev.raise_links (d : Dev) (b i : Nat) (a : Attr) : (d.raise b i a).links = d.links := by simp [Dev.raise]
@[simp] theorem Dev.poisonSeen_before (d : Dev) (b : Nat) (p : Bool) : (d.poisonSeen b p).before = d.before := by unfold Dev.poisonSeen; repeat (first | split | rfl)
@[simp] theorem Dev.poisonSeen_cycle (d : Dev) (b : Nat) (p : Bool) : (d.poisonSeen b p).cycle = d.cycle := by unfold Dev.poisonSeen; repeat (first | split | rfl)
@[simp] theorem Dev.poisonSeen_fv (d : Dev) (b : Nat) (p : Bool) : (d.poisonSeen b p).fv = d.fv := by unfold Dev.poisonSeen; repeat (first | split | rfl)
@[simp] theorem Dev.poisonSeen_perf (d : Dev) (b : Nat) (p : Bool) : (d.poisonSeen b p).perf = d.perf := by unfold Dev.poisonSeen; repeat (first | split | rfl)
@[simp] theorem Dev.poisonSeen_out (d : Dev) (b : Nat) (p : Bool) : (d.poisonSeen b p).out = d.out := by unfold Dev.poisonSeen; repeat (first | split | rfl)
@[simp] theorem Dev.poisonSeen_fab (d : Dev) (b : Nat) (p : Bool) : (d.poisonSeen b p).fab = d.fab := by unfold Dev.poisonSeen; repeat (first | split | rfl)
@[simp] theorem Dev.poisonSeen_qs (d : Dev) (b : Nat) (p : Bool) : (d.poisonSeen b p).qs = d.qs := by unfold Dev.poisonSeen; repeat (first | split | rfl)
@[simp] theorem Dev.poisonSeen_hold (d : Dev) (b : Nat) (p : Bool) : (d.poisonSeen b p).hold = d.hold := by unfold Dev.poisonSeen; repeat (first | split | rfl)
@[simp] theorem Dev.poisonSeen_flt (d : Dev) (b : Nat) (p : Bool) : (d.poisonSeen b p).flt = d.flt := by unfold Dev.poisonSeen; repeat (first | split | rfl)
@[simp] theorem Dev.poisonSeen_mem (d : Dev) (b : Nat) (p : Bool) : (d.poisonSeen b p).mem = d.mem := by unfold Dev.poisonSeen; repeat (first | split | rfl)
@[simp] theorem Dev.poisonSeen_ldr (d : Dev) (b : Nat) (p : Bool) : (d.poisonSeen b p).ldr = d.ldr := by unfold Dev.poisonSeen; repeat (first | split | rfl)
@[simp] theorem Dev.poisonSeen_tl (d : Dev) (b : Nat) (p : Bool) : (d.poisonSeen b p).tl = d.tl := by unfold Dev.poisonSeen; repeat (first | split | rfl)
@[simp] theorem Dev.poisonSeen_hp (d : Dev) (b : Nat) (p : Bool) : (d.poisonSeen b p).hp = d.hp := by unfold Dev.poisonSeen; repeat (first | split | rfl)
@[simp] theorem Dev.poisonSeen_sco (d : Dev) (b : Nat) (p : Bool) : (d.poisonSeen b p).sco = d.sco := by unfold Dev.poisonSeen; repeat (first | split | rfl)
@[simp] theorem Dev.poisonSeen_plat (d : Dev) (b : Nat) (p : Bool) : (d.poisonSeen b p).plat = d.plat := by unfold Dev.poisonSeen; repeat (first | split | rfl)
@[simp] theorem Dev.poisonSeen_links (d : Dev) (b : Nat) (p : Bool) : (d.poisonSeen b p).links = d.links := by unfold Dev.poisonSeen; repeat (first | split | rfl)

/-! ### Boundary queues, tiles, commands -/

@[simp] theorem Dev.bqSet_before (d : Dev) (b : Nat) (s : BqSt) : (d.bqSet b s).before = d.before := rfl
@[simp] theorem Dev.bqSet_cycle (d : Dev) (b : Nat) (s : BqSt) : (d.bqSet b s).cycle = d.cycle := rfl
@[simp] theorem Dev.bqSet_fv (d : Dev) (b : Nat) (s : BqSt) : (d.bqSet b s).fv = d.fv := rfl
@[simp] theorem Dev.bqSet_regs (d : Dev) (b : Nat) (s : BqSt) : (d.bqSet b s).regs = d.regs := rfl
@[simp] theorem Dev.bqSet_perf (d : Dev) (b : Nat) (s : BqSt) : (d.bqSet b s).perf = d.perf := rfl
@[simp] theorem Dev.bqSet_out (d : Dev) (b : Nat) (s : BqSt) : (d.bqSet b s).out = d.out := rfl
@[simp] theorem Dev.bqSet_fab (d : Dev) (b : Nat) (s : BqSt) : (d.bqSet b s).fab = d.fab := rfl
@[simp] theorem Dev.bqSet_hold (d : Dev) (b : Nat) (s : BqSt) : (d.bqSet b s).hold = d.hold := rfl
@[simp] theorem Dev.bqSet_flt (d : Dev) (b : Nat) (s : BqSt) : (d.bqSet b s).flt = d.flt := rfl
@[simp] theorem Dev.bqSet_mem (d : Dev) (b : Nat) (s : BqSt) : (d.bqSet b s).mem = d.mem := rfl
@[simp] theorem Dev.bqSet_ldr (d : Dev) (b : Nat) (s : BqSt) : (d.bqSet b s).ldr = d.ldr := rfl
@[simp] theorem Dev.bqSet_tl (d : Dev) (b : Nat) (s : BqSt) : (d.bqSet b s).tl = d.tl := rfl
@[simp] theorem Dev.bqSet_hp (d : Dev) (b : Nat) (s : BqSt) : (d.bqSet b s).hp = d.hp := rfl
@[simp] theorem Dev.bqSet_sco (d : Dev) (b : Nat) (s : BqSt) : (d.bqSet b s).sco = d.sco := rfl
@[simp] theorem Dev.bqSet_plat (d : Dev) (b : Nat) (s : BqSt) : (d.bqSet b s).plat = d.plat := rfl
@[simp] theorem Dev.bqSet_links (d : Dev) (b : Nat) (s : BqSt) : (d.bqSet b s).links = d.links := rfl
@[simp] theorem Dev.mtSet_before (d : Dev) (c m : Nat) (x : MTile) : (d.mtSet c m x).before = d.before := rfl
@[simp] theorem Dev.mtSet_cycle (d : Dev) (c m : Nat) (x : MTile) : (d.mtSet c m x).cycle = d.cycle := rfl
@[simp] theorem Dev.mtSet_fv (d : Dev) (c m : Nat) (x : MTile) : (d.mtSet c m x).fv = d.fv := rfl
@[simp] theorem Dev.mtSet_regs (d : Dev) (c m : Nat) (x : MTile) : (d.mtSet c m x).regs = d.regs := rfl
@[simp] theorem Dev.mtSet_perf (d : Dev) (c m : Nat) (x : MTile) : (d.mtSet c m x).perf = d.perf := rfl
@[simp] theorem Dev.mtSet_out (d : Dev) (c m : Nat) (x : MTile) : (d.mtSet c m x).out = d.out := rfl
@[simp] theorem Dev.mtSet_fab (d : Dev) (c m : Nat) (x : MTile) : (d.mtSet c m x).fab = d.fab := rfl
@[simp] theorem Dev.mtSet_qs (d : Dev) (c m : Nat) (x : MTile) : (d.mtSet c m x).qs = d.qs := rfl
@[simp] theorem Dev.mtSet_hold (d : Dev) (c m : Nat) (x : MTile) : (d.mtSet c m x).hold = d.hold := rfl
@[simp] theorem Dev.mtSet_flt (d : Dev) (c m : Nat) (x : MTile) : (d.mtSet c m x).flt = d.flt := rfl
@[simp] theorem Dev.mtSet_mem (d : Dev) (c m : Nat) (x : MTile) : (d.mtSet c m x).mem = d.mem := rfl
@[simp] theorem Dev.mtSet_ldr (d : Dev) (c m : Nat) (x : MTile) : (d.mtSet c m x).ldr = d.ldr := rfl
@[simp] theorem Dev.mtSet_hp (d : Dev) (c m : Nat) (x : MTile) : (d.mtSet c m x).hp = d.hp := rfl
@[simp] theorem Dev.mtSet_sco (d : Dev) (c m : Nat) (x : MTile) : (d.mtSet c m x).sco = d.sco := rfl
@[simp] theorem Dev.mtSet_plat (d : Dev) (c m : Nat) (x : MTile) : (d.mtSet c m x).plat = d.plat := rfl
@[simp] theorem Dev.mtSet_links (d : Dev) (c m : Nat) (x : MTile) : (d.mtSet c m x).links = d.links := rfl
@[simp] theorem Dev.vtSet_before (d : Dev) (c v : Nat) (x : VTile) : (d.vtSet c v x).before = d.before := rfl
@[simp] theorem Dev.vtSet_cycle (d : Dev) (c v : Nat) (x : VTile) : (d.vtSet c v x).cycle = d.cycle := rfl
@[simp] theorem Dev.vtSet_fv (d : Dev) (c v : Nat) (x : VTile) : (d.vtSet c v x).fv = d.fv := rfl
@[simp] theorem Dev.vtSet_regs (d : Dev) (c v : Nat) (x : VTile) : (d.vtSet c v x).regs = d.regs := rfl
@[simp] theorem Dev.vtSet_perf (d : Dev) (c v : Nat) (x : VTile) : (d.vtSet c v x).perf = d.perf := rfl
@[simp] theorem Dev.vtSet_out (d : Dev) (c v : Nat) (x : VTile) : (d.vtSet c v x).out = d.out := rfl
@[simp] theorem Dev.vtSet_fab (d : Dev) (c v : Nat) (x : VTile) : (d.vtSet c v x).fab = d.fab := rfl
@[simp] theorem Dev.vtSet_qs (d : Dev) (c v : Nat) (x : VTile) : (d.vtSet c v x).qs = d.qs := rfl
@[simp] theorem Dev.vtSet_hold (d : Dev) (c v : Nat) (x : VTile) : (d.vtSet c v x).hold = d.hold := rfl
@[simp] theorem Dev.vtSet_flt (d : Dev) (c v : Nat) (x : VTile) : (d.vtSet c v x).flt = d.flt := rfl
@[simp] theorem Dev.vtSet_mem (d : Dev) (c v : Nat) (x : VTile) : (d.vtSet c v x).mem = d.mem := rfl
@[simp] theorem Dev.vtSet_ldr (d : Dev) (c v : Nat) (x : VTile) : (d.vtSet c v x).ldr = d.ldr := rfl
@[simp] theorem Dev.vtSet_hp (d : Dev) (c v : Nat) (x : VTile) : (d.vtSet c v x).hp = d.hp := rfl
@[simp] theorem Dev.vtSet_sco (d : Dev) (c v : Nat) (x : VTile) : (d.vtSet c v x).sco = d.sco := rfl
@[simp] theorem Dev.vtSet_plat (d : Dev) (c v : Nat) (x : VTile) : (d.vtSet c v x).plat = d.plat := rfl
@[simp] theorem Dev.vtSet_links (d : Dev) (c v : Nat) (x : VTile) : (d.vtSet c v x).links = d.links := rfl
@[simp] theorem Dev.setCmd_before (d : Dev) (r : Nat) (c : Option RingCmd) : (d.setCmd r c).before = d.before := rfl
@[simp] theorem Dev.setCmd_cycle (d : Dev) (r : Nat) (c : Option RingCmd) : (d.setCmd r c).cycle = d.cycle := rfl
@[simp] theorem Dev.setCmd_fv (d : Dev) (r : Nat) (c : Option RingCmd) : (d.setCmd r c).fv = d.fv := rfl
@[simp] theorem Dev.setCmd_regs (d : Dev) (r : Nat) (c : Option RingCmd) : (d.setCmd r c).regs = d.regs := rfl
@[simp] theorem Dev.setCmd_perf (d : Dev) (r : Nat) (c : Option RingCmd) : (d.setCmd r c).perf = d.perf := rfl
@[simp] theorem Dev.setCmd_out (d : Dev) (r : Nat) (c : Option RingCmd) : (d.setCmd r c).out = d.out := rfl
@[simp] theorem Dev.setCmd_fab (d : Dev) (r : Nat) (c : Option RingCmd) : (d.setCmd r c).fab = d.fab := rfl
@[simp] theorem Dev.setCmd_qs (d : Dev) (r : Nat) (c : Option RingCmd) : (d.setCmd r c).qs = d.qs := rfl
@[simp] theorem Dev.setCmd_hold (d : Dev) (r : Nat) (c : Option RingCmd) : (d.setCmd r c).hold = d.hold := rfl
@[simp] theorem Dev.setCmd_flt (d : Dev) (r : Nat) (c : Option RingCmd) : (d.setCmd r c).flt = d.flt := rfl
@[simp] theorem Dev.setCmd_mem (d : Dev) (r : Nat) (c : Option RingCmd) : (d.setCmd r c).mem = d.mem := rfl
@[simp] theorem Dev.setCmd_ldr (d : Dev) (r : Nat) (c : Option RingCmd) : (d.setCmd r c).ldr = d.ldr := rfl
@[simp] theorem Dev.setCmd_tl (d : Dev) (r : Nat) (c : Option RingCmd) : (d.setCmd r c).tl = d.tl := rfl
@[simp] theorem Dev.setCmd_sco (d : Dev) (r : Nat) (c : Option RingCmd) : (d.setCmd r c).sco = d.sco := rfl
@[simp] theorem Dev.setCmd_plat (d : Dev) (r : Nat) (c : Option RingCmd) : (d.setCmd r c).plat = d.plat := rfl
@[simp] theorem Dev.setCmd_links (d : Dev) (r : Nat) (c : Option RingCmd) : (d.setCmd r c).links = d.links := rfl
@[simp] theorem Dev.markStepped_before (d : Dev) (m : Nat) : (d.markStepped m).before = d.before := rfl
@[simp] theorem Dev.markStepped_cycle (d : Dev) (m : Nat) : (d.markStepped m).cycle = d.cycle := rfl
@[simp] theorem Dev.markStepped_fv (d : Dev) (m : Nat) : (d.markStepped m).fv = d.fv := rfl
@[simp] theorem Dev.markStepped_regs (d : Dev) (m : Nat) : (d.markStepped m).regs = d.regs := rfl
@[simp] theorem Dev.markStepped_perf (d : Dev) (m : Nat) : (d.markStepped m).perf = d.perf := rfl
@[simp] theorem Dev.markStepped_out (d : Dev) (m : Nat) : (d.markStepped m).out = d.out := rfl
@[simp] theorem Dev.markStepped_fab (d : Dev) (m : Nat) : (d.markStepped m).fab = d.fab := rfl
@[simp] theorem Dev.markStepped_qs (d : Dev) (m : Nat) : (d.markStepped m).qs = d.qs := rfl
@[simp] theorem Dev.markStepped_flt (d : Dev) (m : Nat) : (d.markStepped m).flt = d.flt := rfl
@[simp] theorem Dev.markStepped_mem (d : Dev) (m : Nat) : (d.markStepped m).mem = d.mem := rfl
@[simp] theorem Dev.markStepped_ldr (d : Dev) (m : Nat) : (d.markStepped m).ldr = d.ldr := rfl
@[simp] theorem Dev.markStepped_tl (d : Dev) (m : Nat) : (d.markStepped m).tl = d.tl := rfl
@[simp] theorem Dev.markStepped_hp (d : Dev) (m : Nat) : (d.markStepped m).hp = d.hp := rfl
@[simp] theorem Dev.markStepped_sco (d : Dev) (m : Nat) : (d.markStepped m).sco = d.sco := rfl
@[simp] theorem Dev.markStepped_plat (d : Dev) (m : Nat) : (d.markStepped m).plat = d.plat := rfl
@[simp] theorem Dev.markStepped_links (d : Dev) (m : Nat) : (d.markStepped m).links = d.links := rfl
@[simp] theorem Dev.setAper_before (d : Dev) (l : List AperReq) : (d.setAper l).before = d.before := rfl
@[simp] theorem Dev.setAper_cycle (d : Dev) (l : List AperReq) : (d.setAper l).cycle = d.cycle := rfl
@[simp] theorem Dev.setAper_fv (d : Dev) (l : List AperReq) : (d.setAper l).fv = d.fv := rfl
@[simp] theorem Dev.setAper_regs (d : Dev) (l : List AperReq) : (d.setAper l).regs = d.regs := rfl
@[simp] theorem Dev.setAper_perf (d : Dev) (l : List AperReq) : (d.setAper l).perf = d.perf := rfl
@[simp] theorem Dev.setAper_out (d : Dev) (l : List AperReq) : (d.setAper l).out = d.out := rfl
@[simp] theorem Dev.setAper_fab (d : Dev) (l : List AperReq) : (d.setAper l).fab = d.fab := rfl
@[simp] theorem Dev.setAper_qs (d : Dev) (l : List AperReq) : (d.setAper l).qs = d.qs := rfl
@[simp] theorem Dev.setAper_hold (d : Dev) (l : List AperReq) : (d.setAper l).hold = d.hold := rfl
@[simp] theorem Dev.setAper_flt (d : Dev) (l : List AperReq) : (d.setAper l).flt = d.flt := rfl
@[simp] theorem Dev.setAper_mem (d : Dev) (l : List AperReq) : (d.setAper l).mem = d.mem := rfl
@[simp] theorem Dev.setAper_ldr (d : Dev) (l : List AperReq) : (d.setAper l).ldr = d.ldr := rfl
@[simp] theorem Dev.setAper_tl (d : Dev) (l : List AperReq) : (d.setAper l).tl = d.tl := rfl
@[simp] theorem Dev.setAper_sco (d : Dev) (l : List AperReq) : (d.setAper l).sco = d.sco := rfl
@[simp] theorem Dev.setAper_plat (d : Dev) (l : List AperReq) : (d.setAper l).plat = d.plat := rfl
@[simp] theorem Dev.setAper_links (d : Dev) (l : List AperReq) : (d.setAper l).links = d.links := rfl
@[simp] theorem Dev.sqSet_before (d : Dev) (c u : Nat) (s : Sqr) : (d.sqSet c u s).before = d.before := by unfold Dev.sqSet; repeat (first | split | rfl)
@[simp] theorem Dev.sqSet_cycle (d : Dev) (c u : Nat) (s : Sqr) : (d.sqSet c u s).cycle = d.cycle := by unfold Dev.sqSet; repeat (first | split | rfl)
@[simp] theorem Dev.sqSet_fv (d : Dev) (c u : Nat) (s : Sqr) : (d.sqSet c u s).fv = d.fv := by unfold Dev.sqSet; repeat (first | split | rfl)
@[simp] theorem Dev.sqSet_regs (d : Dev) (c u : Nat) (s : Sqr) : (d.sqSet c u s).regs = d.regs := by unfold Dev.sqSet; repeat (first | split | rfl)
@[simp] theorem Dev.sqSet_perf (d : Dev) (c u : Nat) (s : Sqr) : (d.sqSet c u s).perf = d.perf := by unfold Dev.sqSet; repeat (first | split | rfl)
@[simp] theorem Dev.sqSet_out (d : Dev) (c u : Nat) (s : Sqr) : (d.sqSet c u s).out = d.out := by unfold Dev.sqSet; repeat (first | split | rfl)
@[simp] theorem Dev.sqSet_fab (d : Dev) (c u : Nat) (s : Sqr) : (d.sqSet c u s).fab = d.fab := by unfold Dev.sqSet; repeat (first | split | rfl)
@[simp] theorem Dev.sqSet_qs (d : Dev) (c u : Nat) (s : Sqr) : (d.sqSet c u s).qs = d.qs := by unfold Dev.sqSet; repeat (first | split | rfl)
@[simp] theorem Dev.sqSet_hold (d : Dev) (c u : Nat) (s : Sqr) : (d.sqSet c u s).hold = d.hold := by unfold Dev.sqSet; repeat (first | split | rfl)
@[simp] theorem Dev.sqSet_flt (d : Dev) (c u : Nat) (s : Sqr) : (d.sqSet c u s).flt = d.flt := by unfold Dev.sqSet; repeat (first | split | rfl)
@[simp] theorem Dev.sqSet_mem (d : Dev) (c u : Nat) (s : Sqr) : (d.sqSet c u s).mem = d.mem := by unfold Dev.sqSet; repeat (first | split | rfl)
@[simp] theorem Dev.sqSet_ldr (d : Dev) (c u : Nat) (s : Sqr) : (d.sqSet c u s).ldr = d.ldr := by unfold Dev.sqSet; repeat (first | split | rfl)
@[simp] theorem Dev.sqSet_hp (d : Dev) (c u : Nat) (s : Sqr) : (d.sqSet c u s).hp = d.hp := by unfold Dev.sqSet; repeat (first | split | rfl)
@[simp] theorem Dev.sqSet_sco (d : Dev) (c u : Nat) (s : Sqr) : (d.sqSet c u s).sco = d.sco := by unfold Dev.sqSet; repeat (first | split | rfl)
@[simp] theorem Dev.sqSet_plat (d : Dev) (c u : Nat) (s : Sqr) : (d.sqSet c u s).plat = d.plat := by unfold Dev.sqSet; repeat (first | split | rfl)
@[simp] theorem Dev.sqSet_links (d : Dev) (c u : Nat) (s : Sqr) : (d.sqSet c u s).links = d.links := by unfold Dev.sqSet; repeat (first | split | rfl)
@[simp] theorem Dev.cmdDone_before (d : Dev) (r a b c e : Nat) : (d.cmdDone r a b c e).before = d.before := by unfold Dev.cmdDone; repeat (first | split | rfl)
@[simp] theorem Dev.cmdDone_cycle (d : Dev) (r a b c e : Nat) : (d.cmdDone r a b c e).cycle = d.cycle := by unfold Dev.cmdDone; repeat (first | split | rfl)
@[simp] theorem Dev.cmdDone_fv (d : Dev) (r a b c e : Nat) : (d.cmdDone r a b c e).fv = d.fv := by unfold Dev.cmdDone; repeat (first | split | rfl)
@[simp] theorem Dev.cmdDone_regs (d : Dev) (r a b c e : Nat) : (d.cmdDone r a b c e).regs = d.regs := by unfold Dev.cmdDone; repeat (first | split | rfl)
@[simp] theorem Dev.cmdDone_perf (d : Dev) (r a b c e : Nat) : (d.cmdDone r a b c e).perf = d.perf := by unfold Dev.cmdDone; repeat (first | split | rfl)
@[simp] theorem Dev.cmdDone_out (d : Dev) (r a b c e : Nat) : (d.cmdDone r a b c e).out = d.out := by unfold Dev.cmdDone; repeat (first | split | rfl)
@[simp] theorem Dev.cmdDone_fab (d : Dev) (r a b c e : Nat) : (d.cmdDone r a b c e).fab = d.fab := by unfold Dev.cmdDone; repeat (first | split | rfl)
@[simp] theorem Dev.cmdDone_qs (d : Dev) (r a b c e : Nat) : (d.cmdDone r a b c e).qs = d.qs := by unfold Dev.cmdDone; repeat (first | split | rfl)
@[simp] theorem Dev.cmdDone_hold (d : Dev) (r a b c e : Nat) : (d.cmdDone r a b c e).hold = d.hold := by unfold Dev.cmdDone; repeat (first | split | rfl)
@[simp] theorem Dev.cmdDone_flt (d : Dev) (r a b c e : Nat) : (d.cmdDone r a b c e).flt = d.flt := by unfold Dev.cmdDone; repeat (first | split | rfl)
@[simp] theorem Dev.cmdDone_mem (d : Dev) (r a b c e : Nat) : (d.cmdDone r a b c e).mem = d.mem := by unfold Dev.cmdDone; repeat (first | split | rfl)
@[simp] theorem Dev.cmdDone_ldr (d : Dev) (r a b c e : Nat) : (d.cmdDone r a b c e).ldr = d.ldr := by unfold Dev.cmdDone; repeat (first | split | rfl)
@[simp] theorem Dev.cmdDone_tl (d : Dev) (r a b c e : Nat) : (d.cmdDone r a b c e).tl = d.tl := by unfold Dev.cmdDone; repeat (first | split | rfl)
@[simp] theorem Dev.cmdDone_sco (d : Dev) (r a b c e : Nat) : (d.cmdDone r a b c e).sco = d.sco := by unfold Dev.cmdDone; repeat (first | split | rfl)
@[simp] theorem Dev.cmdDone_plat (d : Dev) (r a b c e : Nat) : (d.cmdDone r a b c e).plat = d.plat := by unfold Dev.cmdDone; repeat (first | split | rfl)
@[simp] theorem Dev.cmdDone_links (d : Dev) (r a b c e : Nat) : (d.cmdDone r a b c e).links = d.links := by unfold Dev.cmdDone; repeat (first | split | rfl)

/-! ### Reads of what was set -/

@[simp] theorem Dev.bqGet_bqSet_same (d : Dev) (b : Nat) (s : BqSt) : (d.bqSet b s).bqGet b = s := by simp [Dev.bqGet, Dev.bqSet]

theorem Dev.bqGet_bqSet_other (d : Dev) {a b : Nat} (s : BqSt) (h : b ≠ a) : (d.bqSet a s).bqGet b = d.bqGet b := by
  simp [Dev.bqGet, Dev.bqSet, Tab.get_set_other _ _ _ _ h]

@[simp] theorem Dev.mtGet_mtSet_same (d : Dev) (c m : Nat) (x : MTile) : (d.mtSet c m x).mtGet c m = x := by
  simp [Dev.mtGet, Dev.mtSet]

@[simp] theorem Dev.vtGet_vtSet_same (d : Dev) (c v : Nat) (x : VTile) : (d.vtSet c v x).vtGet c v = x := by
  simp [Dev.vtGet, Dev.vtSet]

@[simp] theorem Dev.sqGet_sqSet_same (d : Dev) (c u : Nat) (s : Sqr) : (d.sqSet c u s).sqGet c u = s := by
  unfold Dev.sqGet Dev.sqSet
  by_cases h : isM u <;> simp [h]

@[simp] theorem Dev.cmdOf_setCmd_same (d : Dev) (r : Nat) (c : Option RingCmd) : (d.setCmd r c).cmdOf r = c := by
  simp [Dev.cmdOf, Dev.setCmd]

/-- A ring's command ends with its result. -/
theorem Dev.cmdOf_cmdDone {d : Dev} {r : Nat} {c : RingCmd} (h : d.cmdOf r = some c) (a b e f : Nat) :
    (d.cmdDone r a b e f).cmdOf r = some { c with stage := 2, result := a, detail := b, aux := e, entry1 := f } := by
  simp [Dev.cmdDone, h]

/-! ### Words read through an update that leaves them alone -/

theorem Dev.word_congr {d e : Dev} (h : d.regs = e.regs) (a : Nat) : d.word a = e.word a := by simp [Dev.word, h]

theorem Dev.rd_congr {d e : Dev} (h : d.regs = e.regs) (b : Nat) (F : Fld) (i : Nat) : d.rd b F i = e.rd b F i := by
  simp [Dev.rd, Dev.word, h]

theorem Dev.flag_congr {d e : Dev} (h : d.regs = e.regs) (b : Nat) (F : Fld) (i : Nat) : d.flag b F i = e.flag b F i := by
  simp [Dev.flag, Dev.rd_congr h]

/-- A 64-bit register reads what was written to it. -/
theorem Dev.rd64_wr64_same (d : Dev) (a v : Nat) (h : v < 2 ^ 64) : (d.wr64 a v).rd64 a = v := by
  have h1 : a / 4 ≠ (a + 4) / 4 := by omega
  unfold Dev.rd64 Dev.wr64
  rw [Dev.word_setWord_other _ _ h1, Dev.word_setWord_same, Dev.word_setWord_same]
  omega

/-- A 64-bit register elsewhere keeps its value when a word is stored. -/
theorem Dev.rd64_setWord_other (d : Dev) {a b : Nat} (v : Nat) (h : b / 4 ≠ a / 4) (h2 : (b + 4) / 4 ≠ a / 4) :
    (d.setWord a v).rd64 b = d.rd64 b := by
  simp [Dev.rd64, Dev.word_setWord_other _ _ h, Dev.word_setWord_other _ _ h2]

theorem Dev.rd_wr64_other (d : Dev) {a : Nat} (v : Nat) {base : Nat} {F : Fld} {i : Nat}
    (h : (base + F.off + F.stride * i) / 4 ≠ a / 4) (h2 : (base + F.off + F.stride * i) / 4 ≠ (a + 4) / 4) :
    (d.wr64 a v).rd base F i = d.rd base F i := by
  unfold Dev.wr64
  rw [Dev.rd_setWord_other _ _ h2, Dev.rd_setWord_other _ _ h]

end Sys2Proof.Machine
end

