-- ==== Sys2Proof/Machine/Package.lean ====
section
/-!
DEFINITION. The package: which signal or rail each ball carries (R429 to R436), the types of the signals (R437), the state of each pin in
each condition (R438), and the identity that JTAG shows (R443).
-/

namespace Sys2Proof.Machine

/-- The rails of Table 14.1 and ground. -/
inductive Rail where
  | vss | vio | vpll | vdd | vddm | vphy | vcsi | vphyh | vddq
  deriving DecidableEq, Repr

/-- The signals of the package. `neg`: the _N ball of a pair. A memory subchannel is 0 to 3 for M0A, M0B, M1A, M1B. -/
inductive Signal where
  | glTx (k lane : Nat) (neg : Bool)
  | glRx (k lane : Nat) (neg : Bool)
  | peTx (lane : Nat) (neg : Bool)
  | peRx (lane : Nat) (neg : Bool)
  | peRefclk (neg : Bool)
  /-- lanes D0, D1, CLK, D2, D3 in this order -/
  | csi (n lane : Nat) (neg : Bool)
  | spiClk | spiCsL | spiDqs | spiResetL
  | spiDq (i : Nat)
  | trg (i : Nat)
  | evo (i : Nat)
  | alive | thermtripL | pwrok | resetL | pePerstL | testmode | xin
  | tck | tms | tdi | tdo | trstL
  | pmbScl | pmbSda
  | dq (sub i : Nat)
  | cb (sub i : Nat)
  | dqs (sub i : Nat) (neg : Bool)
  | ca (sub i : Nat)
  | csL (sub : Nat)
  | ck (sub : Nat) (neg : Bool)
  | alertL (sub : Nat)
  | dramRstL (n : Nat)
  | ddrZq (n : Nat)
  deriving DecidableEq, Repr

/-- What a ball carries. -/
inductive Ball where
  | rail (r : Rail)
  | sig (s : Signal)
  deriving DecidableEq, Repr

/-- The rows from north to south (R429). -/
def ballRows : List String :=
  ["A", "B", "C", "D", "E", "F", "G", "H", "J", "K", "L", "M", "N", "P", "T", "U", "V", "W", "Y"] ++
  ["AA", "AB", "AC", "AD", "AE", "AF", "AG", "AH", "AJ", "AK", "AL", "AM", "AN", "AP", "AT", "AU", "AV", "AW", "AY"]

/-- Row index of a row's name, from 1. -/
def rowIndex (name : String) : Option Nat := (ballRows.findIdx? (· == name)).map (· + 1)

/-- North: rows A to G (R431). -/
def northBall (r c : Nat) : Ball :=
  let blocks : List (Nat × (Bool → Nat → Bool → Signal)) :=
    [(2, fun tx l n => if tx then .glTx 0 l n else .glRx 0 l n), (14, fun tx l n => if tx then .peTx l n else .peRx l n),
     (26, fun tx l n => if tx then .glTx 1 l n else .glRx 1 l n)]
  if r = 2 ∨ r = 4 then
    match blocks.find? (fun b => decide (b.1 ≤ c ∧ c < b.1 + 12 ∧ (c - b.1) % 3 < 2)) with
    | some b => .sig (b.2 (r == 2) ((c - b.1) / 3) ((c - b.1) % 3 == 1))
    | none => .rail .vss
  else if r = 6 then (if c = 19 then .sig (.peRefclk false) else if c = 20 then .sig (.peRefclk true) else if c % 2 = 1 then .rail .vphy else .rail .vss)
  else if r = 7 then (if c % 2 = 1 then .rail .vphyh else .rail .vss)
  else .rail .vss

/-- West: rows H to AF, columns 1 to 7 (Table 15.3). -/
def westBall (r c : Nat) : Ball :=
  let pair (n first : Nat) : Ball := .sig (.csi n (r - first) (c == 3 || c == 6))
  if c = 1 ∨ c = 4 ∨ c = 7 then .rail .vss
  else if 9 ≤ r ∧ r ≤ 13 then pair (if c < 4 then 3 else 2) 9
  else if 16 ≤ r ∧ r ≤ 20 then pair (if c < 4 then 1 else 0) 16
  else if r = 14 ∨ r = 21 then .rail .vcsi
  else .rail .vss

/-- Centre: rows H to AF, columns 8 to 34 (R433). -/
def centreBall (r c : Nat) : Ball :=
  if (r + c) % 2 = 1 then .rail .vss else if r ≤ 9 ∨ 24 ≤ r then .rail .vddm else .rail .vdd

/-- East: rows H to AF, columns 35 to 38 (Table 15.4). -/
def eastBall (r c : Nat) : Ball :=
  let k := r - 8
  if c = 35 then (if k = 0 ∨ k = 4 ∨ k = 7 ∨ k = 11 ∨ k = 15 then .rail .vio else .rail .vss)
  else if c = 36 then
    ([Signal.spiClk, .spiCsL, .spiDqs, .spiDq 0, .spiDq 1, .spiDq 2, .spiDq 3, .spiDq 4, .spiDq 5, .spiDq 6, .spiDq 7, .spiResetL, .tck, .tms,
      .tdi, .tdo, .trstL][k]?).elim (.rail .vpll) Ball.sig
  else if c = 37 then
    ([Ball.sig (.trg 0), .sig (.trg 1), .sig (.trg 2), .sig (.trg 3), .rail .vss, .sig .alive, .sig .thermtripL, .sig .pwrok, .sig .resetL] ++
      [Ball.sig .pePerstL, .sig .testmode, .rail .vss, .sig .pmbScl, .sig .pmbSda, .rail .vss, .rail .vss, .sig .xin, .rail .vpll]).getD k (.rail .vss)
  else if k < 16 then .sig (.evo k)
  else if k = 16 then .rail .vio else .rail .vss

/-- Data bit `j` of device `i` of a subchannel (R435). -/
def dataBit (sub i j : Nat) : Signal := if i < 8 then .dq sub (4 * i + j) else .cb sub (4 * (i - 8) + j)

/-- Outer and inner row indices of the device blocks and their devices (Table 15.5). -/
def deviceRows : List (Nat × Nat × Nat) := [(38, 37, 0), (35, 34, 3), (32, 31, 6), (29, 28, 9)]

/-- A ball of a subchannel's band at offset `o`, 1 to 9 (R435). -/
def bandBall (sub r o : Nat) : Ball :=
  match deviceRows.find? (fun e => e.1 == r || e.2.1 == r) with
  | some (outer, _, d0) =>
    let i := if d0 = 9 then 9 else d0 + (o - 1) / 3
    if d0 = 9 ∧ (o < 4 ∨ 6 < o) then .rail .vss
    else
      let k := (o - 1) % 3
      if k = 1 then .sig (.dqs sub i (r != outer))
      else .sig (dataBit sub i (if r = outer then k / 2 else 2 + k / 2))
  | none =>
    if r = 27 then .sig (.ca sub (o - 1))
    else if r = 26 then
      .sig (if o ≤ 5 then .ca sub (8 + o) else if o = 6 then .csL sub else if o = 7 then .ck sub false else if o = 8 then .ck sub true else .alertL sub)
    else if o % 2 = 1 then .rail .vss else .rail .vddq

/-- South: rows AG to AY (R435). -/
def southBall (r c : Nat) : Ball :=
  if c ≤ 9 then bandBall 0 r c
  else if c ≤ 18 then bandBall 1 r (c - 9)
  else if c = 19 ∨ c = 20 then
    (if r = 26 then .sig (.dramRstL (c - 19)) else if r = 27 then .sig (.ddrZq (c - 19)) else if c = 19 then .rail .vss else .rail .vddq)
  else if c ≤ 29 then bandBall 2 r (c - 20)
  else bandBall 3 r (c - 29)

/-- The ball at row index `r` and column `c`, both from 1 to 38 (Table 15.2). -/
def ball (r c : Nat) : Ball :=
  if r ≤ 7 then northBall r c
  else if 26 ≤ r then southBall r c
  else if c ≤ 7 then westBall r c
  else if c ≤ 34 then centreBall r c
  else eastBall r c

/-- Balls of row `r` for which `p` holds. -/
def ballsOfRow (p : Ball → Bool) (r : Nat) : Nat := ((List.range 38).filter (fun c => p (ball r (c + 1)))).length

/-- Balls of the package for which `p` holds (Table 15.6). -/
def ballCount (p : Ball → Bool) : Nat := ((List.range 38).map (fun r => ballsOfRow p (r + 1))).foldl (· + ·) 0

/-! ### Signals (R437, R438) -/

inductive PinDir where
  | input | output | bidirectional
  deriving DecidableEq, Repr

/-- Internal pulls of 100 kΩ. -/
inductive PinPull where
  | none | up | down
  /-- while the straps are sensed -/
  | sensing
  deriving DecidableEq, Repr

/-- Direction, internal pull and fail-safe voltage in mV, 0 for none (Table 15.7). -/
def Signal.kind : Signal → PinDir × PinPull × Nat
  | .evo _ => (.output, .sensing, 1980)
  | .trg _ => (.input, .none, 1980)
  | .alive => (.output, .down, 0)
  | .thermtripL => (.output, .none, 3600)
  | .pwrok | .resetL | .pePerstL => (.input, .none, 1980)
  | .testmode => (.input, .down, 1980)
  | .xin => (.input, .none, 1980)
  | .pmbScl | .pmbSda => (.bidirectional, .none, 3600)
  | .spiClk | .spiResetL => (.output, .none, 0)
  | .spiCsL => (.output, .up, 0)
  | .spiDq _ | .spiDqs => (.bidirectional, .down, 0)
  | .tck | .trstL => (.input, .down, 0)
  | .tms | .tdi => (.input, .up, 0)
  | .tdo => (.output, .none, 0)
  | .glTx _ _ _ | .peTx _ _ | .ca _ _ | .csL _ | .ck _ _ | .dramRstL _ => (.output, .none, 0)
  | .glRx _ _ _ | .peRx _ _ | .peRefclk _ | .csi _ _ _ | .alertL _ => (.input, .none, 0)
  | .dq _ _ | .cb _ _ | .dqs _ _ _ | .ddrZq _ => (.bidirectional, .none, 0)

/-- Conditions of Table 15.8. -/
inductive PinCond where
  | unpowered | reset | boot | configured
  deriving DecidableEq, Repr

/-- What a pin does. -/
inductive PinState where
  | highZ
  | low
  | pulledLow
  | pulledHigh
  | idle
  | termOff
  /-- its block drives it, or listens -/
  | works
  deriving DecidableEq, Repr

/-- The state of a pin in a condition (Table 15.8); `trip`: the latch of R418 is set. Inputs that the table does not name only listen. -/
def Signal.state (s : Signal) (c : PinCond) (trip : Bool) : PinState :=
  match s with
  | .evo _ => if c = .configured then .works else .highZ
  | .alive => (match c with | .unpowered => .highZ | .reset => .pulledLow | .boot => .low | .configured => .works)
  | .thermtripL => if c ≠ .unpowered ∧ trip then .low else .highZ
  | .spiResetL => (match c with | .unpowered => .highZ | .reset => .low | _ => .works)
  | .spiCsL => (match c with | .unpowered => .highZ | .reset => .pulledHigh | _ => .works)
  | .spiClk | .spiDq _ | .spiDqs => if c = .unpowered ∨ c = .reset then .highZ else .works
  | .pmbScl | .pmbSda => if c = .configured then .works else .highZ
  | .tdo => if c = .unpowered ∨ c = .reset then .highZ else .works
  | .dramRstL _ | .ca _ _ | .csL _ | .ck _ _ => (match c with | .unpowered => .highZ | .configured => .works | _ => .low)
  | .dq _ _ | .cb _ _ | .dqs _ _ _ => if c = .configured then .works else .highZ
  | .peTx _ _ | .glTx _ _ _ => (match c with | .boot => .idle | .configured => .works | _ => .highZ)
  | .peRx _ _ | .glRx _ _ _ | .csi _ _ _ => (match c with | .unpowered => .highZ | .configured => .works | _ => .termOff)
  | .trg _ | .pwrok | .resetL | .pePerstL | .testmode | .xin | .tck | .tms | .tdi | .trstL | .peRefclk _ | .alertL _ | .ddrZq _ => .works

/-- The condition of a powered pin's block (Table 14.4): PMBus works from step 5 on, memory from the training's end. -/
def Dev.pinCond (d : Dev) (s : Signal) : PinCond :=
  match s with
  | .dramRstL _ | .ca _ _ | .csL _ | .ck _ _ | .dq _ _ | .cb _ _ | .dqs _ _ _ => if d.plat.trained then .configured else .boot
  | .spiClk | .spiCsL | .spiDq _ | .spiDqs | .spiResetL | .tdo => .configured
  | .peTx _ _ | .peRx _ _ => if d.flag Pg.host Reg.HDR.READY then .configured else .boot
  | .glTx k _ _ | .glRx k _ _ => if d.flag (Pg.gl k) Reg.GLINK.EN then .configured else .boot
  | .csi n _ _ => if d.flag (Pg.csi n) Reg.INGRESS.EN then .configured else .boot
  | _ => if 3 ≤ d.plat.step then .configured else .boot

/-- The state of a pin after the release of reset (R438, R439). -/
def Dev.pinState (d : Dev) (s : Signal) : PinState :=
  match s with
  | .evo i => if d.evoLevel i = 2 then .highZ else .works
  | _ => s.state (d.pinCond s) d.plat.trip

/-- IDCODE: version 0xB for stepping B0, part 0x3240, manufacturer 0x4B7 and bit 0 (R443). -/
def jtagIdcode : BitVec 32 := BitVec.ofNat 32 (0xB * 2 ^ 28 + 0x3240 * 2 ^ 12 + 0x4B7 * 2 + 1)

end Sys2Proof.Machine
end

