-- ==== Sys2Proof/Tests/Slice0.lean ====
section
/-!
SUPPORT. Tests: the checks of WellFormed refuse an ill-formed command, small steps on small states, and states that meet the hypotheses
of the statements together. Expected results come from the manual's rules, named in each comment.
-/

namespace Sys2Proof.Tests

open Machine

-- one theorem at a time: kernel evaluations in parallel take more memory than the check allows
set_option Elab.async false

/-! ### WellFormed -/

/-- An aperture read of no bytes is no request (R351). -/
theorem test_wf_apertureRead : (Instr.apertureRead 0 0).wf = false := by decide
/-- A write TLP carries at least one byte (R360). -/
theorem test_wf_apertureWrite : (Instr.apertureWrite 0 []).wf = false := by decide
theorem test_wf_registerWrite : (Instr.registerWrite (.bar0 0) []).wf = false := by decide
/-- Four ports of ten devices are trained (R264). -/
theorem test_wf_ddrTrainingDone : (Instr.ddrTrainingDone []).wf = false := by decide
/-- Eight rails are monitored (R404). -/
theorem test_wf_monitorSample : (Instr.monitorSample [0] 0).wf = false := by decide
/-- Eight sensors are read (R416). -/
theorem test_wf_governorMeasure : (Instr.governorMeasure 0 [25]).wf = false := by decide
/-- Four lanes are measured (R384). -/
theorem test_wf_csiDeskew : (Instr.csiDeskew 0 [0]).wf = false := by decide
/-- A frame of a Gostan link is 38 bytes (R387). -/
theorem test_wf_glDataFrame : (Instr.glDataFrame 0 [0]).wf = false := by decide
theorem test_wf_glCtrlFrame : (Instr.glCtrlFrame 0 [0]).wf = false := by decide
theorem test_wf_glTunnelFrame : (Instr.glTunnelFrame 0 [0]).wf = false := by decide
theorem test_wf_nop : (Instr.nop 3).wf = true := by decide

/-! ### The manual's worked examples -/

/-- Pages of cores c3 and h4 (chapter 0, examples after R8). -/
theorem test_pages_c3_h4 : Pg.corectl 18 = 0x340000 ∧ Pg.corectl 31 = 0x4E0000 := by decide
/-- One Winograd output tile (chapter 5, example after R146). -/
theorem test_wino_example :
    let v := winoInput (rowsOf [[1, 2, 0, 1], [3, 1, 2, 0], [0, 2, 1, 3], [2, 0, 1, 1]])
    let m := List.zipWith (· * ·) [4, 0, 0, -4, 6, 3, 3, 0, -2, -3, 1, 0, 0, 0, 4, 4] v
    m = [8, 0, 0, -8, 0, 18, 0, 0, 4, 0, -2, 0, 0, 0, 0, 8] ∧ winoOutput m 0 0 = 7 ∧ winoOutput m 0 1 = 7 ∧ winoOutput m 1 0 = 4 ∧
      winoOutput m 1 1 = 6 := by decide +kernel
/-- One rescaled value (chapter 5, example after R157): the byte 0x7D. -/
theorem test_rescale_example : rescale 12334 ⟨-334, 5033165, 28, 1, -100, -128, 127⟩ 0 = 0x7D := by decide +kernel
/-- One block in FRC-½ (chapter 7, example after R236). -/
theorem test_frc_example :
    frcEncode [-3, 0, 5, 12, 20, 31, 40, 47, 50, 44, 36, 25, 14, 6, 1, -2] 16 3 false false = 0x004A977D634403FD ∧
    (frcDecode 0x004A977D634403FD 3 false).1 =
      [-3, -3, 5, 13, 21, 29, 37, 45, 53, 45, 37, 29, 13, 5, 5, -3].map (fun v : Int => twos v 8) := by decide +kernel
/-- One RAW10 group (chapter 13, example after R380). -/
theorem test_raw10_example :
    let b : Array Byte := #[0x40, 0x81, 0xFF, 0x00, 0x1B]
    (List.range 4).map (csiSample b 0x2B 0) = [some 259, some 518, some 1021, some 0] ∧
    [259, 518, 1021, 0].map (fun x => csiValue 10 x true false) = [0xFC0C, 0x0018, 0x07F4, 0xF800] ∧
    [259, 518, 1021, 0].map (fun x => csiValue 10 x false true) = [0xC0, 0x01, 0x7F, 0x80] ∧
    [259, 518, 1021, 0].map (fun x => csiValue 10 x false false) = [0x40, 0x81, 0xFF, 0x00] := by decide +kernel
/-- A snapshot of the journal has 452 bytes (chapter 11, example after R348). -/
theorem test_snapshot_example : (State.reset.dev.snapshot 1).length = 452 := by decide +kernel
/-- Balls of Tables 15.2 to 15.5 (R431 and the example after R435). -/
theorem test_ball_examples : rowIndex "H" = some 8 ∧ rowIndex "AA" = some 20 ∧ rowIndex "AG" = some 26 ∧ rowIndex "AY" = some 38 ∧
    ball 4 20 = .sig (.peRx 2 false) ∧ ball 2 36 = .sig (.glTx 1 3 true) ∧
    ball 35 23 = .sig (.dq 2 13) ∧ ball 34 22 = .sig (.dqs 2 3 true) ∧ ball 28 13 = .sig (.cb 1 6) := by decide +kernel
/-- The counts of Table 15.6 (R436). -/
theorem test_ball_counts : ballCount (· == .rail .vss) = 637 ∧ ballCount (· == .rail .vdd) = 189 ∧ ballCount (· == .rail .vddq) = 59 ∧
    ballCount (fun b => match b with | .sig _ => true | _ => false) = 452 := by decide +kernel

/-! ### States of the tests below -/

/-- A state with the device `d`. -/
def st (d : Dev) : State := { State.reset with dev := d }
/-- After reset. -/
def d0 : Dev := State.reset.dev
/-- Core `c` belongs to domain 0, which is in state `x`. -/
def core (d : Dev) (c x : Nat) : Dev := ((d.wr (Pg.corectl c) Reg.HDR.ENABLE 1).wr (Pg.corectl c) Reg.HDR.DOMAIN 0).wr (Pg.ldom 0) Reg.LDOM.STATE x
/-- Unit `u` of core 0 of a running domain 0, its program `iw`s. -/
def prog (d : Dev) (u : Nat) (iws : List Nat) : Dev :=
  let d1 := (core d 0 stRUNNING).wr (tilePg 0 u) (fLen u) (iws.length - 1)
  { d1 with cycle := 100, hold := { d1.hold with dcyc := [(0, 50)] }, tl := { d1.tl with
    prog := iws.zipIdx.foldl (fun t x => Tab.set t (u * 1024 + x.2) x.1 0) d1.tl.prog } }
/-- Queue `q` of domain 0 feeds port `p` slot `sl` of the switch node of its core, with items `l` in its head. -/
def feed (d : Dev) (q p sl : Nat) (l : List Item) : Dev :=
  let d1 := (((d.wr (Pg.queue q) Reg.FQ.EN 1).wr (Pg.queue q) Reg.FQ.HEAD_PORT p).wr (Pg.queue q) Reg.FQ.HEAD_SLOT sl).wr (Pg.queue q) Reg.FQ.DOM 0
  let d2 := d1.wr (Pg.queue q) Reg.FQ.COUNT l.length
  { d2 with qs := { d2.qs with head := Tab.set d2.qs.head q l [] } }
/-- A valid item with data `n`. -/
def it (n : Nat) : Item := Item.ofNat n false
/-- A command ring entry pair: opcode `o`, the bytes of `l` at their places, zeros elsewhere. -/
def cb (o : Nat) (l : List (Nat × Nat)) : List Byte :=
  (List.range 64).map (fun i => if i = 0 then BitVec.ofNat 8 o else match l.find? (fun x => x.1 == i) with | some x => BitVec.ofNat 8 x.2 | none => 0)
/-- Command `o` with the bytes of `l`, at stage `stage`, waiting for `target` since cycle `t`. -/
def rc (o : Nat) (l : List (Nat × Nat)) (stage target t : Nat) : RingCmd := ⟨cb o l, stage, 0, 0, 0, 0, target, t, false⟩
/-- `d` with command `c` at the head of ring 0. -/
def ring0 (d : Dev) (c : RingCmd) : Dev := d.setCmd 0 (some c)
/-- The auto-start is over: commands of the host may enter the loader. -/
def auto4 (d : Dev) : Dev := { d with plat := { d.plat with step := 4, auto := 4 } }
/-- Boundary queue `b` enabled with 16 entries, outbound when `o` is 1, holding the entries `l`, all visible to the reader. -/
def bqd (d : Dev) (b o : Nat) (l : List Item) : Dev :=
  let d1 := (((d.wr (Pg.bq b) Reg.BQD.EN 1).wr (Pg.bq b) Reg.BQD.LOG2CAP 4).wr (Pg.bq b) Reg.BQD.DIR o).wr (Pg.bq b) Reg.BQD.DOM 0
  let n := l.length
  let d2 := d1.bqSet b { BqSt.zero with w := n, wPub := n, wPrev := n, wFf := [n, n, n] }
  { d2 with qs := { d2.qs with xmem := l.zipIdx.foldl (fun t x => Tab.set t (d2.bqKey b x.2) x.1 Item.zero) d2.qs.xmem } }
/-- Ring `b` enabled with 16 entries, the device's index `di` and the host's `hi`. -/
def ringOn (d : Dev) (b di hi : Nat) : Dev :=
  (((d.wr (Pg.ring b) Reg.RING.HEN 1).wr (Pg.ring b) Reg.RING.HLOG2 4).wr (Pg.ring b) Reg.RING.DEV_IDX di).wr (Pg.ring b) Reg.RING.HOST_IDX hi
/-- The domain 0 in state `x`. -/
def dom0 (d : Dev) (x : Nat) : Dev := d.wr (Pg.ldom 0) Reg.LDOM.STATE x
theorem ring0_other (d : Dev) (c : RingCmd) {r : Nat} (h : r ≠ 0) : (ring0 d c).cmdOf r = d.cmdOf r := by
  simp [ring0, Dev.cmdOf, Dev.setCmd, Tab.get_set_other _ _ _ _ h]
/-- `s` with the flash `f`. -/
def stf (d : Dev) (f : Memory) : State := { st d with flash := f }
/-- A layout block with one entry of type 3 at 0x1000, and there a board record whose first image starts. -/
def flLay : List Byte :=
  let e : List Byte := leBytes 2 3 ++ leBytes 2 0 ++ leBytes 4 1 ++ leBytes 4 1 ++ leBytes 4 0
  let h : List Byte := strBytes "VLYT" ++ leBytes 8 1
  h ++ leBytes 4 (crc32 (h ++ e)) ++ e
def flBoard : List Byte :=
  let b : List Byte := strBytes "VBRD" ++ leBytes 12 1 ++ leBytes 236 3
  b ++ leBytes 4 (crc32 b)
def flash1 : Memory := Memory.writeList (Memory.writeList [] 0 flLay 0xFF) 0x1000 flBoard 0xFF
/-- Four memory ports of the smallest capacity. -/
def ddr (d : Dev) : Dev :=
  (List.range 4).foldl (fun (d : Dev) p => (d.wr (Pg.memport p) Reg.MEMPORT.CAP 1).wr (Pg.memport p) Reg.MEMPORT.PRESENT 1) d
/-- Request 7 of stream 3 of engine 0 at port 1, of epoch `ep`. -/
def req (ep : Nat) (done : Bool) : MemReq := ⟨1, 7, 0, 3, ep, 0, 0x5000, 0, 64, false, [], 1, 0, 4, done, List.replicate 64 3, List.replicate 64 false⟩
/-- `d` with the request `r` and another of stream 4 at the ports. -/
def rq (d : Dev) (r : MemReq) : Dev := { d with cycle := 5000, mem := { d.mem with reqs := [{ r with tag := 8, st := 4 }, r] } }

/-! ### States that meet the hypotheses of the statements about steps and stores -/

namespace GeneralTests

def after (s : State) : State := match step s with | .next t => t | _ => s
def afterC (c : Instr) (s : State) : State := match exec c s with | .next t => t | _ => s
def sP : State := { st d0 with pending := [.rttClr 1, .rttClr 2] }
def sF : State := { st (rq (ddr d0) { req 0 false with pa := 2 ^ 50 }) with pending := [.memAccess 1 7] }
theorem test_met_MissingMemoryStops_fault : ∃ (s : State) (f : Fault), step s = .fault f := ⟨sF, .noMemory (2 ^ 50), rfl⟩
theorem test_met_MissingMemoryStops_beyond : ∃ (p : Fin 4) (tag : Fin 256) (s : State) (r : MemReq), s.dev.reqAt p tag = some r ∧
    r.done = false ∧ s.dev.ddrCap < r.pa + r.len :=
  ⟨1, 7, sF, { req 0 false with pa := 2 ^ 50 }, by decide +kernel, by decide +kernel, by decide +kernel⟩
theorem test_met_MissingMemoryStops_within : ∃ (p : Fin 4) (tag : Fin 256) (s : State) (r : MemReq), s.dev.reqAt p tag = some r ∧
    r.done = false ∧ r.pa + r.len ≤ s.dev.ddrCap :=
  ⟨1, 7, st (rq (ddr d0) (req 0 false)), req 0 false, by decide +kernel, by decide +kernel, by decide +kernel⟩

theorem test_met_StepRunsFront : ∃ (c : Instr) (rest : List Instr) (s : State),
    s.pending = c :: rest :=
  ⟨.rttClr 1, [.rttClr 2], sP, by decide +kernel⟩

theorem test_met_IdleStepIsOneCycle : ∃ (s : State),
    s.pending = [] :=
  ⟨State.reset, by decide +kernel⟩

theorem test_met_StepKeepsSafe : ∃ (s t : State),
    Safe s ∧
    step s = .next t :=
  ⟨sP, after sP, ⟨by decide, by decide, by decide⟩, rfl⟩

theorem test_met_CommandKeepsQueue : ∃ (c : Instr) (s t : State),
    exec c s = .next t :=
  ⟨.rttClr 1, sP, afterC (.rttClr 1) sP, rfl⟩

theorem test_met_StoresChangeByNamedCommands : ∃ (c : Instr) (s t : State),
    exec c s = .next t :=
  ⟨.rttClr 1, sP, afterC (.rttClr 1) sP, rfl⟩

end GeneralTests

/-! ### States that meet the hypotheses of the host port -/

namespace HostTests

def wKey : Dev := { d0 with ldr := { d0.ldr with keyValid := true } }
def wBar : Dev := (d0.wr (Pg.sync 0) Reg.SYNC.MODE 1).wr (Pg.sync 0) Reg.SYNC.PARTIES 3
def wWait (o : Nat) (v : Nat) : Dev := ring0 ((d0.wr64 (Pg.sync 1) v).wr (Pg.sync 1) Reg.SYNC.WAITERS 2) (rc o [(24, 1)] 1 5 0)
def wTmo : Dev := { ring0 ((d0.wr64 (Pg.sync 1) 3).wr (Pg.sync 1) Reg.SYNC.WAITERS 2) (rc 0x0B [(24, 1), (40, 10)] 1 5 0) with cycle := 5000 }
/-- Ring 2 is a command ring with two entries, the second command ring of the chip. -/
def wDisp : Dev :=
  let d := ((((d0.wr (Pg.ring 2) Reg.RING.HEN 1).wr (Pg.ring 2) Reg.RING.ROLE 1).wr (Pg.bq 2) Reg.BQD.EN 1).wr (Pg.bq 2) Reg.BQD.LOG2CAP 4)
  let d1 := d.bqSet 2 { BqSt.zero with w := 2, wPub := 2, wPrev := 2, wFf := [2, 2, 2] }
  { d1 with qs := { d1.qs with xmem := Tab.set (Tab.set d1.qs.xmem (d1.bqKey 2 0) (it (leNat ((cb 0 []).take 32))) Item.zero) (d1.bqKey 2 1) (it 0) Item.zero } }
def wDisp2 : Dev := (wDisp.bqPop 2).2
def wEnd (d : Dev) : Dev := ring0 d { rc 0 [(2, 2)] 2 0 0 with stage := 2 }
def wEv : Dev :=
  let d := (((((d0.wr (Pg.ring 0) Reg.RING.LINK 5).wr (Pg.ring 0) Reg.RING.LINK_EN 1).wr (Pg.ring 5) Reg.RING.HEN 1).wr (Pg.bq 5) Reg.BQD.EN 1).wr (Pg.bq 5) Reg.BQD.LOG2CAP 4)
  ring0 ((d.wr (Pg.bq 5) Reg.BQD.PKT 1).wr (Pg.bq 5) Reg.BQD.DIR 1) (rc 0 [] 2 0 0)

theorem test_met_HostCommandsExecute :
    (∃ (r : Fin 64) (s : State) (c : RingCmd),
      s.dev.cmdBegin r 0x00 = some c) ∧
    (∃ (r : Fin 64) (s : State) (c : RingCmd),
      s.dev.cmdBegin r 0x07 = some c ∧
      s.dev.ldr.keyValid = true) ∧
    (∃ (r : Fin 64) (s : State) (c : RingCmd),
      s.dev.cmdBegin r 0x0A = some c ∧
      s.dev.flag (Pg.sync (c.field 24 2)) Reg.SYNC.MODE = false ∧
      s.dev.flag (Pg.sync (c.field 24 2)) Reg.SYNC.IRQ_EN = false) ∧
    (∃ (r : Fin 64) (s : State) (c : RingCmd),
      s.dev.cmdBegin r 0x0B = some c) ∧
    (∃ (r : Fin 64) (s : State) (c : RingCmd),
      s.dev.cmdBegin r 0x0C = some c ∧
      s.dev.flag (Pg.sync (c.field 24 2)) Reg.SYNC.MODE = true ∧
      s.dev.flag (Pg.sync (c.field 24 2)) Reg.SYNC.IRQ_EN = false ∧
      s.dev.rd (Pg.sync (c.field 24 2)) Reg.SYNC.ARRIVED + 1 < s.dev.rd (Pg.sync (c.field 24 2)) Reg.SYNC.PARTIES) :=
  ⟨⟨0, st (ring0 d0 (rc 0 [] 0 0 0)), rc 0 [] 0 0 0, by decide +kernel⟩,
   ⟨0, st (ring0 wKey (rc 7 [] 0 0 0)), rc 7 [] 0 0 0, by decide +kernel, by decide +kernel⟩,
   ⟨0, st (ring0 d0 (rc 0x0A [(24, 3), (32, 9)] 0 0 0)), rc 0x0A [(24, 3), (32, 9)] 0 0 0, by decide +kernel, by decide +kernel, by decide +kernel⟩,
   ⟨0, st (ring0 d0 (rc 0x0B [(24, 3), (32, 9)] 0 0 0)), rc 0x0B [(24, 3), (32, 9)] 0 0 0, by decide +kernel⟩,
   ⟨0, st (ring0 wBar (rc 0x0C [] 0 0 0)), rc 0x0C [] 0 0 0, by decide +kernel, by decide +kernel, by decide +kernel, by decide +kernel⟩⟩

theorem test_met_WaitsEnd :
    (∃ (r : Fin 64) (s : State) (c : RingCmd),
      s.dev.cmdWaits r 0x0B = some c ∧
      c.target ≤ s.dev.syncValue (c.field 24 2)) ∧
    (∃ (r : Fin 64) (s : State) (c : RingCmd),
      s.dev.cmdWaits r 0x0C = some c ∧
      c.target ≤ s.dev.syncValue (c.field 24 2)) ∧
    (∃ (r : Fin 64) (s : State) (c : RingCmd),
      s.dev.cmdOf r = some c ∧
      c.stage = 1 ∧
      ((c.opc = 0x0B ∨ c.opc = 0x0C)) ∧
      0 < c.timeout ∧
      c.at_ + usCycles c.timeout ≤ s.dev.cycle ∧
      s.dev.syncValue (c.field 24 2) < c.target) :=
  ⟨⟨0, st (wWait 0x0B 5), rc 0x0B [(24, 1)] 1 5 0, by decide +kernel, by decide +kernel⟩,
   ⟨0, st (wWait 0x0C 6), rc 0x0C [(24, 1)] 1 5 0, by decide +kernel, by decide +kernel⟩,
   ⟨0, st wTmo, rc 0x0B [(24, 1), (40, 10)] 1 5 0, by decide +kernel, by decide +kernel, by decide +kernel, by decide +kernel, by decide +kernel, by decide +kernel⟩⟩

theorem test_met_CommandsFlow :
    (∃ (s : State) (r : Nat) (x0 x1 : Item) (d1 d2 : Dev),
      ((List.range 64).map (fun i => (s.dev.hp.next + i) % 64)).find? (fun r => s.dev.cmdReady r) = some r ∧
      s.dev.bqPop r = (x0, d1) ∧
      d1.bqPop r = (x1, d2) ∧
      x0.poison = false ∧
      x1.poison = false ∧
      ((∀ c : RingCmd, c.bytes = leBytes 32 x0.data.toNat ++ leBytes 32 x1.data.toNat → c.opc < 0x0D ∧ c.legal = true))) ∧
    (∃ (r : Fin 64) (s : State) (c : RingCmd),
      s.dev.cmdOf r = some c ∧
      s.dev.plat.step = 4 ∧
      s.dev.plat.auto = 4 ∧
      c.stage = 0 ∧
      1 ≤ c.opc ∧
      c.opc ≤ 6 ∧
      s.dev.ldr.queue.length < 16) ∧
    (∃ (r : Fin 64) (s : State) (c : RingCmd),
      s.dev.cmdOf r = some c ∧
      c.stage = 2 ∧
      c.gone = false ∧
      c.sigen = false ∧
      c.noevt = true ∧
      c.result = 0) ∧
    (∃ (r : Fin 64) (s : State) (c : RingCmd),
      s.dev.cmdOf r = some c ∧
      c.stage = 2 ∧
      c.gone = false ∧
      c.sigen = false ∧
      (c.noevt && c.result == 0) = false ∧
      s.dev.flag (Pg.ring r) Reg.RING.LINK_EN = true ∧
      s.dev.eventRoom (s.dev.ringRd r Reg.RING.LINK % 2048) = true) :=
  ⟨⟨st wDisp, 2, (wDisp.bqPop 2).1, (wDisp2.bqPop 2).1, wDisp2, (wDisp2.bqPop 2).2, by decide +kernel, by decide +kernel, by decide +kernel, by decide +kernel, by decide +kernel, fun c h => ⟨by simp only [RingCmd.opc, h]; decide +kernel, by simp only [RingCmd.legal, RingCmd.opc, RingCmd.field, h]; decide +kernel⟩⟩,
   ⟨0, st (ring0 (auto4 d0) (rc 2 [] 0 0 0)), rc 2 [] 0 0 0, by decide +kernel, by decide +kernel, by decide +kernel, by decide +kernel, by decide +kernel, by decide +kernel, by decide +kernel⟩,
   ⟨0, st (wEnd d0), rc 0 [(2, 2)] 2 0 0, by decide +kernel, by decide +kernel, by decide +kernel, by decide +kernel, by decide +kernel, by decide +kernel⟩,
   ⟨0, st wEv, rc 0 [] 2 0 0, by decide +kernel, by decide +kernel, by decide +kernel, by decide +kernel, by decide +kernel, by decide +kernel, by decide +kernel⟩⟩

end HostTests

/-! ### States that meet the hypotheses of the rings and windows -/

namespace RingsTests

/-- Queue 2 of core 0 belongs to a running domain and can be read and written through its window. -/
def wq (l : List Item) : Dev := ((feed (core d0 0 stRUNNING) 2 60 0 l).wr (Pg.queue 2) Reg.FQ.WIN_CONS 1).wr (Pg.queue 2) Reg.FQ.WIN_PROD 1
def wst (d : Dev) (l : List Stall) : Dev := { d with qs := { d.qs with stalls := l } }
def wqs : Dev := { (wq []).wr (Pg.queue 2) Reg.FQ.STALL_EMPTY 1 with cycle := 30000 }
def wqb : Dev := wst ((wq [it 7]).wr (Pg.queue 2) Reg.FQ.STALL_EMPTY 1) [⟨.host, winBlock 2, 2, 0, .read⟩, ⟨.host, winBlock 2, 2, 0, .read⟩]
def wqt : Dev := wst wqs [⟨.host, winBlock 2, 2, 100, .read⟩]
def wqw (k : Nat) : Dev := let d := wq [it 7]; { d with qs := { d.qs with winW := Tab.set d.qs.winW 2 k 0, winWData := Tab.set d.qs.winWData 2 (2^200+5) 0 } }
def wIn : Dev := ringOn (bqd d0 3 0 []) 3 5 14
def wOutb : Dev := ringOn (bqd d0 3 1 [it 1, it 2, it 3]) 3 5 4
def wRd : Dev := { wIn with hp := { wIn.hp with reads := [⟨9, 3, 5, 2, 0⟩] } }
def wTo : Dev := { wRd with cycle := 2 ^ 40 }
def wHr (n : Nat) : HostRead := ⟨List.replicate n 7, false⟩
def wTail : Dev := let d := (bqd d0 3 1 [it 1]).wr (Pg.bq 3) Reg.BQD.TIMEOUT 7; { d.bqSet 3 { d.bqGet 3 with tail := some 10 } with cycle := 3000 }

theorem test_met_WindowsReadAndWrite :
    (∃ (who : Requester) (q : Fin 65536) (s : State) (v : Nat) (d1 : Dev),
      s.dev.waitsAt who (winBlock q) = false ∧
      s.dev.winReads q = true ∧
      s.dev.winReadWord q = some (v, d1)) ∧
    (∃ (who : Requester) (q : Fin 65536) (s : State),
      (s.dev.waitsAt who (winBlock q) = true ∨ (s.dev.winReads q = true ∧ s.dev.winReadWord q = none ∧ s.dev.winStalls q = true ∧ s.dev.stallOver q = false))) ∧
    (∃ (who : Requester) (q : Fin 65536) (s : State) (e : Stall) (d0 d1 : Dev) (v : Nat),
      s.dev.stallFront who q = some e ∧
      e.op = .read ∧
      d0 = { s.dev with qs := { s.dev.qs with stalls := s.dev.qs.stalls.erase e } } ∧
      d0.winReads q = true ∧
      d0.winReadWord q = some (v, d1)) ∧
    (∃ (who : Requester) (q : Fin 65536) (s : State) (e : Stall) (d0 : Dev),
      s.dev.stallFront who q = some e ∧
      e.op = .read ∧
      d0 = { s.dev with qs := { s.dev.qs with stalls := s.dev.qs.stalls.erase e } } ∧
      s.dev.winValue q = none ∧
      e.at_ + usCycles (s.dev.rd (winBlock q) Reg.QENG.QSTALL_MAX) ≤ s.dev.cycle) ∧
    (∃ (q : Fin 65536) (w : BitVec 64) (s : State),
      s.dev.waitsAt .host (winBlock q) = false ∧
      ((q.val < 61440 → s.dev.fenced (qCore q) = false)) ∧
      s.dev.winWrites q = true ∧
      s.dev.winNet q = 0 ∧
      bitsOf w.toNat 40 3 = Tab.get s.dev.qs.winW q 0 % 8 ∧
      bitsOf w.toNat 40 3 ≠ 7) ∧
    (∃ (q : Fin 65536) (w : BitVec 64) (s : State),
      s.dev.waitsAt .host (winBlock q) = false ∧
      s.dev.fenced (qCore q) = false ∧
      s.dev.winWrites q = true ∧
      s.dev.winNet q = 0 ∧
      q.val < 61440 ∧
      Tab.get s.dev.qs.winW q 0 = 7 ∧
      bitsOf w.toNat 40 3 = 7 ∧
      s.dev.qSize q = 0 ∧
      s.dev.qFull q = false ∧
      (s.dev.qHead q).length < 4) ∧
    (∃ (q : Fin 65536) (_w : BitVec 64) (s : State),
      s.dev.waitsAt .host (winBlock q) = true) :=
  ⟨⟨.host, 2, st (wq [it (2^200+3), it 4]), (((wq [it (2^200+3), it 4]).winReadWord 2).getD (0, d0)).1, (((wq [it (2^200+3), it 4]).winReadWord 2).getD (0, d0)).2, by decide +kernel, by decide +kernel, by decide +kernel⟩,
   ⟨.host, 2, st wqs, by decide +kernel⟩,
   ⟨.host, 2, st wqb, ⟨.host, winBlock 2, 2, 0, .read⟩, { wqb with qs := { wqb.qs with stalls := wqb.qs.stalls.erase ⟨.host, winBlock 2, 2, 0, .read⟩ } }, ((({ wqb with qs := { wqb.qs with stalls := wqb.qs.stalls.erase ⟨.host, winBlock 2, 2, 0, .read⟩ } } : Dev).winReadWord 2).getD (0, d0)).2, ((({ wqb with qs := { wqb.qs with stalls := wqb.qs.stalls.erase ⟨.host, winBlock 2, 2, 0, .read⟩ } } : Dev).winReadWord 2).getD (0, d0)).1, by decide +kernel, by decide +kernel, by decide +kernel, by decide +kernel, by decide +kernel⟩,
   ⟨.host, 2, st wqt, ⟨.host, winBlock 2, 2, 100, .read⟩, { wqt with qs := { wqt.qs with stalls := wqt.qs.stalls.erase ⟨.host, winBlock 2, 2, 100, .read⟩ } }, by decide +kernel, by decide +kernel, by decide +kernel, by decide +kernel, by decide +kernel⟩,
   ⟨2, BitVec.ofNat 64 (2^40 * 2 + 99), st (wqw 2), by decide +kernel, by decide +kernel, by decide +kernel, by decide +kernel, by decide +kernel, by decide +kernel⟩,
   ⟨2, BitVec.ofNat 64 (2^40 * 7 + 2^32 + 99), st (wqw 7), by decide +kernel, by decide +kernel, by decide +kernel, by decide +kernel, by decide +kernel, by decide +kernel, by decide +kernel, by decide +kernel, by decide +kernel, by decide +kernel⟩,
   ⟨2, 5, st wqb, by decide +kernel⟩⟩

theorem test_met_NativeWindowReads :
    (∃ (who : Requester) (q : Fin 65536) (s : State) (v : Nat) (d1 : Dev),
      s.dev.winStalls q = false ∧
      s.dev.waitsAt who (winBlock q) = false ∧
      s.dev.winReads q = true ∧
      s.dev.winReadWord q = some (v, d1)) ∧
    (∃ (who : Requester) (q : Fin 65536) (s : State),
      s.dev.winStalls q = false ∧
      s.dev.waitsAt who (winBlock q) = false ∧
      s.dev.winReads q = true ∧
      s.dev.winReadWord q = none) :=
  ⟨⟨.dealer, 2, st (wq [it (2^200+3), it 4]), (((wq [it (2^200+3), it 4]).winReadWord 2).getD (0, d0)).1, (((wq [it (2^200+3), it 4]).winReadWord 2).getD (0, d0)).2, by decide +kernel, by decide +kernel, by decide +kernel, by decide +kernel⟩,
   ⟨.dealer, 2, st (wq []), by decide +kernel, by decide +kernel, by decide +kernel, by decide +kernel⟩⟩

theorem test_met_RingRegistersFollow :
    (∃ (b : Fin 1536) (v : Word) (s : State),
      s.dev.hen b = true ∧
      s.dev.bqOut b = false ∧
      idxSub v.toNat (s.dev.devIdx b) ≤ s.dev.ringSize b ∧
      ¬(s.dev.ringRd b Reg.RING.ROLE = 1 ∧ v.toNat % 2 = 1)) ∧
    (∃ (b : Fin 1536) (s : State),
      s.dev.hen b = false ∧
      4 ≤ s.dev.rd (Pg.ring b) Reg.RING.HLOG2 ∧
      s.dev.rd (Pg.ring b) Reg.RING.HLOG2 ≤ 20 ∧
      s.dev.rd (Pg.ring b) Reg.RING.ROLE = 0) ∧
    (∃ (b : Fin 1536) (s : State),
      s.dev.hen b = true ∧
      64 ≤ b.val) :=
  ⟨⟨3, 12, st wIn, by decide +kernel, by decide +kernel, by decide +kernel, by decide +kernel⟩,
   ⟨3, st (wIn.wr (Pg.ring 3) Reg.RING.HEN 0), by decide +kernel, by decide +kernel, by decide +kernel, by decide +kernel⟩,
   ⟨70, st { ringOn d0 70 1 2 with hp := { d0.hp with reads := [⟨9, 70, 5, 2, 0⟩, ⟨8, 3, 5, 2, 0⟩] } }, by decide +kernel, by decide +kernel⟩⟩

theorem test_met_RingDataMoves :
    (∃ (b : Fin 1536) (s : State) (first n : Nat),
      s.dev.dmaTurn s.dev.readsReady = some b.val ∧
      s.dev.readWanted b = (first, n)) ∧
    (∃ (b : Fin 1536) (r : PcieRead) (h : HostRead) (s : State),
      s.dev.hp.reads.find? (fun r => r.b == b.val) = some r ∧
      0 < r.n ∧
      h.poisoned = false) ∧
    (∃ (tag : Fin 512) (r : PcieRead) (s : State),
      s.dev.hp.reads.find? (fun r => r.tag == tag.val) = some r ∧
      s.dev.hp.reads.find? (fun x => x.b == r.b) = some r ∧
      s.dev.hp.cfg.ctoOff = false ∧
      r.at_ + cplCycles s.dev.hp.cfg.cto ≤ s.dev.cycle) ∧
    (∃ (b : Fin 1536) (s : State) (n : Nat),
      s.dev.dmaTurn s.dev.writesReady = some b.val ∧
      s.dev.bqPkt b = false ∧
      0 < s.dev.bqVisible b ∧
      0 < s.dev.hostRoom b (s.dev.devIdx b) ∧
      s.dev.ringServed b = true ∧
      s.dev.hp.cfg.d3hot = false ∧
      s.dev.dmaStopped b = false ∧
      n = max 1 (min (min (s.dev.bqVisible b) (s.dev.hostRoom b (s.dev.devIdx b))) (s.dev.ringRun b (s.dev.devIdx b) (min s.dev.hp.cfg.mps 512)))) ∧
    (∃ (q : Fin 65536) (s : State) (t0 : Nat),
      61440 ≤ q.val ∧
      (s.dev.bqGet (q - 61440)).tail = some t0 ∧
      s.dev.rd (Pg.bq (q - 61440)) Reg.BQD.TIMEOUT ≠ 0 ∧
      s.dev.bqOut (q - 61440) = true ∧
      s.dev.bqCount (q - 61440) ≠ 0 ∧
      t0 + usCycles (s.dev.rd (Pg.bq (q - 61440)) Reg.BQD.TIMEOUT) ≤ s.dev.cycle) :=
  ⟨⟨3, st wIn, (wIn.readWanted 3).1, (wIn.readWanted 3).2, by decide +kernel, by decide +kernel⟩,
   ⟨3, ⟨9, 3, 5, 2, 0⟩, wHr 64, st wRd, by decide +kernel, by decide +kernel, by decide +kernel⟩,
   ⟨9, ⟨9, 3, 5, 2, 0⟩, st wTo, by decide +kernel, by decide +kernel, by decide +kernel, by decide +kernel⟩,
   ⟨3, st wOutb, max 1 (min (min (wOutb.bqVisible 3) (wOutb.hostRoom 3 (wOutb.devIdx 3))) (wOutb.ringRun 3 (wOutb.devIdx 3) (min wOutb.hp.cfg.mps 512))), by decide +kernel, by decide +kernel, by decide +kernel, by decide +kernel, by decide +kernel, by decide +kernel, by decide +kernel, by decide +kernel⟩,
   ⟨61443, st wTail, 10, by decide +kernel, by decide +kernel, by decide +kernel, by decide +kernel, by decide +kernel, by decide +kernel⟩⟩

end RingsTests

/-! ### States that meet the hypotheses of the fabric and the queues -/

namespace FabricTests

/-- The east port of core 0 takes from M tile 0's output, which holds an item. -/
def wTrick : Dev :=
  let d := (core d0 0 stRUNNING).wr (Pg.xnode 0) Reg.XNODE.OWNER_A (4 * 16) 0
  { d with cycle := 100, fab := { d.fab with tt := Tab.set d.fab.tt (d.ttKey 0 1 0) 0x64 0x20,
                                             outp := Tab.set d.fab.outp 4 [⟨it 9, 3, false⟩] [] } }
def wT0 : Dev := { wTrick with fab := { wTrick.fab with portDone := (64 * 0 + 1) :: wTrick.fab.portDone } }
def wT1 : Dev := wT0.checkNode 0
def wT2 : Dev := (wT1.readSource 0 0 4 0).2.2
def wTf : Flit := ((wT1.readSource 0 0 4 0).2.1).getD ⟨it 0, 0, false, 0⟩
def wT3 : Dev := (wT2.deliver 0 1 0 0 (wT1.trickOf 0 0) wTf).2
def wLand : Dev :=
  let d := feed (core d0 0 stRUNNING) 2 20 0 [it 1]
  { d with cycle := 100, qs := { d.qs with lin := Tab.set d.qs.lin 20 [⟨⟨it 7, 0, false, 0⟩, 4096 + 2, 0, 99⟩, ⟨⟨it 8, 0, false, 0⟩, 4096 + 2, 0, 99⟩] [] } }
def wBody : Dev :=
  let d := ((core d0 0 stRUNNING).wr (Pg.queue 2) Reg.FQ.EN 1).wr (Pg.queue 2) Reg.FQ.BODY_SIZE 64
  { d with cycle := 100, qs := { d.qs with land := Tab.set d.qs.land 28 [⟨2, it 7, 90⟩, ⟨2, it 8, 91⟩] [] } }
def wBodyR : BReq := (wBody.landReq 0 (wBody.qTile 2) 28).headD ⟨9, 9, 9, 9, .bulk⟩
def wCred : Dev :=
  let d := ((core d0 0 stRUNNING).wr (Pg.mtile 0 3) Reg.MTILE.CCNT 4 1).wr (Pg.mtile 0 3) Reg.MTILE.CCAP 9 1
  { d with qs := { d.qs with credIn := Tab.set d.qs.credIn 0 [(5 * 256 + 3 * 16 + 1, 0), (3, 0)] [] } }
def wHold : Dev :=
  let d := (core d0 0 stRUNNING).wr (Pg.bq 3) Reg.BQD.HOLD_SRC 1
  { d with hold := { d.hold with missed := [3] } }
def wPipe (n : Nat) (h : Bool) (len : Nat) : Dev := { d0 with hold := { d0.hold with pipe := Tab.set d0.hold.pipe 1 n 0, held := Tab.set d0.hold.held 1 h false, len := Tab.set d0.hold.len 1 len 0 } }
def wStop : Dev := let d := bqd (dom0 d0 stRUNNING) 1600 0 [{ it 1 with fsb := true }, it 2]; d.bqSet 1600 { d.bqGet 1600 with stopWanted := true }
def wStopped : Dev := wStop.bqSet 1600 { wStop.bqGet 1600 with stopped := true }
def wRst : Dev := d0.bqSet 9 { BqSt.zero with resetting := true }
def wSig : Dev := let d := d0.wr64 (Pg.sync 5) (2 ^ 64 - 3); { d with qs := { d.qs with sigIn := Tab.set d.qs.sigIn 2 [5 + 2^14 * 9, 6] [] } }
def wPkt : Dev := { d0 with fab := { d0.fab with buf := Tab.set d0.fab.buf (bufKey 0 4 0 1) [⟨it (Hdr.mk 1 0 false 0 1 0 0 0 5 false), true, false, 0⟩, ⟨it 4, false, true, 0⟩] [] } }
def wScr : Dev :=
  let d := ((d0.wr (Pg.btile 0 0) Reg.BTILE.SCRUB_EN 1).wr (Pg.btile 0 0) Reg.HDR.READY 1)
  { d with cycle := 2 ^ 40, mem := { d.mem with bscrubWb := [(1, 77)], berr := Tab.set d.mem.berr (0x20000 + 77) 5 0, bmem := Memory.write d.mem.bmem 8 7 0 } }

theorem test_met_TricksAndSwaps :
    (∃ (c : Fin 32) (p : Fin 59) (s : State) (net m : Nat) (fl : Flit) (ok : Bool) (d0 d1 d2 d3 : Dev),
      s.dev.fab.portDone.contains (64 * c.val + p.val) = false ∧
      portNet p = some net ∧
      d0 = { s.dev with fab := { s.dev.fab with portDone := (64 * c.val + p.val) :: s.dev.fab.portDone } } ∧
      d0.isolated c = false ∧
      d1 = d0.checkNode c ∧
      d1.upsetAt (Upset.owner c p) = 0 ∧
      d1.ownerA c p = some m ∧
      d1.frozen m = false ∧
      d1.upsetAt (Upset.tt (d1.ttKey c p m)) = 0 ∧
      classA (d1.ttEntry c p m) = true ∧
      d1.readSource c net (d1.ttEntry c p m % 32) m = (true, some fl, d2) ∧
      ((∀ dir, portDir p = some dir → linkAbsent c dir net = false)) ∧
      d2.deliver c p net m (d1.trickOf c m) fl = (ok, d3)) ∧
    (∃ (c : Fin 32) (m : Fin 4) (s : State),
      s.dev.fenced c = false ∧
      s.dev.running m = false) :=
  ⟨⟨0, 1, st wTrick, 0, 0, wTf, true, wT0, wT1, wT2, wT3, by decide +kernel, by decide +kernel, by decide +kernel, by decide +kernel, by decide +kernel, by decide +kernel, by decide +kernel, by decide +kernel, by decide +kernel, by decide +kernel, by decide +kernel, by decide +kernel, by decide +kernel⟩,
   ⟨0, 0, st (core d0 0 1), by decide +kernel, by decide +kernel⟩⟩

theorem test_met_ItemsAndCreditsLand :
    (∃ (c : Fin 32) (p : Fin 59) (s : State) (l : Landed) (rest : List Landed),
      Tab.get s.dev.qs.lin (64 * c.val + p.val) [] = l :: rest ∧
      l.at_ < s.dev.cycle ∧
      s.dev.fenced c = false ∧
      l.flit.item.poison = false ∧
      l.flit.fromQ = 0 ∧
      bitAt l.entry 12 = true ∧
      bitAt l.entry 11 = false ∧
      l.entry % 2048 < 1920 ∧
      (¬(p.val = 28 ∨ p.val = 29 ∨ p.val = 48 ∨ p.val = 58)) ∧
      s.dev.qEn (entryQueue c l.entry) = true ∧
      some (s.dev.qNet (entryQueue c l.entry)) = portNet p ∧
      s.dev.upsetAt (Upset.ptr (entryQueue c l.entry)) = 0 ∧
      s.dev.qFull (entryQueue c l.entry) = false ∧
      (s.dev.qHead (entryQueue c l.entry)).length < 4) ∧
    (∃ (c : Fin 32) (p : Fin 59) (s : State) (x : BodyItem) (rest : List BodyItem) (r : BReq) (l : List BReq) (d1 : Dev),
      Tab.get s.dev.qs.land (64 * c.val + p.val) [] = x :: rest ∧
      s.dev.landReq c (s.dev.qTile x.q) p = r :: l ∧
      s.dev.bGrant (4 * c.val + s.dev.qTile x.q) (s.dev.btReqs c (s.dev.qTile x.q)) r = true ∧
      s.dev.qMode x.q ≠ 1 ∧
      d1 = s.dev.bTake c (s.dev.qTile x.q) r.port (banksOf r.word r.n)) ∧
    (∃ (c : Fin 32) (s : State) (w owner : Nat) (rest : List (Nat × Nat)) (pg : Nat) (cnt ex cap : Fld),
      s.dev.fenced c = false ∧
      Tab.get s.dev.qs.credIn c [] = (w, owner) :: rest ∧
      counterRef c (bitsOf w 4 4) = some (pg, cnt, ex, cap) ∧
      s.dev.rd pg cnt (bitsOf w 0 4) + bitsOf w 8 20 ≤ s.dev.rd pg cap (bitsOf w 0 4)) :=
  ⟨⟨0, 20, st wLand, ⟨⟨it 7, 0, false, 0⟩, 4096 + 2, 0, 99⟩, [⟨⟨it 8, 0, false, 0⟩, 4096 + 2, 0, 99⟩], by decide +kernel, by decide +kernel, by decide +kernel, by decide +kernel, by decide +kernel, by decide +kernel, by decide +kernel, by decide +kernel, by decide +kernel, by decide +kernel, by decide +kernel, by decide +kernel, by decide +kernel, by decide +kernel⟩,
   ⟨0, 28, st wBody, ⟨2, it 7, 90⟩, [⟨2, it 8, 91⟩], wBodyR, [], wBody.bTake 0 (wBody.qTile 2) wBodyR.port (banksOf wBodyR.word wBodyR.n), by decide +kernel, by decide +kernel, by decide +kernel, by decide +kernel, by decide +kernel⟩,
   ⟨0, st wCred, 5 * 256 + 3 * 16 + 1, 0, [(3, 0)], Pg.mtile 0 3, Reg.MTILE.CCNT, Reg.MTILE.EXEMPT, Reg.MTILE.CCAP, by decide +kernel, by decide +kernel, by decide +kernel, by decide +kernel⟩⟩

theorem test_met_HoldAndInputsFollow :
    (∃ (m : Fin 4) (b : Fin 4096) (s : State),
      s.dev.hold.missed.contains b.val = true ∧
      s.dev.bqDom b = m.val ∧
      s.dev.flag (Pg.bq b) Reg.BQD.HOLD_SRC = true ∧
      s.dev.hold.reqs.contains (m.val, .queue b) = false) ∧
    (∃ (m : Fin 4) (s : State),
      bitAt (Tab.get s.dev.hold.pipe m 0) 2 = true ∧
      s.dev.held m = false) ∧
    (∃ (m : Fin 4) (s : State),
      bitAt (Tab.get s.dev.hold.pipe m 0) 2 = false ∧
      s.dev.held m = true) ∧
    (∃ (m : Fin 4) (s : State),
      s.dev.held m = true ∧
      Tab.get s.dev.hold.longDone m false = false ∧
      usCycles (s.dev.rd (Pg.ldom m) Reg.LDOM.HOLD_LIMIT) < Tab.get s.dev.hold.len m 0) ∧
    (∃ (b : Fin 4096) (s : State),
      (s.dev.bqGet b).stopWanted = true ∧
      (s.dev.bqGet b).stopped = false ∧
      s.dev.bqAtFrameStart b = true) ∧
    (∃ (b : Fin 4096) (s : State),
      (s.dev.bqGet b).stopped = true ∧
      s.dev.dstate (s.dev.bqDom b) = stRUNNING) ∧
    (∃ (b : Fin 4096) (s : State),
      (s.dev.bqGet b).resetting = true ∧
      (s.dev.bqGet b).owed = 0) :=
  ⟨⟨0, 3, st wHold, by decide +kernel, by decide +kernel, by decide +kernel, by decide +kernel⟩,
   ⟨1, st (wPipe 4 false 0), by decide +kernel, by decide +kernel⟩,
   ⟨1, st (wPipe 3 true 0), by decide +kernel, by decide +kernel⟩,
   ⟨1, st (wPipe 7 true 500000), by decide +kernel, by decide +kernel, by decide +kernel⟩,
   ⟨1600, st wStop, by decide +kernel, by decide +kernel, by decide +kernel⟩,
   ⟨1600, st wStopped, by decide +kernel, by decide +kernel⟩,
   ⟨9, st wRst, by decide +kernel, by decide +kernel⟩⟩

theorem test_met_SyncObjectsCount :
    (∃ (n : Fin 8192) (_v : Word) (s : State),
      s.dev.flag (Pg.sync n) Reg.SYNC.MODE = false ∧
      s.dev.flag (Pg.sync n) Reg.SYNC.IRQ_EN = false) ∧
    (∃ (r : Fin 4) (s : State) (w : Nat) (rest : List Nat),
      Tab.get s.dev.qs.sigIn r [] = w :: rest ∧
      s.dev.flag (Pg.sync (bitsOf w 0 13)) Reg.SYNC.MODE = false ∧
      s.dev.flag (Pg.sync (bitsOf w 0 13)) Reg.SYNC.IRQ_EN = false) :=
  ⟨⟨5, 7, st wSig, by decide +kernel, by decide +kernel⟩,
   ⟨2, st wSig, 5 + 2^14 * 9, [6], by decide +kernel, by decide +kernel, by decide +kernel⟩⟩

theorem test_met_PacketsForwarded : ∃ (c : Fin 32) (i : Fin 5) (k : PktCls) (lane : Fin 2) (s : State) (f : BFlit) (rest : List BFlit) (kk p out dir n : Nat),
    kk = (match k with | .b => 0 | .c => 1) ∧
    s.dev.isolated c = false ∧
    Tab.get s.dev.fab.route (bufKey c i kk lane) none = none ∧
    Tab.get s.dev.fab.buf (bufKey c i kk lane) [] = f :: rest ∧
    f.head = true ∧
    Hdr.kind f.item.data.toNat ≠ 7 ∧
    lenWrong (f :: rest) (Hdr.len f.item.data.toNat) = false ∧
    endpointCode (Hdr.dest f.item.data.toNat) = true ∧
    routeStep c f.item.data.toNat lane = (p, out) ∧
    portDir p = some dir ∧
    neighbour c dir = some n ∧
    s.dev.isolated n = false ∧
    Tab.get s.dev.fab.lane (((64 * c.val + p) * 2 + kk) * 2 + out) none = none ∧
    s.dev.waiters c p kk out = [2 * i.val + lane.val] :=
  ⟨0, 4, .b, 1, st wPkt, ⟨it (Hdr.mk 1 0 false 0 1 0 0 0 5 false), true, false, 0⟩, [⟨it 4, false, true, 0⟩], 0, 1, 1, 1, 1, by decide +kernel, by decide +kernel, by decide +kernel, by decide +kernel, by decide +kernel, by decide +kernel, by decide +kernel, by decide +kernel, by decide +kernel, by decide +kernel, by decide +kernel, by decide +kernel, by decide +kernel, by decide +kernel⟩

theorem test_met_BTileScrubs :
    (∃ (c : Fin 32) (b : Fin 4) (s : State),
      s.dev.scrubDueNow c b = true ∧
      s.dev.scrubTurn c b (Tab.get s.dev.mem.bscrub (4 * c.val + b.val) 0) 4 = true ∧
      ((∀ i < 4, Tab.get s.dev.mem.berr ((4 * c.val + b.val) * 0x20000 + (Tab.get s.dev.mem.bscrub (4 * c.val + b.val) 0 + i)) 0 = 0))) ∧
    (∃ (c : Fin 32) (b : Fin 4) (s : State) (e : Nat × Nat),
      s.dev.mem.bscrubWb.find? (fun e => e.1 == 4 * c.val + b.val) = some e ∧
      s.dev.scrubTurn c b e.2 1 = true) ∧
    (∃ (c : Fin 32) (b : Fin 4) (s : State),
      s.dev.flag (Pg.btile c b) Reg.HDR.READY = false) :=
  ⟨⟨0, 0, st wScr, by decide +kernel, by decide +kernel, by decide +kernel⟩,
   ⟨0, 1, st wScr, (1, 77), by decide +kernel, by decide +kernel⟩,
   ⟨0, 0, st { d0 with mem := { d0.mem with bmem := Memory.write (Memory.write d0.mem.bmem 0x100003 7 0) 5 6 0 } }, by decide +kernel⟩⟩

end FabricTests

/-! ### States that meet the hypotheses of the loader -/

namespace LoaderTests

def ldq (d : Dev) (opc : Nat) (ps : List (Nat × Nat)) : Dev :=
  { d with ldr := { d.ldr with queue := [⟨opc, 0, 3, (List.range 40).map (fun i => match ps.find? (fun x => x.1 == i) with | some x => BitVec.ofNat 8 x.2 | none => 0), false⟩] } }
def lcm (opc : Nat) (ps : List (Nat × Nat)) : LCmd := (ldq d0 opc ps).ldr.queue.headD ⟨0, 0, 0, [], false⟩
def lj (d : Dev) (j : LJob) : Dev := { d with ldr := { d.ldr with job := Tab.set d.ldr.job 0 j .idle } }
def ldb (d : Dev) (f : Ldr → Ldr) : Dev := { d with ldr := f d.ldr }
def wSw : Dev := ldb ((core d0 0 stSWITCHING).wr (Pg.ldom 0) Reg.LDOM.NSEG_M1 1) (fun l => { l with segDrain := Tab.set l.segDrain 0 true false })
def wFl (f : Flt → Flt) (d : Dev) : Dev := { d with flt := f d.flt }

theorem test_met_LoadAndUnload :
    (∃ (_img : HostRead) (_ptes : List HostPte) (s : State) (c : LCmd),
      s.dev.ldrFront 1 = some c ∧
      c.u 8 4 ≠ 0 ∧
      s.dev.plat.bcStop = false) ∧
    (∃ (m : Fin 4) (s : State),
      s.dev.jobOf m = .load ∧
      s.dev.ldrQuiet m = true ∧
      ((∀ c < 32, bitAt (Tab.get s.dev.ldr.cores m 0) c = true → s.dev.fenced c = false))) ∧
    (∃ (s : State) (c : LCmd),
      s.dev.ldrFront 1 = some c ∧
      c.u 8 4 = 0 ∧
      ((s.dev.dstate c.dom = stLOADED ∨ s.dev.dstate c.dom = stSTOPPED))) :=
  ⟨⟨⟨List.replicate 512 0, false⟩, [], st (ldq d0 1 [(9, 2)]), lcm 1 [(9, 2)], by decide +kernel, by decide +kernel, by decide +kernel⟩,
   ⟨0, st (lj d0 .load), by decide +kernel, by decide +kernel, by decide +kernel⟩,
   ⟨st (ldq (core d0 0 stLOADED) 1 []), lcm 1 [], by decide +kernel, by decide +kernel, by decide +kernel⟩⟩

theorem test_met_DomainCommands :
    (∃ (s : State) (c : LCmd),
      s.dev.ldrFront 3 = some c ∧
      s.dev.dstate c.dom = stLOADED ∧
      s.dev.startBad c.dom = none ∧
      Tab.get s.dev.ldr.segPend c.dom false = false) ∧
    (∃ (s : State) (c : LCmd),
      s.dev.ldrFront 5 = some c ∧
      s.dev.dstate c.dom = stRUNNING ∧
      s.dev.nseg c.dom = 1) ∧
    (∃ (m : Fin 4) (s : State),
      s.dev.dstate m = stDRAINING ∧
      s.dev.drained m = true ∧
      Tab.get s.dev.ldr.segDrain m false = false ∧
      s.dev.jobOf m = .drainWait) ∧
    (∃ (s : State) (c : LCmd) (rest : List LCmd),
      s.dev.ldr.queue = c :: rest ∧
      c.opc = 4 ∧
      s.dev.jobOf c.dom = .idle ∧
      s.dev.flag Pg.loader Reg.LOADER.BUSY = false ∧
      s.dev.running c.dom = true ∧
      s.dev.plat.bcStop = false) ∧
    (∃ (s : State) (c : LCmd),
      s.dev.ldrFront 3 = some c ∧
      c.auto = false ∧
      s.dev.dstate c.dom ≠ stLOADED) ∧
    (∃ (s : State) (c : LCmd),
      s.dev.ldrFront 5 = some c ∧
      s.dev.dstate c.dom ≠ stRUNNING) :=
  ⟨⟨st (ldq (core d0 0 stLOADED) 3 []), lcm 3 [], by decide +kernel, by decide +kernel, by decide +kernel, by decide +kernel⟩,
   ⟨st (ldq (core d0 0 stRUNNING) 5 []), lcm 5 [], by decide +kernel, by decide +kernel, by decide +kernel⟩,
   ⟨0, st (lj (core d0 0 stDRAINING) .drainWait), by decide +kernel, by decide +kernel, by decide +kernel, by decide +kernel⟩,
   ⟨st (ldq (core d0 0 stRUNNING) 4 []), lcm 4 [], [], by decide +kernel, by decide +kernel, by decide +kernel, by decide +kernel, by decide +kernel, by decide +kernel⟩,
   ⟨st (ldq (core d0 0 stRUNNING) 3 []), lcm 3 [], by decide +kernel, by decide +kernel, by decide +kernel⟩,
   ⟨st (ldq (core d0 0 stLOADED) 5 []), lcm 5 [], by decide +kernel, by decide +kernel⟩⟩

theorem test_met_SegmentsAndOverlays :
    (∃ (m : Fin 4) (s : State),
      s.dev.dstate m = stRUNNING ∧
      1 < s.dev.nseg m) ∧
    (∃ (m : Fin 4) (s : State),
      s.dev.dstate m = stSWITCHING ∧
      Tab.get s.dev.ldr.segDrain m false = true ∧
      Tab.get s.dev.ldr.applyPend m none = none ∧
      s.dev.segReady m = true) ∧
    (∃ (s : State) (c : LCmd),
      s.dev.ldrFront 2 = some c ∧
      s.dev.dstate c.dom = stRUNNING ∧
      s.dev.nseg c.dom = 1) ∧
    (∃ (s : State) (c : LCmd),
      s.dev.ldrFront 2 = some c ∧
      s.dev.dstate c.dom = stLOADED ∧
      c.u 0 1 = 0) ∧
    (∃ (m : Fin 4) (s : State) (idx : Nat),
      s.dev.jobOf m = .applyWait idx ∧
      Tab.get s.dev.ldr.folding m false = false ∧
      s.dev.dstate m = stLOADED ∧
      s.dev.loaderStages m = true ∧
      s.dev.plat.bcStop = false) ∧
    (∃ (m : Fin 4) (s : State) (idx : Nat),
      s.dev.jobOf m = .applySent idx ∧
      Tab.get s.dev.ldr.folding m false = false ∧
      s.dev.ldrQuiet m = true ∧
      s.dev.ldrRefused m = false ∧
      s.dev.applyStaged m = true) :=
  ⟨⟨0, st ((core d0 0 stRUNNING).wr (Pg.ldom 0) Reg.LDOM.NSEG_M1 2), by decide +kernel, by decide +kernel⟩,
   ⟨0, st wSw, by decide +kernel, by decide +kernel, by decide +kernel, by decide +kernel⟩,
   ⟨st (ldq (core d0 0 stRUNNING) 2 []), lcm 2 [], by decide +kernel, by decide +kernel, by decide +kernel⟩,
   ⟨st (ldq (core d0 0 stLOADED) 2 []), lcm 2 [], by decide +kernel, by decide +kernel, by decide +kernel⟩,
   ⟨0, st (lj (core d0 0 stLOADED) (.applyWait 0)), 0, by decide +kernel, by decide +kernel, by decide +kernel, by decide +kernel, by decide +kernel⟩,
   ⟨0, st (lj (core d0 0 stLOADED) (.applySent 0)), 0, by decide +kernel, by decide +kernel, by decide +kernel, by decide +kernel, by decide +kernel⟩⟩

theorem test_met_FoldsAndRecoveries :
    (∃ (s : State) (c : LCmd),
      s.dev.ldrFront 6 = some c ∧
      s.dev.fenced (c.u 0 1 % 32) = true) ∧
    (∃ (m : Fin 4) (s : State),
      Tab.get s.dev.ldr.folding m false = true ∧
      s.dev.dstate m = stSWITCHING ∧
      s.dev.isSent m = false ∧
      s.dev.plat.bcStop = false) ∧
    (∃ (m : Fin 4) (s : State),
      Tab.get s.dev.ldr.folding m false = true ∧
      s.dev.dstate m = stSWITCHING ∧
      s.dev.isSent m = true ∧
      s.dev.ldrQuiet m = true ∧
      s.dev.jobOf m = .idle) ∧
    (∃ (m : Fin 4) (s : State) (t : Nat),
      Tab.get s.dev.flt.quiet m none = some t ∧
      t ≤ s.dev.cycle ∧
      s.dev.recovers m = true ∧
      s.dev.plat.bcStop = false) ∧
    (∃ (m : Fin 4) (s : State),
      Tab.get s.dev.flt.recovering m false = true ∧
      s.dev.dstate m = stSTOPPED ∧
      s.dev.isSent m = true ∧
      s.dev.ldrQuiet m = true ∧
      s.dev.ldrRefused m = false ∧
      s.dev.flag (Pg.fdom m) Reg.FDOM.AUTO_RESTART = false) :=
  ⟨⟨st (ldq ((core d0 0 stRUNNING).wr Pg.fault Reg.FAULT.FENCE_MAP 32) 6 [(0, 5)]), lcm 6 [(0, 5)], by decide +kernel, by decide +kernel⟩,
   ⟨0, st (ldb (core d0 0 stSWITCHING) (fun l => { l with folding := Tab.set l.folding 0 true false })), by decide +kernel, by decide +kernel, by decide +kernel, by decide +kernel⟩,
   ⟨0, st (ldb (core d0 0 stSWITCHING) (fun l => { l with folding := Tab.set l.folding 0 true false, sent := Tab.set l.sent 0 true false })), by decide +kernel, by decide +kernel, by decide +kernel, by decide +kernel, by decide +kernel⟩,
   ⟨0, st { wFl (fun f => { f with quiet := Tab.set f.quiet 0 (some 9) none }) (core d0 0 stSTOPPED) with cycle := 10 }, 9, by decide +kernel, by decide +kernel, by decide +kernel, by decide +kernel⟩,
   ⟨0, st (ldb (wFl (fun f => { f with recovering := Tab.set f.recovering 0 true false }) ((core d0 0 stSTOPPED).wr (Pg.fdom 0) Reg.FDOM.AUTO_RESTART 0)) (fun l => { l with sent := Tab.set l.sent 0 true false })), by decide +kernel, by decide +kernel, by decide +kernel, by decide +kernel, by decide +kernel, by decide +kernel⟩⟩

end LoaderTests

/-! ### States that meet the hypotheses of faults and recovery -/

namespace FaultsTests

def wOcc : Occ := ⟨0x100 + 3, 4, .dom 0, 7, true, false, 2⟩
def wRes : Dev := { (core d0 0 stRUNNING).wr 0x103000 Reg.HDR.FLT_SEV (3 * 2 ^ 8) with flt := { d0.flt with occs := [wOcc] } }
def wRes0 : Dev := { wRes with flt := { wRes.flt with occs := [], imgUe := [] } }
def wTm : Dev := ((d0.wr Pg.fault Reg.FAULT.TM 1).wr Pg.fault Reg.FAULT.INJ_PAGE 0x31).wr Pg.fault Reg.FAULT.INJ_BIT 1
def wFs : Dev := ((d0.hit 0x31000 Reg.HDR.FLT_STAT 6).hit 0x30000 Reg.HDR.FLT_STAT 3)
def wFc : Dev := { wFs with regs := [] }.wr 0x31000 Reg.HDR.FLT_STAT 7
def wRe : Dev := { wFc with cycle := 2 ^ 40, flt := { d0.flt with rearm := [(0x31, 1, 5)] } }
def wFen : Dev := (d0.wr Pg.fault Reg.FAULT.FENCE_MAP 8).wr 0x162000 Reg.HDR.FLT_STAT 7
def wSt : Dev := { core d0 0 stRUNNING with hold := { d0.hold with stale := Tab.set d0.hold.stale 0 9999 0 } }
def wUp : Dev := { d0.wr (Pg.fdom 1) Reg.FDOM.QUIET_MS 77 with flt := { d0.flt with upCycles := Tab.set d0.flt.upCycles 1 (2 ^ 40) 0, dealerDown := true } }
def wAl : Dev := { d0.wr Pg.fault Reg.FAULT.ALIVE_RUN 1 with cycle := 2 ^ 30 }

theorem test_met_ResolvedCauseStopsDomain : ∃ (s : State) (o : Occ) (a m : Nat) (t : Target),
    s.dev.flt.occs = [o] ∧
    s.dev.flt.imgUe = [] ∧
    t = .stop m ∧
    (({ s.dev with flt := { s.dev.flt with occs := [], imgUe := [] } } : Dev).targetOf o.attr (({ s.dev with flt := { s.dev.flt with occs := [], imgUe := [] } } : Dev).sevOf (o.page * 4096) o.bit)) = (a, t) :=
  ⟨st wRes, wOcc, (wRes0.targetOf wOcc.attr (wRes0.sevOf (wOcc.page * 4096) wOcc.bit)).1, 0, .stop 0, by decide +kernel, by decide +kernel, by decide +kernel, by decide +kernel⟩

theorem test_met_FaultCommandsAct :
    (∃ (c : Fin 32) (s : State),
      bitAt (s.dev.rd (Pg.corectl c) Reg.HDR.FLT_MASK) 2 = false) ∧
    (∃ (s : State),
      bitAt (s.dev.events (Pg.fault + 0x40)) 31 = false) ∧
    (∃ (s : State),
      bitAt (s.dev.events (Pg.fault + 0x40)) 31 = true) ∧
    (∃ (s : State),
      s.dev.testMode = true ∧
      s.dev.rd Pg.fault Reg.FAULT.INJ_PAGE < 0x100) ∧
    (∃ (s : State),
      s.dev.testMode = true ∧
      s.dev.rd Pg.fault Reg.FAULT.TWO = 0) ∧
    (∃ (_i : Fin 8) (s : State),
      s.dev.testMode = true) :=
  ⟨⟨5, st d0, by decide +kernel⟩,
   ⟨st (d0.wr Pg.fault Reg.FAULT.FIRST_VALID 1), by decide +kernel⟩,
   ⟨st (d0.hit Pg.fault Reg.FAULT.FIRST_VALID), by decide +kernel⟩,
   ⟨st wTm, by decide +kernel, by decide +kernel⟩,
   ⟨st wTm, by decide +kernel, by decide +kernel⟩,
   ⟨3, st wTm, by decide +kernel⟩⟩

theorem test_met_CausesClear :
    (∃ (pg : Fin 16384) (_bits : BitVec 16) (s : State),
      s.dev.coreWrite pg = (true, s.dev)) ∧
    (∃ (pg : Fin 16384) (_bits : BitVec 16) (s : State),
      0x100 ≤ pg.val ∧
      pg.val < 0x500 ∧
      s.dev.fenced ((pg - 0x100) / 32) = true) ∧
    (∃ (pg : Fin 16384) (bit : Fin 16) (s : State) (e : Nat × Nat × Nat),
      s.dev.coreWrite pg = (true, s.dev) ∧
      s.dev.flt.rearm.find? (fun e => e.1 == pg.val && e.2.1 == bit.val) = some e ∧
      e.2.2 + usCycles (1000 * s.dev.rd Pg.fault Reg.FAULT.REARM_MS) ≤ s.dev.cycle ∧
      s.dev.flt.dealerDown = false ∧
      bitAt (s.dev.events (pg * 4096 + Reg.HDR.FLT_STAT.off)) bit = false) :=
  ⟨⟨0x31, 0x3, st wFs, by decide +kernel⟩,
   ⟨0x162, 7, st wFen, by decide +kernel, by decide +kernel, by decide +kernel⟩,
   ⟨0x31, 1, st wRe, (0x31, 1, 5), by decide +kernel, by decide +kernel, by decide +kernel, by decide +kernel, by decide +kernel⟩⟩

theorem test_met_FaultTimersAct :
    (∃ (m : Fin 4) (s : State),
      s.dev.rd (Pg.fdom m) Reg.FDOM.GRIDLOCK_TIME ≤ Tab.get s.dev.hold.stale m 0 ∧
      s.dev.running m = true) ∧
    (∃ (m : Fin 4) (s : State),
      usCycles 60000000 ≤ Tab.get s.dev.flt.upCycles m 0) ∧
    (∃ (s : State),
      s.dev.flag Pg.fault Reg.FAULT.ALIVE_RUN = true ∧
      s.dev.flt.aliveNext ≤ s.dev.fs) ∧
    (∃ (s : State),
      ((∀ i < 8, bitAt (s.dev.rd Pg.fault Reg.FAULT.PRIV_STAT) i = true → bitAt (s.dev.privReact i) 4 = false)) ∧
      s.dev.flag Pg.fault Reg.FAULT.ALIVE_RUN = false ∧
      3 ≤ s.dev.plat.step) ∧
    (∃ (s : State),
      s.dev.flt.dealerDown = true) :=
  ⟨⟨0, st wSt, by decide +kernel, by decide +kernel⟩,
   ⟨1, st wUp, by decide +kernel⟩,
   ⟨st wAl, by decide +kernel, by decide +kernel⟩,
   ⟨st { d0 with plat := { d0.plat with step := 3 } }, by decide +kernel, by decide +kernel, by decide +kernel⟩,
   ⟨st wUp, by decide +kernel⟩⟩

end FaultsTests

/-! ### States that meet the hypotheses of the platform -/

namespace PlatformTests

def pl (d : Dev) (f : Plat → Plat) : Dev := { d with plat := f d.plat }
def wK : Dev := { d0 with flt := { d0.flt with keyDue := true }, ldr := { d0.ldr with keyValid := true, epoch := 2 ^ 32 - 1, key := 5 ^ 100 } }
def life (n : Nat) : Dev := pl d0 (fun p => { p with fuse := { p.fuse with life := n, slot0 := some 5, slot1 := some 6 } })
def arg0 : HostRead := ⟨List.replicate 256 1, false⟩
def arg1 : HostRead := ⟨List.replicate 256 0, false⟩
def wDue : Dev := { d0 with flt := { d0.flt with resetDue := some (1, 4) }, cycle := 4 }
def wUsed : Dev := (core d0 3 stRUNNING).wr (Pg.host) Reg.HDR.READY 1
def wBoot (n : Nat) : Dev := pl d0 (fun p => { p with step := n })
def wParts (n : Nat) : Dev := pl (wBoot n) (fun p => { p with parts := [(1, (0x10000, 0x1000)), (2, (0x20000, 0x1000)), (3, (0x1000, 0x1000))] })
def trg (f : TrgSt) (d : Dev) : Dev := pl (d.wr (Pg.ldom 0) Reg.LDOM.STATE stRUNNING) (fun p => { p with step := 3, trg := Tab.set p.trg 1 f TrgSt.zero })
def wTq : Dev := ((trg ⟨[true, false], none, 0, 3⟩ (feed d0 7 50 0 [])).wr (Pg.queue 7) Reg.FQ.NET 2).wr (Pg.queue 7) Reg.FQ.WIN_PROD 1
def wTq1 : Dev := wTq.wr Pg.pins Reg.PINS.DQUEUE 7 1
def wTh : Dev := pl (((d0.wr Pg.power Reg.POWER.T_THR 100).wr Pg.power Reg.POWER.T_TRIP 110).wr Pg.power Reg.POWER.P_CAP 20) (fun p => { p with credit := 1000 })
def wAtt (st : Nat) (bad : Bool) : Dev := ring0 (pl (life 1) (fun p => { p with idBad := bad })) (rc 8 [(60, 1)] st 0 0)
def wAtt2 : Dev := { (wAtt 1 false).wr Pg.score Reg.SCORE.READY 1 with ldr := { d0.ldr with keyValid := true } }

theorem test_met_KeysAndFusesFollow :
    (∃ (s : State),
      s.dev.flt.keyDue = true ∧
      s.dev.ldr.keyValid = true) ∧
    (∃ (s : State),
      s.dev.ldr.keyValid = true) ∧
    (∃ (_trng : BitVec 256) (_a : HostRead) (s : State),
      s.dev.secReady 1 = true ∧
      s.dev.plat.fuse.life = 0) ∧
    (∃ (a : HostRead) (s : State),
      s.dev.secReady 2 = true ∧
      s.dev.plat.fuse.life = 1 ∧
      argRead a = true) ∧
    (∃ (a : HostRead) (s : State),
      s.dev.secReady 3 = true ∧
      s.dev.plat.fuse.life = 2 ∧
      argRead a = true ∧
      leNat (a.data.take 1) < 2) ∧
    (∃ (a : HostRead) (s : State),
      s.dev.secReady 4 = true ∧
      ((s.dev.plat.fuse.life = 1 ∨ (s.dev.plat.fuse.life = 2 ∧ argRead a = true)))) ∧
    (∃ (_a : HostRead) (s : State),
      s.dev.secReady 5 = true) ∧
    (∃ (_trng : BitVec 256) (_a : HostRead) (s : State),
      s.dev.secReady 1 = true ∧
      s.dev.plat.fuse.life ≠ 0) ∧
    (∃ (_a : HostRead) (s : State),
      s.dev.secReady 3 = true ∧
      s.dev.plat.fuse.life ≠ 2) :=
  ⟨⟨st wK, by decide +kernel, by decide +kernel⟩,
   ⟨st wK, by decide +kernel⟩,
   ⟨77, arg0, st (life 0), by decide +kernel, by decide +kernel⟩,
   ⟨arg0, st (life 1), by decide +kernel, by decide +kernel, by decide +kernel⟩,
   ⟨arg0, st (life 2), by decide +kernel, by decide +kernel, by decide +kernel, by decide +kernel⟩,
   ⟨arg0, st (life 1), by decide +kernel, by decide +kernel⟩,
   ⟨arg0, st ((life 2).wr Pg.security Reg.SECURITY.FW_SVN 40), by decide +kernel⟩,
   ⟨77, arg0, st (life 2), by decide +kernel, by decide +kernel⟩,
   ⟨arg0, st (life 1), by decide +kernel, by decide +kernel⟩⟩

theorem test_met_ResetsAndLinkFollowPins :
    (∃ (s : State) (i t : Nat),
      s.dev.flt.resetDue = some (i, t) ∧
      ((i < 2 ∨ s.dev.privWaits i = false ∨ t + usCycles 1000 ≤ s.dev.cycle))) ∧
    (∃ (ns : Nat) (_s : State),
      1500 ≤ ns) ∧
    (∃ (ns : Nat) (_s : State),
      ns < 1000) ∧
    (∃ (_speed : Fin 6) (_width : Fin 5) (_rev : Bool) (_pol : BitVec 4) (s : State),
      s.dev.plat.perst = false) :=
  ⟨⟨st wDue, 1, 4, by decide +kernel, by decide +kernel⟩,
   ⟨2000, st wUsed, by decide +kernel⟩,
   ⟨999, st wUsed, by decide +kernel⟩,
   ⟨5, 3, true, 9, st (pl d0 (fun p => { p with perst := false })), by decide +kernel⟩⟩

theorem test_met_BootProceeds :
    (∃ (pd pu : BitVec 16) (_tm : Bool) (s : State),
      s.dev.plat.step = 0 ∧
      s.dev.plat.halted = false ∧
      pd = pu ∧
      strapError pd.toNat = 0) ∧
    (∃ (s : State) (t : Tab (Nat × Nat)),
      s.dev.plat.step = 1 ∧
      s.dev.plat.halted = false ∧
      layoutParts s.flash = some t) ∧
    (∃ (_up : List Byte) (s : State),
      s.dev.plat.step = 2 ∧
      s.dev.plat.halted = false ∧
      s.dev.rd Pg.pins Reg.PINS.BOOT_SRC = 0 ∧
      (Tab.get s.dev.plat.parts 1 (0, 0)).2 ≠ 0 ∧
      (Tab.get s.dev.plat.parts 2 (0, 0)).2 ≠ 0) ∧
    (∃ (s : State),
      s.dev.plat.step = 2 ∧
      s.dev.plat.halted = false ∧
      s.dev.rd Pg.pins Reg.PINS.BOOT_SRC = 1) ∧
    (∃ (_delays : List (BitVec 32)) (s : State),
      3 ≤ s.dev.plat.step ∧
      s.dev.plat.trained = false ∧
      0 < (ddrConfig (leNat ((((s.dev.boardRecord s.flash).getD []).drop 4).take 1))).1) ∧
    (∃ (s : State),
      s.dev.plat.step = 3 ∧
      s.dev.plat.trained = true ∧
      s.dev.plat.halted = false ∧
      s.dev.plat.perst = false ∧
      s.dev.plat.strapDue = false ∧
      s.dev.flag Pg.pins Reg.PINS.PCIE_PRESENT = true) ∧
    (∃ (k : Fin 4) (s : State),
      s.dev.plat.step = 4 ∧
      s.dev.plat.auto = k) :=
  ⟨⟨0x90, 0x90, false, st d0, by decide +kernel, by decide +kernel, by decide +kernel, by decide +kernel⟩,
   ⟨stf (wBoot 1) flash1, [(3, (0x1000, 0x1000))], by decide +kernel, by decide +kernel, by decide +kernel⟩,
   ⟨[], st (wParts 2), by decide +kernel, by decide +kernel, by decide +kernel, by decide +kernel, by decide +kernel⟩,
   ⟨st ((wBoot 2).wr Pg.pins Reg.PINS.BOOT_SRC 1), by decide +kernel, by decide +kernel, by decide +kernel⟩,
   ⟨[], stf (wParts 3) flash1, by decide +kernel, by decide +kernel, by decide +kernel⟩,
   ⟨st (pl ((wBoot 3).wr Pg.pins Reg.PINS.PCIE_PRESENT 1) (fun p => { p with trained := true, perst := false })), by decide +kernel, by decide +kernel, by decide +kernel, by decide +kernel, by decide +kernel, by decide +kernel⟩,
   ⟨0, stf (pl (wParts 4) (fun p => { p with auto := 0 })) flash1, by decide +kernel, by decide +kernel⟩⟩

theorem test_met_PowerIsGoverned :
    (∃ (mv : List (BitVec 16)) (out : BitVec 8) (s : State) (i : Nat),
      i < 8 ∧
      out.toNat.testBit i = true ∧
      108 * s.dev.railNominal i < 100 * ((mv.map (·.toNat)).getD i 0)) ∧
    (∃ (_rail : Fin 8) (r : PmbusReply) (_s : State),
      r.faulted = false) ∧
    (∃ (rail : Fin 8) (s : State),
      Tab.get s.dev.plat.pmbFail rail 0 = 2) ∧
    (∃ (p : BitVec 16) (tj : List Int) (s : State),
      ((∀ t ∈ tj, 0 ≤ t ∧ t < 60)) ∧
      tj ≠ [] ∧
      60 ≤ s.dev.rd Pg.power Reg.POWER.T_THR ∧
      61 ≤ s.dev.rd Pg.power Reg.POWER.T_TRIP ∧
      s.dev.flag Pg.power Reg.POWER.CAPPING = false ∧
      0 < min (1000 * s.dev.rd Pg.power Reg.POWER.CREDIT_MAX) (s.dev.plat.credit + 100 * s.dev.rd Pg.power Reg.POWER.P_CAP - p.toNat)) ∧
    (∃ (s : State),
      s.dev.plat.estOnly = false) ∧
    (∃ (s : State),
      s.dev.flag Pg.power Reg.POWER.CAPPING = false) :=
  ⟨⟨[2500], 1, st d0, 0, by decide +kernel, by decide +kernel, by decide +kernel⟩,
   ⟨3, ⟨850, 77, false⟩, st d0, by decide +kernel⟩,
   ⟨3, st (pl d0 (fun p => { p with pmbFail := [(3, 2)] })), by decide +kernel⟩,
   ⟨900, [40, 55], st wTh, by decide +kernel, by decide +kernel, by decide +kernel, by decide +kernel, by decide +kernel, by decide +kernel⟩,
   ⟨st (d0.wr Pg.power Reg.POWER.V 3 2), by decide +kernel⟩,
   ⟨st ((core d0 0 stRUNNING).wr Pg.power Reg.POWER.THROTTLING 1), by decide +kernel⟩⟩

theorem test_met_TriggersAccept :
    (∃ (i : Fin 4) (s : State),
      3 ≤ s.dev.plat.step ∧
      s.dev.flag Pg.pins Reg.PINS.LEVEL i = false ∧
      s.dev.flag Pg.pins Reg.PINS.ACT_LOW i = false ∧
      s.dev.flag Pg.pins Reg.PINS.STUCK i = false ∧
      bitAt (s.dev.rd Pg.pins Reg.PINS.EDGES i) 0 = true ∧
      (s.dev.trgGet i).acceptAt = none ∧
      bitAt (s.dev.rd Pg.score Reg.SCORE.TRG_REC) i = false ∧
      s.dev.flag Pg.pins Reg.PINS.TOK_EN i = true ∧
      s.dev.dstate (s.dev.rd Pg.pins Reg.PINS.DOM i) = stRUNNING ∧
      (s.dev.trgGet i).pend.length < 4) ∧
    (∃ (i : Fin 4) (s : State) (t : Nat),
      3 ≤ s.dev.plat.step ∧
      s.dev.flag Pg.pins Reg.PINS.LEVEL i = false ∧
      s.dev.flag Pg.pins Reg.PINS.ACT_LOW i = false ∧
      s.dev.flag Pg.pins Reg.PINS.STUCK i = false ∧
      bitAt (s.dev.rd Pg.pins Reg.PINS.EDGES i) 0 = true ∧
      (s.dev.trgGet i).acceptAt = some t ∧
      s.dev.cycle < t + usCycles 1000) ∧
    (∃ (i : Fin 4) (s : State),
      3 ≤ s.dev.plat.step ∧
      s.dev.trgActive i = true ∧
      s.dev.flag Pg.pins Reg.PINS.STUCK i = false ∧
      (s.dev.trgGet i).since + usCycles (1000000 * s.dev.rd Pg.pins Reg.PINS.STUCK_S i) ≤ s.dev.cycle) ∧
    (∃ (i : Fin 4) (s : State),
      s.dev.trgActive i = false ∧
      s.dev.flag Pg.pins Reg.PINS.STUCK i = true ∧
      (s.dev.trgGet i).since + usCycles 100000 ≤ s.dev.cycle) ∧
    (∃ (i : Fin 4) (s : State) (e : Bool) (rest : List Bool) (q : Nat),
      (s.dev.trgGet i).pend = e :: rest ∧
      s.dev.rd Pg.pins Reg.PINS.DQUEUE i = q ∧
      q < 61440 ∧
      s.dev.fenced (qCore q) = false ∧
      s.dev.qNet q = 2 ∧
      s.dev.winWrites q = true ∧
      s.dev.qSize q = 0 ∧
      s.dev.qCount q < s.dev.qCap q ∧
      s.dev.qFull q = false ∧
      (s.dev.qHead q).length < 4) :=
  ⟨⟨1, st (((((trg ⟨[false], none, 0, 0⟩ d0).wr Pg.pins Reg.PINS.EDGES 1 1).wr Pg.pins Reg.PINS.TOK_EN 1 1).wr Pg.score Reg.SCORE.TRG_REC 0)), by decide +kernel, by decide +kernel, by decide +kernel, by decide +kernel, by decide +kernel, by decide +kernel, by decide +kernel, by decide +kernel, by decide +kernel, by decide +kernel⟩,
   ⟨1, st { (trg ⟨[false], some 5, 0, 0⟩ d0) with cycle := 10 }, 5, by decide +kernel, by decide +kernel, by decide +kernel, by decide +kernel, by decide +kernel, by decide +kernel, by decide +kernel⟩,
   ⟨1, st { ((trg ⟨[false], some 5, 0, 0⟩ d0).wr Pg.pins Reg.PINS.LEVEL 1 1) with cycle := 2 ^ 45 }, by decide +kernel, by decide +kernel, by decide +kernel, by decide +kernel⟩,
   ⟨1, st { ((trg ⟨[false], some 5, 0, 0⟩ d0).wr Pg.pins Reg.PINS.STUCK 1 1) with cycle := 2 ^ 45 }, by decide +kernel, by decide +kernel, by decide +kernel⟩,
   ⟨1, st wTq1, true, [false], 7, by decide +kernel, by decide +kernel, by decide +kernel, by decide +kernel, by decide +kernel, by decide +kernel, by decide +kernel, by decide +kernel, by decide +kernel, by decide +kernel⟩⟩

theorem test_met_ViolationsAndAttestation :
    (∃ (why : SecViolation) (s : State),
      ((why = .jtagLocked → s.dev.plat.fuse.life = 2))) ∧
    (∃ (r : Fin 64) (s : State) (c : RingCmd),
      s.dev.cmdBegin r 8 = some c ∧
      ((s.dev.plat.fuse.life = 1 ∨ s.dev.plat.fuse.life = 2)) ∧
      s.dev.plat.idBad = true) ∧
    (∃ (r : Fin 64) (s : State) (c : RingCmd),
      s.dev.cmdBegin r 8 = some c ∧
      ((s.dev.plat.fuse.life = 1 ∨ s.dev.plat.fuse.life = 2)) ∧
      s.dev.plat.idBad = false) ∧
    (∃ (s : State) (r : Fin 64) (c : RingCmd),
      s.dev.cmdWaits r 8 = some c ∧
      ((∀ r' : Nat, r' ≠ r.val → s.dev.cmdWaits r' 8 = none)) ∧
      s.dev.flag Pg.score Reg.SCORE.READY = true ∧
      s.dev.ldr.keyValid = true ∧
      s.dev.hp.cfg.d3hot = false) :=
  ⟨⟨.unwrapFailure, st d0, by decide +kernel⟩,
   ⟨0, st (wAtt 0 true), rc 8 [(60, 1)] 0 0 0, by decide +kernel, by decide +kernel, by decide +kernel⟩,
   ⟨0, st (wAtt 0 false), rc 8 [(60, 1)] 0 0 0, by decide +kernel, by decide +kernel, by decide +kernel⟩,
   ⟨st wAtt2, 0, rc 8 [(60, 1)] 1 0 0, by decide +kernel, fun r' h => by have e : wAtt2.cmdOf r' = none := (ring0_other _ _ h); simp only [st, Dev.cmdWaits, e], by decide +kernel, by decide +kernel, by decide +kernel⟩⟩

end PlatformTests

/-! ### States that meet the hypotheses of the tiles -/

namespace TilesTests

def wNop : State := st (prog d0 0 [0, 0])
def wVNop : State := st (prog d0 10 [0, 0])
def wLoopIn : State := st (let d := (prog d0 0 [0, 0, 0]).wr (Pg.mtile 0 0) Reg.MTILE.PC 2; d.sqSet 0 0 { d.sqGet 0 0 with loops := [(1, 2, 2)] })
/-- Unit `u` of core 0 with instruction `iw`, descriptor 0 and a queue for each (port, slot, items). -/
def tile (u iw w0 w1 : Nat) (qs : List (Nat × Nat × List Item)) : Dev :=
  let d := prog d0 u [iw, 0]
  let d1 := { d with tl := { d.tl with desc := Tab.set (Tab.set d.tl.desc (u * 64) w0 0) (u * 64 + 1) w1 0 } }
  qs.zipIdx.foldl (fun d x => feed d (x.2 + 1) (inPort u x.1.1) x.1.2.1 x.1.2.2) d1
/-- Step `op` in progress there, each (port, queue, items taken) one item short. -/
def mid (d : Dev) (u op iw : Nat) (gs : List (Nat × Nat × List Item)) : Dev :=
  let d1 := d.wr (tilePg 0 u) (fPC u) 1
  d1.sqSet 0 u { d1.sqGet 0 u with runs := [⟨op, iw, 0, 40, gs.map (fun g => ⟨g.1, g.2.1, 1, g.2.2⟩), 0, 0, 0, false⟩] }
def r0 (d : Dev) (u : Nat) : Run := ((d.sqGet 0 u).runs[0]?).getD ⟨0, 0, 0, 0, [], 0, 0, 0, false⟩
/-- The step of a V tile after this cycle's issue, and after its takes. -/
def vi (d : Dev) (op : Nat) (plan : Dev → Nat → Nat → Plan) : Dev := d.vIssue 0 0 op plan
def vt (d : Dev) (op : Nat) (plan : Dev → Nat → Nat → Plan) : Dev := (vi d op plan).takeCycle 0 10 0 0
def cr (n : Nat) (d : Dev) (pg : Nat) (F G : Fld) : Dev := (d.wr pg F n).wr pg G 9
def wIll : Dev := tile 0 (2 ^ 58 * 0x20) 0 0 []
def iDrop : Nat := 2 ^ 58 * 10
def wDrop : Dev := tile 0 iDrop 0 0 [(0, 0, [it 3 , it 4])]
def iPh : Nat := 2 ^ 58 * 9
def wPh : Dev := (tile 0 iPh 0 0 []).wr (Pg.mtile 0 0) Reg.MTILE.CCNT 3
def iWs : Nat := 2 ^ 58 * 7
def iEm : Nat := 2 ^ 58 * 6 + 2 ^ 46
def wEm : Dev :=
  let d := (tile 0 iEm 0 0 []).wr (Pg.mtile 0 0) Reg.MTILE.CCNT 3
  let x := d.mtGet 0 0
  (d.wr (Pg.mtile 0 0) Reg.MTILE.EP 3).mtSet 0 0 { x with slotAt := [(33, 8)], slots := [(33, [5, 6, 7])], slotPoison := 2 ^ 33 }
def iCv : Nat := 2 ^ 58 * 2 + 2 ^ 29 * 3
def wCv : Dev := mid (tile 0 iCv 31 1 [(0, 0, [it (257 * 65537)])]) 0 2 iCv [(0, 1, [])]
def wCvS : State := { st wCv with wmem := [(0, 3), (5, 9)] }
def wCv1 : Dev := wCv.mTake 0 0 0
def wCvR : Run := (wCv1.mDone 0 0 2).getD (r0 wCv 0)
def wCvD : MDesc := wCv1.mDesc 0 0 0
def iWc : Nat := 2 ^ 58 * 3
def wWc : Dev := mid (tile 0 iWc (31 + 2 ^ 12 * 2 + 2 ^ 15 * 2) 1 [(0, 0, [it 1]), (1, 0, [it 2])]) 0 3 iWc [(0, 1, [it 8, it 9]), (1, 2, [it 8, it 9])]
def iMm : Nat := 2 ^ 58 * 4 + 2 ^ 43
def wMm : Dev := mid (tile 0 iMm 31 1 [(0, 0, [it 1]), (1, 0, [it 2])]) 0 4 iMm [(0, 1, List.replicate 31 (it 9)), (1, 2, List.replicate 31 (it 8))]
def iRs : Nat := 2 ^ 58 * 5 + 2 ^ 46 + 2 ^ 27 * 2
def wRs : Dev := let d := tile 0 iRs 31 1 []; d.mtSet 0 0 { d.mtGet 0 0 with acc := [(1, List.replicate 1024 7), (4, [1])] }
/-- Source codes: 0 VI0, 8 VI1, 16 SI, 24 CI. -/
def vin (op sa sb sub rd low : Nat) : Nat := op * 2 ^ 58 + sa * 2 ^ 49 + sb * 2 ^ 44 + sub * 2 ^ 37 + rd * 2 ^ 31 + low
def fx : Item := it (0x3C00 + 0x4000 * 65536 + 0xC200 * 2 ^ 32)
def fl2 : Nat := 2 ^ 37 * 2 + 2 ^ 39 * 2
def w02 : Dev := tile 10 (vin 2 0 0 0 3 0) 31 1 [(0, 0, [it 77])]
def w03 : Dev := tile 10 (vin 3 0 0 0 3 0) 31 0 [(0, 0, [it 77])]
def w07 : Dev := tile 10 (vin 7 0 0 0 3 0) fl2 0 [(0, 0, [fx])]
def w04 : Dev := mid (tile 10 (vin 4 0 0 0 3 0) (2 ^ 41) 0 [(0, 0, [it (7 + 256 * 3)])]) 10 4 (vin 4 0 0 0 3 0) [(0, 1, [it (5 + 256 * 9)])]
def w05 : Dev := tile 10 (vin 5 0 0 7 3 (2 ^ 29 * 3 + 4)) (2 ^ 37 + 2 ^ 39) 0 [(0, 0, [it (2 ^ 200 + 5)])]
def w06 : Dev := tile 10 (vin 6 0 0 0 3 0) (2 ^ 37) 0 [(0, 0, [it (2 ^ 200 + 5)])]
def w12 : Dev := tile 10 (vin 0x12 0 0 3 3 0) fl2 0 [(0, 0, [{ fx with poison := true }])]
def w08 : Dev := tile 10 (vin 8 0 0 0 3 0) fl2 0 [(0, 0, [fx])]
def w09 : Dev := tile 10 (vin 9 0 0 0 3 0) fl2 0x3727C5AC [(0, 0, [fx])]
def w0A : Dev := mid (tile 10 (vin 10 16 0 0 3 (2 ^ 30)) 31 0 [(2, 0, [it 100])]) 10 10 (vin 10 16 0 0 3 (2 ^ 30)) [(2, 1, [it (2 ^ 33)])]
def w0B : Dev :=
  let d := mid (tile 10 (vin 11 0 0 0 3 (2 ^ 30)) 31 0 [(0, 0, [it 100])]) 10 11 (vin 11 0 0 0 3 (2 ^ 30)) [(0, 1, [it 1, it 2, it 3])]
  d.vtSet 0 0 { d.vtGet 0 0 with boxes := [⟨0, 0, 9, 9, false⟩, ⟨1, 0, 9, 9, false⟩], boxK := 3 }
def w0C (m : Nat) : Dev := let d := tile 10 (vin 12 0 0 0 (if m = 3 then 0 else 3) (m * 2 ^ 29)) 31 3 []; d.vtSet 0 0 { d.vtGet 0 0 with topk := [(4, 5), (3, 1)], tkPoison := true, idx := 9 }
def w0D : Dev := tile 10 (vin 13 0 8 0 3 0) 31 0 [(3, 0, [it 1]), (0, 0, [it 5]), (1, 0, [{ it 6 with poison := true }])]
def w0E : Dev := tile 10 (vin 14 16 0 0 3 0) 31 5 [(2, 0, [it 9])]
def w0F : Dev := mid (tile 10 (vin 15 0 8 0 3 (2 ^ 26 * 9)) 31 0 [(1, 1, [it 9])]) 10 15 (vin 15 0 8 0 3 (2 ^ 26 * 9)) [(1, 1, [])]
def w0Fm : Dev := w0F.sqSet 0 10 { w0F.sqGet 0 10 with runs := (w0F.sqGet 0 10).runs.map (fun r => { r with segs := [⟨0, 9, 0, [it 3]⟩, ⟨1, 9, 0, [it 4]⟩] ++ r.segs }) }
def w10 : Dev := mid (tile 10 (vin 16 0 8 0 3 0) 31 0 [(0, 0, [it 5]), (1, 0, [it 9])]) 10 16 (vin 16 0 8 0 3 0) [(0, 1, []), (1, 2, [it 7])]
def w11 : Dev := tile 10 (vin 17 0 8 0 3 0) 31 5 [(0, 0, [it 900]), (1, 0, [it 70])]
def w13 : Dev := tile 10 (vin 19 0 0 0 0 (2 ^ 13 * 7)) 31 5 [(0, 0, [it (2 ^ 200 + 900)])]
def w13S : State := { st w13 with scr := [(4, 5), (225, 6)] }
def w14 : Dev := tile 10 (vin 20 0 0 0 3 (2 ^ 13 * 7 + 2 ^ 24)) 31 5 []
def w14S : State := { st w14 with scr := [(4, 5), (225, 6)] }
def iE : Nat := vin 21 0 0 0 0 (2 ^ 19 * 5 + 2 ^ 13)
def w15 : Dev :=
  let d := (tile 10 iE 31 5 []).wr (Pg.vtile 0 0) Reg.VTILE.CCNT 3
  d.vtSet 0 0 { d.vtGet 0 0 with slots := [(5, ⟨77, true, true⟩), (6, ⟨78, false, false⟩)], slotAt := [(5, 9), (6, 10)] }
def iP : Nat := vin 22 0 0 0 0 (2 ^ 29)
def w16 : Dev := (tile 10 iP 31 5 []).wr (Pg.vtile 0 0) Reg.VTILE.CCNT 3
def w17 : Dev := tile 10 (vin 23 0 0 0 0 0) 31 5 [(0, 0, [it 3, it 4])]

theorem test_met_ControlStepsAdvance :
    (∃ (c : Fin 32) (m : Fin 10) (s : State) (dom : Nat),
      AtStep s.dev c m dom 0) ∧
    (∃ (c : Fin 32) (v : Fin 2) (s : State) (dom : Nat),
      AtStep s.dev c (10 + v) dom 0) ∧
    (∃ (c : Fin 32) (m : Fin 10) (s : State) (dom top e n : Nat) (rest : List (Nat × Nat × Nat)),
      s.dev.tileDom c = some dom ∧
      (s.dev.sqGet c m).stuck = false ∧
      (s.dev.sqGet c m).tried ≠ s.dev.cycle + 1 ∧
      (s.dev.sqGet c m).readyAt ≤ s.dev.dcyc dom ∧
      s.dev.flag (Pg.mtile c m) Reg.HDR.QUIESCE = false ∧
      (s.dev.sqGet c m).runs = [] ∧
      s.dev.instrAt c m (s.dev.rd (Pg.mtile c m) Reg.MTILE.PC) = 0 ∧
      s.dev.seqUpset c m (s.dev.rd (Pg.mtile c m) Reg.MTILE.PC) = none ∧
      (s.dev.sqGet c m).loops = (top, e, n) :: rest ∧
      s.dev.rd (Pg.mtile c m) Reg.MTILE.PC = e ∧
      1 < n ∧
      top < 256) ∧
    (∃ (c : Fin 32) (m : Fin 10) (s : State) (dom iw : Nat),
      AtStep s.dev c m dom iw ∧
      bitsOf iw 58 6 = 1 ∧
      bitsOf iw 48 10 = 0 ∧
      bitsOf iw 8 24 = 0 ∧
      0 < bitsOf iw 32 16 ∧
      s.dev.rd (Pg.mtile c m) Reg.MTILE.PC < bitsOf iw 0 8 ∧
      bitsOf iw 0 8 ≤ s.dev.rd (Pg.mtile c m) Reg.MTILE.PROG_LEN_M1) ∧
    (∃ (c : Fin 32) (v : Fin 2) (s : State) (dom iw : Nat),
      AtStep s.dev c (10 + v) dom iw ∧
      bitsOf iw 58 6 = 1 ∧
      bitsOf iw 48 10 = 0 ∧
      bitsOf iw 9 23 = 0 ∧
      0 < bitsOf iw 32 16 ∧
      s.dev.rd (Pg.vtile c v) Reg.VTILE.PC < bitsOf iw 0 9 ∧
      bitsOf iw 0 9 ≤ s.dev.rd (Pg.vtile c v) Reg.VTILE.PROG_LEN_M1) :=
  ⟨⟨0, 0, wNop, 0, by decide +kernel⟩,
   ⟨0, 0, wVNop, 0, by decide +kernel⟩,
   ⟨0, 0, wLoopIn, 0, 1, 2, 2, [], by decide +kernel, by decide +kernel, by decide +kernel, by decide +kernel, by decide +kernel, by decide +kernel, by decide +kernel, by decide +kernel, by decide +kernel, by decide +kernel, by decide +kernel, by decide +kernel⟩,
   ⟨0, 0, st (prog d0 0 [2^58 + 3 * 2^32 + 2, 0, 0]), 0, 2^58 + 3 * 2^32 + 2, by decide +kernel, by decide +kernel, by decide +kernel, by decide +kernel, by decide +kernel, by decide +kernel, by decide +kernel⟩,
   ⟨0, 0, st (prog d0 10 [2^58 + 3 * 2^32 + 2, 0, 0]), 0, 2^58 + 3 * 2^32 + 2, by decide +kernel, by decide +kernel, by decide +kernel, by decide +kernel, by decide +kernel, by decide +kernel, by decide +kernel⟩⟩

theorem test_met_StepsStopAndWait :
    (∃ (c : Fin 32) (m : Fin 10) (s : State) (dom iw : Nat),
      AtStep s.dev c m dom iw ∧
      0x0A < bitsOf iw 58 6 ∧
      s.dev.flag (Pg.mtile c m) Reg.MTILE.ILL_VALID = false) ∧
    (∃ (c : Fin 32) (m : Fin 10) (s : State) (dom iw q : Nat),
      AtStep s.dev c m dom iw ∧
      bitsOf iw 58 6 = 10 ∧
      bitsOf iw 0 53 = 0 ∧
      bitsOf iw 56 2 ≠ 3 ∧
      s.dev.queueAtHead c (inPort m (bitsOf iw 56 2)) (bitsOf iw 53 3) = some q ∧
      s.dev.qHead q = []) ∧
    (∃ (c : Fin 32) (m : Fin 10) (s : State) (dom iw : Nat),
      AtStep s.dev c m dom iw ∧
      bitsOf iw 58 6 = 9 ∧
      bitsOf iw 0 54 = 0 ∧
      ((s.dev.creditOk c m (bitsOf iw 54 4) 1 = false ∨ 4 ≤ (Tab.get s.dev.fab.outp (outKey c m 0) []).length))) :=
  ⟨⟨0, 0, st wIll, 0, 2 ^ 58 * 0x20, by decide +kernel, by decide +kernel, by decide +kernel⟩,
   ⟨0, 0, st (tile 0 iDrop 0 0 [(0, 0, [])]), 0, iDrop, 1, by decide +kernel, by decide +kernel, by decide +kernel, by decide +kernel, by decide +kernel, by decide +kernel⟩,
   ⟨0, 0, st (tile 0 iPh 0 0 []), 0, iPh, by decide +kernel, by decide +kernel, by decide +kernel, by decide +kernel⟩⟩

theorem test_met_MultiplierTileMoves :
    (∃ (c : Fin 32) (m : Fin 10) (s : State) (dom iw : Nat),
      AtStep s.dev c m dom iw ∧
      bitsOf iw 58 6 = 8 ∧
      bitsOf iw 12 46 = 0 ∧
      bitsOf iw 0 12 ≤ 3071) ∧
    (∃ (c : Fin 32) (m : Fin 10) (s : State) (dom iw q : Nat) (x : Item) (rest : List Item),
      AtStep s.dev c m dom iw ∧
      bitsOf iw 58 6 = 7 ∧
      bitsOf iw 0 55 = 0 ∧
      s.dev.queueAtHead c (inPort m 2) (bitsOf iw 55 3) = some q ∧
      s.dev.qHead q = x :: rest ∧
      x.valid = true) ∧
    (∃ (c : Fin 32) (m : Fin 10) (s : State) (dom iw ns k : Nat),
      AtStep s.dev c m dom iw ∧
      bitsOf iw 58 6 = 6 ∧
      bitsOf iw 0 46 = 0 ∧
      ns = bitsOf iw 46 4 + 1 ∧
      bitsOf iw 50 4 + ns ≤ 16 ∧
      bitAt (s.dev.mtGet c m).slotA12 (bitsOf iw 50 4) = false ∧
      k = 32 * (bitsOf iw 50 4 + s.dev.rd (Pg.mtile c m) Reg.MTILE.EP % (32 * ns) % ns) + s.dev.rd (Pg.mtile c m) Reg.MTILE.EP % (32 * ns) / ns ∧
      0 < Tab.get (s.dev.mtGet c m).slotAt k 0 ∧
      Tab.get (s.dev.mtGet c m).slotAt k 0 < s.dev.dcyc dom ∧
      s.dev.creditOk c m (bitsOf iw 54 4) 1 = true ∧
      (Tab.get s.dev.fab.outp (outKey c m 0) []).length < 4) ∧
    (∃ (c : Fin 32) (m : Fin 10) (s : State) (dom iw : Nat),
      AtStep s.dev c m dom iw ∧
      bitsOf iw 58 6 = 9 ∧
      bitsOf iw 0 54 = 0 ∧
      s.dev.creditOk c m (bitsOf iw 54 4) 1 = true ∧
      (Tab.get s.dev.fab.outp (outKey c m 0) []).length < 4) ∧
    (∃ (c : Fin 32) (m : Fin 10) (s : State) (dom iw q : Nat) (x : Item) (rest : List Item),
      AtStep s.dev c m dom iw ∧
      bitsOf iw 58 6 = 10 ∧
      bitsOf iw 0 53 = 0 ∧
      bitsOf iw 56 2 ≠ 3 ∧
      s.dev.queueAtHead c (inPort m (bitsOf iw 56 2)) (bitsOf iw 53 3) = some q ∧
      s.dev.qHead q = x :: rest ∧
      x.valid = true) :=
  ⟨⟨0, 0, st (tile 0 (2 ^ 58 * 8 + 3071) 0 0 []), 0, 2 ^ 58 * 8 + 3071, by decide +kernel, by decide +kernel, by decide +kernel, by decide +kernel⟩,
   ⟨0, 0, st (tile 0 iWs 0 0 [(2, 0, [it 3, it 4])]), 0, iWs, 1, it 3, [it 4], by decide +kernel, by decide +kernel, by decide +kernel, by decide +kernel, by decide +kernel, by decide +kernel⟩,
   ⟨0, 0, st wEm, 0, iEm, 2, 33, by decide +kernel, by decide +kernel, by decide +kernel, by decide +kernel, by decide +kernel, by decide +kernel, by decide +kernel, by decide +kernel, by decide +kernel, by decide +kernel, by decide +kernel⟩,
   ⟨0, 0, st wPh, 0, iPh, by decide +kernel, by decide +kernel, by decide +kernel, by decide +kernel, by decide +kernel⟩,
   ⟨0, 0, st wDrop, 0, iDrop, 1, it 3, [it 4], by decide +kernel, by decide +kernel, by decide +kernel, by decide +kernel, by decide +kernel, by decide +kernel, by decide +kernel⟩⟩

theorem test_met_MultiplierTileComputes :
    (∃ (c : Fin 32) (m : Fin 10) (s : State) (dom : Nat) (d1 : Dev) (r0 r : Run) (de : MDesc) (taps : List Tap) (per wp e0 nx fb : Nat),
      s.dev.tileDom c = some dom ∧
      (s.dev.sqGet c m).runs = [r0] ∧
      r0.op = 2 ∧
      s.dev.mTake c m dom = d1 ∧
      d1.mDone c m 2 = some r ∧
      bitAt r.iw 44 = false ∧
      de = d1.mDesc c m (bitsOf r.iw 54 4) ∧
      per = chunksPer de.wfmt ∧
      wp = d1.rd (Pg.mtile c m) Reg.MTILE.WP ∧
      e0 = bitsOf r.iw 29 4 ∧
      nx = bitsOf r.iw 33 4 + 1 ∧
      fb = ((needed de.iw de.pl de.dil de.kw de.s (bitsOf r.iw 37 6) nx de.ow).1 / (de.n : Int)).toNat ∧
      taps = (List.range de.kw).map (fun k => tapOf de.wfmt (bitsOf (d1.wsRead s.wmem c m dom wp (per * de.kw) de.kw nx).1 (128 * per * k) (128 * per)))) ∧
    (∃ (c : Fin 32) (m : Fin 10) (s : State) (dom : Nat) (d1 : Dev) (r0 r : Run),
      s.dev.tileDom c = some dom ∧
      (s.dev.sqGet c m).runs = [r0] ∧
      r0.op = 3 ∧
      s.dev.mTake c m dom = d1 ∧
      d1.mDone c m 3 = some r) ∧
    (∃ (c : Fin 32) (m : Fin 10) (s : State) (dom : Nat) (d1 : Dev) (r0 r : Run),
      s.dev.tileDom c = some dom ∧
      (s.dev.sqGet c m).runs = [r0] ∧
      r0.op = 4 ∧
      s.dev.mTake c m dom = d1 ∧
      d1.mDone c m 4 = some r ∧
      bitsOf r.iw 43 2 ≠ 0) ∧
    (∃ (c : Fin 32) (m : Fin 10) (s : State) (dom iw e0 nx o0 : Nat) (de : MDesc),
      AtStep s.dev c m dom iw ∧
      bitsOf iw 58 6 = 5 ∧
      bitsOf iw 0 21 = 0 ∧
      bitAt iw 45 = false ∧
      de = s.dev.mDesc c m (bitsOf iw 54 4) ∧
      de.bad = false ∧
      e0 = bitsOf iw 50 4 ∧
      nx = bitsOf iw 46 4 + 1 ∧
      o0 = bitsOf iw 27 4 ∧
      o0 + nx ≤ 16 ∧
      e0 + nx ≤ 16 ∧
      ((∀ e < nx, Tab.get (s.dev.mtGet c m).accAt (e0 + e) 0 < s.dev.dcyc dom))) :=
  ⟨⟨0, 0, wCvS, 0, wCv1, r0 wCv 0, wCvR, wCvD, (List.range wCvD.kw).map (fun k => tapOf wCvD.wfmt (bitsOf (wCv1.wsRead wCvS.wmem (0 : Fin 32) (0 : Fin 10) 0 (wCv1.rd (Pg.mtile (0 : Fin 32) (0 : Fin 10)) Reg.MTILE.WP) (chunksPer wCvD.wfmt * wCvD.kw) wCvD.kw 1).1 (128 * chunksPer wCvD.wfmt * k) (128 * chunksPer wCvD.wfmt))), chunksPer wCvD.wfmt, wCv1.rd (Pg.mtile 0 0) Reg.MTILE.WP, 3, 1, 0, by decide +kernel, by decide +kernel, by decide +kernel, by decide +kernel, by decide +kernel, by decide +kernel, by decide +kernel, by decide +kernel, by decide +kernel, by decide +kernel, by decide +kernel, by decide +kernel, by decide +kernel⟩,
   ⟨0, 0, st wWc, 0, wWc.mTake 0 0 0, r0 wWc 0, ((wWc.mTake 0 0 0).mDone 0 0 3).getD (r0 wWc 0), by decide +kernel, by decide +kernel, by decide +kernel, by decide +kernel, by decide +kernel⟩,
   ⟨0, 0, st wMm, 0, wMm.mTake 0 0 0, r0 wMm 0, ((wMm.mTake 0 0 0).mDone 0 0 4).getD (r0 wMm 0), by decide +kernel, by decide +kernel, by decide +kernel, by decide +kernel, by decide +kernel, by decide +kernel⟩,
   ⟨0, 0, st wRs, 0, iRs, 0, 2, 2, wRs.mDesc 0 0 0, by decide +kernel, by decide +kernel, by decide +kernel, by decide +kernel, by decide +kernel, by decide +kernel, by decide +kernel, by decide +kernel, by decide +kernel, by decide +kernel, by decide +kernel, by decide +kernel⟩⟩

theorem test_met_VectorTileComputes :
    (∃ (c : Fin 32) (v : Fin 2) (s : State) (dom : Nat) (d1 : Dev) (r : Run),
      LastTakes s.dev c v dom 0x02 (planDwc c v) d1 r) ∧
    (∃ (c : Fin 32) (v : Fin 2) (s : State) (dom : Nat) (d1 : Dev) (r : Run),
      LastTakes s.dev c v dom 0x03 (planPool c v) d1 r) ∧
    (∃ (c : Fin 32) (v : Fin 2) (s : State) (dom : Nat) (d1 : Dev) (r : Run),
      LastTakes s.dev c v dom 0x07 (planFunc c v) d1 r) ∧
    (∃ (c : Fin 32) (v : Fin 2) (s : State) (dom nx : Nat) (d1 : Dev) (r : Run) (de : VDesc),
      LastTakes s.dev c v dom 0x04 (planArgm c v) d1 r ∧
      de = d1.vDescOf c v r.iw ∧
      nx = bitsOf r.iw 21 4 + 1 ∧
      r.items.length = de.chn * nx ∧
      ((∀ x ∈ r.items, x.valid = true ∧ x.poison = false))) ∧
    (∃ (c : Fin 32) (v : Fin 2) (s : State) (dom : Nat) (d1 : Dev) (r : Run) (de : VDesc),
      LastTakes s.dev c v dom 0x05 (planElt c v) d1 r ∧
      de = d1.vDescOf c v r.iw ∧
      bitsOf r.iw 29 2 = 3 ∧
      vSUB r.iw = 7 ∧
      de.ifmt ≠ 2 ∧
      (r.fromSrc 0).length = vNF r.iw ∧
      ((∀ x ∈ r.fromSrc 0, x.valid = true))) ∧
    (∃ (c : Fin 32) (v : Fin 2) (s : State) (dom : Nat) (d1 : Dev) (r : Run) (de : VDesc),
      LastTakes s.dev c v dom 0x06 (planRed c v) d1 r ∧
      de = d1.vDescOf c v r.iw ∧
      bitAt r.iw 23 = false ∧
      de.ifmt ≠ 2 ∧
      ((∀ x ∈ r.items, x.valid = true))) ∧
    (∃ (c : Fin 32) (v : Fin 2) (s : State) (dom : Nat) (d1 : Dev) (r : Run) (de : VDesc),
      LastTakes s.dev c v dom 0x12 (planCvt c v) d1 r ∧
      de = d1.vDescOf c v r.iw ∧
      vSUB r.iw = 3 ∧
      ((∀ x ∈ r.items, x.valid = true))) ∧
    (∃ (c : Fin 32) (v : Fin 2) (s : State) (dom : Nat) (d1 : Dev) (r : Run),
      LastTakes s.dev c v dom 0x08 (planNorm c v true) d1 r ∧
      d1.flt.upset = [] ∧
      ((∀ x ∈ r.items, x.valid = true))) ∧
    (∃ (c : Fin 32) (v : Fin 2) (s : State) (dom : Nat) (d1 : Dev) (r : Run),
      LastTakes s.dev c v dom 0x09 (planNorm c v false) d1 r ∧
      ((∀ x ∈ r.items, x.valid = true))) :=
  ⟨⟨0, 0, st w02, 0, vt w02 0x02 (planDwc 0 0), r0 (vt w02 0x02 (planDwc 0 0)) 10, ⟨by decide +kernel, ⟨r0 (vi w02 0x02 (planDwc 0 0)) 10, by decide +kernel, by decide +kernel⟩, by decide +kernel, by decide +kernel, by decide +kernel, by decide +kernel⟩⟩,
   ⟨0, 0, st w03, 0, vt w03 0x03 (planPool 0 0), r0 (vt w03 0x03 (planPool 0 0)) 10, ⟨by decide +kernel, ⟨r0 (vi w03 0x03 (planPool 0 0)) 10, by decide +kernel, by decide +kernel⟩, by decide +kernel, by decide +kernel, by decide +kernel, by decide +kernel⟩⟩,
   ⟨0, 0, st w07, 0, vt w07 0x07 (planFunc 0 0), r0 (vt w07 0x07 (planFunc 0 0)) 10, ⟨by decide +kernel, ⟨r0 (vi w07 0x07 (planFunc 0 0)) 10, by decide +kernel, by decide +kernel⟩, by decide +kernel, by decide +kernel, by decide +kernel, by decide +kernel⟩⟩,
   ⟨0, 0, st w04, 0, 1, vt w04 0x04 (planArgm 0 0), r0 (vt w04 0x04 (planArgm 0 0)) 10, (vt w04 0x04 (planArgm 0 0)).vDescOf 0 0 (r0 (vt w04 0x04 (planArgm 0 0)) 10).iw, ⟨by decide +kernel, ⟨r0 (vi w04 0x04 (planArgm 0 0)) 10, by decide +kernel, by decide +kernel⟩, by decide +kernel, by decide +kernel, by decide +kernel, by decide +kernel⟩, by decide +kernel, by decide +kernel, by decide +kernel, by decide +kernel⟩,
   ⟨0, 0, st w05, 0, vt w05 0x05 (planElt 0 0), r0 (vt w05 0x05 (planElt 0 0)) 10, (vt w05 0x05 (planElt 0 0)).vDescOf 0 0 (r0 (vt w05 0x05 (planElt 0 0)) 10).iw, ⟨by decide +kernel, ⟨r0 (vi w05 0x05 (planElt 0 0)) 10, by decide +kernel, by decide +kernel⟩, by decide +kernel, by decide +kernel, by decide +kernel, by decide +kernel⟩, by decide +kernel, by decide +kernel, by decide +kernel, by decide +kernel, by decide +kernel, by decide +kernel⟩,
   ⟨0, 0, st w06, 0, vt w06 0x06 (planRed 0 0), r0 (vt w06 0x06 (planRed 0 0)) 10, (vt w06 0x06 (planRed 0 0)).vDescOf 0 0 (r0 (vt w06 0x06 (planRed 0 0)) 10).iw, ⟨by decide +kernel, ⟨r0 (vi w06 0x06 (planRed 0 0)) 10, by decide +kernel, by decide +kernel⟩, by decide +kernel, by decide +kernel, by decide +kernel, by decide +kernel⟩, by decide +kernel, by decide +kernel, by decide +kernel, by decide +kernel⟩,
   ⟨0, 0, st w12, 0, vt w12 0x12 (planCvt 0 0), r0 (vt w12 0x12 (planCvt 0 0)) 10, (vt w12 0x12 (planCvt 0 0)).vDescOf 0 0 (r0 (vt w12 0x12 (planCvt 0 0)) 10).iw, ⟨by decide +kernel, ⟨r0 (vi w12 0x12 (planCvt 0 0)) 10, by decide +kernel, by decide +kernel⟩, by decide +kernel, by decide +kernel, by decide +kernel, by decide +kernel⟩, by decide +kernel, by decide +kernel, by decide +kernel⟩,
   ⟨0, 0, st w08, 0, vt w08 0x08 (planNorm 0 0 true), r0 (vt w08 0x08 (planNorm 0 0 true)) 10, ⟨by decide +kernel, ⟨r0 (vi w08 0x08 (planNorm 0 0 true)) 10, by decide +kernel, by decide +kernel⟩, by decide +kernel, by decide +kernel, by decide +kernel, by decide +kernel⟩, by decide +kernel, by decide +kernel⟩,
   ⟨0, 0, st w09, 0, vt w09 0x09 (planNorm 0 0 false), r0 (vt w09 0x09 (planNorm 0 0 false)) 10, ⟨by decide +kernel, ⟨r0 (vi w09 0x09 (planNorm 0 0 false)) 10, by decide +kernel, by decide +kernel⟩, by decide +kernel, by decide +kernel, by decide +kernel, by decide +kernel⟩, by decide +kernel⟩⟩

theorem test_met_VectorTileSelects :
    (∃ (c : Fin 32) (v : Fin 2) (s : State) (dom : Nat) (d1 : Dev) (r : Run),
      LastTakes s.dev c v dom 0x0A (planCreq c v) d1 r ∧
      (d1.vtGet c v).boxes.length < 64) ∧
    (∃ (c : Fin 32) (v : Fin 2) (s : State) (dom : Nat) (d1 : Dev) (r : Run) (b : Box) (rest : List Box),
      LastTakes s.dev c v dom 0x0B (planCsmp c v) d1 r ∧
      (d1.vtGet c v).boxes = b :: rest) ∧
    (∃ (c : Fin 32) (v : Fin 2) (s : State) (dom : Nat) (d1 : Dev) (r : Run),
      LastTakes s.dev c v dom 0x0C (planTopk c v) d1 r ∧
      bitsOf r.iw 29 2 = 1) ∧
    (∃ (c : Fin 32) (v : Fin 2) (s : State) (dom : Nat) (d1 : Dev) (r : Run),
      LastTakes s.dev c v dom 0x0C (planTopk c v) d1 r ∧
      bitsOf r.iw 29 2 = 3) ∧
    (∃ (c : Fin 32) (v : Fin 2) (s : State) (dom : Nat) (d1 : Dev) (r : Run) (tok : Item),
      LastTakes s.dev c v dom 0x0D (planSel c v) d1 r ∧
      r.fromSrc 0 = [tok] ∧
      tok.valid = true ∧
      tokKind tok.data.toNat = 0 ∧
      ((∀ x ∈ r.fromSrc 1 ++ r.fromSrc 2, x.valid = true ∧ x.seq.toNat = bitsOf tok.data.toNat 12 2))) ∧
    (∃ (c : Fin 32) (v : Fin 2) (s : State) (dom : Nat) (d1 : Dev) (r : Run) (x : Item) (w1 : Nat),
      LastTakes s.dev c v dom 0x0E (planTok c v) d1 r ∧
      w1 = (d1.vDescOf c v r.iw).w1 ∧
      vSA r.iw / 8 = 2 ∧
      bitAt w1 32 = false ∧
      bitAt w1 33 = false ∧
      r.items = [x] ∧
      x.valid = true) ∧
    (∃ (c : Fin 32) (v : Fin 2) (s : State) (dom : Nat) (d1 : Dev) (r : Run),
      LastTakes s.dev c v dom 0x0F (planCcv c v) d1 r) ∧
    (∃ (c : Fin 32) (v : Fin 2) (s : State) (dom : Nat) (d1 : Dev) (r : Run),
      LastTakes s.dev c v dom 0x10 (planBgm c v) d1 r) ∧
    (∃ (c : Fin 32) (v : Fin 2) (s : State) (dom : Nat) (d1 : Dev) (r : Run),
      LastTakes s.dev c v dom 0x11 (planTrk c v) d1 r ∧
      ((∀ x ∈ r.items, x.valid = true)) ∧
      r.segs.length = 2) :=
  ⟨⟨0, 0, st w0A, 0, vt w0A 0x0A (planCreq 0 0), r0 (vt w0A 0x0A (planCreq 0 0)) 10, ⟨by decide +kernel, ⟨r0 (vi w0A 0x0A (planCreq 0 0)) 10, by decide +kernel, by decide +kernel⟩, by decide +kernel, by decide +kernel, by decide +kernel, by decide +kernel⟩, by decide +kernel⟩,
   ⟨0, 0, st w0B, 0, vt w0B 0x0B (planCsmp 0 0), r0 (vt w0B 0x0B (planCsmp 0 0)) 10, ⟨0, 0, 9, 9, false⟩, [⟨1, 0, 9, 9, false⟩], ⟨by decide +kernel, ⟨r0 (vi w0B 0x0B (planCsmp 0 0)) 10, by decide +kernel, by decide +kernel⟩, by decide +kernel, by decide +kernel, by decide +kernel, by decide +kernel⟩, by decide +kernel⟩,
   ⟨0, 0, st (w0C 1), 0, vt (w0C 1) 0x0C (planTopk 0 0), r0 (vt (w0C 1) 0x0C (planTopk 0 0)) 10, ⟨by decide +kernel, ⟨r0 (vi (w0C 1) 0x0C (planTopk 0 0)) 10, by decide +kernel, by decide +kernel⟩, by decide +kernel, by decide +kernel, by decide +kernel, by decide +kernel⟩, by decide +kernel⟩,
   ⟨0, 0, st (w0C 3), 0, vt (w0C 3) 0x0C (planTopk 0 0), r0 (vt (w0C 3) 0x0C (planTopk 0 0)) 10, ⟨by decide +kernel, ⟨r0 (vi (w0C 3) 0x0C (planTopk 0 0)) 10, by decide +kernel, by decide +kernel⟩, by decide +kernel, by decide +kernel, by decide +kernel, by decide +kernel⟩, by decide +kernel⟩,
   ⟨0, 0, st w0D, 0, vt w0D 0x0D (planSel 0 0), r0 (vt w0D 0x0D (planSel 0 0)) 10, it 1, ⟨by decide +kernel, ⟨r0 (vi w0D 0x0D (planSel 0 0)) 10, by decide +kernel, by decide +kernel⟩, by decide +kernel, by decide +kernel, by decide +kernel, by decide +kernel⟩, by decide +kernel, by decide +kernel, by decide +kernel, by decide +kernel⟩,
   ⟨0, 0, st w0E, 0, vt w0E 0x0E (planTok 0 0), r0 (vt w0E 0x0E (planTok 0 0)) 10, it 9, ((vt w0E 0x0E (planTok 0 0)).vDescOf 0 0 (r0 (vt w0E 0x0E (planTok 0 0)) 10).iw).w1, ⟨by decide +kernel, ⟨r0 (vi w0E 0x0E (planTok 0 0)) 10, by decide +kernel, by decide +kernel⟩, by decide +kernel, by decide +kernel, by decide +kernel, by decide +kernel⟩, by decide +kernel, by decide +kernel, by decide +kernel, by decide +kernel, by decide +kernel, by decide +kernel⟩,
   ⟨0, 0, st w0Fm, 0, vt w0Fm 0x0F (planCcv 0 0), r0 (vt w0Fm 0x0F (planCcv 0 0)) 10, ⟨by decide +kernel, ⟨r0 (vi w0Fm 0x0F (planCcv 0 0)) 10, by decide +kernel, by decide +kernel⟩, by decide +kernel, by decide +kernel, by decide +kernel, by decide +kernel⟩⟩,
   ⟨0, 0, st w10, 0, vt w10 0x10 (planBgm 0 0), r0 (vt w10 0x10 (planBgm 0 0)) 10, ⟨by decide +kernel, ⟨r0 (vi w10 0x10 (planBgm 0 0)) 10, by decide +kernel, by decide +kernel⟩, by decide +kernel, by decide +kernel, by decide +kernel, by decide +kernel⟩⟩,
   ⟨0, 0, st w11, 0, vt w11 0x11 (planTrk 0 0), r0 (vt w11 0x11 (planTrk 0 0)) 10, ⟨by decide +kernel, ⟨r0 (vi w11 0x11 (planTrk 0 0)) 10, by decide +kernel, by decide +kernel⟩, by decide +kernel, by decide +kernel, by decide +kernel, by decide +kernel⟩, by decide +kernel, by decide +kernel⟩⟩

theorem test_met_VectorTileMoves :
    (∃ (c : Fin 32) (v : Fin 2) (s : State) (dom e0 : Nat) (d1 : Dev) (r : Run),
      LastTakes s.dev c v dom 0x13 (planSst c v) d1 r ∧
      e0 = bitsOf r.iw 13 11 ∧
      ((∀ x ∈ r.items, x.valid = true))) ∧
    (∃ (c : Fin 32) (v : Fin 2) (s : State) (dom : Nat) (d1 : Dev) (r : Run),
      LastTakes s.dev c v dom 0x14 (planSld c v) d1 r) ∧
    (∃ (c : Fin 32) (v : Fin 2) (s : State) (dom iw p b len ep : Nat) (sl : Slot),
      AtStep s.dev c (10 + v) dom iw ∧
      bitsOf iw 58 6 = 0x15 ∧
      bitsOf iw 0 13 = 0 ∧
      vUnused iw false false false false false false = false ∧
      p = bitsOf iw 29 2 ∧
      p < 2 ∧
      b = bitsOf iw 19 6 ∧
      len = bitsOf iw 13 6 + 1 ∧
      b + len ≤ 64 ∧
      ep = s.dev.vEp c v p % len ∧
      sl = Tab.get (s.dev.vtGet c v).slots (b + ep) Slot.zero ∧
      0 < Tab.get (s.dev.vtGet c v).slotAt (b + ep) 0 ∧
      Tab.get (s.dev.vtGet c v).slotAt (b + ep) 0 < s.dev.dcyc dom ∧
      ((∀ i < 4, s.dev.upsetAt (Upset.slot c v (4 * (b + ep) + i)) = 0)) ∧
      s.dev.creditOk c (10 + v) (bitsOf iw 25 4) 1 = true ∧
      (Tab.get s.dev.fab.outp (outKey c (10 + v) p) []).length < 4 ∧
      s.dev.flag (Pg.vtile c v) Reg.VTILE.SQ_EN (bitsOf iw 25 4) = false) ∧
    (∃ (c : Fin 32) (v : Fin 2) (s : State) (dom iw p : Nat),
      AtStep s.dev c (10 + v) dom iw ∧
      bitsOf iw 58 6 = 0x16 ∧
      bitsOf iw 0 25 = 0 ∧
      vUnused iw false false false false false false = false ∧
      p = bitsOf iw 29 2 ∧
      p < 2 ∧
      s.dev.creditOk c (10 + v) (bitsOf iw 25 4) 1 = true ∧
      (Tab.get s.dev.fab.outp (outKey c (10 + v) p) []).length < 4 ∧
      s.dev.flag (Pg.vtile c v) Reg.VTILE.SQ_EN (bitsOf iw 25 4) = false) ∧
    (∃ (c : Fin 32) (v : Fin 2) (s : State) (dom iw q : Nat) (x : Item) (rest : List Item),
      AtStep s.dev c (10 + v) dom iw ∧
      bitsOf iw 58 6 = 0x17 ∧
      bitsOf iw 0 31 = 0 ∧
      vUnused iw false true false false false false = false ∧
      s.dev.queueAtHead c (inPort (10 + v) (vSA iw / 8)) (vSA iw % 8) = some q ∧
      s.dev.qHead q = x :: rest ∧
      Tab.get (s.dev.vtGet c v).sq.portUse (vSA iw / 8) 0 ≠ s.dev.cycle + 1) :=
  ⟨⟨0, 0, w13S, 0, 7, vt w13 0x13 (planSst 0 0), r0 (vt w13 0x13 (planSst 0 0)) 10, ⟨by decide +kernel, ⟨r0 (vi w13 0x13 (planSst 0 0)) 10, by decide +kernel, by decide +kernel⟩, by decide +kernel, by decide +kernel, by decide +kernel, by decide +kernel⟩, by decide +kernel, by decide +kernel⟩,
   ⟨0, 0, w14S, 0, vt w14 0x14 (planSld 0 0), r0 (vt w14 0x14 (planSld 0 0)) 10, ⟨by decide +kernel, ⟨r0 (vi w14 0x14 (planSld 0 0)) 10, by decide +kernel, by decide +kernel⟩, by decide +kernel, by decide +kernel, by decide +kernel, by decide +kernel⟩⟩,
   ⟨0, 0, st w15, 0, iE, 0, 5, 2, 0, ⟨77, true, true⟩, by decide +kernel, by decide +kernel, by decide +kernel, by decide +kernel, by decide +kernel, by decide +kernel, by decide +kernel, by decide +kernel, by decide +kernel, by decide +kernel, by decide +kernel, by decide +kernel, by decide +kernel, by decide +kernel, by decide +kernel, by decide +kernel, by decide +kernel⟩,
   ⟨0, 0, st w16, 0, iP, 1, by decide +kernel, by decide +kernel, by decide +kernel, by decide +kernel, by decide +kernel, by decide +kernel, by decide +kernel, by decide +kernel, by decide +kernel⟩,
   ⟨0, 0, st w17, 0, vin 23 0 0 0 0 0, 1, it 3, [it 4], by decide +kernel, by decide +kernel, by decide +kernel, by decide +kernel, by decide +kernel, by decide +kernel, by decide +kernel⟩⟩

end TilesTests

/-! ### States that meet the hypotheses of bulk packets, fetch engines and memory -/

namespace MemoryTests

def pk (d : Dev) (n : Nat) (l : List Item) : Dev := { d with fab := { d.fab with inPk := Tab.set d.fab.inPk n [l, [it 5]] [] } }
def hB (target addr : Nat) (kind : Nat) : Nat := Hdr.mk 0 0 false kind 1 32 target addr 9 false
def pop (d : Dev) (n k : Nat) : Dev := match d.popPacket n k with | some x => x.2.2 | none => d
def m8 (d : Dev) : Dev := { d with mem := { d.mem with bmem := Memory.write (Memory.write d.mem.bmem 0x100043 7 0) 0x100020 6 0 } }
def wB1 : Dev := m8 (pk d0 0 [it (hB 1 64 0), it (2 ^ 250 + 3)])
def wB2 : Dev := m8 (pk d0 0 [it (hB 1 64 0), it (2 ^ 250 + 3), it 4, it 5])
def wB3 : Dev := { wB2 with mem := { wB2.mem with buse := [(1, 3, [0])] } }
def wB4 : Dev := m8 (pk d0 0 [it (hB 1 65 0), it (2 ^ 250 + 3)])
def wB5 : Dev := Serving wB2 0 ⟨0, 5, 0, 2, 0, [it 1, it 2], [], 2, false⟩
def wR1 : Dev := m8 (pk d0 0 [it (hB 1 64 3)])
def wR2 : Dev := Serving (pop wR1 0 3) 0 ⟨3, hB 1 64 3, 0, 1, 64, [], [], 1, false⟩
def wR3 : Nat × Bool × Dev := (wR2.bTake 0 1 3 (banksOf 8 4)).bReadWords 0 1 8 4 .none_
def wW : Dev := pk d0 0 [it (hB (3 + 16) 32 1), it (2 ^ 250 + 3), it 4]
def wWS : State := { st wW with wmem := [(3 * 98304 + 5, 6), (3 * 98304 + 33, 7)] }
def wC1 : Dev := pk d0 0 [it (hB 13 32 6), it (2 ^ 250 + 3), it 4]
def wC2 : Dev := pk d0 0 [it (hB (11 + 64) 32 6), it (2 ^ 250 + 3), it 4]
def wC3 : Dev := pk d0 44 [it (hB 2 32 6), it (2 ^ 250 + 3), it 4]
def wQ (en : Nat) : Dev := pk (((core d0 0 stRUNNING).wr (Pg.queue 2) Reg.FQ.EN en).wr (Pg.queue 2) Reg.FQ.BODY_SIZE 64) 0 [it (hB 2 0 2), it 77]
def wQf : Dev := (wQ 1).wr (Pg.queue 2) Reg.FQ.COUNT 68
def apr : AperReq := ⟨0, 4, [], false, 0, some 9, 0, none, 0, [], false⟩
def wAp : Dev := { pk d0 44 [it (hB 1 64 4), it 77] with hp := { d0.hp with aper := [apr] } }
def wAk (n : Nat) : Dev := { pk d0 n [it (hB 1 64 5)] with hp := { d0.hp with ldrTx := [(8, 1), (9, 2)] } }
def wSp (n : Nat) : Dev :=
  let d := ((((((core d0 0 stRUNNING).wr (Pg.queue 2) Reg.FQ.EN 1).wr (Pg.queue 2) Reg.FQ.BODY_SIZE 64).wr (Pg.bmd 0 0 1) Reg.BMD.MODE 4).wr
    (Pg.bmd 0 0 1) Reg.BMD.QUEUE 2).wr (Pg.bmd 0 0 1) Reg.BMD.MODEARG (64 * (n - 1) + 5)).wr (Pg.queue 2) Reg.FQ.COUNT 3
  { d with cycle := 9, qs := { d.qs with body := Tab.set d.qs.body 2 [⟨2, it 0, 3⟩, ⟨2, it 0, 4⟩, ⟨2, it 0, 5⟩] [], wIdx := Tab.set d.qs.wIdx 2 3 0 } }
def wSp1 (n : Nat) : Dev := Serving (wSp n) 0 ⟨5, 5, 2, 0, 0, [], [], n, false⟩
/-- Stream 3 of engine 0, of the running domain 0, with data format FMT 4. -/
def stre (kind cls fmt : Nat) : Dev :=
  let d := core d0 0 stRUNNING
  let a := Pg.sdesc 0 3
  let d1 := ((((d.wr a Reg.SDESC.KIND kind).wr a Reg.SDESC.EN 1).wr a Reg.SDESC.CLS cls).wr a Reg.SDESC.FMT fmt).wr a Reg.SDESC.LENF_M1 9
  bqd d1 2304 0 []
def strS (d : Dev) (st : Nat) (f : FStream → FStream) : Dev := (d.stSet 0 3 (f (d.stGet 0 3))).setStState 0 3 st
def wTg : Dev := (ddr (strS (stre 1 1 4) 1 (fun x => { x with xl := some (0, 0x5000) }))).wr (Pg.memport 1) Reg.MEMPORT.TAGA 4
def wTgT : Option Nat × Dev := wTg.translate 0 3 0 false
def wSt : Dev := rq (strS (stre 1 1 4) 1 id) (req 5 true)
def wRt : Dev := rq (strS (stre 1 1 4) 1 id) (req 0 true)
def rC : MemReq := { req 0 true with cls := 2 }
def rA : MemReq := { req 0 true with f := 8, cls := 3 }
def wCx : Dev := strS (stre 1 1 4) 4 (fun x => { x with csyncDue := true })
def wCy : Dev := (wCx.wr (Pg.fetch 0) Reg.FETCH.CSYNC_EN 1 3).wr (Pg.fetch 0) Reg.FETCH.CSYNC 9 3
def wGa (w : Nat) : Dev :=
  let d := (stre 4 (kindClass 4) 0)
  let d1 := bqd (bqd d 2304 1 [it w, it 6]) 2305 0 []
  (((d1.wr (Pg.gslot 0 0) Reg.GSLOT.GEN 1).wr (Pg.gslot 0 0) Reg.GSLOT.FH_M1 9).wr (Pg.gslot 0 0) Reg.GSLOT.CH_M1 3).wr (Pg.gslot 0 0) Reg.GSLOT.FW_M1 9
def gd1 (w : Nat) : Item × Dev := (wGa w).bqPop 2304
def gd2 (w : Nat) : Item × Dev := (gd1 w).2.bqPop 2304
def wPf : Dev := strS (stre 7 2 0) 1 (fun x => { x with ended := true, started := true })
def wWk : Dev := ((strS (stre 1 1 4) 2 (fun x => { x with walkVa := 0x1234 })).wr Pg.mmu Reg.MMU.EN 1).wr Pg.mmu Reg.MMU.ROOT_HI 0x8000
def pte (n : Nat) : HostPte := ⟨BitVec.ofNat 64 n, false⟩
def ptes : List HostPte := [pte (2 ^ 47 + 1), pte (2 ^ 47 + 1), pte (2 ^ 47 + 1), pte (0x7000 + 13), pte 0]
def wke (hs : List HostPte) : Walk × List HostPte × Dev := wWk.walk 0 0x1234 0 hs (.dom 0)
def wkOk : TlbEnt := match (wke ptes).1 with | .ok e => e | .fail _ _ => ⟨0, 0, 0, 0, false, false, false, false⟩
def wSus : Dev := { strS (stre 1 1 4) 3 (fun x => { x with suspAt := 4 }) with cycle := 2 ^ 40 }
def te (va : Nat) (p : Bool) : TlbEnt := ⟨0, va, 0x9000, 12, true, true, p, false⟩
def wTb (p : Bool) : Dev :=
  let d := ((dom0 d0 stRUNNING).wr Pg.mmu Reg.MMU.OP_VA_LO 0x3000).wr Pg.mmu Reg.MMU.OP_LEN 1
  { d with mem := { d.mem with shared := [te 0x3000 p, te 0x8000 true, te 0x4000 p], tlb := Tab.set d.mem.tlb 2 [te 0x3000 p, te 0x8000 false] [] } }
def wOp (n : Nat) : Dev := { wWk.wr Pg.mmu Reg.MMU.BUSY 1 with mem := { wWk.mem with op := n, opArg := (0, 0x1000, 1) } }
def wLp : Dev := { wTb true with mem := { (wTb true).mem with op := 2, opArg := (0, 0x3000, 2) } }
def wLk : Option Nat × List TlbEnt × List HostPte × Dev := wLp.lockRange 0 0x3000 2 []
def rD (write : Bool) : MemReq := { req 0 false with pa := 0x5010, len := 16, write := write, wdata := (List.range 16).map (fun i => some (BitVec.ofNat 8 (i + 1))) }
def wMa (w : Bool) : Dev := let d := rq (ddr d0) (rD w); { d with mem := { d.mem with ddr := [(0x5012, 7), (0x5019, 9), (0x5020, 3)] } }
def wSc : Dev := { ddr d0 with cycle := 2 ^ 50 }
def wWb : Dev := let d := ddr d0; { d with mem := { d.mem with ddr := [(0x40, 7), (0x41, 9), (0x5020, 3)], scrubWb := [(2, 5), (1, 1)], derr := [(17, 4)] } }

theorem test_met_BulkPacketsAccessTiles :
    (∃ (c : Fin 32) (s : State) (h b : Nat) (x : Item) (d1 d2 : Dev),
      s.dev.popPacket c 0 = some (h, [x], d1) ∧
      b = Hdr.target h % 4 ∧
      Hdr.addr h % 32 = 0 ∧
      bitAt (Hdr.target h) 2 = false ∧
      s.dev.bulkFree c b = true ∧
      d2 = Serving d1 c ⟨0, h, 0, b, Hdr.addr h, [x], [], 1, false⟩ ∧
      BulkAlone d2 c b (Hdr.addr h / 8) ∧
      s.dev.bBulkOk c b (Hdr.addr h / 8) 4 true = true) ∧
    (∃ (c : Fin 32) (s : State) (h b : Nat) (x y : Item) (rest : List Item) (d1 d2 : Dev),
      s.dev.popPacket c 0 = some (h, x :: y :: rest, d1) ∧
      b = Hdr.target h % 4 ∧
      Hdr.addr h % 32 = 0 ∧
      s.dev.bulkFree c b = true ∧
      d2 = Serving d1 c ⟨0, h, 0, b, Hdr.addr h, x :: y :: rest, [], rest.length + 2, false⟩ ∧
      BulkAlone d2 c b (Hdr.addr h / 8) ∧
      s.dev.bBulkOk c b (Hdr.addr h / 8) 4 true = true) ∧
    (∃ (c : Fin 32) (s : State) (h b : Nat) (x : Item) (payload : List Item) (d1 : Dev),
      s.dev.popPacket c 0 = some (h, x :: payload, d1) ∧
      b = Hdr.target h % 4 ∧
      Hdr.addr h % 32 = 0 ∧
      s.dev.bulkFree c b = true ∧
      s.dev.bUsed (4 * c + b) 3 = true) ∧
    (∃ (c : Fin 32) (s : State) (h b : Nat) (payload : List Item) (d1 : Dev),
      s.dev.popPacket c 0 = some (h, payload, d1) ∧
      b = Hdr.target h % 4 ∧
      s.dev.bulkFree c b = true ∧
      Hdr.addr h % 32 ≠ 0) ∧
    (∃ (c : Fin 32) (s : State) (h b : Nat) (payload : List Item) (d1 : Dev),
      s.dev.popPacket c 0 = some (h, payload, d1) ∧
      b = Hdr.target h % 4 ∧
      (Tab.get s.dev.mem.bulk c none).isSome = true) ∧
    (∃ (c : Fin 32) (s : State) (h b v : Nat) (p : Bool) (payload : List Item) (d1 d2 d3 : Dev),
      s.dev.popPacket c 3 = some (h, payload, d1) ∧
      b = Hdr.target h % 4 ∧
      Hdr.addr h % 32 = 0 ∧
      bitsOf (Hdr.target h) 6 10 = 0 ∧
      s.dev.bulkFree c b = true ∧
      d2 = Serving d1 c ⟨3, h, 0, b, Hdr.addr h, [], [], 1, false⟩ ∧
      BulkAlone d2 c b (Hdr.addr h / 8) ∧
      s.dev.bBulkOk c b (Hdr.addr h / 8) 4 false = true ∧
      (d2.bTake c b 3 (banksOf (Hdr.addr h / 8) 4)).bReadWords c b (Hdr.addr h / 8) 4 .none_ = (v, p, d3)) :=
  ⟨⟨0, st wB1, hB 1 64 0, 1, it (2 ^ 250 + 3), pop wB1 0 0, Serving (pop wB1 0 0) 0 ⟨0, hB 1 64 0, 0, 1, 64, [it (2 ^ 250 + 3)], [], 1, false⟩, by decide +kernel, by decide +kernel, by decide +kernel, by decide +kernel, by decide +kernel, by decide +kernel, by decide +kernel, by decide +kernel⟩,
   ⟨0, st wB2, hB 1 64 0, 1, it (2 ^ 250 + 3), it 4, [it 5], pop wB2 0 0, Serving (pop wB2 0 0) 0 ⟨0, hB 1 64 0, 0, 1, 64, [it (2 ^ 250 + 3), it 4, it 5], [], 3, false⟩, by decide +kernel, by decide +kernel, by decide +kernel, by decide +kernel, by decide +kernel, by decide +kernel, by decide +kernel⟩,
   ⟨0, st wB3, hB 1 64 0, 1, it (2 ^ 250 + 3), [it 4, it 5], pop wB3 0 0, by decide +kernel, by decide +kernel, by decide +kernel, by decide +kernel, by decide +kernel⟩,
   ⟨0, st wB4, hB 1 65 0, 1, [it (2 ^ 250 + 3)], pop wB4 0 0, by decide +kernel, by decide +kernel, by decide +kernel, by decide +kernel⟩,
   ⟨0, st wB5, hB 1 64 0, 1, [it (2 ^ 250 + 3), it 4, it 5], pop wB5 0 0, by decide +kernel, by decide +kernel, by decide +kernel⟩,
   ⟨0, st wR1, hB 1 64 3, 1, wR3.1, wR3.2.1, [], pop wR1 0 3, wR2, wR3.2.2, by decide +kernel, by decide +kernel, by decide +kernel, by decide +kernel, by decide +kernel, by decide +kernel, by decide +kernel, by decide +kernel, by decide +kernel⟩⟩

theorem test_met_StoreWritesLand :
    (∃ (c : Fin 32) (s : State) (h : Nat) (payload : List Item) (d1 : Dev) (half : Nat),
      s.dev.popPacket c 1 = some (h, payload, d1) ∧
      Hdr.target h % 16 < 10 ∧
      bitsOf (Hdr.target h) 4 2 = half + 1 ∧
      half < 2 ∧
      s.dev.coreDom c = none ∧
      Hdr.addr h % 32 = 0 ∧
      Hdr.addr h + 32 * payload.length ≤ 49152) ∧
    (∃ (n : Fin 64) (s : State) (h : Nat) (payload : List Item) (d1 : Dev),
      n.val < 32 ∧
      s.dev.popPacket n 6 = some (h, payload, d1) ∧
      bitsOf (Hdr.target h) 4 4 ≠ 4) ∧
    (∃ (n : Fin 64) (s : State) (h : Nat) (payload : List Item) (d1 : Dev) (v : Nat),
      n.val < 32 ∧
      s.dev.popPacket n 6 = some (h, payload, d1) ∧
      Hdr.target h % 16 = 10 + v ∧
      v < 2 ∧
      bitsOf (Hdr.target h) 4 4 = 4 ∧
      d1.coreDom n = none ∧
      Hdr.addr h % 32 = 0 ∧
      Hdr.addr h + 32 * payload.length ≤ 65536) ∧
    (∃ (n : Fin 64) (s : State) (h : Nat) (payload : List Item) (d1 : Dev),
      n.val = 44 ∧
      s.dev.popPacket n 6 = some (h, payload, d1)) :=
  ⟨⟨0, wWS, hB (3 + 16) 32 1, [it (2 ^ 250 + 3), it 4], pop wW 0 1, 0, by decide +kernel, by decide +kernel, by decide +kernel, by decide +kernel, by decide +kernel, by decide +kernel, by decide +kernel⟩,
   ⟨0, st wC1, hB 13 32 6, [it (2 ^ 250 + 3), it 4], pop wC1 0 6, by decide +kernel, by decide +kernel, by decide +kernel⟩,
   ⟨0, st wC2, hB (11 + 64) 32 6, [it (2 ^ 250 + 3), it 4], pop wC2 0 6, 1, by decide +kernel, by decide +kernel, by decide +kernel, by decide +kernel, by decide +kernel, by decide +kernel, by decide +kernel, by decide +kernel⟩,
   ⟨44, st wC3, hB 2 32 6, [it (2 ^ 250 + 3), it 4], pop wC3 44 6, by decide +kernel, by decide +kernel⟩⟩

theorem test_met_AnswersAndSpillsMove :
    (∃ (n : Fin 64) (s : State) (h q : Nat) (x : Item) (d1 d2 : Dev),
      n.val < 32 ∧
      s.dev.popPacket n 2 = some (h, [x], d1) ∧
      q = 1920 * n.val + Hdr.target h % 2048 ∧
      Hdr.target h % 2048 < 1920 ∧
      s.dev.qEn q = true ∧
      s.dev.qSize q ≠ 0 ∧
      s.dev.qNet q = 0 ∧
      s.dev.qMode q = 0 ∧
      s.dev.qFull q = false ∧
      s.dev.bodyRoom q = true ∧
      s.dev.bulkFree n (s.dev.qTile q) = true ∧
      d2 = Serving d1 n ⟨2, h, q, s.dev.qTile q, 0, [{ x with fsb := false }], [], 1, false⟩ ∧
      BulkAlone d2 n (s.dev.qTile q) (s.dev.bodyWord q)) ∧
    (∃ (n : Fin 64) (s : State) (h q : Nat) (x : Item) (d1 : Dev),
      n.val < 32 ∧
      s.dev.popPacket n 2 = some (h, [x], d1) ∧
      q = 1920 * n.val + Hdr.target h % 2048 ∧
      Hdr.target h % 2048 < 1920 ∧
      s.dev.qEn q = true ∧
      s.dev.qSize q ≠ 0 ∧
      s.dev.qFull q = true ∧
      s.dev.bulkFree n (s.dev.qTile q) = true) ∧
    (∃ (n : Fin 64) (s : State) (h q : Nat) (payload : List Item) (d1 : Dev),
      n.val < 32 ∧
      s.dev.popPacket n 2 = some (h, payload, d1) ∧
      q = 1920 * n.val + Hdr.target h % 2048 ∧
      ((1920 ≤ Hdr.target h % 2048 ∨ s.dev.qEn q = false))) ∧
    (∃ (n : Fin 64) (s : State) (h : Nat) (payload : List Item) (d1 : Dev) (a : AperReq) (rest : List AperReq),
      n.val = 44 ∧
      s.dev.popPacket n 4 = some (h, payload, d1) ∧
      s.dev.hp.aper = a :: rest ∧
      a.tx = some (Hdr.txid h)) ∧
    (∃ (n : Fin 64) (s : State) (h : Nat) (payload : List Item) (d1 : Dev) (e : Nat × Nat),
      n.val = 44 ∧
      s.dev.popPacket n 5 = some (h, payload, d1) ∧
      s.dev.hp.ldrTx.find? (fun e => e.1 == Hdr.txid h) = some e) ∧
    (∃ (n : Fin 64) (s : State) (h : Nat) (payload : List Item) (d1 : Dev),
      n.val < 32 ∧
      s.dev.popPacket n 5 = some (h, payload, d1)) ∧
    (∃ (n : Fin 64) (s : State) (h : Nat) (payload : List Item) (d1 : Dev),
      32 ≤ n.val ∧
      n.val < 40 ∧
      s.dev.popPacket n 5 = some (h, payload, d1)) ∧
    (∃ (c : Fin 32) (b : Fin 4) (i : Fin 16) (s : State) (a q n k : Nat) (d1 : Dev),
      a = s.dev.bmdAt c b i false ∧
      q = 1920 * c.val + s.dev.rd a Reg.BMD.QUEUE ∧
      s.dev.rd a Reg.BMD.MODE = 4 ∧
      s.dev.qEn q = true ∧
      s.dev.running (s.dev.qDom q) = true ∧
      s.dev.qTile q = b.val ∧
      s.dev.fenced c = false ∧
      s.dev.bulkFree c b = true ∧
      n = bitsOf (s.dev.rd a Reg.BMD.MODEARG) 6 6 + 1 ∧
      n ≤ ((s.dev.qBody q).filter (fun x => decide (x.at_ ≤ s.dev.cycle))).length ∧
      k = s.dev.bodyIndex q 0 ∧
      d1 = Serving s.dev c ⟨5, bitsOf (s.dev.rd a Reg.BMD.MODEARG) 0 6, q, b, k, [], [], n, false⟩ ∧
      BulkAlone d1 c b ((s.dev.bodyAddr q k).1 / 32 * 4)) ∧
    (∃ (f : Fin 8) (s : State) (h : Nat) (payload : List Item) (d1 : Dev),
      s.dev.popPacket (32 + f) 0 = some (h, payload, d1) ∧
      Hdr.target h < 64 ∧
      s.dev.sd f (Hdr.target h) Reg.SDESC.KIND = 6 ∧
      s.dev.stLive f (Hdr.target h) = true ∧
      s.dev.passDue f (Hdr.target h) ((Hdr.addr h + payload.length - 1) / max 1 (s.dev.passItems f (Hdr.target h))) = true) ∧
    (∃ (f : Fin 8) (st : Fin 64) (s : State) (h : Nat) (payload : List Item) (rest : List (Nat × List Item)),
      (s.dev.stGet f st).spill = (h, payload) :: rest ∧
      (s.dev.stGet f st).wq = [] ∧
      s.dev.mem.reqs.any (fun r => r.f == f.val && r.st == st.val && r.write && !r.done) = false) :=
  ⟨⟨0, st (wQ 1), hB 2 0 2, 2, it 77, pop (wQ 1) 0 2, Serving (pop (wQ 1) 0 2) 0 ⟨2, hB 2 0 2, 2, 0, 0, [it 77], [], 1, false⟩, by decide +kernel, by decide +kernel, by decide +kernel, by decide +kernel, by decide +kernel, by decide +kernel, by decide +kernel, by decide +kernel, by decide +kernel, by decide +kernel, by decide +kernel, by decide +kernel, by decide +kernel⟩,
   ⟨0, st wQf, hB 2 0 2, 2, it 77, pop wQf 0 2, by decide +kernel, by decide +kernel, by decide +kernel, by decide +kernel, by decide +kernel, by decide +kernel, by decide +kernel, by decide +kernel⟩,
   ⟨0, st (wQ 0), hB 2 0 2, 2, [it 77], pop (wQ 0) 0 2, by decide +kernel, by decide +kernel, by decide +kernel, by decide +kernel⟩,
   ⟨44, st wAp, hB 1 64 4, [it 77], pop wAp 44 4, apr, [], by decide +kernel, by decide +kernel, by decide +kernel, by decide +kernel⟩,
   ⟨44, st (wAk 44), hB 1 64 5, [], pop (wAk 44) 44 5, (9, 2), by decide +kernel, by decide +kernel, by decide +kernel⟩,
   ⟨3, st (wAk 3), hB 1 64 5, [], pop (wAk 3) 3 5, by decide +kernel, by decide +kernel⟩,
   ⟨33, st (wAk 33), hB 1 64 5, [], pop (wAk 33) 33 5, by decide +kernel, by decide +kernel, by decide +kernel⟩,
   ⟨0, 0, 1, st (wSp 1), Pg.bmd 0 0 1, 2, 1, 0, wSp1 1, by decide +kernel, by decide +kernel, by decide +kernel, by decide +kernel, by decide +kernel, by decide +kernel, by decide +kernel, by decide +kernel, by decide +kernel, by decide +kernel, by decide +kernel, by decide +kernel, by decide +kernel⟩,
   ⟨0, st (pk (stre 6 (kindClass 6) 0) 32 [it (hB 3 64 0), it 77]), hB 3 64 0, [it 77], pop (pk (stre 6 (kindClass 6) 0) 32 [it (hB 3 64 0), it 77]) 32 0, by decide +kernel, by decide +kernel, by decide +kernel, by decide +kernel, by decide +kernel⟩,
   ⟨0, 3, st (strS (stre 6 (kindClass 6) 0) 1 (fun x => { x with spill := [(hB 3 64 0, [it 77])] })), hB 3 64 0, [it 77], [], by decide +kernel, by decide +kernel, by decide +kernel⟩⟩

theorem test_met_StaleReturnsAreDiscarded :
    (∃ (f : Fin 8) (s : State) (st : Nat) (rest : List Nat) (va i o pa : Nat) (d1 : Dev),
      (s.dev.mem.used.filter (· == 32 + f.val)).length < 2 ∧
      s.dev.flag (Pg.fetch f) Reg.HDR.QUIESCE = false ∧
      ((∀ k < 64, (s.dev.stGet f k).rets = [])) ∧
      s.dev.rrOrder f 1 = st :: rest ∧
      s.dev.stLive f st = true ∧
      s.dev.sd f st Reg.SDESC.KIND ≠ 5 ∧
      s.dev.sd f st Reg.SDESC.KIND ≠ 6 ∧
      s.dev.nextRead f st = some (va, i, o) ∧
      s.dev.translate f st va false = (some pa, d1) ∧
      d1.tagRoom (d1.paPort (pa / 64 * 64)) 1 = true) ∧
    (∃ (f : Fin 8) (tag : Fin 2048) (_host : HostRead) (s : State) (r : MemReq),
      (s.dev.mem.used.filter (· == 8 + f.val)).length < 2 ∧
      tag.val < 1024 ∧
      s.dev.reqAt (tag.val / 256) (tag.val % 256) = some r ∧
      r.f = f.val ∧
      r.done = true ∧
      r.epoch ≠ s.dev.rd (Pg.fetch f) Reg.FETCH.EPOCH r.st ∧
      r.st < 64) :=
  ⟨⟨0, st wTg, 3, [], 0, ((wTg.nextRead 0 3).getD (0, 0, 0)).2.1, ((wTg.nextRead 0 3).getD (0, 0, 0)).2.2, 0x5000, wTgT.2, by decide +kernel, by decide +kernel, by decide +kernel, by decide +kernel, by decide +kernel, by decide +kernel, by decide +kernel, by decide +kernel, by decide +kernel, by decide +kernel⟩,
   ⟨0, 263, ⟨[], false⟩, st wSt, req 5 true, by decide +kernel, by decide +kernel, by decide +kernel, by decide +kernel, by decide +kernel, by decide +kernel, by decide +kernel⟩⟩

theorem test_met_ReturnsAndCancels :
    (∃ (f : Fin 8) (tag : Fin 2048) (_host : HostRead) (s : State) (r : MemReq),
      (s.dev.mem.used.filter (· == 8 + f.val)).length < 2 ∧
      tag.val < 1024 ∧
      s.dev.reqAt (tag.val / 256) (tag.val % 256) = some r ∧
      r.f = f.val ∧
      r.done = true ∧
      r.write = false ∧
      r.cls ≠ 1 ∧
      r.epoch = s.dev.rd (Pg.fetch f) Reg.FETCH.EPOCH r.st) ∧
    (∃ (p : Fin 4) (tag : Fin 256) (s : State) (r : MemReq),
      s.dev.reqAt p tag = some r ∧
      r.at_ + 800 ≤ s.dev.cycle ∧
      r.f < 8 ∧
      r.write = false ∧
      r.epoch = s.dev.rd (Pg.fetch r.f) Reg.FETCH.EPOCH r.st) ∧
    (∃ (p : Fin 4) (tag : Fin 256) (s : State) (r : MemReq),
      s.dev.reqAt p tag = some r ∧
      r.at_ + 800 ≤ s.dev.cycle ∧
      r.f < 8 ∧
      r.st < 64 ∧
      r.epoch ≠ s.dev.rd (Pg.fetch r.f) Reg.FETCH.EPOCH r.st) ∧
    (∃ (p : Fin 4) (tag : Fin 256) (s : State) (r : MemReq),
      s.dev.reqAt p tag = some r ∧
      r.at_ + 800 ≤ s.dev.cycle ∧
      r.f = 8 ∧
      r.write = false) ∧
    (∃ (f : Fin 8) (st : Fin 64) (s : State),
      s.dev.mem.reqs.all (fun r => !(r.f == f.val && r.st == st.val)) = true ∧
      s.dev.flag (Pg.fetch f) Reg.FETCH.CSYNC_EN st = false) ∧
    (∃ (f : Fin 8) (st : Fin 64) (s : State) (r : MemReq),
      r ∈ s.dev.mem.reqs ∧
      r.f = f.val ∧
      r.st = st.val ∧
      ((∀ x ∈ s.dev.mem.reqs, x.f = f.val → x.st = st.val → x.epoch ≠ (s.dev.rd (Pg.fetch f) Reg.FETCH.EPOCH st + 1) % 256))) ∧
    (∃ (f : Fin 8) (st : Fin 64) (s : State),
      s.dev.mem.reqs.any (fun r => r.f == f.val && r.st == st.val && r.epoch == (s.dev.rd (Pg.fetch f) Reg.FETCH.EPOCH st + 1) % 256) = true) ∧
    (∃ (f : Fin 8) (st : Fin 64) (s : State),
      s.dev.stState f st = 4 ∧
      s.dev.staleCount f st = 0 ∧
      (s.dev.stGet f st).csyncDue = true ∧
      (s.dev.stGet f st).again = false ∧
      s.dev.flag (Pg.fetch f) Reg.FETCH.CSYNC_EN st = true) :=
  ⟨⟨0, 263, ⟨[], false⟩, st (rq (strS (stre 1 1 4) 1 id) rC), rC, by decide +kernel, by decide +kernel, by decide +kernel, by decide +kernel, by decide +kernel, by decide +kernel, by decide +kernel, by decide +kernel⟩,
   ⟨1, 7, st wRt, req 0 true, by decide +kernel, by decide +kernel, by decide +kernel, by decide +kernel, by decide +kernel⟩,
   ⟨1, 7, st wSt, req 5 true, by decide +kernel, by decide +kernel, by decide +kernel, by decide +kernel, by decide +kernel⟩,
   ⟨1, 7, st (rq d0 rA), rA, by decide +kernel, by decide +kernel, by decide +kernel, by decide +kernel⟩,
   ⟨0, 3, st (strS (stre 1 1 4) 1 (fun x => { x with pos := 4, iseq := 3 })), by decide +kernel, by decide +kernel⟩,
   ⟨0, 3, st wSt, req 5 true, by decide +kernel, by decide +kernel, by decide +kernel, by decide +kernel⟩,
   ⟨0, 3, st (rq (strS (stre 1 1 4) 1 id) (req 1 true)), by decide +kernel⟩,
   ⟨0, 3, st wCy, by decide +kernel, by decide +kernel, by decide +kernel, by decide +kernel, by decide +kernel⟩⟩

theorem test_met_StreamsBeginAndWalk :
    (∃ (f : Fin 8) (st : Fin 64) (s : State),
      s.dev.stState f st = 0 ∧
      s.dev.stLive f st = true ∧
      s.dev.sd f st Reg.SDESC.KIND = 1 ∧
      s.dev.flag (Pg.sdesc f st) Reg.SDESC.AFTEN = false) ∧
    (∃ (f : Fin 8) (st : Fin 64) (s : State),
      s.dev.flag (Pg.sdesc f st) Reg.SDESC.AFTEN = true ∧
      (s.dev.stGet f (s.dev.sd f st Reg.SDESC.AFTER)).passDone ≤ (s.dev.stGet f st).pass) ∧
    (∃ (f : Fin 8) (st : Fin 64) (s : State) (x0 x1 : Item) (d1 d2 : Dev),
      s.dev.stLive f st = true ∧
      s.dev.sd f st Reg.SDESC.KIND = 4 ∧
      s.dev.stState f st = 0 ∧
      (s.dev.stGet f st).gath = [] ∧
      2 ≤ s.dev.bqVisible (fbq f (s.dev.sd f st Reg.SDESC.BQ)) ∧
      s.dev.itemRoom f st 0 = true ∧
      s.dev.bqPop (fbq f (s.dev.sd f st Reg.SDESC.BQ)) = (x0, d1) ∧
      d1.bqPop (fbq f (s.dev.sd f st Reg.SDESC.BQ)) = (x1, d2) ∧
      bitAt (x0.data.toNat % 2 ^ 32) 31 = true) ∧
    (∃ (f : Fin 8) (st : Fin 64) (s : State) (x0 x1 : Item) (d1 d2 : Dev) (b fs ch fw fh : Nat),
      s.dev.stLive f st = true ∧
      s.dev.sd f st Reg.SDESC.KIND = 4 ∧
      s.dev.stState f st = 0 ∧
      (s.dev.stGet f st).gath = [] ∧
      2 ≤ s.dev.bqVisible (fbq f (s.dev.sd f st Reg.SDESC.BQ)) ∧
      s.dev.itemRoom f st 0 = true ∧
      s.dev.bqPop (fbq f (s.dev.sd f st Reg.SDESC.BQ)) = (x0, d1) ∧
      d1.bqPop (fbq f (s.dev.sd f st Reg.SDESC.BQ)) = (x1, d2) ∧
      bitAt (x0.data.toNat % 2 ^ 32) 31 = false ∧
      d2.gslot f (x0.data.toNat % 2 ^ 32) = some (b, fs, ch, fw, fh) ∧
      bitsOf (x0.data.toNat % 2 ^ 32) 12 12 < ch ∧
      bitsOf (x0.data.toNat % 2 ^ 32) 0 12 + 1 < fh) ∧
    (∃ (f : Fin 8) (st : Fin 64) (s : State),
      s.dev.sd f st Reg.SDESC.KIND = 7 ∧
      s.dev.stState f st = 1 ∧
      (s.dev.stGet f st).ended = true ∧
      (s.dev.stGet f st).ackTx = []) ∧
    (∃ (f : Fin 8) (st : Fin 64) (hs rest : List HostPte) (s : State) (e : TlbEnt) (d0 : Dev),
      s.dev.stState f st = 2 ∧
      s.dev.sd f st Reg.SDESC.KIND = 1 ∧
      s.dev.walk (s.dev.sd f st Reg.SDESC.AS) (s.dev.stGet f st).walkVa 0 hs (if s.dev.sd f st Reg.SDESC.CLS = 3 then .none_ else .dom (s.dev.sd f st Reg.SDESC.DOM)) = (.ok e, rest, d0)) ∧
    (∃ (f : Fin 8) (st : Fin 64) (hs rest : List HostPte) (s : State) (kind level : Nat) (d0 : Dev),
      s.dev.stState f st = 2 ∧
      s.dev.sd f st Reg.SDESC.KIND = 1 ∧
      s.dev.walk (s.dev.sd f st Reg.SDESC.AS) (s.dev.stGet f st).walkVa 0 hs (if s.dev.sd f st Reg.SDESC.CLS = 3 then .none_ else .dom (s.dev.sd f st Reg.SDESC.DOM)) = (.fail kind level, rest, d0)) ∧
    (∃ (f : Fin 8) (st : Fin 64) (s : State),
      s.dev.stState f st = 3) ∧
    (∃ (f : Fin 8) (st : Fin 64) (s : State),
      s.dev.stState f st = 3) ∧
    (∃ (f : Fin 8) (st : Fin 64) (s : State),
      s.dev.stState f st = 3 ∧
      0 < s.dev.rd (Pg.fetch f) Reg.FETCH.XLATE_WAIT ∧
      s.dev.flt.dealerDown = false ∧
      (s.dev.stGet f st).suspAt + usCycles (1000 * s.dev.rd (Pg.fetch f) Reg.FETCH.XLATE_WAIT) ≤ s.dev.cycle) :=
  ⟨⟨0, 3, st (stre 1 1 4), by decide +kernel, by decide +kernel, by decide +kernel, by decide +kernel⟩,
   ⟨0, 3, st ((stre 1 1 4).wr (Pg.sdesc 0 3) Reg.SDESC.AFTEN 1), by decide +kernel, by decide +kernel⟩,
   ⟨0, 3, st (wGa (2 ^ 31)), (gd1 (2 ^ 31)).1, (gd2 (2 ^ 31)).1, (gd1 (2 ^ 31)).2, (gd2 (2 ^ 31)).2, by decide +kernel, by decide +kernel, by decide +kernel, by decide +kernel, by decide +kernel, by decide +kernel, by decide +kernel, by decide +kernel, by decide +kernel⟩,
   ⟨0, 3, st (wGa 4097), (gd1 4097).1, (gd2 4097).1, (gd1 4097).2, (gd2 4097).2, 0, 0, 4, 10, 10, by decide +kernel, by decide +kernel, by decide +kernel, by decide +kernel, by decide +kernel, by decide +kernel, by decide +kernel, by decide +kernel, by decide +kernel, by decide +kernel, by decide +kernel, by decide +kernel⟩,
   ⟨0, 3, st wPf, by decide +kernel, by decide +kernel, by decide +kernel, by decide +kernel⟩,
   ⟨0, 3, ptes, [pte 0], st wWk, wkOk, (wke ptes).2.2, by decide +kernel, by decide +kernel, by decide +kernel⟩,
   ⟨0, 3, [pte 0], [], st wWk, 0, 0, (wke [pte 0]).2.2, by decide +kernel, by decide +kernel, by decide +kernel⟩,
   ⟨0, 3, st wSus, by decide +kernel⟩,
   ⟨0, 3, st wSus, by decide +kernel⟩,
   ⟨0, 3, st wSus, by decide +kernel, by decide +kernel, by decide +kernel, by decide +kernel⟩⟩

theorem test_met_TranslationsChange :
    (∃ (s : State),
      s.dev.flag Pg.mmu Reg.MMU.BUSY = false ∧
      s.dev.mem.shared.filter (fun e => e.pinned && e.overlaps s.dev.opRange.1 s.dev.opRange.2.1 s.dev.opRange.2.2) = []) ∧
    (∃ (s : State),
      s.dev.flag Pg.mmu Reg.MMU.BUSY = false ∧
      s.dev.flag Pg.mmu Reg.MMU.FORCE = false ∧
      s.dev.mem.shared.filter (fun e => e.pinned && e.overlaps s.dev.opRange.1 s.dev.opRange.2.1 s.dev.opRange.2.2) ≠ [] ∧
      s.dev.asRunning s.dev.opRange.1 = true) ∧
    (∃ (s : State),
      s.dev.mem.op = 1 ∧
      s.dev.mem.opWalks = []) ∧
    (∃ (s : State),
      s.dev.flag Pg.mmu Reg.MMU.BUSY = false) ∧
    (∃ (hs : List HostPte) (s : State) (es : List TlbEnt) (rest : List HostPte) (d1 : Dev),
      s.dev.mem.op = 2 ∧
      s.dev.lockRange s.dev.mem.opArg.1 s.dev.mem.opArg.2.1 s.dev.mem.opArg.2.2 hs = (none, es, rest, d1)) ∧
    (∃ (s : State),
      s.dev.flag Pg.mmu Reg.MMU.BUSY = false) :=
  ⟨⟨st (wTb false), by decide +kernel, by decide +kernel⟩,
   ⟨st (wTb true), by decide +kernel, by decide +kernel, by decide +kernel, by decide +kernel⟩,
   ⟨st { wOp 1 with mem := { (wOp 1).mem with opWalks := [] } }, by decide +kernel, by decide +kernel⟩,
   ⟨st (wTb false), by decide +kernel⟩,
   ⟨[], st wLp, wLk.2.1, wLk.2.2.1, wLk.2.2.2, by decide +kernel, by decide +kernel⟩,
   ⟨st (wTb true), by decide +kernel⟩⟩

theorem test_met_MemoryPortsServe :
    (∃ (p : Fin 4) (tag : Fin 256) (s : State) (r : MemReq),
      s.dev.reqAt p tag = some r ∧
      r.done = false ∧
      s.dev.mem.used.contains (16 + p.val) = false ∧
      s.dev.mayAccess r = true ∧
      s.dev.ordered r = true ∧
      s.dev.flag (Pg.memport p) Reg.HDR.QUIESCE = false ∧
      r.pa + r.len ≤ s.dev.ddrCap ∧
      r.f < 8 ∧
      r.write = false) ∧
    (∃ (p : Fin 4) (tag : Fin 256) (s : State) (r : MemReq),
      s.dev.reqAt p tag = some r ∧
      r.done = false ∧
      s.dev.mem.used.contains (16 + p.val) = false ∧
      s.dev.mayAccess r = true ∧
      s.dev.ordered r = true ∧
      s.dev.flag (Pg.memport p) Reg.HDR.QUIESCE = false ∧
      r.pa + r.len ≤ s.dev.ddrCap ∧
      r.write = true ∧
      r.wdata.length = r.len ∧
      r.pa % 64 + r.len ≤ 64 ∧
      ((∀ o ∈ r.wdata, o.isSome = true)) ∧
      ((∀ b, Tab.get s.dev.mem.derr b 0 = 0))) ∧
    (∃ (p : Fin 4) (s : State),
      s.dev.mem.used.contains (16 + p.val) = false) ∧
    (∃ (p : Fin 4) (s : State),
      s.dev.ddrScrubTurn p = true ∧
      Tab.get s.dev.mem.scrubPos p 0 + 64 < s.dev.rd (Pg.memport p) Reg.MEMPORT.CAP * 2 ^ 30) ∧
    (∃ (p : Fin 4) (s : State) (e : Nat × Nat),
      s.dev.mem.used.contains (16 + p.val) = false ∧
      s.dev.mem.scrubWb.find? (fun e => e.1 == p.val) = some e) :=
  ⟨⟨1, 7, st (wMa false), rD false, by decide +kernel, by decide +kernel, by decide +kernel, by decide +kernel, by decide +kernel, by decide +kernel, by decide +kernel, by decide +kernel, by decide +kernel⟩,
   ⟨1, 7, st (wMa true), rD true, by decide +kernel, by decide +kernel, by decide +kernel, by decide +kernel, by decide +kernel, by decide +kernel, by decide +kernel, by decide +kernel, by decide +kernel, by decide +kernel, by decide +kernel, fun _ => rfl⟩,
   ⟨1, st wSc, by decide +kernel⟩,
   ⟨1, st wSc, by decide +kernel, by decide +kernel⟩,
   ⟨1, st wWb, (1, 1), by decide +kernel, by decide +kernel⟩⟩

end MemoryTests

/-! ### States that meet the hypotheses of the aperture, the cameras and the links -/

namespace LinksTests

def wAr : AperReq := ⟨0x5000, 70, [], false, 0x5000, none, 0, some 263, 70, [1, 2, 3, 4, 5, 6], false⟩
def wAm : Dev :=
  let d := rq (ddr d0) { req 0 false with f := 8, cls := 3 }
  { d with mem := { d.mem with ddr := [(0x5012, 7), (0x5019, 9)] }, hp := { d.hp with aper := [wAr] } }
def wAt : AperReq := ⟨2 ^ 22 + 64, 4, [], false, 2 ^ 27 + 2 ^ 22 + 64, none, 0, none, 0, [], false⟩
def wAd : Dev := ddr d0
def wAn : Nat × Dev := (wAd.setAper [wAt]).nextTxid 44
def wAs : Bool × Dev := wAn.2.sendPacket 44 (wAt.addr / 2 ^ 22 % 32) 3 (wAt.addr / 2 ^ 20 % 4 + (wAt.span.2 - 1) * 64) (wAt.span.1 % 2 ^ 20) wAn.1 1 [] none
def wA5 : Dev := { wAd with cycle := 2 ^ 40, hp := { wAd.hp with aper := [{ wAt with tx := some 9, at_ := 5 }] } }
/-- Camera port 1 runs with channel 2 in format RAW8, 32 by 4. -/
def cam : Dev :=
  let P := Pg.csi 1
  (((((dom0 d0 stRUNNING).wr P Reg.INGRESS.EN 1).wr P Reg.INGRESS.VC_EN 1 2).wr P Reg.INGRESS.DT 0x2A 2).wr P Reg.INGRESS.WIDTH_M1 31 2).wr P Reg.INGRESS.LINES_M1 3 2
def camQ : Dev := bqd cam (1024 + 64) 0 []
def ctx : CsiCtx := { dt := 0x2A, depth := false, osgn := false, qbase := 0, w := 32, lines := 4 }
def camO (l : Nat) : Dev := camQ.csiSet 1 2 ⟨true, false, l, true⟩
/-- Link 1 in state `ls`. -/
def gl (d : Dev) (ls : Nat) : Dev := (d.wr (Pg.gl 1) Reg.GLINK.EN 1).wr (Pg.gl 1) Reg.GLINK.LSTATE ls
def glst (d : Dev) (f : GlSt → GlSt) : Dev := d.glSet 1 (f (d.glGet 1))
def wG : Dev := bqd (gl d0 5) (glB 1 3) 0 []
def wGo : Dev := (bqd (gl (dom0 d0 stRUNNING) 5) (glB 1 3) 1 [it 6, it 7]).wr (Pg.bq (glB 1 3)) Reg.BQD.CLS 1
def wGt : Dev := glst wGo (fun g => { g with cred := [(3, 5)] })
def fD : List Byte := glFrame (1 + 4 * 0 + 1024 * 3 + 2 ^ 20) (leBytes 32 77)
def fC (n : Nat) : List Byte := glFrame 2 (leBytes 1 n)
def fT (p : Nat) : List Byte := glFrame 3 (tunPayload p 0 0 3 0xF 0x50100 (leBytes 4 5))
def wGb : Dev := glst (gl d0 5) (fun g => { g with buf := [(3, fD), (4, fD), (5, fD)], nakRx := true })

theorem test_met_ApertureAccesses :
    (∃ (off : BitVec 36) (len : Fin 513) (s : State) (pa n : Nat),
      0 < len.val ∧
      off.toNat + len.val ≤ s.dev.hp.cfg.bar4 ∧
      s.dev.aperSram = false ∧
      s.dev.hp.aper = [] ∧
      off.toNat < s.dev.aperSplit ∧
      pa = s.dev.aperBase + off.toNat ∧
      pa < s.dev.ddrCap ∧
      s.dev.aperRoom (s.dev.ddrPort pa) = true ∧
      n = min (64 - pa % 64) (min len.val (s.dev.ddrCap - pa))) ∧
    (∃ (off : BitVec 36) (data : List Byte) (s : State) (pa n : Nat),
      0 < data.length ∧
      off.toNat + data.length ≤ s.dev.hp.cfg.bar4 ∧
      s.dev.aperSram = false ∧
      s.dev.hp.aper = [] ∧
      off.toNat < s.dev.aperSplit ∧
      pa = s.dev.aperBase + off.toNat ∧
      pa < s.dev.ddrCap ∧
      s.dev.aperRoom (s.dev.ddrPort pa) = true ∧
      n = min (64 - pa % 64) (min data.length (s.dev.ddrCap - pa))) ∧
    (∃ (p : Fin 4) (tag : Fin 256) (s : State) (r : MemReq) (a : AperReq),
      s.dev.reqAt p tag = some r ∧
      r.done = false ∧
      r.f = 8 ∧
      r.write = false ∧
      s.dev.mem.used.contains (16 + p.val) = false ∧
      s.dev.mayAccess r = true ∧
      s.dev.ordered r = true ∧
      s.dev.flag (Pg.memport p) Reg.HDR.QUIESCE = false ∧
      r.pa + r.len ≤ s.dev.ddrCap ∧
      ((∀ b, Tab.get s.dev.mem.derr b 0 = 0)) ∧
      s.dev.hp.aper = [a] ∧
      a.tag = some (256 * r.port + r.tag) ∧
      a.tx = none ∧
      a.write = false ∧
      a.off < s.dev.aperSplit ∧
      s.dev.aperHave a ≤ a.pos ∧
      a.got.length + r.len = a.len) ∧
    (∃ (off : BitVec 36) (len : Fin 513) (s : State) (a : AperReq) (tx : Nat) (d1 d2 : Dev),
      0 < len.val ∧
      off.toNat + len.val ≤ s.dev.hp.cfg.bar4 ∧
      s.dev.aperSram = false ∧
      s.dev.hp.aper = [] ∧
      s.dev.aperSplit ≤ off.toNat ∧
      a = ⟨off.toNat - s.dev.aperSplit, len.val, [], false, off.toNat, none, 0, none, 0, [], false⟩ ∧
      Tab.get s.dev.fab.rdOut (64 * 44 + a.addr / 2 ^ 22 % 32) 0 < 8 ∧
      (s.dev.setAper [a]).nextTxid 44 = (tx, d1) ∧
      d1.sendPacket 44 (a.addr / 2 ^ 22 % 32) 3 (a.addr / 2 ^ 20 % 4 + (a.span.2 - 1) * 64) (a.span.1 % 2 ^ 20) tx 1 [] none = (true, d2)) ∧
    (∃ (tx : Word) (s : State) (a : AperReq),
      s.dev.hp.aper = [a] ∧
      a.tx = some tx.toNat ∧
      a.at_ + usCycles 1000 ≤ s.dev.cycle ∧
      a.write = false) :=
  ⟨⟨70, 100, st (ddr d0), 70, 58, by decide +kernel, by decide +kernel, by decide +kernel, by decide +kernel, by decide +kernel, by decide +kernel, by decide +kernel, by decide +kernel, by decide +kernel⟩,
   ⟨70, List.replicate 100 5, st (ddr d0), 70, 58, by decide +kernel, by decide +kernel, by decide +kernel, by decide +kernel, by decide +kernel, by decide +kernel, by decide +kernel, by decide +kernel, by decide +kernel⟩,
   ⟨1, 7, st wAm, { req 0 false with f := 8, cls := 3 }, wAr, by decide +kernel, by decide +kernel, by decide +kernel, by decide +kernel, by decide +kernel, by decide +kernel, by decide +kernel, by decide +kernel, by decide +kernel, fun _ => rfl, by decide +kernel, by decide +kernel, by decide +kernel, by decide +kernel, by decide +kernel, by decide +kernel, by decide +kernel⟩,
   ⟨138412096, 4, st wAd, wAt, wAn.1, wAn.2, wAs.2, by decide +kernel, by decide +kernel, by decide +kernel, by decide +kernel, by decide +kernel, by decide +kernel, by decide +kernel, by decide +kernel, by decide +kernel⟩,
   ⟨9, st wA5, { wAt with tx := some 9, at_ := 5 }, by decide +kernel, by decide +kernel, by decide +kernel, by decide +kernel⟩⟩

theorem test_met_CamerasDeliver :
    (∃ (n : Fin 4) (v : Fin 16) (_fnum : BitVec 16) (s : State) (c : CsiCtx),
      s.dev.csiCtx n v = some c ∧
      ((∀ l < 4, s.dev.flag (Pg.csi n) Reg.INGRESS.SKEW_VALID l = false)) ∧
      (s.dev.csiGet n v).open_ = false ∧
      ((List.range c.planes).all (fun p => !(s.dev.bqGet (c.queue n p)).stopped)) = true) ∧
    (∃ (n : Fin 4) (v : Fin 16) (dt : BitVec 6) (payload : List Byte) (s : State) (c : CsiCtx),
      s.dev.csiCtx n v = some c ∧
      ((∀ l < 4, s.dev.flag (Pg.csi n) Reg.INGRESS.SKEW_VALID l = false)) ∧
      dt.toNat = c.dt ∧
      (s.dev.csiGet n v).open_ = true ∧
      (s.dev.csiGet n v).line < c.lines ∧
      payload.length = csiBytes c.dt c.w) ∧
    (∃ (n : Fin 4) (v : Fin 16) (s : State) (c : CsiCtx),
      s.dev.csiCtx n v = some c ∧
      ((∀ l < 4, s.dev.flag (Pg.csi n) Reg.INGRESS.SKEW_VALID l = false)) ∧
      (s.dev.csiGet n v).open_ = true ∧
      c.lines ≤ (s.dev.csiGet n v).line ∧
      (s.dev.csiGet n v).dropped = false) ∧
    (∃ (n : Fin 4) (why : CsiTimingKind) (lane : Fin 5) (v : Fin 16) (s : State),
      s.dev.flag (Pg.csi n) Reg.INGRESS.EN = true ∧
      s.dev.rd (Pg.csi n) Reg.INGRESS.LANES ≠ 3 ∧
      lane.val < 4 ∧
      why ≠ .clockLoss ∧
      (s.dev.csiGet n v).open_ = true ∧
      (s.dev.csiGet n v).dropped = false) ∧
    (∃ (n : Fin 4) (skew : List (BitVec 12)) (s : State),
      s.dev.flag (Pg.csi n) Reg.INGRESS.EN = true ∧
      s.dev.rd (Pg.csi n) Reg.INGRESS.LANES = 2 ∧
      skew.length = 4) :=
  ⟨⟨1, 2, 77, st camQ, ctx, by decide +kernel, by decide +kernel, by decide +kernel, by decide +kernel⟩,
   ⟨1, 2, 0x2A, List.replicate 32 9, st (camO 1), ctx, by decide +kernel, by decide +kernel, by decide +kernel, by decide +kernel, by decide +kernel, by decide +kernel⟩,
   ⟨1, 2, st (camO 4), ctx, by decide +kernel, by decide +kernel, by decide +kernel, by decide +kernel, by decide +kernel⟩,
   ⟨1, .sot, 2, 2, st (camO 1), by decide +kernel, by decide +kernel, by decide +kernel, by decide +kernel, by decide +kernel, by decide +kernel⟩,
   ⟨1, [1, 2, 3, 4], st (cam.wr (Pg.csi 1) Reg.INGRESS.LANES 2), by decide +kernel, by decide +kernel, by decide +kernel⟩⟩

theorem test_met_LinkFramesFlow :
    (∃ (k : Fin 2) (f : List Byte) (s : State) (b : Nat),
      s.dev.lstate k = 5 ∧
      glFrameOk f = true ∧
      glHdr f % 4 = 1 ∧
      bitsOf (glHdr f) 2 8 = (s.dev.glGet k).rxSeq ∧
      (s.dev.glGet k).rxSeq < 256 ∧
      (s.dev.glGet k).repEnd = 0 ∧
      b = glB k (bitsOf (glHdr f) 10 8) ∧
      s.dev.bqEn b = true ∧
      s.dev.bqOut b = false ∧
      (glItem f).fsb = false ∧
      ((s.dev.rd (Pg.bq b) Reg.BQD.CLS ≠ 1 ∨ (s.dev.bqGet b).dropping = false))) ∧
    (∃ (k : Fin 2) (f : List Byte) (s : State),
      s.dev.lstate k = 5 ∧
      glFrameOk f = false ∧
      (s.dev.glGet k).nakSent = false) ∧
    (∃ (k : Fin 2) (f : List Byte) (s : State) (base n : Nat) (f0 : List Byte) (rest : List (Nat × List Byte)),
      4 ≤ s.dev.lstate k ∧
      glFrameOk f = true ∧
      glHdr f % 4 = 2 ∧
      leNat (((f.drop 4).drop 2).take 1) = 0 ∧
      bitAt (leNat (((f.drop 4).drop 1).take 1)) 0 = false ∧
      (s.dev.glGet k).buf = (base, f0) :: rest ∧
      n = (leNat ((f.drop 4).take 1) % 256 + 257 - base) % 256 ∧
      0 < n ∧
      n ≤ (s.dev.glGet k).buf.length) ∧
    (∃ (k : Fin 2) (f : List Byte) (s : State) (d1 : Dev),
      s.dev.lstate k = 5 ∧
      glFrameOk f = true ∧
      glHdr f % 4 = 3 ∧
      s.dev.glSeqIn k f = (true, d1) ∧
      leNat (((f.drop 4).take 32).take 1) % 8 = s.dev.rd Pg.pins Reg.PINS.POS) ∧
    (∃ (k : Fin 2) (f : List Byte) (s : State) (d1 : Dev),
      s.dev.lstate k = 5 ∧
      glFrameOk f = true ∧
      glHdr f % 4 = 3 ∧
      s.dev.glSeqIn k f = (true, d1) ∧
      leNat (((f.drop 4).take 32).take 1) % 8 ≠ s.dev.rd Pg.pins Reg.PINS.POS ∧
      s.dev.lstate (1 - k.val) ≠ 5) ∧
    (∃ (k : Fin 2) (s : State) (st : Nat) (rest : List Nat),
      s.dev.lstate k = 5 ∧
      (s.dev.glGet k).resend = 0 ∧
      (s.dev.glGet k).buf.length < 64 ∧
      (s.dev.glGet k).txSeq < 256 ∧
      s.dev.glCtrlDue k = false ∧
      s.dev.glReady k 1 = st :: rest) ∧
    (∃ (k : Fin 2) (s : State),
      s.dev.lstate k = 5 ∧
      (s.dev.glGet k).resend = 0 ∧
      (s.dev.glGet k).buf.length < 64 ∧
      s.dev.glCtrlDue k = false ∧
      s.dev.glStreams k true = [] ∧
      (s.dev.glGet k).tun = []) ∧
    (∃ (k : Fin 2) (s : State),
      s.dev.lstate k = 5 ∧
      (s.dev.glGet k).buf ≠ [] ∧
      (((s.dev.glGet k).nakRx = true ∨ (s.dev.glGet k).ackAt + 400 ≤ s.dev.cycle))) :=
  ⟨⟨1, fD, st wG, glB 1 3, by decide +kernel, by decide +kernel, by decide +kernel, by decide +kernel, by decide +kernel, by decide +kernel, by decide +kernel, by decide +kernel, by decide +kernel, by decide +kernel, by decide +kernel⟩,
   ⟨1, fD.set 7 1, st wG, by decide +kernel, by decide +kernel, by decide +kernel⟩,
   ⟨1, fC 4, st wGb, 3, 2, fD, [(4, fD), (5, fD)], by decide +kernel, by decide +kernel, by decide +kernel, by decide +kernel, by decide +kernel, by decide +kernel, by decide +kernel, by decide +kernel, by decide +kernel⟩,
   ⟨1, fT 0, st (gl d0 5), ((gl d0 5).glSeqIn 1 (fT 0)).2, by decide +kernel, by decide +kernel, by decide +kernel, by decide +kernel, by decide +kernel⟩,
   ⟨1, fT 2, st (gl d0 5), ((gl d0 5).glSeqIn 1 (fT 2)).2, by decide +kernel, by decide +kernel, by decide +kernel, by decide +kernel, by decide +kernel, by decide +kernel⟩,
   ⟨1, st wGt, 3, [], by decide +kernel, by decide +kernel, by decide +kernel, by decide +kernel, by decide +kernel, by decide +kernel⟩,
   ⟨1, st (gl d0 5), by decide +kernel, by decide +kernel, by decide +kernel, by decide +kernel, by decide +kernel, by decide +kernel⟩,
   ⟨1, st wGb, by decide +kernel, by decide +kernel, by decide +kernel⟩⟩

theorem test_met_LinksTrainAndTunnel :
    (∃ (k : Fin 2) (s : State),
      s.dev.flag (Pg.gl k) Reg.GLINK.EN = true ∧
      s.dev.lstate k < 2) ∧
    (∃ (k : Fin 2) (_rev : Bool) (_pol : BitVec 4) (s : State),
      s.dev.flag (Pg.gl k) Reg.GLINK.EN = true ∧
      s.dev.lstate k = 2) ∧
    (∃ (k : Fin 2) (loss : BitVec 10) (s : State),
      s.dev.flag (Pg.gl k) Reg.GLINK.EN = true ∧
      s.dev.lstate k = 3 ∧
      loss.toNat ≤ 300) ∧
    (∃ (k : Fin 2) (s : State),
      s.dev.flag (Pg.gl k) Reg.GLINK.EN = true ∧
      s.dev.lstate k = 4) ∧
    (∃ (k : Fin 2) (s : State),
      s.dev.flag (Pg.gl k) Reg.GLINK.EN = true ∧
      s.dev.lstate k = 5 ∧
      4 ≤ (s.dev.glGet k).replays) ∧
    (∃ (k : Fin 2) (s : State),
      s.dev.flag (Pg.gl k) Reg.GLINK.EN = true ∧
      2 ≤ s.dev.lstate k) ∧
    (∃ (k : Fin 2) (s : State),
      s.dev.flag (Pg.gl k) Reg.GLINK.EN = true ∧
      s.dev.lstate k ≠ 0) ∧
    (∃ (k : Fin 2) (s : State),
      s.dev.lstate k = 5) ∧
    (∃ (k : Fin 2) (s : State),
      s.dev.flag (Pg.gl k) Reg.GLINK.TUN_BUSY = false ∧
      s.dev.flag (Pg.gl k) Reg.GLINK.TUN_SPACE = false) ∧
    (∃ (k : Fin 2) (s : State),
      s.dev.flag (Pg.gl k) Reg.GLINK.TUN_BUSY = false ∧
      s.dev.flag (Pg.gl k) Reg.GLINK.TUN_SPACE = false) ∧
    (∃ (k : Fin 2) (s : State) (t tag : Nat) (r : Bool),
      (s.dev.glGet k).tunOut = some (t, tag, r) ∧
      t + usCycles 1000 ≤ s.dev.cycle) :=
  ⟨⟨1, st (gl d0 1), by decide +kernel, by decide +kernel⟩,
   ⟨1, true, 5, st (gl d0 2), by decide +kernel, by decide +kernel⟩,
   ⟨1, 300, st (gl d0 3), by decide +kernel, by decide +kernel, by decide +kernel⟩,
   ⟨1, st (glst (gl d0 4) (fun g => { g with buf := [(3, fD), (4, fD)] })), by decide +kernel, by decide +kernel⟩,
   ⟨1, st (glst (gl d0 5) (fun g => { g with buf := [(3, fD), (4, fD)], replays := 4 })), by decide +kernel, by decide +kernel, by decide +kernel⟩,
   ⟨1, st (gl d0 5), by decide +kernel, by decide +kernel⟩,
   ⟨1, st (glst (gl d0 5) (fun g => { g with buf := [(3, fD), (4, fD)] })), by decide +kernel, by decide +kernel⟩,
   ⟨1, st (gl d0 5), by decide +kernel⟩,
   ⟨1, st (gl d0 5), by decide +kernel, by decide +kernel⟩,
   ⟨1, st (gl d0 5), by decide +kernel, by decide +kernel⟩,
   ⟨1, st { glst (gl d0 5) (fun g => { g with tunOut := some (4, 3, true) }) with cycle := 2 ^ 40 }, 4, 3, true, by decide +kernel, by decide +kernel⟩⟩

end LinksTests

/-! ### States that meet the hypotheses of register pages and tables -/

namespace RegistersTests

/-- Core 3 of a domain 0 that is loaded and does not run. -/
def ld : Dev := core d0 3 stLOADED
/-- Something waits at window 2 for the host. -/
def stl : Dev := { d0 with qs := { d0.qs with stalls := [⟨.host, blockAt 0x1000040, 2, 5, .write 0x1000040 []⟩] } }
def up (k : Nat) (d : Dev) : Dev := d.setUpset k 5

theorem test_met_PageRegistersAct :
    (∃ (pg : Fin 16384) (_on : Bool) (s : State) (k : PageKind) (n : Nat),
      pageKind pg = some (k, n) ∧
      ((k.isCore = true → s.dev.fenced (pageCore pg) = false)) ∧
      NoStall s.dev (pg.val * 4096)) ∧
    (∃ (pg : Fin 16384) (s : State) (m c : Nat),
      pageKind pg = some (.mtile, m) ∧
      c = pageCore pg ∧
      s.dev.fenced c = false ∧
      NoStall s.dev (pg.val * 4096)) ∧
    (∃ (pg : Fin 16384) (s : State) (v c : Nat),
      pageKind pg = some (.vtile, v) ∧
      c = pageCore pg ∧
      s.dev.fenced c = false ∧
      NoStall s.dev (pg.val * 4096)) ∧
    (∃ (p : Fin 4) (s : State),
      NoStall s.dev (Pg.memport p)) ∧
    (∃ (pg : Fin 16384) (_v : Word) (s : State) (k : PageKind) (n : Nat),
      pageKind pg = some (k, n) ∧
      k ≠ .score ∧
      k ≠ .journal ∧
      ((k.isCore = true → s.dev.fenced (pageCore pg) = false)) ∧
      NoStall s.dev (pg.val * 4096)) ∧
    (∃ (pg : Fin 16384) (s : State) (k : PageKind) (n : Nat),
      pageKind pg = some (k, n) ∧
      Tab.get s.dev.perf pg.val 0 < 2 ^ 64 ∧
      NoStall s.dev (pg.val * 4096)) ∧
    (∃ (off : BitVec 26) (_w : Word) (s : State),
      off.toNat % 4 = 0 ∧
      NoStall s.dev off.toNat) ∧
    (∃ (off : BitVec 26) (b0 b1 b2 b3 : Option Byte) (s : State),
      off.toNat % 4 = 0 ∧
      NoStall s.dev off.toNat ∧
      ((∃ b ∈ [b0, b1, b2, b3], b = none)) ∧
      ((∃ b ∈ [b0, b1, b2, b3], b ≠ none))) ∧
    (∃ (off : BitVec 26) (data : List (Option Byte)) (s : State),
      s.dev.waitsAt .host (blockAt off.toNat) = true ∧
      off.toNat + data.length ≤ 2 ^ 26) ∧
    (∃ (off : BitVec 20) (_w : Word) (_s : State),
      off.toNat < 0x18000 ∧
      off.toNat % 64 = 0) ∧
    (∃ (c : Fin 32) (_w : Word) (s : State),
      s.dev.fenced c = true ∧
      NoStall s.dev (Pg.xnode c)) :=
  ⟨⟨0x164, true, st ((ld.wr 0x164000 Reg.HDR.ENABLE 1)), .mtile, 1, by decide +kernel, by decide +kernel, by decide +kernel⟩,
   ⟨0x164, st { ((ld.wr (Pg.mtile 3 1) Reg.MTILE.PC 5).wr (Pg.mtile 3 1) Reg.MTILE.WP 7) with tl := { ld.tl with mt := Tab.set ld.tl.mt 4 { MTile.zero with accPoison := 3 } MTile.zero } }, 1, 3, by decide +kernel, by decide +kernel, by decide +kernel, by decide +kernel⟩,
   ⟨0x16E, st (((ld.wr (Pg.vtile 3 1) Reg.VTILE.PC 5).wr (Pg.vtile 3 1) Reg.VTILE.CH 7 3).wr (Pg.vtile 3 1) Reg.VTILE.SQ 7 15), 1, 3, by decide +kernel, by decide +kernel, by decide +kernel, by decide +kernel⟩,
   ⟨1, st ((ddr d0).wr (Pg.memport 1) Reg.MEMPORT.CORR_CNT 5), by decide +kernel⟩,
   ⟨0x164, 3, st { ld with perf := [(0x164, 7)] }, .mtile, 1, by decide +kernel, by decide +kernel, by decide +kernel, by decide +kernel, by decide +kernel⟩,
   ⟨0x164, st { ld with perf := [(0x164, 2 ^ 40 + 7)] }, .mtile, 1, by decide +kernel, by decide +kernel, by decide +kernel⟩,
   ⟨0x30, 5, st d0, by decide +kernel, by decide +kernel⟩,
   ⟨0x30, some 3, none, some 3, some 4, st d0, by decide +kernel, by decide +kernel, by decide +kernel, by decide +kernel⟩,
   ⟨0x1000048, [some 3, some 4, some 5, some 6], st stl, by decide +kernel, by decide +kernel⟩,
   ⟨128, 3, st (ringOn d0 2 0 0), by decide +kernel, by decide +kernel⟩,
   ⟨3, 5, st ((ld.wr Pg.fault Reg.FAULT.FENCE_MAP 8)), by decide +kernel, by decide +kernel⟩⟩

theorem test_met_RouteTablesFollow :
    (∃ (c : Fin 32) (_w : Word) (s : State) (p t key : Nat) (st : Bool),
      s.dev.fenced c = false ∧
      p = s.dev.rd (Pg.xnode c) Reg.XNODE.TT_PORT ∧
      t = s.dev.rd (Pg.xnode c) Reg.XNODE.TT_TRICK ∧
      st = s.dev.flag (Pg.xnode c) Reg.XNODE.TT_STAGED ∧
      key = s.dev.bankKey (Bank.port c p) (64 * c.val + p) t st ∧
      (portNet p).isSome = true ∧
      ((st = true ∨ s.dev.ownerRuns (s.dev.ownerA c p) = false)) ∧
      NoStall s.dev (Pg.xnode c)) ∧
    (∃ (c : Fin 32) (s : State) (p : Nat),
      p = s.dev.rd (Pg.xnode c) Reg.XNODE.TT_PORT ∧
      (portNet p).isSome = true) ∧
    (∃ (c : Fin 32) (_w : Word) (s : State) (p t key : Nat) (st : Bool),
      s.dev.fenced c = false ∧
      p = s.dev.rd (Pg.qeng c) Reg.QENG.PORT ∧
      t = s.dev.rd (Pg.qeng c) Reg.QENG.TRICK ∧
      st = s.dev.flag (Pg.qeng c) Reg.QENG.STAGED ∧
      key = s.dev.bankKey (Bank.port c p) (64 * c.val + p) t st ∧
      ((st = true ∨ s.dev.coreRuns c = false)) ∧
      NoStall s.dev (Pg.qeng c)) ∧
    (∃ (_w : Word) (s : State) (tb t key : Nat) (st : Bool),
      tb = s.dev.rd Pg.host Reg.HOSTPORT.TBL ∧
      tb < 12 ∧
      t = s.dev.rd Pg.host Reg.HOSTPORT.TRICK ∧
      st = s.dev.flag Pg.host Reg.HOSTPORT.STAGED ∧
      key = s.dev.bankKey (Bank.edge tb) tb t st ∧
      ((st = true ∨ s.dev.ownerRuns (s.dev.edgeOwner tb) = false)) ∧
      NoStall s.dev (Pg.host)) ∧
    (∃ (n : Fin 4) (_w : Word) (s : State) (t key : Nat) (st : Bool),
      t = s.dev.rd (Pg.csi n) Reg.INGRESS.TRICK ∧
      st = s.dev.flag (Pg.csi n) Reg.INGRESS.STAGED ∧
      key = s.dev.bankKey (Bank.edge (12 + n)) (12 + n) t st ∧
      ((st = true ∨ s.dev.ownerRuns (s.dev.edgeOwner (12 + n)) = false)) ∧
      NoStall s.dev (Pg.csi n)) ∧
    (∃ (k : Fin 2) (_w : Word) (s : State) (tb t key : Nat) (st : Bool),
      tb = s.dev.rd (Pg.gl k) Reg.GLINK.TBL ∧
      tb < 6 ∧
      t = s.dev.rd (Pg.gl k) Reg.GLINK.TRICK ∧
      st = s.dev.flag (Pg.gl k) Reg.GLINK.STAGED ∧
      key = s.dev.bankKey (Bank.edge (16 + 6 * k + tb)) (16 + 6 * k + tb) t st ∧
      ((st = true ∨ s.dev.ownerRuns (s.dev.edgeOwner (16 + 6 * k + tb)) = false)) ∧
      NoStall s.dev (Pg.gl k)) ∧
    (∃ (_w : Word) (s : State),
      s.dev.rd Pg.host Reg.HOSTPORT.CT_INDEX < 1536 ∧
      NoStall s.dev (Pg.host)) :=
  ⟨⟨3, 0x123, st (up (Upset.tt (ld.bankKey (Bank.port 3 0) 192 255 true)) ((((ld.wr (Pg.xnode 3) Reg.XNODE.TT_TRICK 255).wr (Pg.xnode 3) Reg.XNODE.TT_STAGED 1)).wr (Pg.xnode 3) Reg.XNODE.TT_AUTOINC 1)), 0, 255, ld.bankKey (Bank.port 3 0) 192 255 true, true, by decide +kernel, by decide +kernel, by decide +kernel, by decide +kernel, by decide +kernel, by decide +kernel, by decide +kernel, by decide +kernel⟩,
   ⟨3, st (ld.wr (Pg.xnode 3) Reg.XNODE.TT_TRICK 255), 0, by decide +kernel, by decide +kernel⟩,
   ⟨3, 0x12345, st (((ld.wr (Pg.qeng 3) Reg.QENG.TRICK 255).wr (Pg.qeng 3) Reg.QENG.PORT 5).wr (Pg.qeng 3) Reg.QENG.AUTOINC 1), 5, 255, ld.bankKey (Bank.port 3 5) 197 255 false, false, by decide +kernel, by decide +kernel, by decide +kernel, by decide +kernel, by decide +kernel, by decide +kernel, by decide +kernel⟩,
   ⟨0x12345, st (((d0.wr Pg.host Reg.HOSTPORT.TRICK 255).wr Pg.host Reg.HOSTPORT.TBL 5).wr Pg.host Reg.HOSTPORT.AUTOINC 1), 5, 255, d0.bankKey (Bank.edge 5) 5 255 false, false, by decide +kernel, by decide +kernel, by decide +kernel, by decide +kernel, by decide +kernel, by decide +kernel, by decide +kernel⟩,
   ⟨2, 0x12345, st ((d0.wr (Pg.csi 2) Reg.INGRESS.TRICK 255).wr (Pg.csi 2) Reg.INGRESS.STAGED 1), 255, d0.bankKey (Bank.edge 14) 14 255 true, true, by decide +kernel, by decide +kernel, by decide +kernel, by decide +kernel, by decide +kernel⟩,
   ⟨1, 0x12345, st (((d0.wr (Pg.gl 1) Reg.GLINK.TRICK 255).wr (Pg.gl 1) Reg.GLINK.TBL 4).wr (Pg.gl 1) Reg.GLINK.AUTOINC 1), 4, 255, d0.bankKey (Bank.edge 26) 26 255 false, false, by decide +kernel, by decide +kernel, by decide +kernel, by decide +kernel, by decide +kernel, by decide +kernel, by decide +kernel⟩,
   ⟨0x12345, st (d0.wr Pg.host Reg.HOSTPORT.CT_INDEX 1535), by decide +kernel, by decide +kernel⟩⟩

theorem test_met_TileTablesFollow :
    (∃ (c : Fin 32) (m : Fin 10) (_w : Word) (s : State) (i b : Nat),
      s.dev.fenced c = false ∧
      i = s.dev.rd (Pg.mtile c m) Reg.MTILE.PI_INDEX ∧
      s.dev.unitBank c m (s.dev.flag (Pg.mtile c m) Reg.MTILE.PI_STAGED) = some b ∧
      NoStall s.dev (Pg.mtile c m)) ∧
    (∃ (c : Fin 32) (m : Fin 10) (_w : Word) (s : State) (i x b : Nat),
      s.dev.fenced c = false ∧
      i = s.dev.rd (Pg.mtile c m) Reg.MTILE.DI_INDEX ∧
      x = s.dev.rd (Pg.mtile c m) Reg.MTILE.DI_WORD ∧
      s.dev.unitBank c m (s.dev.flag (Pg.mtile c m) Reg.MTILE.DI_STAGED) = some b ∧
      NoStall s.dev (Pg.mtile c m)) ∧
    (∃ (c : Fin 32) (v : Fin 2) (_w : Word) (s : State) (i b : Nat),
      s.dev.fenced c = false ∧
      i = s.dev.rd (Pg.vtile c v) Reg.VTILE.PI_INDEX ∧
      s.dev.unitBank c (10 + v) (s.dev.flag (Pg.vtile c v) Reg.VTILE.PI_STAGED) = some b ∧
      NoStall s.dev (Pg.vtile c v)) ∧
    (∃ (c : Fin 32) (v : Fin 2) (_w : Word) (s : State) (i x b : Nat),
      s.dev.fenced c = false ∧
      i = s.dev.rd (Pg.vtile c v) Reg.VTILE.DI_INDEX ∧
      x = s.dev.rd (Pg.vtile c v) Reg.VTILE.DI_WORD ∧
      s.dev.unitBank c (10 + v) (s.dev.flag (Pg.vtile c v) Reg.VTILE.DI_STAGED) = some b ∧
      NoStall s.dev (Pg.vtile c v)) ∧
    (∃ (c : Fin 32) (v : Fin 2) (_w : Word) (s : State) (t e b : Nat),
      s.dev.fenced c = false ∧
      t = s.dev.rd (Pg.vtile c v) Reg.VTILE.FT_TABLE ∧
      e = s.dev.rd (Pg.vtile c v) Reg.VTILE.FT_ENTRY ∧
      e < 64 ∧
      s.dev.unitBank c (10 + v) (s.dev.flag (Pg.vtile c v) Reg.VTILE.FT_STAGED) = some b ∧
      NoStall s.dev (Pg.vtile c v)) :=
  ⟨⟨3, 9, 0x12345678, st (((ld.wr (Pg.mtile 3 9) Reg.MTILE.PI_INDEX 255).wr (Pg.mtile 3 9) Reg.MTILE.PI_LO 77).wr (Pg.mtile 3 9) Reg.MTILE.PI_AUTOINC 1), 255, 0, by decide +kernel, by decide +kernel, by decide +kernel, by decide +kernel⟩,
   ⟨3, 9, 0x12345678, st ((((ld.wr (Pg.mtile 3 9) Reg.MTILE.DI_INDEX 15).wr (Pg.mtile 3 9) Reg.MTILE.DI_WORD 1).wr (Pg.mtile 3 9) Reg.MTILE.DI_STAGED 1).wr (Pg.mtile 3 9) Reg.MTILE.DI_AUTOINC 1), 15, 1, 1, by decide +kernel, by decide +kernel, by decide +kernel, by decide +kernel, by decide +kernel⟩,
   ⟨3, 1, 0x12345678, st (((ld.wr (Pg.vtile 3 1) Reg.VTILE.PI_INDEX 511).wr (Pg.vtile 3 1) Reg.VTILE.PI_LO 77).wr (Pg.vtile 3 1) Reg.VTILE.PI_AUTOINC 1), 511, 0, by decide +kernel, by decide +kernel, by decide +kernel, by decide +kernel⟩,
   ⟨3, 1, 0x12345678, st ((((ld.wr (Pg.vtile 3 1) Reg.VTILE.DI_INDEX 15).wr (Pg.vtile 3 1) Reg.VTILE.DI_WORD 1).wr (Pg.vtile 3 1) Reg.VTILE.DI_STAGED 1).wr (Pg.vtile 3 1) Reg.VTILE.DI_AUTOINC 1), 15, 1, 1, by decide +kernel, by decide +kernel, by decide +kernel, by decide +kernel, by decide +kernel⟩,
   ⟨3, 1, 0x12345678, st (((ld.wr (Pg.vtile 3 1) Reg.VTILE.FT_TABLE 7).wr (Pg.vtile 3 1) Reg.VTILE.FT_ENTRY 63).wr (Pg.vtile 3 1) Reg.VTILE.FT_AUTOINC 1), 7, 63, 0, by decide +kernel, by decide +kernel, by decide +kernel, by decide +kernel, by decide +kernel, by decide +kernel⟩⟩

end RegistersTests

/-! ### States that meet the hypotheses of the scoresheet and the journal -/

namespace ScoreTests

/-- A scoresheet of 64 KB at 0x20000 that is ready, and a journal at 0x40000 and 0x80000 that is ready. -/
def sc : Dev :=
  let d := ((d0.wr Pg.score Reg.SCORE.READY 1).wr Pg.score Reg.SCORE.SIZE 65536).wr Pg.journal Reg.JOURNAL.READY 1
  { d with sco := { d.sco with base := 0x20000, jbase := (0x40000, 0x80000) } }
def scQ (l : List RecReq) : Dev := { sc with sco := { sc.sco with queue := l } }
def rec1 : RecReq := d0.mkRec 5 [7, 9]
def scFl : Memory := Memory.writeList [] 0x20000 (rec1.bytes ++ [0, 0, 0, 0]) 0xFF
/-- A signature of the message of CLEAR_SCORESHEET with a head of zeros and no record, and the hash of its key. -/
def clSig : List Byte := beBytes 32 0xe64ab797493953f04212854d71978a390a7e6a303a2202ff69efa777f42cd932 ++ beBytes 32 0xe64ab797493953f04212854d71978a390a7e6a303a2202ff69efa777f42cd932
def clKey : Nat := 0xc85a6b3ea898ef004e7ec9a28b0b2bca6d87553aab990019ac463b156ea36d77
def scOwned (life : Nat) (slot : Bool) : Dev := { ring0 sc (rc 9 [] 0 0 0) with
  plat := { sc.plat with fuse := { sc.plat.fuse with life := life, slot0 := if slot then some (BitVec.ofNat 256 clKey) else none } } }
def clr1 : ClrSt := ⟨0, 1, List.replicate 32 3, 5, 6, 7⟩
def scClr : Dev := { sc with sco := { sc.sco with clr := some clr1 } }
def jr (l : List Nat) : Dev := { sc with sco := { sc.sco with jdue := l } }
def jrC : Dev := jr [] |>.wr Pg.journal Reg.JOURNAL.COMPACTING 1

theorem test_met_WearCountsSeconds : ∃ (_wear : Fin 1001) (s : State),
    s.dev.flag Pg.journal Reg.JOURNAL.READY = true ∧
    s.dev.sco.secAt + usCycles 1000000 ≤ s.dev.cycle ∧
    s.dev.rd Pg.journal Reg.JOURNAL.WEAR < 2 ^ 32 - 1 :=
  ⟨700, st { sc with cycle := 2 ^ 40 }, by decide +kernel, by decide +kernel, by decide +kernel⟩

theorem test_met_ScoresheetFollows :
    (∃ (s : State) (r : RecReq) (rest : List RecReq),
      s.dev.sco.queue = r :: rest ∧
      s.dev.flag Pg.score Reg.SCORE.NOPART = false ∧
      s.dev.flag Pg.score Reg.SCORE.READY = true ∧
      s.dev.sco.clr = none ∧
      s.dev.sco.jdue.contains 0x200 = false ∧
      s.dev.flag Pg.score Reg.SCORE.FULL = false ∧
      s.dev.rd Pg.score Reg.SCORE.WRPTR + r.length ≤ s.dev.rd Pg.score Reg.SCORE.SIZE) ∧
    (∃ (s : State) (r : RecReq) (rest : List RecReq),
      s.dev.sco.queue = r :: rest ∧
      s.dev.flag Pg.score Reg.SCORE.NOPART = false ∧
      s.dev.flag Pg.score Reg.SCORE.READY = true ∧
      s.dev.sco.clr = none ∧
      s.dev.sco.jdue.contains 0x200 = false ∧
      s.dev.rd Pg.score Reg.SCORE.SIZE < s.dev.rd Pg.score Reg.SCORE.WRPTR + r.length) ∧
    (∃ (s : State) (sc : Scan),
      s.dev.flag Pg.score Reg.SCORE.READY = false ∧
      s.dev.flag Pg.journal Reg.JOURNAL.READY = true ∧
      s.dev.flag Pg.score Reg.SCORE.NOPART = false ∧
      Tab.get s.dev.sco.jcopy 0x700 [] = [] ∧
      scanFrom s.flash s.dev.sco.base (s.dev.rd Pg.score Reg.SCORE.SIZE) ⟨0, scoreHead0, 0, []⟩ (s.dev.rd Pg.score Reg.SCORE.SIZE / 4 + 1) = sc ∧
      sc.torn = [] ∧
      sc.pos < 2 ^ 32 ∧
      sc.count < 2 ^ 32) ∧
    (∃ (r : Fin 64) (sig : HostRead) (s : State) (c : RingCmd) (h : Nat),
      s.dev.cmdBegin r 9 = some c ∧
      s.dev.flag Pg.score Reg.SCORE.READY = true ∧
      s.dev.sco.clr = none ∧
      sig.poisoned = false ∧
      64 ≤ sig.data.length ∧
      s.dev.plat.fuse.life = 2 ∧
      s.dev.plat.fuse.slotFused (c.field 24 1) = some h ∧
      ecdsaVerifyHash h (sig.data.take 64) (sha256 (strBytes "THN-3240 CLEAR v1" ++ s.dev.headBytes ++ leBytes 4 (s.dev.rd Pg.score Reg.SCORE.COUNT))) = true ∧
      s.dev.sco.queue = []) ∧
    (∃ (r : Fin 64) (sig : HostRead) (s : State) (c : RingCmd),
      s.dev.cmdBegin r 9 = some c ∧
      s.dev.flag Pg.score Reg.SCORE.READY = true ∧
      s.dev.sco.clr = none ∧
      sig.poisoned = false ∧
      64 ≤ sig.data.length ∧
      s.dev.plat.fuse.life ≠ 2) ∧
    (∃ (r : Fin 64) (sig : HostRead) (s : State) (c : RingCmd),
      s.dev.cmdBegin r 9 = some c ∧
      s.dev.flag Pg.score Reg.SCORE.READY = true ∧
      s.dev.sco.clr = none ∧
      sig.poisoned = false ∧
      64 ≤ sig.data.length ∧
      s.dev.plat.fuse.life = 2 ∧
      s.dev.plat.fuse.slotFused (c.field 24 1) = none) ∧
    (∃ (s : State) (c : ClrSt) (q : RecReq),
      s.dev.sco.clr = some c ∧
      s.dev.sco.jdue.contains 0x700 = false ∧
      q = s.dev.mkRec 0x0A (digestWords c.head ++ [c.count, c.dropFull, c.dropBusy, c.slot]) ∧
      q.length ≤ s.dev.rd Pg.score Reg.SCORE.SIZE) :=
  ⟨⟨st (scQ [rec1, d0.mkRec 6 []]), rec1, [d0.mkRec 6 []], by decide +kernel, by decide +kernel, by decide +kernel, by decide +kernel, by decide +kernel, by decide +kernel, by decide +kernel⟩,
   ⟨st ((scQ [rec1]).wr Pg.score Reg.SCORE.WRPTR 65530), rec1, [], by decide +kernel, by decide +kernel, by decide +kernel, by decide +kernel, by decide +kernel, by decide +kernel⟩,
   ⟨stf (sc.wr Pg.score Reg.SCORE.READY 0) scFl, _, by decide +kernel, by decide +kernel, by decide +kernel, by decide +kernel, rfl, by decide +kernel, by decide +kernel, by decide +kernel⟩,
   ⟨0, ⟨clSig, false⟩, st (scOwned 2 true), rc 9 [] 0 0 0, clKey, by decide +kernel, by decide +kernel, by decide +kernel, by decide +kernel, by decide +kernel, by decide +kernel, by decide +kernel, by decide +kernel, by decide +kernel⟩,
   ⟨0, ⟨clSig, false⟩, st (scOwned 1 true), rc 9 [] 0 0 0, by decide +kernel, by decide +kernel, by decide +kernel, by decide +kernel, by decide +kernel, by decide +kernel⟩,
   ⟨0, ⟨clSig, false⟩, st (scOwned 2 false), rc 9 [] 0 0 0, by decide +kernel, by decide +kernel, by decide +kernel, by decide +kernel, by decide +kernel, by decide +kernel, by decide +kernel⟩,
   ⟨stf scClr scFl, clr1, scClr.mkRec 0x0A (digestWords clr1.head ++ [clr1.count, clr1.dropFull, clr1.dropBusy, clr1.slot]), by decide +kernel, by decide +kernel, by decide +kernel, by decide +kernel⟩⟩

theorem test_met_JournalProceeds :
    (∃ (s : State) (k p : Nat) (rest : List Nat),
      s.dev.sco.jdue = k :: rest ∧
      s.dev.flag Pg.journal Reg.JOURNAL.READY = true ∧
      s.dev.flag Pg.journal Reg.JOURNAL.JSTOP = false ∧
      s.dev.flag Pg.journal Reg.JOURNAL.COMPACTING = false ∧
      Tab.get s.dev.sco.jcopy k [] ≠ s.dev.jval k ∧
      p = s.dev.rd Pg.journal Reg.JOURNAL.WRPTR ∧
      p + (jRecord k (s.dev.jval k)).length ≤ 196608) ∧
    (∃ (s : State) (k : Nat) (rest : List Nat) (_fails : Bool),
      s.dev.sco.jdue = k :: rest ∧
      s.dev.flag Pg.journal Reg.JOURNAL.READY = true ∧
      s.dev.flag Pg.journal Reg.JOURNAL.JSTOP = false ∧
      s.dev.flag Pg.journal Reg.JOURNAL.COMPACTING = false ∧
      Tab.get s.dev.sco.jcopy k [] = s.dev.jval k) ∧
    (∃ (s : State) (k : Nat) (rest : List Nat) (_fails : Bool),
      s.dev.sco.jdue = k :: rest ∧
      s.dev.flag Pg.journal Reg.JOURNAL.READY = true ∧
      s.dev.flag Pg.journal Reg.JOURNAL.JSTOP = false ∧
      s.dev.flag Pg.journal Reg.JOURNAL.COMPACTING = false ∧
      Tab.get s.dev.sco.jcopy k [] ≠ s.dev.jval k ∧
      196608 < s.dev.rd Pg.journal Reg.JOURNAL.WRPTR + (jRecord k (s.dev.jval k)).length) ∧
    (∃ (s : State) (p seq : Nat),
      s.dev.flag Pg.journal Reg.JOURNAL.COMPACTING = true ∧
      s.dev.flag Pg.journal Reg.JOURNAL.JSTOP = false ∧
      p = s.dev.rd Pg.journal Reg.JOURNAL.PART ∧
      seq = (s.dev.rd Pg.journal Reg.JOURNAL.SEQ + 1) % 2 ^ 32) ∧
    (∃ (s : State),
      s.dev.flag Pg.journal Reg.JOURNAL.COMPACTING = true ∧
      s.dev.flag Pg.journal Reg.JOURNAL.JSTOP = false) ∧
    (∃ (s : State),
      s.dev.rd Pg.journal Reg.JOURNAL.OPSEC_J + 60 ≤ s.dev.rd Pg.score Reg.SCORE.OPSEC) ∧
    (∃ (s : State),
      s.dev.rd Pg.score Reg.SCORE.OPSEC < s.dev.rd Pg.journal Reg.JOURNAL.OPSEC_J + 60) :=
  ⟨⟨st (jr [0x801, 5]), 0x801, 0, [5], by decide +kernel, by decide +kernel, by decide +kernel, by decide +kernel, by decide +kernel, by decide +kernel, by decide +kernel⟩,
   ⟨st { jr [0x801, 5] with sco := { (jr [0x801, 5]).sco with jcopy := [(0x801, [0])] } }, 0x801, [5], true, by decide +kernel, by decide +kernel, by decide +kernel, by decide +kernel, by decide +kernel⟩,
   ⟨st ((jr [0x801, 5]).wr Pg.journal Reg.JOURNAL.WRPTR 196600), 0x801, [5], false, by decide +kernel, by decide +kernel, by decide +kernel, by decide +kernel, by decide +kernel, by decide +kernel⟩,
   ⟨st jrC, 0, 1, by decide +kernel, by decide +kernel, by decide +kernel, by decide +kernel⟩,
   ⟨st jrC, by decide +kernel, by decide +kernel⟩,
   ⟨st (sc.wr Pg.score Reg.SCORE.OPSEC 60), by decide +kernel⟩,
   ⟨st (sc.wr Pg.score Reg.SCORE.OPSEC 59), by decide +kernel⟩⟩

end ScoreTests

end Sys2Proof.Tests
end

section
/-!
PROOFS of 00_scope.md: what an idle step does (R7), and what the fault commands do (R9, R317, R318, R321, R326, R329).
-/

namespace Sys2Proof.Machine

/-! ### Steps -/

theorem step_of_pending_nil {s : State} (h : s.pending = []) : step s = .next s.idle := by
  rw [step, h]

@[simp] theorem Dev.tick_cycle (d : Dev) : d.tick.cycle = d.cycle + 1 := rfl

/-! ### Registers beside the fault state -/

@[simp] theorem Dev.rd_with_flt (d : Dev) (x : Flt) (base : Nat) (F : Fld) (i : Nat) :
    ({ d with flt := x } : Dev).rd base F i = d.rd base F i := rfl

@[simp] theorem Dev.flag_with_flt (d : Dev) (x : Flt) (base : Nat) (F : Fld) (i : Nat) :
    ({ d with flt := x } : Dev).flag base F i = d.flag base F i := rfl

theorem Dev.flag_wr_one (d : Dev) (base : Nat) {F : Fld} (hF : F.lo + F.w ≤ 32) (hw : 0 < F.w) :
    (d.wr base F 1).flag base F = true := by
  have hlt : 1 < 2 ^ F.w := Nat.one_lt_two_pow hw.ne'
  simp [Dev.flag, Dev.rd_wr_same d base F 1 0 hF, Nat.mod_eq_of_lt hlt]

/-- From `d` to `e` only registers and the fault state changed. -/
def Dev.FaultFrame (d e : Dev) : Prop := e = { d with regs := e.regs, flt := e.flt }

theorem Dev.FaultFrame.trans {d e f : Dev} (h : d.FaultFrame e) (h' : e.FaultFrame f) : d.FaultFrame f := by
  unfold Dev.FaultFrame at *
  exact h'.trans (by rw [h])

theorem Dev.withFlt_frame (d : Dev) (x : Flt) : d.FaultFrame { d with flt := x } := rfl
theorem Dev.wr_frame (d : Dev) (base : Nat) (F : Fld) (v i : Nat) : d.FaultFrame (d.wr base F v i) := rfl
theorem Dev.hit_frame (d : Dev) (base : Nat) (F : Fld) (v i : Nat) : d.FaultFrame (d.hit base F v i) := rfl

/-! ### Bits that hardware sets (R9) -/

/-- The bank of event bits lies above the word itself, so a hit leaves the word with the bits of `v` set. -/
theorem Dev.word_hit_same (d : Dev) (base : Nat) (F : Fld) (v i : Nat) :
    (d.hit base F v i).word (base + F.off + F.stride * i) =
      (d.word (base + F.off + F.stride * i) ||| v <<< F.lo) % 2 ^ 32 := by
  have hkey : ∀ a, a / 4 ≠ eventKey a := fun a => by unfold eventKey; omega
  rw [← BitVec.toNat_ofNat]
  simp only [Dev.hit, Dev.word, Dev.setWord, Tab.get_set_other _ _ _ _ (hkey _), Tab.get_set_same]

theorem Dev.bitAt_rd_hit (d : Dev) (base : Nat) (F : Fld) (v i : Nat) {j : Nat} (hF : F.lo + F.w ≤ 32) (hj : j < F.w) :
    bitAt ((d.hit base F v i).rd base F i) j = (bitAt (d.rd base F i) j || bitAt v j) := by
  have hlo : F.lo + j < 32 := by omega
  simp only [bitAt, Dev.rd, Dev.word_hit_same, testBit_bitsOf, Nat.testBit_mod_two_pow, Nat.testBit_or, Nat.testBit_shiftLeft]
  simp [hj, hlo]

/-! ### Capture and raising of causes (R308, R320) -/

/-- A capture writes the page's word at 0x20 only. -/
theorem Dev.rd_capture_other (d : Dev) {base : Nat} (bit : Nat) {base' : Nat} {G : Fld} {j : Nat}
    (h : (base' + G.off + G.stride * j) / 4 ≠ (base + 0x20) / 4) : (d.capture base bit).rd base' G j = d.rd base' G j := by
  unfold Dev.capture
  split
  · rw [Dev.bump, Dev.rd_wr_other _ _ (by simpa [Reg.HDR.OVF_COUNT] using h),
      Dev.rd_wr_other _ _ (by simpa [Reg.HDR.OVF] using h)]
  · rw [Dev.rd_with_flt, Dev.rd_wr_other _ _ (by simpa [Reg.HDR.CAUSE] using h)]

theorem Dev.occs_capture (d : Dev) (base bit : Nat) : (d.capture base bit).flt.occs = d.flt.occs := by
  unfold Dev.capture
  split <;> rfl

theorem Dev.capture_frame (d : Dev) (base bit : Nat) : d.FaultFrame (d.capture base bit) := by
  unfold Dev.capture
  split
  · exact (d.wr_frame _ _ _ _).trans ((d.wr base Reg.HDR.OVF 1).wr_frame _ _ _ _)
  · exact (d.wr_frame _ _ _ _).trans (Dev.withFlt_frame _ _)

theorem Dev.raiseFull_frame (d : Dev) (base bit : Nat) (attr : Attr) (inj : Bool) :
    d.FaultFrame (d.raiseFull base bit attr inj) := by
  have hhit := d.hit_frame base Reg.HDR.FLT_STAT (2 ^ bit) 0
  unfold Dev.raiseFull
  dsimp only
  split
  · exact hhit
  · exact (hhit.trans (Dev.capture_frame _ _ _)).trans (Dev.withFlt_frame _ _)

/-- Raising a cause, masked or not, sets its FLT_STAT bit. -/
theorem Dev.fltStat_raiseFull (d : Dev) (base : Nat) {bit : Nat} (attr : Attr) (inj : Bool) (hbit : bit < 16) :
    bitAt ((d.raiseFull base bit attr inj).rd base Reg.HDR.FLT_STAT) bit = true := by
  have hhit : bitAt ((d.hit base Reg.HDR.FLT_STAT (2 ^ bit)).rd base Reg.HDR.FLT_STAT) bit = true := by
    rw [Dev.bitAt_rd_hit d base _ _ 0 (by decide) hbit]
    simp [bitAt]
  unfold Dev.raiseFull
  dsimp only
  split
  · exact hhit
  · rwa [Dev.rd_with_flt, Dev.rd_capture_other _ _ (by simp [Reg.HDR.FLT_STAT]; omega)]

/-- An unmasked cause queues one occurrence for its resolver, behind those that wait. -/
theorem Dev.occs_raiseFull (d : Dev) {base bit : Nat} (attr : Attr) (inj : Bool)
    (hmask : bitAt (d.rd base Reg.HDR.FLT_MASK) bit = false) :
    ∃ o : Occ, (d.raiseFull base bit attr inj).flt.occs = d.flt.occs ++ [o] ∧ o.page = base / 4096 ∧ o.bit = bit ∧
      o.attr = attr ∧ o.time = d.fs ∧ o.injected = inj := by
  simp [Dev.raiseFull, hmask, Dev.occs_capture, Dev.fs]

/-! ### FENCE_NOW (R326) and FIRST_CLEAR (R321) -/

theorem Dev.fenceNow_frame (d : Dev) (c : Nat) : d.FaultFrame (d.fenceNow c) :=
  (d.wr_frame _ _ _ _).trans (Dev.raiseFull_frame _ _ _ _ _)

/-- Core pages lie above the FAULT page, whose FENCE_CORE a FENCE_NOW writes. -/
theorem Dev.fltMask_corectl_wr_fenceCore (d : Dev) (c v : Nat) :
    (d.wr Pg.fault Reg.FAULT.FENCE_CORE v).rd (Pg.corectl c) Reg.HDR.FLT_MASK = d.rd (Pg.corectl c) Reg.HDR.FLT_MASK :=
  Dev.rd_wr_other d v (by simp [Pg.corectl, Pg.core, Pg.fault, Reg.HDR.FLT_MASK, Reg.FAULT.FENCE_CORE]; omega)

theorem Dev.firstClear_frame (d : Dev) : d.firstClear = { d with regs := d.firstClear.regs } := by
  unfold Dev.firstClear
  split <;> simp only [Dev.wr, Dev.setWord]

theorem Dev.firstClear_of_event {d : Dev} (h : bitAt (d.events (Pg.fault + 0x40)) 31 = true) : d.firstClear = d := by
  simp [Dev.firstClear, h]

theorem Dev.firstClear_of_no_event {d : Dev} (h : bitAt (d.events (Pg.fault + 0x40)) 31 = false) :
    d.firstClear = ((d.wr Pg.fault Reg.FAULT.OVF 0).wr Pg.fault Reg.FAULT.OVF_CNT 0).setWord (Pg.fault + 0x40) 0 := by
  simp [Dev.firstClear, h]

/-! ### Injection (R329) -/

/-- On a page below the cores an injected cause is attributed to none (DEDUCED, log 37). -/
theorem Dev.injGo_of_chip_page {d : Dev} (ht : d.testMode = true) (hp : d.rd Pg.fault Reg.FAULT.INJ_PAGE < 0x100) :
    d.injGo = d.raiseFull (d.rd Pg.fault Reg.FAULT.INJ_PAGE * 4096) (d.rd Pg.fault Reg.FAULT.INJ_BIT) .none_ true := by
  have hcore : ¬ 0x100 ≤ d.rd Pg.fault Reg.FAULT.INJ_PAGE := by omega
  simp [Dev.injGo, ht, hcore]

theorem Dev.arm_frame (d : Dev) : d.FaultFrame d.arm := by
  unfold Dev.arm
  split
  · rfl
  · exact (d.wr_frame _ _ _ _).trans (Dev.withFlt_frame _ _)

/-- With TWO clear, ARM holds the corruption of the one symbol SYM_A. -/
theorem Dev.arm_of_one_symbol {d : Dev} (ht : d.testMode = true) (h2 : d.rd Pg.fault Reg.FAULT.TWO = 0) :
    d.arm = { d.wr Pg.fault Reg.FAULT.ARM 1 with flt := { (d.wr Pg.fault Reg.FAULT.ARM 1).flt with
      armed := some (d.rd Pg.fault Reg.FAULT.ECC_KIND, d.rd Pg.fault Reg.FAULT.INJ_PAGE,
        d.rd Pg.fault Reg.FAULT.XORVAL <<< (4 * d.rd Pg.fault Reg.FAULT.SYM_A)) } } := by
  have hxor : ∀ x : Nat, Nat.xor x 0 = x := Nat.xor_zero
  simp only [Dev.arm, ht, h2, hxor, Bool.not_true, Bool.false_eq_true, if_false, zero_ne_one]

/-- What is done for each set bit of a one-bit mask is done once, for that bit. -/
theorem Dev.each_bit_of_two_pow (d : Dev) (f : Dev → Nat → Dev) (i n : Nat) :
    d.each (List.range n) (fun d j => if bitAt (2 ^ i) j then f d j else d) = if i < n then f d i else d := by
  induction n with
  | zero => rfl
  | succ n ih =>
    rw [Dev.each] at ih ⊢
    rw [List.range_succ, List.foldl_append, ih]
    by_cases h : i = n
    · simp [h, bitAt]
    · have hlt : i < n + 1 ↔ i < n := by omega
      simp [h, hlt, bitAt]

theorem Dev.injPriv_one_bit {d : Dev} (ht : d.testMode = true) {i : Nat} (hi : i < 8) :
    d.injPriv (2 ^ i) = d.privOccurs i Pg.fault true := by
  have hone := Dev.each_bit_of_two_pow d (fun d j => d.privOccurs j Pg.fault true) i 8
  simpa only [Dev.injPriv, ht, hi, if_true, Bool.not_true, Bool.false_eq_true, if_false] using hone

end Sys2Proof.Machine

namespace Sys2Proof

open Machine

/-- Settles O2: the idle step is `Dev.tick`, and a tick counts one cycle. -/
theorem idleStepIsOneCycle : Obligations.IdleStepIsOneCycle := fun s h =>
  ⟨s.dev.tick, step_of_pending_nil h, rfl, s.dev.tick_cycle⟩

/-! ### The clauses of O27 -/

theorem fenceNow_raises_hostFence (c : Fin 32) (s : State)
    (hmask : bitAt (s.dev.rd (Pg.corectl c) Reg.HDR.FLT_MASK) 2 = false) :
    GivesDev (.fenceNow c) s (fun d => d = { s.dev with regs := d.regs, flt := d.flt } ∧
      bitAt (d.rd (Pg.corectl c) Reg.HDR.FLT_STAT) 2 = true ∧
      ∃ o : Occ, d.flt.occs = s.dev.flt.occs ++ [o] ∧ o.page = Pg.corectl c / 4096 ∧ o.bit = 2 ∧ o.attr = .core c ∧
        o.time = s.dev.fs ∧ o.injected = false) := by
  have hmask' : bitAt ((s.dev.wr Pg.fault Reg.FAULT.FENCE_CORE 0).rd (Pg.corectl c) Reg.HDR.FLT_MASK) 2 = false := by
    rwa [Dev.fltMask_corectl_wr_fenceCore]
  exact ⟨s.dev.fenceNow c, rfl, Dev.fenceNow_frame _ _, Dev.fltStat_raiseFull _ _ _ _ (by decide),
    Dev.occs_raiseFull _ _ _ hmask'⟩

theorem privLock_sets_lock (s : State) :
    GivesDev .privLock s (fun d => d = { s.dev with regs := d.regs } ∧ d.flag Pg.fault Reg.FAULT.PRIV_LOCK = true) :=
  ⟨s.dev.privLock, rfl, rfl, Dev.flag_wr_one _ _ (by decide) (by decide)⟩

theorem firstClear_clears (s : State) (h : bitAt (s.dev.events (Pg.fault + 0x40)) 31 = false) :
    GivesDev .firstClear s (fun d => d = { s.dev with regs := d.regs } ∧ d.flag Pg.fault Reg.FAULT.FIRST_VALID = false ∧
      d.word (Pg.fault + 0x40) = 0 ∧ d.rd Pg.fault Reg.FAULT.OVF = 0 ∧ d.rd Pg.fault Reg.FAULT.OVF_CNT = 0) := by
  refine ⟨s.dev.firstClear, rfl, s.dev.firstClear_frame, ?_⟩
  rw [Dev.firstClear_of_no_event h]
  refine ⟨?_, ?_, ?_, ?_⟩
  · simp [Dev.flag, Dev.rd, Reg.FAULT.FIRST_VALID, bitsOf]
  · rw [Dev.word_setWord_same, Nat.zero_mod]
  · rw [Dev.rd_setWord_other _ _ (by decide), Dev.rd_wr_disjoint _ _ (by decide) (by decide) (by decide),
      Dev.rd_wr_same _ _ _ _ _ (by decide), Nat.zero_mod]
  · rw [Dev.rd_setWord_other _ _ (by decide), Dev.rd_wr_same _ _ _ _ _ (by decide), Nat.zero_mod]

theorem arm_holds_corruption (s : State) (ht : s.dev.testMode = true) (h2 : s.dev.rd Pg.fault Reg.FAULT.TWO = 0) :
    GivesDev .arm s (fun d => d = { s.dev with regs := d.regs, flt := d.flt } ∧ d.flag Pg.fault Reg.FAULT.ARM = true ∧
      d.flt.armed = some (s.dev.rd Pg.fault Reg.FAULT.ECC_KIND, s.dev.rd Pg.fault Reg.FAULT.INJ_PAGE,
        s.dev.rd Pg.fault Reg.FAULT.XORVAL <<< (4 * s.dev.rd Pg.fault Reg.FAULT.SYM_A))) := by
  refine ⟨s.dev.arm, rfl, s.dev.arm_frame, ?_⟩
  rw [Dev.arm_of_one_symbol ht h2, Dev.flag_with_flt]
  exact ⟨Dev.flag_wr_one _ _ (by decide) (by decide), rfl⟩

theorem injPriv_raises_source (i : Fin 8) (s : State) (ht : s.dev.testMode = true) :
    GivesDev (.injPriv (BitVec.ofNat 8 (2 ^ i.val))) s (fun d => d = s.dev.privOccurs i Pg.fault true) := by
  have hmask : (BitVec.ofNat 8 (2 ^ i.val)).toNat = 2 ^ i.val :=
    (BitVec.toNat_ofNat _ _).trans (Nat.mod_eq_of_lt (Nat.pow_lt_pow_right (by decide) i.isLt))
  refine ⟨s.dev.injPriv (BitVec.ofNat 8 (2 ^ i.val)).toNat, rfl, ?_⟩
  rw [hmask, Dev.injPriv_one_bit ht i.isLt]

/-- Settles O27, clause by clause; LOCKSTEP is `Dev.privOccurs` of source 3 by definition. -/
theorem faultCommandsAct : Obligations.FaultCommandsAct :=
  ⟨fenceNow_raises_hostFence, privLock_sets_lock, firstClear_clears,
    fun s h => ⟨s.dev.firstClear, rfl, Dev.firstClear_of_event h⟩,
    fun s => ⟨s.dev.lockstep, rfl, rfl⟩,
    fun s ht hp => ⟨s.dev.injGo, rfl, Dev.injGo_of_chip_page ht hp⟩,
    arm_holds_corruption, injPriv_raises_source⟩

end Sys2Proof
end

section
/-!
PROOFS of 01_architecture.md: how the BAR4 aperture acts (R29, R253, R258, R260, R360).
-/

namespace Sys2Proof.Machine

/-! ### Bytes in memory -/

theorem leBytes_leNat : ∀ bs : List Byte, leBytes bs.length (leNat bs) = bs
  | [] => rfl
  | b :: r => by
    have hlow : BitVec.ofNat 8 (b.toNat + 256 * leNat r) = b := BitVec.eq_of_toNat_eq (by simp; omega)
    have hrest : (b.toNat + 256 * leNat r) / 256 = leNat r := by omega
    simp only [List.length_cons, leBytes, leNat, hlow, hrest, leBytes_leNat r]

theorem Memory.readList_eq_map (m : Memory) (d : Byte) : ∀ n a : Nat,
    Memory.readList m a n d = (List.range n).map (fun k => Memory.read m (a + k) d)
  | 0, _ => rfl
  | n + 1, a => by
    simp [Memory.readList, Memory.readList_eq_map m d n (a + 1), List.range_succ_eq_map, Nat.add_assoc, Nat.add_comm 1]

theorem Memory.readList_append (m : Memory) (d : Byte) (n' : Nat) : ∀ n a : Nat,
    Memory.readList m a n d ++ Memory.readList m (a + n) n' d = Memory.readList m a (n + n') d
  | 0, _ => by rw [Nat.zero_add]; rfl
  | n + 1, a => by
    rw [show a + (n + 1) = a + 1 + n by omega, show n + 1 + n' = n + n' + 1 by omega]
    simp only [Memory.readList, List.cons_append, Memory.readList_append m d n' n (a + 1)]

theorem Memory.take_drop_readList (m : Memory) (d : Byte) {a k len n : Nat} (h : k + len ≤ n) :
    ((Memory.readList m a n d).drop k).take len = Memory.readList m (a + k) len d := by
  simp only [Memory.readList_eq_map]
  exact List.ext_getElem (by simp; omega) (fun i _ _ => by simp [Nat.add_assoc])

/-! ### Reads of DDR5 without errors (R260, R267) -/

section
variable {d : Dev} (hclean : ∀ b, Tab.get d.mem.derr b 0 = 0)
include hclean

theorem Dev.ddrBeat_of_clean (b : Nat) (attr : Attr) : d.ddrBeat b attr = (d.ddrRaw b, false, d) := by
  have hdec : beatDecode 0 = (.clean, 0) := by decide
  simp only [Dev.ddrBeat, hclean, hdec]
  rw [show Nat.xor (d.ddrRaw b) 0 = d.ddrRaw b from Nat.xor_zero _]

theorem Dev.ddrBeats_of_clean (attr : Attr) : ∀ n b : Nat,
    d.ddrBeats b n attr = (Memory.readList d.mem.ddr (4 * b) (4 * n) 0, List.replicate (4 * n) false, d)
  | 0, _ => rfl
  | n + 1, b => by
    have hbeat : leBytes 4 (d.ddrRaw b) = Memory.readList d.mem.ddr (4 * b) 4 0 :=
      leBytes_leNat (Memory.readList d.mem.ddr (4 * b) 4 0)
    simp only [Dev.ddrBeats, Dev.ddrBeat_of_clean hclean, Dev.ddrBeats_of_clean attr n (b + 1), hbeat, Nat.mul_succ,
      Memory.readList_append, List.replicate_append_replicate, Nat.add_comm (4 * n) 4]

/-- The bytes of a read are those of its addresses, wherever it begins in a beat. -/
theorem Dev.ddrRead_of_clean (pa len : Nat) (attr : Attr) :
    d.ddrRead pa len attr = ((List.range len).map (fun k => Memory.read d.mem.ddr (pa + k) 0), List.replicate len false, d) := by
  have hspan : pa % 4 + len ≤ 4 * ((pa + len + 3) / 4 - pa / 4) := by omega
  have hlen : min len (4 * ((pa + len + 3) / 4 - pa / 4) - pa % 4) = len := by omega
  simp only [Dev.ddrRead, Dev.ddrBeats_of_clean hclean, Memory.take_drop_readList _ _ hspan, Nat.div_add_mod,
    List.drop_replicate, List.take_replicate, hlen]
  rw [Memory.readList_eq_map]

end

/-! ### MEM_ACCESS of a read (R260, R261) -/

/-- The request as a port leaves it that read memory `m` without an error. -/
def MemReq.served (m : Memory) (r : MemReq) : MemReq :=
  { r with done := true, rdata := (List.range r.len).map (fun k => Memory.read m (r.pa + k) 0), rpoison := List.replicate r.len false }

/-- The device after a port performed the read `r` without an error: what else changes is the use of slots. -/
def Dev.Served (d : Dev) (r : MemReq) (e : Dev) : Prop :=
  ∃ used slots deal, e = { d with mem := { d.mem with
    used := used, slots := slots, deal := deal, reqs := d.mem.reqs.map (fun x => if x = r then x.served d.mem.ddr else x) } }

theorem Dev.reqAt_of_served {d e : Dev} {p tag : Nat} {r : MemReq} (hreq : d.reqAt p tag = some r) (he : d.Served r e) :
    e.reqAt p tag = some (r.served d.mem.ddr) := by
  obtain ⟨_, _, _, rfl⟩ := he
  have hkey : (fun x : MemReq => x.port == p && x.tag == tag) ∘ (fun x => if x = r then x.served d.mem.ddr else x) =
      fun x => x.port == p && x.tag == tag := by
    funext x
    by_cases hx : x = r <;> simp [hx, MemReq.served]
  rw [Dev.reqAt] at hreq
  rw [Dev.reqAt, List.find?_map, hkey, hreq]
  simp

theorem Dev.Served.ddr_eq {d e : Dev} {r : MemReq} (he : d.Served r e) : e.mem.ddr = d.mem.ddr := by
  obtain ⟨_, _, _, rfl⟩ := he
  rfl

/-- A read that may take the slot is performed in it. -/
theorem Dev.memAccess_read {d : Dev} {p tag : Nat} {r : MemReq} (hreq : d.reqAt p tag = some r) (hdone : r.done = false)
    (hwrite : r.write = false) (hused : d.mem.used.contains (16 + p) = false) (hmay : d.mayAccess r = true)
    (hord : d.ordered r = true) (hq : d.flag (Pg.memport p) Reg.HDR.QUIESCE = false)
    (hclean : ∀ b, Tab.get d.mem.derr b 0 = 0) : d.Served r (d.memAccess p tag) := by
  have hstart : (r.done || d.mem.used.contains (16 + p) || !d.mayAccess r || !d.ordered r ||
      d.flag (Pg.memport p) Reg.HDR.QUIESCE) = false := by
    simp only [hdone, hused, hmay, hord, hq]; rfl
  have hserved : (fun x : MemReq => if x = r then { x with
      done := true, rdata := (List.range r.len).map (fun k => Memory.read d.mem.ddr (r.pa + k) 0)
      rpoison := List.replicate r.len false } else x) = fun x => if x = r then x.served d.mem.ddr else x := by
    funext x
    by_cases hx : x = r <;> simp [hx, MemReq.served]
  simp only [Dev.memAccess, hreq, hstart, hwrite, Bool.false_eq_true, if_false]
  rw [Dev.ddrRead_of_clean (by exact hclean)]
  exact ⟨_, _, _, by rw [← hserved]⟩

theorem exec_memAccess_of_installed {s : State} {p : Fin 4} {tag : Fin 256} {r : MemReq} (hreq : s.dev.reqAt p tag = some r)
    (hpa : r.pa + r.len ≤ s.dev.ddrCap) : exec (.memAccess p tag) s = .next { s with dev := s.dev.portAccess p tag } := by
  have hmissing : s.dev.memMissing p tag = none := by simp [Dev.memMissing, hreq, Nat.not_lt.mpr hpa]
  rw [show exec (.memAccess p tag) s = execMemAccess p tag s from rfl, execMemAccess, hmissing]

/-! ### What sending a packet leaves unchanged (R87, R90, R91) -/

/-- From `d` to `e` only registers, the fault state and the fabric changed. -/
def Dev.PacketFrame (d e : Dev) : Prop := e = { d with regs := e.regs, flt := e.flt, fab := e.fab }

theorem Dev.PacketFrame.trans {d e f : Dev} (h : d.PacketFrame e) (h' : e.PacketFrame f) : d.PacketFrame f := by
  unfold Dev.PacketFrame at *
  exact h'.trans (by rw [h])

theorem Dev.PacketFrame.mem_eq {d e : Dev} (h : d.PacketFrame e) : e.mem = d.mem := by
  unfold Dev.PacketFrame at h
  rw [h]

theorem Dev.PacketFrame.hp_eq {d e : Dev} (h : d.PacketFrame e) : e.hp = d.hp := by
  unfold Dev.PacketFrame at h
  rw [h]

theorem Dev.PacketFrame.out_eq {d e : Dev} (h : d.PacketFrame e) : e.out = d.out := by
  unfold Dev.PacketFrame at h
  rw [h]

theorem Dev.FaultFrame.packetFrame {d e : Dev} (h : d.FaultFrame e) : d.PacketFrame e := by
  unfold Dev.FaultFrame at h
  rw [h]
  rfl

theorem Dev.withFab_packetFrame (d : Dev) (x : Fab) : d.PacketFrame { d with fab := x } := rfl

theorem Dev.nextTxid_packetFrame {d e : Dev} {code tx : Nat} (h : d.nextTxid code = (tx, e)) : d.PacketFrame e := by
  cases h
  rfl

theorem Dev.launch_packetFrame (d : Dev) (src : Nat) (way : Option Nat) (p : Parked) : d.PacketFrame (d.launch src way p) := rfl

theorem Dev.pickWay_packetFrame {d e : Dev} {src dest : Nat} {dom : Option Nat} {way : Option (Option Nat)}
    (h : d.pickWay src dest dom = (way, e)) : d.PacketFrame e := by
  unfold Dev.pickWay at h
  split at h
  · cases h
    rfl
  · cases h
    exact (Dev.raiseFull_frame _ _ _ _ _).packetFrame

theorem Dev.sendPacket_packetFrame {d e : Dev} {src dest kind target addr txid cls : Nat} {payload : List Item} {dom : Option Nat}
    {psum : Bool} {own : Nat} {ok : Bool} (h : d.sendPacket src dest kind target addr txid cls payload dom psum own = (ok, e)) :
    d.PacketFrame e := by
  unfold Dev.sendPacket at h
  dsimp only at h
  split at h
  · cases h
    exact d.withFab_packetFrame _
  · split at h
    next hpick =>
      cases h
      exact Dev.pickWay_packetFrame hpick
    next hpick =>
      cases h
      split
      · exact (Dev.pickWay_packetFrame hpick).trans (Dev.withFab_packetFrame _ _)
      · exact (Dev.pickWay_packetFrame hpick).trans (Dev.launch_packetFrame _ _ _ _)

theorem Dev.owedDone_packetFrame (d : Dev) (src dest : Nat) : d.PacketFrame (d.owedDone src dest) := by
  unfold Dev.owedDone
  dsimp only
  split
  · refine List.foldlRecOn _ _ ((d.withFab_packetFrame _).trans (Dev.withFab_packetFrame _ _)) (fun e he p _ => ?_)
    split
    next hpick => exact he.trans (Dev.pickWay_packetFrame hpick)
    next hpick => exact (he.trans (Dev.pickWay_packetFrame hpick)).trans (Dev.launch_packetFrame _ _ _ _)
  · exact d.withFab_packetFrame _

/-! ### What does not depend on the aperture queue

The last free tag of a port goes by turn between class C and class B (log 152), so that `Dev.aperRoom` asks whether a stream of class B is
ready. An access that enters the queue does not change the answer. -/

section
variable (d : Dev) (l : List AperReq)

@[simp] theorem Dev.setAper_aper : (d.setAper l).hp.aper = l := rfl
theorem Dev.setAper_setAper (l' : List AperReq) : (d.setAper l).setAper l' = d.setAper l' := rfl
@[simp] theorem Dev.setAper_sd (f s : Nat) : (d.setAper l).sd f s = d.sd f s := rfl
@[simp] theorem Dev.setAper_stGet (f s : Nat) : (d.setAper l).stGet f s = d.stGet f s := rfl
@[simp] theorem Dev.setAper_stState (f s : Nat) : (d.setAper l).stState f s = d.stState f s := rfl
@[simp] theorem Dev.setAper_stLive (f s : Nat) : (d.setAper l).stLive f s = d.stLive f s := rfl
@[simp] theorem Dev.setAper_needBytes (f s i : Nat) : (d.setAper l).needBytes f s i = d.needBytes f s i := rfl
@[simp] theorem Dev.setAper_itemRoom (f s n : Nat) : (d.setAper l).itemRoom f s n = d.itemRoom f s n := rfl
@[simp] theorem Dev.setAper_ddrPort (pa : Nat) : (d.setAper l).ddrPort pa = d.ddrPort pa := rfl
@[simp] theorem Dev.setAper_paPort (pa : Nat) : (d.setAper l).paPort pa = d.paPort pa := rfl
@[simp] theorem Dev.setAper_tagsFree (p : Nat) : (d.setAper l).tagsFree p = d.tagsFree p := rfl
@[simp] theorem Dev.setAper_tagTurnC (p : Nat) : (d.setAper l).tagTurnC p = d.tagTurnC p := rfl

@[simp] theorem Dev.setAper_throughBurst (f s b : Nat) : ∀ fuel i o done : Nat,
    (d.setAper l).throughBurst f s b fuel i o done = d.throughBurst f s b fuel i o done
  | 0, _, _, _ => rfl
  | n + 1, i, o, done => by simp only [Dev.throughBurst, Dev.setAper_needBytes, Dev.setAper_throughBurst f s b n]

@[simp] theorem Dev.setAper_nextRead (f s : Nat) : (d.setAper l).nextRead f s = d.nextRead f s := by
  simp only [Dev.nextRead, Dev.setAper_stGet, Dev.setAper_needBytes, Dev.setAper_throughBurst, Dev.setAper_sd, Dev.setAper_itemRoom]
  rfl

end

/-- The entry that a lookup finds is a matter of the translation buffers alone. -/
theorem Dev.tlbLookup_fst_congr {d e : Dev} (hmem : e.mem = d.mem) (f as va : Nat) (write : Bool) :
    (e.tlbLookup f as va write).1 = (d.tlbLookup f as va write).1 := by
  simp only [Dev.tlbLookup, Dev.count_mem, Dev.setEngineTlb, Dev.engineTlb, hmem]
  split
  · rfl
  · split
    · simp only [apply_ite Prod.fst]
    · rfl

/-- The address that a translation gives: of the page that the stream stands in, or of the entry that a lookup finds. -/
theorem Dev.translate_fst (d : Dev) (f s va : Nat) (write : Bool) :
    (d.translate f s va write).1 = (((d.stGet f s).pageAt va).or ((d.tlbLookup f (d.sd f s Reg.SDESC.AS) va write).1.map
      (fun e => (e.pa + va % 2 ^ e.lg) / 4096 * 4096))).map (· + va % 4096) := by
  unfold Dev.translate
  dsimp only
  rcases (d.stGet f s).pageAt va with _ | p
  · rcases d.tlbLookup f (d.sd f s Reg.SDESC.AS) va write with ⟨_ | e, d1⟩ <;> rfl
  · rfl

theorem Dev.setAper_translate_fst (d : Dev) (l : List AperReq) (f s va : Nat) (write : Bool) :
    ((d.setAper l).translate f s va write).1 = (d.translate f s va write).1 := by
  simp only [Dev.translate_fst, Dev.setAper_stGet, Dev.setAper_sd, Dev.tlbLookup_fst_congr (d.setAper_mem l)]

/-- A stream of KIND 5 is of class A (Table 8.1), so a live one of class B is of another KIND. -/
theorem Dev.kind_ne_of_classB {d : Dev} {f s : Nat} (hcls : d.sd f s Reg.SDESC.CLS = 2) (hlive : d.stLive f s = true) :
    d.sd f s Reg.SDESC.KIND ≠ 5 := by
  have hlegal : d.streamLegal f s = true := by
    simp only [Dev.stLive, Bool.and_eq_true] at hlive
    obtain ⟨⟨⟨_, hlegal⟩, _⟩, _⟩ := hlive
    exact hlegal
  intro hk
  have hk' : d.rd (Pg.sdesc f s) Reg.SDESC.KIND = 5 := hk
  have hcls' : d.rd (Pg.sdesc f s) Reg.SDESC.CLS = 2 := hcls
  simp [Dev.streamLegal, hk', hcls', kindClass] at hlegal

/-- The address that a stream of class B asks for: of its oldest write (KIND 6), or of the burst that it reads next. -/
theorem Dev.wantOf_pa_of_classB {d : Dev} {f s : Nat} (hcls : d.sd f s Reg.SDESC.CLS = 2) :
    (d.wantOf f s).1.map Want.pa =
      if d.stState f s ≠ 1 ∨ d.stLive f s = false then none
      else if d.sd f s Reg.SDESC.KIND = 6 then
        (d.stGet f s).wq.head?.bind (fun w => (d.translate f s (w.1 % 2 ^ 48) true).1)
      else (d.nextRead f s).bind (fun r => (d.translate f s r.1 false).1.map (· / 64 * 64)) := by
  unfold Dev.wantOf
  split
  · rfl
  next hready =>
    have hkind := Dev.kind_ne_of_classB hcls (by simpa using (not_or.mp hready).2)
    by_cases h6 : d.sd f s Reg.SDESC.KIND = 6
    · rcases hwq : (d.stGet f s).wq with _ | ⟨⟨a, bs⟩, rest⟩
      · simp [h6, hwq]
      · rcases htr : d.translate f s (a % 2 ^ 48) true with ⟨_ | pa, d1⟩ <;> simp [h6, hwq, htr, -Nat.reducePow]
    · rcases hrd : d.nextRead f s with _ | ⟨va, i, o⟩
      · simp [h6, hkind]
      · rcases htr : d.translate f s va false with ⟨_ | pa, d1⟩ <;> simp [h6, hkind, htr]

theorem Dev.setAper_wantOf_pa_of_classB {d : Dev} {f s : Nat} (hcls : d.sd f s Reg.SDESC.CLS = 2) (l : List AperReq) :
    ((d.setAper l).wantOf f s).1.map Want.pa = (d.wantOf f s).1.map Want.pa := by
  rw [Dev.wantOf_pa_of_classB hcls, Dev.wantOf_pa_of_classB (d := d.setAper l) hcls]
  simp only [Dev.setAper_stState, Dev.setAper_stLive, Dev.setAper_sd, Dev.setAper_stGet, Dev.setAper_nextRead,
    Dev.setAper_translate_fst]

/-- Class B wants a tag of a port when a ready stream of it asks for an address of the port. -/
theorem Dev.bWants_eq (d : Dev) (p : Nat) : d.bWants p = (List.range 512).any (fun k =>
    d.sd (k / 64) (k % 64) Reg.SDESC.CLS == 2 && ((d.wantOf (k / 64) (k % 64)).1.map Want.pa).any (fun pa => d.paPort pa == p)) := by
  refine congrArg (List.any _) (funext fun k => congrArg (and _) ?_)
  rcases (d.wantOf (k / 64) (k % 64)).1 with _ | w <;> rfl

theorem Dev.setAper_bWants (d : Dev) (l : List AperReq) (p : Nat) : (d.setAper l).bWants p = d.bWants p := by
  rw [Dev.bWants_eq, Dev.bWants_eq]
  refine congrArg (List.any _) (funext fun k => ?_)
  by_cases hcls : d.sd (k / 64) (k % 64) Reg.SDESC.CLS = 2
  · simp only [Dev.setAper_sd, Dev.setAper_paPort, Dev.setAper_wantOf_pa_of_classB hcls]
  · simp only [Dev.setAper_sd, beq_false_of_ne hcls, Bool.false_and]

@[simp] theorem Dev.setAper_aperRoom (d : Dev) (l : List AperReq) (p : Nat) : (d.setAper l).aperRoom p = d.aperRoom p := by
  rw [Dev.aperRoom, Dev.setAper_bWants, Dev.setAper_tagsFree, Dev.setAper_tagTurnC, ← Dev.aperRoom]

/-! ### The queue of aperture accesses (R360, log 61) -/

/-- Aperture data leave by the host port alone: they are no TUNNEL request (R398). -/
theorem Dev.aperAnswer_eq (d : Dev) (a : AperReq) (bs : List Byte) (ep : Bool) :
    d.aperAnswer a bs ep = { d with out := .aperDone a.off bs ep :: d.out } := by
  simp [Dev.aperAnswer, Dev.emit, Dev.tunRequests]

theorem Dev.aperStart_of_nil {d : Dev} (h : d.hp.aper = []) : ∀ n : Nat, d.aperStart n = d
  | 0 => rfl
  | n + 1 => by simp only [Dev.aperStart, h]

section
variable {d : Dev} {a : AperReq} {rest : List AperReq} (haper : d.hp.aper = a :: rest) (htx : a.tx = none)
include haper htx

/-- A DDR5 access with bytes left asks for the next burst when a tag is free. -/
theorem Dev.aperStart_ddr_piece (hoff : a.off < d.aperSplit) (htag : a.tag = none) (hpos : a.pos < d.aperHave a)
    (hroom : d.aperRoom (d.ddrPort (a.addr + a.pos)) = true) (n : Nat) : d.aperStart (n + 1) = d.aperPiece a rest := by
  simp [Dev.aperStart, haper, htx, hoff, htag, hroom, Nat.not_le.mpr hpos]

/-- A DDR5 access with no bytes left ends. -/
theorem Dev.aperStart_ddr_end (hoff : a.off < d.aperSplit) (htag : a.tag = none) (hpos : d.aperHave a ≤ a.pos) (n : Nat) :
    d.aperStart (n + 1) = ((d.setAper rest).aperDdrEnd a).aperStart n := by
  simp [Dev.aperStart, haper, htx, hoff, htag, hpos]

/-- A read of a B tile sends its READ_REQUEST and waits, holding a response credit of the core. -/
theorem Dev.aperStart_btile_read {tx : Nat} {d1 d2 : Dev} (hoff : d.aperSplit ≤ a.off) (hwrite : a.write = false)
    (hcred : Tab.get d.fab.rdOut (64 * 44 + a.addr / 2 ^ 22 % 32) 0 < 8) (htxid : d.nextTxid 44 = (tx, d1))
    (hsend : d1.sendPacket 44 (a.addr / 2 ^ 22 % 32) 3 (a.addr / 2 ^ 20 % 4 + (a.span.2 - 1) * 64) (a.span.1 % 2 ^ 20) tx 1 []
      none = (true, d2)) (n : Nat) :
    d.aperStart (n + 1) = { d2.setAper ({ a with tx := some tx, at_ := d.cycle } :: rest) with
      fab := { d2.fab with
        rdOut := Tab.set d2.fab.rdOut (64 * 44 + a.addr / 2 ^ 22 % 32)
          (Tab.get d2.fab.rdOut (64 * 44 + a.addr / 2 ^ 22 % 32) 0 + 1) 0 } } := by
  simp only [Dev.aperStart, haper, htx, hwrite, htxid, hsend, Option.isSome_none, Bool.false_and, Bool.false_eq_true,
    if_false, if_true, Nat.not_lt.mpr hoff, Nat.not_le.mpr hcred]
  rfl

end

/-- An access of `len` bytes at BAR4 offset `off` that has not begun; `addr` is its address in DDR5 or in the B tiles. -/
def aperNew (addr len off : Nat) (data : List Byte) (write : Bool) : AperReq :=
  { addr := addr, len := len, data := data, write := write, off := off, tx := none, at_ := 0, tag := none, pos := 0, got := [],
    bad := false }

/-- An access within the BAR that finds the queue empty begins at once. -/
theorem Dev.aperture_of_empty {d : Dev} {off len addr : Nat} (hlen : 0 < len) (hbar : off + len ≤ d.hp.cfg.bar4)
    (hsram : d.aperSram = false) (haper : d.hp.aper = [])
    (haddr : (if off < d.aperSplit then d.aperBase + off else off - d.aperSplit) = addr) (data : List Byte) (write : Bool) :
    d.aperture off len data write = (d.setAper [aperNew addr len off data write]).aperStart 1 := by
  have hin : ¬(d.hp.cfg.bar4 < off + len ∨ len = 0) := by omega
  simp only [Dev.aperture, if_neg hin, hsram, Bool.false_eq_true, if_false, Dev.aperEnter, haper, haddr]
  rfl

/-- The first piece of an access is asked of the port of its address in class C: the bytes of its first burst that memory serves. -/
theorem Dev.aperPiece_new (d : Dev) (pa len off : Nat) (data : List Byte) (write : Bool) {n : Nat}
    (hn : n = min (64 - pa % 64) (min len (d.ddrCap - pa))) {e : Dev}
    (he : e = (d.setAper [aperNew pa len off data write]).aperPiece (aperNew pa len off data write) []) :
    ∃ r : MemReq, e.mem.ddr = d.mem.ddr ∧ e.out = d.out ∧ e.mem.reqs = d.mem.reqs ++ [r] ∧ r.cls = 3 ∧ r.pa = pa ∧ r.len = n ∧
      r.write = write ∧ r.wdata = (if write then (data.take n).map some else []) ∧ r.port = d.ddrPort pa ∧
      e.hp.aper = [aperBegun pa len off data write r] := by
  subst he hn
  refine ⟨_, rfl, rfl, rfl, rfl, rfl, rfl, rfl, rfl, rfl, ?_⟩
  simp [Dev.aperPiece, aperNew, aperBegun, Dev.tagDealt]

theorem Dev.aperture_ddr {d : Dev} {off len pa : Nat} (hlen : 0 < len) (hbar : off + len ≤ d.hp.cfg.bar4)
    (hsram : d.aperSram = false) (haper : d.hp.aper = []) (hoff : off < d.aperSplit) (hpa : pa = d.aperBase + off)
    (hcap : pa < d.ddrCap) (hroom : d.aperRoom (d.ddrPort pa) = true) (data : List Byte) (write : Bool) :
    d.aperture off len data write =
      (d.setAper [aperNew pa len off data write]).aperPiece (aperNew pa len off data write) [] := by
  have hpos : 0 < d.aperHave (aperNew pa len off data write) := lt_min hlen (Nat.sub_pos_of_lt hcap)
  rw [Dev.aperture_of_empty hlen hbar hsram haper (by rw [if_pos hoff, ← hpa])]
  refine Dev.aperStart_ddr_piece rfl rfl hoff rfl hpos ?_ 0
  rw [Dev.setAper_aperRoom, Dev.setAper_ddrPort]
  exact hroom

/-! ### The end of an access -/

/-- The last data of a DDR5 read answer it. -/
theorem Dev.aperReturn_last {d : Dev} {a : AperReq} {r : MemReq} {bs : List Byte} {bad : Bool} (haper : d.hp.aper = [a])
    (htag : a.tag = some (256 * r.port + r.tag)) (htx : a.tx = none) (hwrite : a.write = false) (hoff : a.off < d.aperSplit)
    (hhave : d.aperHave a ≤ a.pos) (hgot : a.got.length + bs.length = a.len) :
    d.aperReturn r bs bad = ((d.dropReq r).setAper []).aperAnswer a (a.got ++ bs) (a.bad || bad) := by
  have hleft : a.len - (a.got ++ bs).length = 0 := by rw [List.length_append, hgot, Nat.sub_self]
  have haper' : (d.dropReq r).hp.aper = [a] := haper
  simp only [Dev.aperReturn, haper', htag, if_true, Dev.tickAper]
  rw [Dev.aperStart_ddr_end (d := (d.dropReq r).setAper [{ a with tag := none, got := a.got ++ bs, bad := a.bad || bad }]) rfl htx
    hoff rfl hhave, Dev.setAper_setAper]
  simp only [Dev.aperDdrEnd, hwrite, Bool.false_eq_true, if_false, hleft, List.replicate_zero, List.append_nil]
  rw [Dev.aperStart_of_nil (by rw [Dev.aperAnswer_eq]; rfl)]
  rfl

/-- The port that serves the last burst of a read answers it with the bytes of its addresses. -/
theorem Dev.aperReturn_of_served {d e : Dev} {a : AperReq} {r r' : MemReq} (hserved : d.Served r e)
    (hr' : r' = r.served d.mem.ddr) (haper : d.hp.aper = [a]) (htag : a.tag = some (256 * r.port + r.tag)) (htx : a.tx = none)
    (hwrite : a.write = false) (hoff : a.off < d.aperSplit) (hhave : d.aperHave a ≤ a.pos)
    (hgot : a.got.length + r.len = a.len) :
    e.aperReturn r' r'.rdata (r'.rpoison.any id) =
      { (e.dropReq r').setAper [] with
        out := .aperDone a.off (a.got ++ (List.range r.len).map (fun k => Memory.read d.mem.ddr (r.pa + k) 0)) (a.bad || false) ::
          d.out } := by
  have hpoison : r'.rpoison.any id = false := by simp [hr', MemReq.served]
  have htag' : a.tag = some (256 * r'.port + r'.tag) := by rw [hr']; exact htag
  have hgot' : a.got.length + r'.rdata.length = a.len := by simpa [hr', MemReq.served] using hgot
  have hsame : e.hp = d.hp ∧ e.out = d.out ∧ e.aperSplit = d.aperSplit ∧ e.aperHave a = d.aperHave a := by
    obtain ⟨_, _, _, rfl⟩ := hserved
    exact ⟨rfl, rfl, rfl, rfl⟩
  obtain ⟨hhp, hout, hsplit, hhave'⟩ := hsame
  rw [Dev.aperReturn_last (by rw [hhp, haper]) htag' htx hwrite (by rwa [hsplit]) (by rwa [hhave']) hgot', Dev.aperAnswer_eq,
    hpoison, ← hout, hr']
  rfl

theorem Dev.portAccess_of_done {d : Dev} {p tag : Nat} {r : MemReq} (hreq : (d.memAccess p tag).reqAt p tag = some r)
    (hf : r.f = 8) (hdone : r.done = true) :
    d.portAccess p tag = (d.memAccess p tag).aperReturn r r.rdata (r.rpoison.any id) := by
  simp only [Dev.portAccess, hreq, hf, hdone, and_self, if_true]

/-- A read that waited for its response for 1 ms is answered with zeros and EP. -/
theorem Dev.apertureTimeout_read {d : Dev} {a : AperReq} {tx : Nat} (haper : d.hp.aper = [a]) (htx : a.tx = some tx)
    (hat : a.at_ + usCycles 1000 ≤ d.cycle) (hwrite : a.write = false) :
    ∃ e, ((d.setAper []).aperCredit (a.addr / 2 ^ 22 % 32)).PacketFrame e ∧
      d.apertureTimeout tx = e.aperAnswer a (List.replicate a.len 0) true := by
  have hframe := ((d.setAper []).aperCredit (a.addr / 2 ^ 22 % 32)).owedDone_packetFrame 44 (a.addr / 2 ^ 22 % 32)
  refine ⟨_, hframe, ?_⟩
  simp only [Dev.apertureTimeout, haper, htx, hat, hwrite, true_and, if_true, Bool.false_eq_true, if_false]
  refine Dev.aperStart_of_nil ?_ _
  rw [Dev.aperAnswer_eq]
  exact congrArg Hp.aper hframe.hp_eq

end Sys2Proof.Machine

namespace Sys2Proof

open Machine

/-! ### The clauses of O51 -/

theorem apertureRead_asks_port (off : BitVec 36) (len : Fin 513) (s : State) (pa n : Nat) (hlen : 0 < len.val)
    (hbar : off.toNat + len.val ≤ s.dev.hp.cfg.bar4) (hsram : s.dev.aperSram = false) (haper : s.dev.hp.aper = [])
    (hoff : off.toNat < s.dev.aperSplit) (hpa : pa = s.dev.aperBase + off.toNat) (hcap : pa < s.dev.ddrCap)
    (hroom : s.dev.aperRoom (s.dev.ddrPort pa) = true) (hn : n = min (64 - pa % 64) (min len.val (s.dev.ddrCap - pa))) :
    GivesDev (.apertureRead off len) s (fun d => d.mem.ddr = s.dev.mem.ddr ∧ d.out = s.dev.out ∧
      ∃ r : MemReq, d.mem.reqs = s.dev.mem.reqs ++ [r] ∧ r.cls = 3 ∧ r.pa = pa ∧ r.len = n ∧ r.write = false ∧
        r.port = s.dev.ddrPort pa ∧ d.hp.aper = [aperBegun pa len.val off.toNat [] false r]) := by
  obtain ⟨r, hddr, hout, hreqs, hcls, hrpa, hrlen, hwrite, -, hport, haper'⟩ := s.dev.aperPiece_new pa len off.toNat [] false hn
    (Dev.aperture_ddr hlen hbar hsram haper hoff hpa hcap hroom [] false)
  exact ⟨_, rfl, hddr, hout, r, hreqs, hcls, hrpa, hrlen, hwrite, hport, haper'⟩

theorem apertureWrite_asks_port (off : BitVec 36) (data : List Byte) (s : State) (pa n : Nat) (hlen : 0 < data.length)
    (hbar : off.toNat + data.length ≤ s.dev.hp.cfg.bar4) (hsram : s.dev.aperSram = false) (haper : s.dev.hp.aper = [])
    (hoff : off.toNat < s.dev.aperSplit) (hpa : pa = s.dev.aperBase + off.toNat) (hcap : pa < s.dev.ddrCap)
    (hroom : s.dev.aperRoom (s.dev.ddrPort pa) = true) (hn : n = min (64 - pa % 64) (min data.length (s.dev.ddrCap - pa))) :
    GivesDev (.apertureWrite off data) s (fun d => d.mem.ddr = s.dev.mem.ddr ∧
      ∃ r : MemReq, d.mem.reqs = s.dev.mem.reqs ++ [r] ∧ r.cls = 3 ∧ r.pa = pa ∧ r.len = n ∧ r.write = true ∧
        r.wdata = (data.take n).map some ∧ r.port = s.dev.ddrPort pa ∧
        d.hp.aper = [aperBegun pa data.length off.toNat data true r]) := by
  obtain ⟨r, hddr, -, hreqs, hcls, hrpa, hrlen, hwrite, hdata, hport, haper'⟩ := s.dev.aperPiece_new pa data.length off.toNat data
    true hn (Dev.aperture_ddr hlen hbar hsram haper hoff hpa hcap hroom data true)
  exact ⟨_, rfl, hddr, r, hreqs, hcls, hrpa, hrlen, hwrite, hdata, hport, haper'⟩

theorem memAccess_answers_last_burst (p : Fin 4) (tag : Fin 256) (s : State) (r : MemReq) (a : AperReq)
    (hreq : s.dev.reqAt p tag = some r) (hdone : r.done = false) (hf : r.f = 8) (hwrite : r.write = false)
    (hused : s.dev.mem.used.contains (16 + p.val) = false) (hmay : s.dev.mayAccess r = true) (hord : s.dev.ordered r = true)
    (hq : s.dev.flag (Pg.memport p) Reg.HDR.QUIESCE = false) (hpa : r.pa + r.len ≤ s.dev.ddrCap)
    (hclean : ∀ b, Tab.get s.dev.mem.derr b 0 = 0) (haper : s.dev.hp.aper = [a]) (htag : a.tag = some (256 * r.port + r.tag))
    (htx : a.tx = none) (hread : a.write = false) (hoff : a.off < s.dev.aperSplit) (hhave : s.dev.aperHave a ≤ a.pos)
    (hgot : a.got.length + r.len = a.len) :
    GivesDev (.memAccess p tag) s (fun d => d.hp.aper = [] ∧ d.mem.ddr = s.dev.mem.ddr ∧
      d.out = .aperDone a.off (a.got ++ (List.range r.len).map (fun k => Memory.read s.dev.mem.ddr (r.pa + k) 0))
        (a.bad || false) :: s.dev.out) := by
  have hserved := Dev.memAccess_read hreq hdone hwrite hused hmay hord hq hclean
  refine ⟨_, exec_memAccess_of_installed hreq hpa, ?_⟩
  rw [Dev.portAccess_of_done (Dev.reqAt_of_served hreq hserved) hf rfl,
    Dev.aperReturn_of_served hserved rfl haper htag htx hread hoff hhave hgot]
  exact ⟨rfl, hserved.ddr_eq, rfl⟩

theorem apertureRead_asks_core (off : BitVec 36) (len : Fin 513) (s : State) (a : AperReq) (tx : Nat) (d1 d2 : Dev)
    (hlen : 0 < len.val) (hbar : off.toNat + len.val ≤ s.dev.hp.cfg.bar4) (hsram : s.dev.aperSram = false)
    (haper : s.dev.hp.aper = []) (hoff : s.dev.aperSplit ≤ off.toNat)
    (ha : a = ⟨off.toNat - s.dev.aperSplit, len.val, [], false, off.toNat, none, 0, none, 0, [], false⟩)
    (hcred : Tab.get s.dev.fab.rdOut (64 * 44 + a.addr / 2 ^ 22 % 32) 0 < 8)
    (htxid : (s.dev.setAper [a]).nextTxid 44 = (tx, d1))
    (hsend : d1.sendPacket 44 (a.addr / 2 ^ 22 % 32) 3 (a.addr / 2 ^ 20 % 4 + (a.span.2 - 1) * 64) (a.span.1 % 2 ^ 20) tx 1 [] none =
      (true, d2)) :
    GivesDev (.apertureRead off len) s (fun d => d.hp.aper = [{ a with tx := some tx, at_ := s.dev.cycle }] ∧
      d.fab.buf = d2.fab.buf ∧ d.mem = s.dev.mem) := by
  have hframe := (Dev.nextTxid_packetFrame htxid).trans (Dev.sendPacket_packetFrame hsend)
  have hbegin : s.dev.aperture off.toNat len [] false = (s.dev.setAper [a]).aperStart 1 := by
    rw [ha]
    exact Dev.aperture_of_empty hlen hbar hsram haper (if_neg (Nat.not_lt.mpr hoff)) [] false
  refine ⟨_, rfl, ?_⟩
  rw [hbegin, Dev.aperStart_btile_read (d := s.dev.setAper [a]) rfl (by rw [ha]) (by rw [ha]; exact hoff) (by rw [ha]) hcred htxid hsend]
  exact ⟨rfl, rfl, hframe.mem_eq⟩

theorem apertureReadTimeout_answers_zeros (tx : Word) (s : State) (a : AperReq) (haper : s.dev.hp.aper = [a])
    (htx : a.tx = some tx.toNat) (hat : a.at_ + usCycles 1000 ≤ s.dev.cycle) (hwrite : a.write = false) :
    GivesDev (.apertureReadTimeout tx) s (fun d => d.hp.aper = [] ∧
      d.out = .aperDone a.off (List.replicate a.len 0) true :: s.dev.out) := by
  obtain ⟨e, hframe, heq⟩ := Dev.apertureTimeout_read haper htx hat hwrite
  refine ⟨_, rfl, ?_⟩
  rw [heq, Dev.aperAnswer_eq]
  exact ⟨congrArg Hp.aper hframe.hp_eq, congrArg (_ :: ·) hframe.out_eq⟩

/-- Settles O51, clause by clause; that accesses go one at a time, in class C, is the model's choice (logs 61, 152). -/
theorem apertureAccesses : Obligations.ApertureAccesses :=
  ⟨apertureRead_asks_port, apertureWrite_asks_port, memAccess_answers_last_burst, apertureRead_asks_core,
    apertureReadTimeout_answers_zeros⟩

end Sys2Proof
end

section
/-!
PROOFS of 02_streaming_pipeline.md: hold lines, inputs that stop and resume at frame starts, queue resets (R50, R51, R55,
R291, R112).
-/

namespace Sys2Proof.Machine

/-! ### Hold (R50, R51, R55) -/

/-- A hold source of the domain whose scheduled access was missed, and that does not request hold already, is recorded. -/
theorem Dev.holdRequest_of_missed {d : Dev} {m : Nat} {b : Fin 4096} (hmiss : d.hold.missed.contains b.val = true)
    (hdom : d.bqDom b = m) (hsrc : d.flag (Pg.bq b) Reg.BQD.HOLD_SRC = true)
    (hnew : d.hold.reqs.contains (m, .queue b) = false) :
    d.holdRequest m (.queue b) = { d with hold := { d.hold with reqs := d.hold.reqs ++ [(m, .queue b)] } } := by
  simp only [Dev.holdRequest, hmiss, hdom, hsrc, hnew, beq_self_eq_true, Bool.and_self, Bool.not_false, if_true]

theorem Dev.holdAssert_of_request {d : Dev} {m : Nat} (hpipe : bitAt (Tab.get d.hold.pipe m 0) 2 = true) (hheld : d.held m = false) :
    d.holdAssert m = { d with hold := { d.hold with held := Tab.set d.hold.held m true false, len := Tab.set d.hold.len m 0 0,
                                                    longDone := Tab.set d.hold.longDone m false false } } := by
  simp only [Dev.holdAssert, hpipe, hheld, Bool.not_false, Bool.and_self, if_true]

theorem Dev.holdRelease_of_no_request {d : Dev} {m : Nat} (hpipe : bitAt (Tab.get d.hold.pipe m 0) 2 = false)
    (hheld : d.held m = true) :
    d.holdRelease m = { d with hold := { d.hold with held := Tab.set d.hold.held m false false } } := by
  simp only [Dev.holdRelease, hpipe, hheld, Bool.not_false, Bool.and_self, if_true]

theorem Dev.holdLong_of_over {d : Dev} {m : Nat} (hheld : d.held m = true) (hdone : Tab.get d.hold.longDone m false = false)
    (hlong : usCycles (d.rd (Pg.ldom m) Reg.LDOM.HOLD_LIMIT) < Tab.get d.hold.len m 0) :
    d.holdLong m =
      ({ d with hold := { d.hold with longDone := Tab.set d.hold.longDone m true false } } : Dev).raise Pg.loader 3 .none_ := by
  simp only [Dev.holdLong, hheld, hdone, hlong, Bool.not_false, decide_true, Bool.and_self, if_true]

/-! ### A reader that releases entries (R111, R119) -/

theorem Dev.msix_qs (d : Dev) (v : Nat) : (d.msix v).qs = d.qs := by
  unfold Dev.msix
  split
  · rfl
  · split
    · rfl
    · rw [Dev.count_qs, Dev.emit_qs]

theorem Dev.syncIrq_qs (d : Dev) (n : Nat) : (d.syncIrq n).qs = d.qs := by
  unfold Dev.syncIrq
  dsimp only
  split
  · rw [Dev.msix_qs, Dev.wr_qs]
  · rfl

theorem Dev.signal_qs (d : Dev) (o n : Nat) (direct : Bool) : (d.signal o n direct).qs = d.qs := by
  unfold Dev.signal
  dsimp only
  rw [Dev.syncIrq_qs]
  split
  · rw [Dev.wr64_qs, Dev.bump_qs]
  · split
    · rw [Dev.wr64_qs, Dev.bump_qs]
    · rw [Dev.wr_qs, Dev.wr64_qs, Dev.bump_qs]

theorem Dev.bqNotify_qs (d : Dev) (b : Nat) : (d.bqNotify b).qs = d.qs := by
  unfold Dev.bqNotify
  dsimp only
  split
  · split
    · rw [Dev.msix_qs]
    · rfl
  · split
    · rw [Dev.signal_qs, Dev.hit_qs]
    · rfl

theorem Dev.bqNotify_bqGet (d : Dev) (b a : Nat) : (d.bqNotify b).bqGet a = d.bqGet a := by
  rw [Dev.bqGet, Dev.bqNotify_qs, ← Dev.bqGet]

/-- A notification at THRESH changes the queue in `noted` alone. -/
theorem Dev.bqThresh_bqGet (d : Dev) (b : Nat) : ∃ n, (d.bqThresh b).bqGet b = { d.bqGet b with noted := n } := by
  unfold Dev.bqThresh
  dsimp only
  split
  · exact ⟨_, rfl⟩
  · split
    · split
      · exact ⟨false, Dev.bqGet_bqSet_same _ _ _⟩
      · exact ⟨_, rfl⟩
    · split
      · exact ⟨_, rfl⟩
      · exact ⟨true, (Dev.bqNotify_bqGet _ _ _).trans (Dev.bqGet_bqSet_same _ _ _)⟩

/-- Released entries count as freed; the frame discard of the queue and what its writer holds stay. -/
theorem Dev.bqRelease_bqGet (d : Dev) (b n : Nat) :
    ((d.bqRelease b n).bqGet b).stopped = (d.bqGet b).stopped ∧ ((d.bqRelease b n).bqGet b).dropping = (d.bqGet b).dropping ∧
      ((d.bqRelease b n).bqGet b).arr = (d.bqGet b).arr ∧ ((d.bqRelease b n).bqGet b).freed = (d.bqGet b).freed + n := by
  by_cases hn : n = 0
  · simp [Dev.bqRelease, hn]
  by_cases hlast : (d.bqGet b).lastR = d.cycle + 1
  · simp [Dev.bqRelease, hn, hlast]
  · simp only [Dev.bqRelease, if_neg hn, if_neg hlast]
    generalize hs : ({ d.bqGet b with
      freed := (d.bqGet b).freed + n
      tail := _, spans := _, r := _, rel := _, lastR := _ } : BqSt) = s
    obtain ⟨noted, hthresh⟩ := (d.bqSet b s).bqThresh_bqGet b
    rw [hthresh, Dev.bqGet_bqSet_same, ← hs]
    exact ⟨rfl, rfl, rfl, rfl⟩

/-! ### Inputs and queue resets (R291, R112) -/

/-- An input told to stop stops at its frame start: what has arrived is released and its writer discards. -/
theorem Dev.inputFrameStop_bqGet {d : Dev} {b : Nat} (hwant : (d.bqGet b).stopWanted = true) (hstop : (d.bqGet b).stopped = false)
    (hstart : d.bqAtFrameStart b = true) :
    (d.inputFrameStop b).bqGet b =
      ((d.bqSet b { d.bqGet b with stopped := true, dropping := true, arr := [] }).bqRelease b
        (d.bqCount b - (d.bqGet b).rel)).bqGet b := by
  have hact : (!(d.bqGet b).stopWanted || (d.bqGet b).stopped || !d.bqAtFrameStart b) = false := by
    rw [hwant, hstop, hstart]; rfl
  simp only [Dev.inputFrameStop, hact, Bool.false_eq_true, if_false]
  rfl

theorem Dev.inputFrameResume_of_running {d : Dev} {b : Nat} (hstop : (d.bqGet b).stopped = true)
    (hrun : d.dstate (d.bqDom b) = stRUNNING) :
    d.inputFrameResume b = d.bqSet b { d.bqGet b with stopped := false, stopWanted := false, dropping := d.bqFramed b } := by
  simp only [Dev.inputFrameResume, hstop, hrun, beq_self_eq_true, Bool.and_self, if_true]

/-- A reset of a queue that owes no poison entries ends with RESETTING clear. -/
theorem Dev.queueResetDone_of_none_owed {d : Dev} {b : Nat} (hreset : (d.bqGet b).resetting = true) (howed : (d.bqGet b).owed = 0) :
    d.queueResetDone b = d.bqSet b { d.bqGet b with resetting := false, owed := 0 } := by
  simp only [Dev.queueResetDone, hreset, howed, Bool.not_true, Bool.false_eq_true, if_false, List.range_zero, Dev.each,
    List.foldl_nil]

end Sys2Proof.Machine

namespace Sys2Proof

open Machine

/-! ### The clauses of O18 -/

theorem holdAssert_holds (m : Fin 4) (s : State) (hpipe : bitAt (Tab.get s.dev.hold.pipe m 0) 2 = true)
    (hheld : s.dev.held m = false) :
    GivesDev (.holdAssert m) s (fun d => d = { s.dev with hold := d.hold } ∧ d.held m = true ∧ Tab.get d.hold.len m 0 = 0) := by
  refine ⟨_, rfl, ?_⟩
  rw [Dev.holdAssert_of_request hpipe hheld]
  simp [Dev.held]

theorem holdRelease_releases (m : Fin 4) (s : State) (hpipe : bitAt (Tab.get s.dev.hold.pipe m 0) 2 = false)
    (hheld : s.dev.held m = true) :
    GivesDev (.holdRelease m) s (fun d => d = { s.dev with hold := d.hold } ∧ d.held m = false) := by
  refine ⟨_, rfl, ?_⟩
  rw [Dev.holdRelease_of_no_request hpipe hheld]
  simp [Dev.held]

theorem holdLong_raises (m : Fin 4) (s : State) (hheld : s.dev.held m = true)
    (hdone : Tab.get s.dev.hold.longDone m false = false)
    (hlong : usCycles (s.dev.rd (Pg.ldom m) Reg.LDOM.HOLD_LIMIT) < Tab.get s.dev.hold.len m 0) :
    GivesDev (.holdLong m) s (fun d => d = { s.dev with hold := d.hold, regs := d.regs, flt := d.flt } ∧
      bitAt (d.rd Pg.loader Reg.HDR.FLT_STAT) 3 = true ∧ Tab.get d.hold.longDone m false = true) := by
  refine ⟨_, rfl, ?_⟩
  rw [Dev.holdLong_of_over hheld hdone hlong]
  refine ⟨?_, Dev.fltStat_raiseFull _ _ _ _ (by decide), ?_⟩
  · rw [Dev.raise_hold]
    exact Dev.raiseFull_frame _ _ _ _ _
  · rw [Dev.raise_hold, Tab.get_set_same]

theorem inputFrameStop_discards (b : Fin 4096) (s : State) (hwant : (s.dev.bqGet b).stopWanted = true)
    (hstop : (s.dev.bqGet b).stopped = false) (hstart : s.dev.bqAtFrameStart b = true) :
    GivesDev (.inputFrameStop b) s (fun d => (d.bqGet b).stopped = true ∧ (d.bqGet b).dropping = true ∧ (d.bqGet b).arr = [] ∧
      (d.bqGet b).freed = (s.dev.bqGet b).freed + (s.dev.bqCount b - (s.dev.bqGet b).rel)) := by
  refine ⟨_, rfl, ?_⟩
  obtain ⟨hs, hd, ha, hf⟩ := (s.dev.bqSet b { s.dev.bqGet b with stopped := true, dropping := true, arr := [] }).bqRelease_bqGet b
    (s.dev.bqCount b - (s.dev.bqGet b).rel)
  rw [Dev.bqGet_bqSet_same] at hs hd ha hf
  rw [Dev.inputFrameStop_bqGet hwant hstop hstart]
  exact ⟨hs, hd, ha, hf⟩

theorem inputFrameResume_resumes (b : Fin 4096) (s : State) (hstop : (s.dev.bqGet b).stopped = true)
    (hrun : s.dev.dstate (s.dev.bqDom b) = stRUNNING) :
    GivesDev (.inputFrameResume b) s (fun d => d = { s.dev with qs := d.qs } ∧
      d.bqGet b = { s.dev.bqGet b with stopped := false, stopWanted := false, dropping := s.dev.bqFramed b }) := by
  refine ⟨_, rfl, ?_⟩
  rw [Dev.inputFrameResume_of_running hstop hrun]
  exact ⟨rfl, Dev.bqGet_bqSet_same _ _ _⟩

theorem queueResetDone_clears (b : Fin 4096) (s : State) (hreset : (s.dev.bqGet b).resetting = true)
    (howed : (s.dev.bqGet b).owed = 0) :
    GivesDev (.queueResetDone b) s (fun d => d = { s.dev with qs := d.qs } ∧
      d.bqGet b = { s.dev.bqGet b with resetting := false, owed := 0 }) := by
  refine ⟨_, rfl, ?_⟩
  rw [Dev.queueResetDone_of_none_owed hreset howed]
  exact ⟨rfl, Dev.bqGet_bqSet_same _ _ _⟩

/-- Settles O18, clause by clause. -/
theorem holdAndInputsFollow : Obligations.HoldAndInputsFollow :=
  ⟨fun m b s hmiss hdom hsrc hnew => ⟨s.dev.holdRequest m (.queue b), rfl, Dev.holdRequest_of_missed hmiss hdom hsrc hnew⟩,
    holdAssert_holds, holdRelease_releases, holdLong_raises, inputFrameStop_discards, inputFrameResume_resumes,
    queueResetDone_clears⟩

end Sys2Proof
end

section
/-!
PROOFS of 02_streaming_pipeline.md: segment switches and overlays (R58, R60, R295).
-/

namespace Sys2Proof.Machine

/-! ### A domain that enters a state (R48, R421) -/

theorem Dev.trgClear_frame (d : Dev) (m : Nat) (start : Bool) : ∃ r p, d.trgClear m start = { d with regs := r, plat := p } := by
  refine List.foldlRecOn (motive := fun e : Dev => ∃ r p, e = { d with regs := r, plat := p }) _ _ ⟨_, _, rfl⟩ (fun e he i _ => ?_)
  obtain ⟨r, p, rfl⟩ := he
  exact ⟨_, _, rfl⟩

/-- Discarding pending tokens writes the four PENDING fields of the PINS page alone. -/
theorem Dev.rd_trgClear_other (d : Dev) (m : Nat) (start : Bool) {base : Nat} {F : Fld} {j : Nat}
    (h : ∀ i < 4, (base + F.off + F.stride * j) / 4 ≠ (Pg.pins + Reg.PINS.PENDING.off + Reg.PINS.PENDING.stride * i) / 4) :
    (d.trgClear m start).rd base F j = d.rd base F j := by
  refine List.foldlRecOn (motive := fun e : Dev => e.rd base F j = d.rd base F j) _ _ rfl (fun e he i hi => ?_)
  have hi4 : i < 4 := List.mem_range.mp (List.mem_filter.mp hi).1
  exact (Dev.rd_wr_other _ _ (h i hi4)).trans he

theorem Dev.setState_frame (d : Dev) (m st : Nat) : ∃ r p, d.setState m st = { d with regs := r, plat := p } := by
  unfold Dev.setState
  dsimp only
  split
  · exact ⟨_, _, rfl⟩
  · obtain ⟨r, p, h⟩ := (d.wr (Pg.ldom m) Reg.LDOM.STATE st).trgClear_frame m false
    exact ⟨r, p, h⟩

theorem Dev.dstate_setState (d : Dev) (m : Nat) {st : Nat} (hst : st < 8) : (d.setState m st).dstate m = st := by
  have hwr : (d.wr (Pg.ldom m) Reg.LDOM.STATE st).rd (Pg.ldom m) Reg.LDOM.STATE = st := by
    rw [Dev.rd_wr_same _ _ _ _ _ (by decide)]
    exact Nat.mod_eq_of_lt hst
  unfold Dev.setState Dev.dstate
  dsimp only
  split
  · exact hwr
  · rw [Dev.rd_trgClear_other]
    · exact hwr
    · intro i hi
      simp [Pg.ldom, Pg.pins, Reg.LDOM.STATE, Reg.PINS.PENDING]
      omega

/-- BUSY and CUR_DOM lie in the loader's own words, before those of the domains. -/
theorem Dev.dstate_ldrBusy (d : Dev) (m n : Nat) : (d.ldrBusy m).dstate n = d.dstate n := by
  unfold Dev.ldrBusy Dev.dstate
  rw [Dev.rd_wr_other, Dev.rd_wr_other] <;> simp [Pg.ldom, Pg.loader, Reg.LDOM.STATE, Reg.LOADER.BUSY, Reg.LOADER.CUR_DOM] <;> omega

/-! ### Segment switches (R58, R60) -/

theorem Dev.segmentBoundary_of_running {d : Dev} {m : Nat} (hrun : d.dstate m = stRUNNING) (hseg : 1 < d.nseg m) :
    d.segmentBoundary m = (d.ldr_ (fun l => { l with segDrain := Tab.set l.segDrain m true false })).setState m stDRAINING :=
  if_pos ⟨hrun, hseg⟩

/-- A switch for which no apply waits installs the next segment once it is staged. -/
theorem Dev.segmentInstall_of_ready {d : Dev} {m : Nat} (hst : d.dstate m = stSWITCHING)
    (hdrain : Tab.get d.ldr.segDrain m false = true) (happly : Tab.get d.ldr.applyPend m none = none)
    (hready : d.segReady m = true) : d.segmentInstall m = ((d.setSent m false).segInstall m).enterRun m := by
  simp [Dev.segmentInstall, hst, hdrain, happly, hready]

/-! ### APPLY_OVERLAY and APPLY_WRITE (R295) -/

/-- INDEX 0 asks for the base configuration, which needs no check. -/
theorem Dev.applyVerify_base {d : Dev} {m : Nat} (hst : d.dstate m = stLOADED) : d.applyVerify m 0 = (none, d) := by
  simp [Dev.applyVerify, hst]

theorem Dev.applyCmd_of_failed {d d1 : Dev} {c : LCmd} {e : Nat × Nat} (hfront : d.ldrFront 2 = some c)
    (hverify : (d.ldrBusy c.dom).applyVerify c.dom (c.u 0 1) = (some e, d1)) : d.applyCmd = d1.ldrDone c.dom 2 e.1 e.2 := by
  simp only [Dev.applyCmd, hfront, hverify]

theorem Dev.applyCmd_of_loaded {d d1 : Dev} {c : LCmd} (hfront : d.ldrFront 2 = some c) (hst : d.dstate c.dom = stLOADED)
    (hverify : (d.ldrBusy c.dom).applyVerify c.dom (c.u 0 1) = (none, d1)) :
    d.applyCmd = d1.setJob c.dom (.applyWait (c.u 0 1)) := by
  simp only [Dev.applyCmd, hfront, hverify, hst, if_true]

/-- A RUNNING domain of one segment is stopped at its frame boundary. -/
theorem Dev.applyCmd_of_running {d d1 : Dev} {c : LCmd} (hfront : d.ldrFront 2 = some c) (hst : d.dstate c.dom = stRUNNING)
    (hseg : d.nseg c.dom = 1) (hverify : (d.ldrBusy c.dom).applyVerify c.dom (c.u 0 1) = (none, d1)) :
    d.applyCmd = (((d1.setJob c.dom (.applyWait (c.u 0 1))).ldr_ (fun l =>
      { l with resume := Tab.set l.resume c.dom true false })).stopInputs c.dom).setState c.dom stDRAINING := by
  have hloaded : ¬stRUNNING = stLOADED := by decide
  simp only [Dev.applyCmd, hfront, hverify, hst, hseg, if_neg hloaded, lt_irrefl, if_false]

section
variable {d d1 : Dev} {m idx : Nat} (hjob : d.jobOf m = .applyWait idx) (hfold : Tab.get d.ldr.folding m false = false)
  (hst : d.dstate m = stLOADED) (hstages : d.loaderStages m = true) (hbc : d.plat.bcStop = false)
include hjob hfold hst hstages hbc

/-- In LOADED the apply's records are sent at once. -/
theorem Dev.applyWrite_of_send (hsend : d.applySend m idx = (none, d1)) :
    d.applyWrite m = (d1.setJob m (.applySent idx)).setSent m true := by
  have hswitch : (stLOADED == stSWITCHING) = false := by decide
  simp [Dev.applyWrite, hfold, hjob, hst, hswitch, hstages, hbc, hsend]

/-- An apply whose records cannot be sent fails at the first that cannot. -/
theorem Dev.applyWrite_of_send_failed {o : Nat} (hsend : d.applySend m idx = (some o, d1)) :
    d.applyWrite m = d1.applyFails m 0x19 o := by
  simp [Dev.applyWrite, hfold, hjob, hst, hstages, hbc, hsend]

end

/-- Records that are delivered, and not refused, take effect. -/
theorem Dev.applyWrite_of_sent {d : Dev} {m idx : Nat} (hjob : d.jobOf m = .applySent idx)
    (hfold : Tab.get d.ldr.folding m false = false) (hquiet : d.ldrQuiet m = true) (hrefused : d.ldrRefused m = false)
    (hstaged : d.applyStaged m = true) :
    d.applyWrite m =
      ((((d.applySwap m idx).bump (Pg.ldom m) Reg.LDOM.APPLY_CNT).count Pg.loader 0xF 1).applyResume m).ldrDone m 2 0 0 := by
  simp only [Dev.applyWrite, hfold, hjob, hquiet, hrefused, hstaged, Bool.not_true, Bool.false_eq_true, if_false]

end Sys2Proof.Machine

namespace Sys2Proof

open Machine

/-! ### The clauses of O24 -/

theorem segmentBoundary_drains (m : Fin 4) (s : State) (hrun : s.dev.dstate m = stRUNNING) (hseg : 1 < s.dev.nseg m) :
    GivesDev (.segmentBoundary m) s (fun d => d.dstate m = stDRAINING ∧ Tab.get d.ldr.segDrain m false = true ∧ d.mem = s.dev.mem ∧
      d.qs = s.dev.qs ∧ d.fab = s.dev.fab ∧ d.tl = s.dev.tl) := by
  refine ⟨_, rfl, ?_⟩
  rw [Dev.segmentBoundary_of_running hrun hseg]
  refine ⟨Dev.dstate_setState _ _ (by decide), ?_⟩
  obtain ⟨r, p, hframe⟩ := (s.dev.ldr_ (fun l => { l with segDrain := Tab.set l.segDrain m true false })).setState_frame m stDRAINING
  rw [hframe]
  simp [Dev.ldr_]

theorem applyOverlay_of_base (s : State) (c : LCmd) (hfront : s.dev.ldrFront 2 = some c) (hst : s.dev.dstate c.dom = stLOADED)
    (hidx : c.u 0 1 = 0) :
    GivesDev .applyOverlay s (fun d => d = (s.dev.ldrBusy c.dom).setJob c.dom (.applyWait 0)) := by
  have hverify : (s.dev.ldrBusy c.dom).applyVerify c.dom (c.u 0 1) = (none, s.dev.ldrBusy c.dom) := by
    rw [hidx]
    exact Dev.applyVerify_base ((Dev.dstate_ldrBusy _ _ _).trans hst)
  refine ⟨s.dev.applyCmd, rfl, ?_⟩
  rw [Dev.applyCmd_of_loaded hfront hst hverify, hidx]

/-- Settles O24, clause by clause; which frame boundary ends a segment is the model's choice (log 136). -/
theorem segmentsAndOverlays : Obligations.SegmentsAndOverlays := by
  unfold Obligations.SegmentsAndOverlays
  refine ⟨segmentBoundary_drains, fun m s hst hdrain happly hready => ?install, fun s c hfront hst hseg => ?overlay,
    applyOverlay_of_base, fun m s idx hjob hfold hst hstages hbc => ?send, fun m s _ hjob hfold hquiet hrefused hstaged => ?apply⟩
  case install => exact ⟨s.dev.segmentInstall m, rfl, Dev.segmentInstall_of_ready hst hdrain happly hready⟩
  case overlay =>
    refine ⟨s.dev.applyCmd, rfl, ?_⟩
    rcases hverify : (s.dev.ldrBusy c.dom).applyVerify c.dom (c.u 0 1) with ⟨_ | e, d1⟩
    · exact Dev.applyCmd_of_running hfront hst hseg hverify
    · exact Dev.applyCmd_of_failed hfront hverify
  case send =>
    refine ⟨s.dev.applyWrite m, rfl, ?_⟩
    rcases hsend : s.dev.applySend m idx with ⟨_ | o, d1⟩
    · exact Dev.applyWrite_of_send hjob hfold hst hstages hbc hsend
    · exact Dev.applyWrite_of_send_failed hjob hfold hst hstages hbc hsend
  case apply => exact ⟨s.dev.applyWrite m, rfl, Dev.applyWrite_of_sent hjob hfold hquiet hrefused hstaged⟩

end Sys2Proof
end

section
/-!
PROOFS of 02_streaming_pipeline.md: how a sequencer looks at a step, issues it, waits with it and stops at it (R35 to R38, R158, R159,
R171).
-/

namespace Sys2Proof.Machine

/-! ### Fields of both tiles -/

@[simp] theorem isM_mtile (m : Fin 10) : isM m = true := decide_eq_true m.isLt

@[simp] theorem isM_vtile (v : Nat) : isM (10 + v) = false := decide_eq_false (by omega)

theorem tilePg_mtile (c : Nat) (m : Fin 10) : tilePg c m = Pg.mtile c m := by simp [tilePg]

theorem tilePg_vtile (c v : Nat) : tilePg c (10 + v) = Pg.vtile c v := by simp [tilePg]

theorem fPC_mtile (m : Fin 10) : fPC m = Reg.MTILE.PC := by simp [fPC]
theorem fPC_vtile (v : Nat) : fPC (10 + v) = Reg.VTILE.PC := by simp [fPC]
theorem fLen_mtile (m : Fin 10) : fLen m = Reg.MTILE.PROG_LEN_M1 := by simp [fLen]
theorem fLen_vtile (v : Nat) : fLen (10 + v) = Reg.VTILE.PROG_LEN_M1 := by simp [fLen]
theorem fDepth_mtile (m : Fin 10) : fDepth m = Reg.MTILE.LOOP_DEPTH := by simp [fDepth]
theorem fDepth_vtile (v : Nat) : fDepth (10 + v) = Reg.VTILE.LOOP_DEPTH := by simp [fDepth]

theorem fPC_fits (u : Nat) : (fPC u).lo + (fPC u).w ≤ 32 := by
  unfold fPC
  split <;> decide

theorem fDepth_fits (u : Nat) : (fDepth u).lo + (fDepth u).w ≤ 32 := by
  unfold fDepth
  split <;> decide

theorem fDepth_width (u : Nat) : (fDepth u).w = 3 := by
  unfold fDepth
  split <;> rfl

/-- PC holds every address of a program of the length that the tile can state. -/
theorem fLen_width (u : Nat) : (fLen u).w = (fPC u).w := by
  unfold fLen fPC
  split <;> rfl

/-- PC and LOOP_DEPTH are fields of one word. -/
theorem Dev.rd_pc_wr_depth (d : Dev) (base u v : Nat) : (d.wr base (fDepth u) v).rd base (fPC u) = d.rd base (fPC u) := by
  unfold fDepth fPC
  split <;> exact Dev.rd_wr_disjoint _ _ rfl (by decide) (by decide)

/-! ### The sequencer's state beside the registers -/

@[simp] theorem Dev.rd_sqSet (d : Dev) (c u : Nat) (s : Sqr) (base : Nat) (F : Fld) (i : Nat) :
    (d.sqSet c u s).rd base F i = d.rd base F i := Dev.rd_congr (d.sqSet_regs c u s) base F i

@[simp] theorem Dev.flag_sqSet (d : Dev) (c u : Nat) (s : Sqr) (base : Nat) (F : Fld) (i : Nat) :
    (d.sqSet c u s).flag base F i = d.flag base F i := Dev.flag_congr (d.sqSet_regs c u s) base F i

theorem Dev.sqGet_congr {d e : Dev} (h : d.tl = e.tl) (c u : Nat) : d.sqGet c u = e.sqGet c u := by
  simp only [Dev.sqGet, Dev.mtGet, Dev.vtGet, h]

/-- From `d` to `e` only the tiles, registers, counters and hold lines changed. -/
def Dev.TileFrame (d e : Dev) : Prop := e = { d with tl := e.tl, regs := e.regs, perf := e.perf, hold := e.hold }

theorem Dev.TileFrame.trans {d e f : Dev} (h : d.TileFrame e) (h' : e.TileFrame f) : d.TileFrame f := by
  unfold Dev.TileFrame at *
  exact h'.trans (by rw [h])

theorem Dev.sqSet_tileFrame (d : Dev) (c u : Nat) (s : Sqr) : d.TileFrame (d.sqSet c u s) := by
  unfold Dev.sqSet
  split <;> rfl

theorem Dev.wr_tileFrame (d : Dev) (base : Nat) (F : Fld) (v i : Nat) : d.TileFrame (d.wr base F v i) := rfl

theorem Dev.count_tileFrame (d : Dev) (base mask ev n : Nat) : d.TileFrame (d.count base mask ev n) := by
  unfold Dev.count
  split <;> rfl

theorem Dev.markStepped_tileFrame (d : Dev) (m : Nat) : d.TileFrame (d.markStepped m) := rfl

/-! ### Where the program goes on (R35, R158, R171) -/

/-- The sequencer goes on at `pc` with these loops open. -/
def Dev.goTo (d : Dev) (c u pc : Nat) (loops : List (Nat × Nat × Nat)) : Dev :=
  ((d.sqSet c u { d.sqGet c u with loops := loops }).wr (tilePg c u) (fPC u) pc).wr (tilePg c u) (fDepth u) loops.length

section
variable (d : Dev) (c u pc : Nat) (loops : List (Nat × Nat × Nat))

theorem Dev.goTo_tileFrame : d.TileFrame (d.goTo c u pc loops) :=
  ((d.sqSet_tileFrame c u _).trans (Dev.wr_tileFrame _ _ _ _ _)).trans (Dev.wr_tileFrame _ _ _ _ _)

theorem Dev.sqGet_goTo : (d.goTo c u pc loops).sqGet c u = { d.sqGet c u with loops := loops } :=
  Dev.sqGet_sqSet_same d c u { d.sqGet c u with loops := loops }

theorem Dev.hold_goTo : (d.goTo c u pc loops).hold = d.hold := by simp [Dev.goTo]

theorem Dev.rd_pc_goTo : (d.goTo c u pc loops).rd (tilePg c u) (fPC u) = pc % 2 ^ (fPC u).w := by
  rw [Dev.goTo, Dev.rd_pc_wr_depth, Dev.rd_wr_same _ _ _ _ _ (fPC_fits u)]

theorem Dev.rd_depth_goTo : (d.goTo c u pc loops).rd (tilePg c u) (fDepth u) = loops.length % 2 ^ (fDepth u).w := by
  rw [Dev.goTo, Dev.rd_wr_same _ _ _ _ _ (fDepth_fits u)]

end

/-- Where the step at PC leads, with the loops that are open then. -/
def Dev.next (d : Dev) (c u : Nat) : Nat × List (Nat × Nat × Nat) :=
  nextPc (d.rd (tilePg c u) (fPC u)) (d.rd (tilePg c u) (fLen u) + 1) (d.sqGet c u).loops

theorem Dev.advancePc_eq (d : Dev) (c u : Nat) : d.advancePc c u = d.goTo c u (d.next c u).1 (d.next c u).2 := rfl

/-- Outside loops the program goes on at the next instruction, and at its first after its last. -/
theorem Dev.next_of_no_loop {d : Dev} {c u : Nat} (h : (d.sqGet c u).loops = []) :
    d.next c u = ((d.rd (tilePg c u) (fPC u) + 1) % (d.rd (tilePg c u) (fLen u) + 1), []) := by
  rw [Dev.next, h]
  rfl

/-- The end of a loop with passes left leads to its top. -/
theorem Dev.next_of_loop_end {d : Dev} {c u top e n : Nat} {rest : List (Nat × Nat × Nat)}
    (h : (d.sqGet c u).loops = (top, e, n) :: rest) (hpc : d.rd (tilePg c u) (fPC u) = e) (hn : 1 < n) :
    d.next c u = (top, (top, e, n - 1) :: rest) := by
  simp only [Dev.next, h, hpc, nextPc, if_true, if_pos hn]

/-! ### What the sequencer makes of the step at its PC (R36 to R38, R158) -/

/-- The sequencer looks at instruction `iw` in this cycle, with any loops open. -/
structure Dev.Looks (d : Dev) (c u dom iw : Nat) : Prop where
  dom_eq : d.tileDom c = some dom
  not_stuck : (d.sqGet c u).stuck = false
  not_tried : (d.sqGet c u).tried ≠ d.cycle + 1
  ready : (d.sqGet c u).readyAt ≤ d.dcyc dom
  not_quiesced : d.flag (tilePg c u) Reg.HDR.QUIESCE = false
  no_run : (d.sqGet c u).runs = []
  instr : d.instrAt c u (d.rd (tilePg c u) (fPC u)) = iw
  no_upset : d.seqUpset c u (d.rd (tilePg c u) (fPC u)) = none

/-- No condition keeps the sequencer from looking. -/
theorem Dev.Looks.not_skipped {d : Dev} {c u dom iw : Nat} (h : d.Looks c u dom iw) :
    ((d.sqGet c u).stuck || decide ((d.sqGet c u).tried = d.cycle + 1) || decide (d.dcyc dom < (d.sqGet c u).readyAt) ||
      d.flag (tilePg c u) Reg.HDR.QUIESCE || (isM u && !(d.sqGet c u).runs.isEmpty)) = false := by
  simp [h.not_stuck, h.not_tried, h.ready, h.not_quiesced, h.no_run]

theorem Dev.looks_of_atStep {d : Dev} {c u dom iw : Nat} (h : AtStep d c u dom iw) : d.Looks c u dom iw := by
  obtain ⟨hdom, hstuck, htried, hready, hq, hruns, -, hiw, hupset⟩ := h
  exact ⟨hdom, hstuck, htried, hready, hq, hruns, hiw.symm, hupset⟩

theorem Dev.loops_of_atStep {d : Dev} {c u dom iw : Nat} (h : AtStep d c u dom iw) : (d.sqGet c u).loops = [] := by
  obtain ⟨-, -, -, -, -, -, hloops, -, -⟩ := h
  exact hloops

/-- The sequencer tried a step in this cycle. -/
def Dev.tries (d : Dev) (c u : Nat) : Dev := d.sqSet c u { d.sqGet c u with tried := d.cycle + 1 }

/-- The sequencer issued the step at PC: the next one issues no earlier than `interval` domain cycles later. -/
def Dev.issued (d : Dev) (c u dom interval : Nat) : Dev :=
  ((((d.tries c u).sqSet c u { (d.tries c u).sqGet c u with readyAt := d.dcyc dom + interval }).advancePc c u).count (tilePg c u) 0xF
    (evStep u)).markStepped dom

section
variable {d : Dev} {c u dom iw op opMax : Nat} {plan : Dev → Nat → Nat → Plan} {takes : List (Nat × Nat × Nat)}
  {put : Option (Nat × Nat)} {interval : Nat} (h : d.Looks c u dom iw)
include h

/-- A reserved opcode stops the sequencer with reason 0. -/
theorem Dev.tryIssue_of_reserved (hop : opMax < bitsOf iw 58 6) :
    d.tryIssue c u op opMax plan = (none, (d.tries c u).illegal c u dom 0) := by
  simp only [Dev.tryIssue, Dev.tries, h.dom_eq, h.not_skipped, h.instr, h.no_upset, hop, Bool.false_eq_true, if_false, if_true]

variable (hop : bitsOf iw 58 6 = op) (hmax : op ≤ opMax) (hplan : plan d iw dom = .go takes put interval)
include hop hmax hplan

/-- An item that a step needs is not in its head: the step waits, and the cycle counts. -/
theorem Dev.tryIssue_of_missing (hheads : (mergeTakes takes).all (fun t => d.headHolds c u t) = false) :
    d.tryIssue c u op opMax plan = (none, (d.tries c u).stallOn (tilePg c u) ((mergeTakes takes).filterMap (fun t =>
      if d.headHolds c u t then none else d.queueAtHead c (inPort u t.1) t.2.1))) := by
  simp [Dev.tryIssue, Dev.tries, h.dom_eq, h.not_skipped, h.instr, h.no_upset, hop, hmax, hplan, hheads]

variable (hheads : (mergeTakes takes).all (fun t => d.headHolds c u t) = true)
include hheads

/-- A put finds no credit or no room: the step waits, and the cycle counts. -/
theorem Dev.tryIssue_of_full {key cnt : Nat} (hput : put = some (key, cnt))
    (hfull : d.creditOk c u cnt 1 = false ∨ 4 ≤ (Tab.get d.fab.outp key []).length) :
    d.tryIssue c u op opMax plan = (none, (d.tries c u).bump (tilePg c u) Reg.HDR.STALL_OUT) := by
  subst hput
  simp [Dev.tryIssue, Dev.tries, h.dom_eq, h.not_skipped, h.instr, h.no_upset, hop, hmax, hplan, hheads, hfull]

/-- A step that puts nothing issues once its items are there. -/
theorem Dev.tryIssue_of_heads (hput : put = none) :
    d.tryIssue c u op opMax plan = (some (iw, dom, takes), d.issued c u dom interval) := by
  subst hput
  simp [Dev.tryIssue, Dev.issued, Dev.tries, h.dom_eq, h.not_skipped, h.instr, h.no_upset, hop, hmax, hplan, hheads]

end

/-! ### The step issued (R35, R158, R327) -/

section
variable (d : Dev) (c u dom interval : Nat)

theorem Dev.issued_tileFrame : d.TileFrame (d.issued c u dom interval) :=
  ((((d.sqSet_tileFrame c u _).trans (Dev.sqSet_tileFrame _ _ _ _)).trans (Dev.goTo_tileFrame _ _ _ _ _)).trans
    (Dev.count_tileFrame _ _ _ _ _)).trans (Dev.markStepped_tileFrame _ _)

theorem Dev.rd_issued (base : Nat) (F : Fld) (i : Nat) : (d.issued c u dom interval).rd base F i =
    (((d.tries c u).sqSet c u { (d.tries c u).sqGet c u with readyAt := d.dcyc dom + interval }).advancePc c u).rd base F i :=
  Dev.rd_congr (by rw [Dev.issued, Dev.markStepped_regs, Dev.count_regs]) base F i

/-- Looking at a step and setting when the next one may issue leave where the program goes on. -/
theorem Dev.next_issued :
    ((d.tries c u).sqSet c u { (d.tries c u).sqGet c u with readyAt := d.dcyc dom + interval }).next c u = d.next c u := by
  simp [Dev.next, Dev.tries]

theorem Dev.rd_pc_issued : (d.issued c u dom interval).rd (tilePg c u) (fPC u) = (d.next c u).1 % 2 ^ (fPC u).w := by
  rw [Dev.rd_issued, Dev.advancePc_eq, Dev.rd_pc_goTo, Dev.next_issued]

theorem Dev.sqGet_issued : (d.issued c u dom interval).sqGet c u =
    { d.sqGet c u with tried := d.cycle + 1, readyAt := d.dcyc dom + interval, loops := (d.next c u).2 } := by
  have htl : ∀ e : Dev, ((e.count (tilePg c u) 0xF (evStep u)).markStepped dom).tl = e.tl := fun e => by simp
  rw [Dev.issued, Dev.sqGet_congr (htl _), Dev.advancePc_eq, Dev.sqGet_goTo, Dev.next_issued]
  simp [Dev.tries]

theorem Dev.stepped_issued : Tab.get (d.issued c u dom interval).hold.stepped dom false = true := by
  simp [Dev.issued, Dev.markStepped]

end

/-- Outside loops an issued step is the step that R35 describes, and no loop is open after it. -/
theorem Dev.issued_of_no_loop {d : Dev} {c u : Nat} (h : (d.sqGet c u).loops = []) (dom interval : Nat) :
    Stepped d (d.issued c u dom interval) c u dom interval ∧ ((d.issued c u dom interval).sqGet c u).loops = [] := by
  have hlen : d.rd (tilePg c u) (fLen u) < 2 ^ (fPC u).w := fLen_width u ▸ d.rd_lt (tilePg c u) (fLen u) 0
  have hpc : (d.rd (tilePg c u) (fPC u) + 1) % (d.rd (tilePg c u) (fLen u) + 1) < 2 ^ (fPC u).w :=
    (Nat.mod_lt _ (Nat.succ_pos _)).trans_le hlen
  rw [Stepped, Dev.rd_pc_issued, Dev.sqGet_issued, Dev.next_of_no_loop h, Nat.mod_eq_of_lt hpc]
  exact ⟨⟨rfl, rfl, d.stepped_issued c u dom interval⟩, rfl⟩

/-- The next instruction of a program is in it when the one at PC is not the last. -/
theorem Dev.rd_pc_goTo_succ (d : Dev) {c u : Nat} {loops : List (Nat × Nat × Nat)} {e : Dev}
    (hlt : e.rd (tilePg c u) (fPC u) < e.rd (tilePg c u) (fLen u)) :
    (d.goTo c u (e.rd (tilePg c u) (fPC u) + 1) loops).rd (tilePg c u) (fPC u) =
      (e.rd (tilePg c u) (fPC u) + 1) % (e.rd (tilePg c u) (fLen u) + 1) := by
  have hlen : e.rd (tilePg c u) (fLen u) < 2 ^ (fPC u).w := fLen_width u ▸ e.rd_lt (tilePg c u) (fLen u) 0
  rw [Dev.rd_pc_goTo, Nat.mod_eq_of_lt (by omega), Nat.mod_eq_of_lt (by omega)]

/-! ### NOP and LOOP (R158, R159, R171) -/

theorem Dev.stepNop_of_looks {d : Dev} {c u dom : Nat} (h : d.Looks c u dom 0) (opMax : Nat) :
    d.stepNop c u opMax = d.issued c u dom 1 := by
  have hissue := Dev.tryIssue_of_heads (opMax := opMax) (plan := fun _ iw _ => if iw ≠ 0 then .bad 1 else .go [] none 1) h rfl
    (Nat.zero_le _) rfl rfl rfl
  rw [Dev.stepNop]
  exact congrArg Prod.snd hissue

/-- A legal LOOP opens a loop from the next instruction to its END. -/
theorem Dev.stepLoop_of_atStep {d : Dev} {c u dom iw opMax endBits : Nat} (h : AtStep d c u dom iw) (hop : bitsOf iw 58 6 = 1)
    (hmax : 1 ≤ opMax) (hzero : bitsOf iw 48 10 = 0) (hzero' : bitsOf iw endBits (32 - endBits) = 0) (hcount : 0 < bitsOf iw 32 16)
    (htop : d.rd (tilePg c u) (fPC u) < bitsOf iw 0 endBits) (hend : bitsOf iw 0 endBits ≤ d.rd (tilePg c u) (fLen u)) :
    d.stepLoop c u opMax endBits = (d.issued c u dom 1).goTo c u (d.rd (tilePg c u) (fPC u) + 1)
      [(d.rd (tilePg c u) (fPC u) + 1, bitsOf iw 0 endBits, bitsOf iw 32 16)] := by
  have hloops := Dev.loops_of_atStep h
  have hlegal : ¬(bitsOf iw 32 16 = 0 ∨ bitsOf iw 0 endBits ≤ d.rd (tilePg c u) (fPC u) ∨
      d.rd (tilePg c u) (fLen u) < bitsOf iw 0 endBits) := by omega
  simp only [not_or] at hlegal
  obtain ⟨hcount', htop', hend'⟩ := hlegal
  simp only [Dev.stepLoop, hloops]
  rw [Dev.tryIssue_of_heads (takes := []) (put := none) (interval := 1) (Dev.looks_of_atStep h) hop hmax
    (by simp [hzero, hzero', hcount', htop', hend']) rfl rfl]
  rfl

end Sys2Proof.Machine

namespace Sys2Proof

open Machine

/-! ### The clauses of O36 -/

/-- A NOP outside loops, of either tile. -/
theorem stepNop_advances {d : Dev} {c u dom : Nat} (h : AtStep d c u dom 0) (opMax : Nat) :
    d.TileFrame (d.stepNop c u opMax) ∧ Stepped d (d.stepNop c u opMax) c u dom 1 ∧
      ((d.stepNop c u opMax).sqGet c u).loops = [] := by
  rw [Dev.stepNop_of_looks (Dev.looks_of_atStep h)]
  exact ⟨Dev.issued_tileFrame _ _ _ _ _, Dev.issued_of_no_loop (Dev.loops_of_atStep h) dom 1⟩

theorem mNop_returns_to_top (c : Fin 32) (m : Fin 10) (s : State) (dom top e n : Nat) (rest : List (Nat × Nat × Nat))
    (hdom : s.dev.tileDom c = some dom) (hstuck : (s.dev.sqGet c m).stuck = false)
    (htried : (s.dev.sqGet c m).tried ≠ s.dev.cycle + 1) (hready : (s.dev.sqGet c m).readyAt ≤ s.dev.dcyc dom)
    (hq : s.dev.flag (Pg.mtile c m) Reg.HDR.QUIESCE = false) (hruns : (s.dev.sqGet c m).runs = [])
    (hiw : s.dev.instrAt c m (s.dev.rd (Pg.mtile c m) Reg.MTILE.PC) = 0)
    (hupset : s.dev.seqUpset c m (s.dev.rd (Pg.mtile c m) Reg.MTILE.PC) = none)
    (hloops : (s.dev.sqGet c m).loops = (top, e, n) :: rest) (hpc : s.dev.rd (Pg.mtile c m) Reg.MTILE.PC = e) (hn : 1 < n)
    (htop : top < 256) :
    GivesDev (.mNop c m) s (fun d => d.rd (Pg.mtile c m) Reg.MTILE.PC = top ∧ (d.sqGet c m).loops = (top, e, n - 1) :: rest) := by
  rw [← tilePg_mtile, ← fPC_mtile m] at hiw hupset hpc ⊢
  rw [← tilePg_mtile] at hq
  have hnext : s.dev.next c m = (top, (top, e, n - 1) :: rest) := Dev.next_of_loop_end hloops hpc hn
  refine ⟨s.dev.stepNop c m 0x0A, rfl, ?_⟩
  rw [Dev.stepNop_of_looks ⟨hdom, hstuck, htried, hready, hq, hruns, hiw, hupset⟩]
  dsimp only
  rw [Dev.rd_pc_issued, Dev.sqGet_issued, hnext, fPC_mtile]
  exact ⟨Nat.mod_eq_of_lt htop, rfl⟩

/-- A legal LOOP of either tile, whose page and fields are `pg`, `pc`, `len` and `depth`. -/
theorem stepLoop_opens {d : Dev} {c u dom iw opMax endBits pg : Nat} {pc len depth : Fld} (h : AtStep d c u dom iw)
    (hpg : tilePg c u = pg) (hpc : fPC u = pc) (hlen : fLen u = len) (hdepth : fDepth u = depth) (hmax : 1 ≤ opMax)
    (hop : bitsOf iw 58 6 = 1) (hzero : bitsOf iw 48 10 = 0) (hzero' : bitsOf iw endBits (32 - endBits) = 0)
    (hcount : 0 < bitsOf iw 32 16) (htop : d.rd pg pc < bitsOf iw 0 endBits) (hend : bitsOf iw 0 endBits ≤ d.rd pg len) :
    d.TileFrame (d.stepLoop c u opMax endBits) ∧ Stepped d (d.stepLoop c u opMax endBits) c u dom 1 ∧
      (d.stepLoop c u opMax endBits).rd pg depth = 1 ∧
      ((d.stepLoop c u opMax endBits).sqGet c u).loops = [(d.rd pg pc + 1, bitsOf iw 0 endBits, bitsOf iw 32 16)] := by
  subst hpg hpc hlen hdepth
  rw [Dev.stepLoop_of_atStep h hop hmax hzero hzero' hcount htop hend, Stepped, Dev.rd_pc_goTo_succ _ (htop.trans_le hend),
    Dev.rd_depth_goTo, Dev.sqGet_goTo, Dev.sqGet_issued, Dev.hold_goTo, fDepth_width]
  exact ⟨(d.issued_tileFrame _ _ _ _).trans (Dev.goTo_tileFrame _ _ _ _ _), ⟨rfl, rfl, d.stepped_issued c u dom 1⟩, rfl, rfl⟩

/-- Settles O36, clause by clause: the two tiles share NOP and LOOP. -/
theorem controlStepsAdvance : Obligations.ControlStepsAdvance :=
  ⟨fun c m s _ h => ⟨s.dev.stepNop c m 0x0A, rfl, stepNop_advances h 0x0A⟩,
    fun c v s _ h => ⟨s.dev.stepNop c (10 + v) 0x17, rfl, stepNop_advances h 0x17⟩,
    mNop_returns_to_top,
    fun c m s _ _ h hop hzero hzero' hcount htop hend => ⟨s.dev.stepLoop c m 0x0A 8, rfl,
      stepLoop_opens h (tilePg_mtile c m) (fPC_mtile m) (fLen_mtile m) (fDepth_mtile m) (by decide) hop hzero hzero' hcount htop hend⟩,
    fun c v s _ _ h hop hzero hzero' hcount htop hend => ⟨s.dev.stepLoop c (10 + v) 0x17 9, rfl,
      stepLoop_opens h (tilePg_vtile c v) (fPC_vtile v) (fLen_vtile v) (fDepth_vtile v) (by decide) hop hzero hzero' hcount htop
        hend⟩⟩

end Sys2Proof
end

section
/-!
PROOFS of 02_streaming_pipeline.md: a step that may not issue stops the sequencer or waits, and the cycle counts (R36 to R38, R158).
-/

namespace Sys2Proof.Machine

/-! ### What bits that hardware sets leave alone (R9, R308) -/

/-- A hit writes the word of its field, and that word's event bits in the bank above. -/
theorem Dev.rd_hit_other (d : Dev) {base : Nat} {F : Fld} (v : Nat) {i : Nat} {base' : Nat} {G : Fld} {j : Nat}
    (h : (base' + G.off + G.stride * j) / 4 ≠ (base + F.off + F.stride * i) / 4)
    (hev : (base' + G.off + G.stride * j) / 4 ≠ eventKey (base + F.off + F.stride * i)) :
    (d.hit base F v i).rd base' G j = d.rd base' G j := by
  simp only [Dev.rd, Dev.hit, Dev.word, Dev.setWord, Tab.get_set_other _ _ _ _ h, Tab.get_set_other _ _ _ _ hev]

/-- Another field of the same word keeps its value. -/
theorem Dev.rd_hit_disjoint (d : Dev) {base : Nat} {F : Fld} {v i : Nat} {base' : Nat} {G : Fld} {j : Nat}
    (ha : base' + G.off + G.stride * j = base + F.off + F.stride * i) (hv : v < 2 ^ F.w) (hG : G.lo + G.w ≤ 32)
    (h : G.lo + G.w ≤ F.lo ∨ F.lo + F.w ≤ G.lo) :
    (d.hit base F v i).rd base' G j = d.rd base' G j := by
  refine Nat.eq_of_testBit_eq (fun k => ?_)
  simp only [Dev.rd, ha, Dev.word_hit_same, testBit_bitsOf, Nat.testBit_mod_two_pow, Nat.testBit_or, Nat.testBit_shiftLeft]
  by_cases hk : k < G.w
  · have hbit : G.lo + k < 32 := by omega
    have hout : (decide (F.lo ≤ G.lo + k) && v.testBit (G.lo + k - F.lo)) = false := by
      by_cases hlo : F.lo ≤ G.lo + k
      · have hle : F.w ≤ G.lo + k - F.lo := by omega
        simp [Nat.testBit_lt_two_pow (hv.trans_le (Nat.pow_le_pow_right (by decide) hle))]
      · simp [hlo]
    simp [hbit, hout]
  · simp [hk]

theorem Dev.flag_hit_one (d : Dev) (base : Nat) {F : Fld} (i : Nat) (hF : F.lo + F.w ≤ 32) (hw : 0 < F.w) :
    (d.hit base F 1 i).flag base F i = true := by
  have hbit := d.bitAt_rd_hit base F 1 i hF hw
  simp only [bitAt, Nat.testBit_one_zero, Bool.or_true] at hbit
  rw [Dev.flag, bne_iff_ne]
  intro h0
  rw [h0, Nat.zero_testBit] at hbit
  exact Bool.noConfusion hbit

/-- Raising a cause changes no field of its page behind the fault header. -/
theorem Dev.rd_raise_same_page (d : Dev) (base bit : Nat) (attr : Attr) {G : Fld} {j : Nat} (hlo : 0x24 ≤ G.off + G.stride * j)
    (hhi : G.off + G.stride * j < 0x1000) : (d.raise base bit attr).rd base G j = d.rd base G j := by
  have hhit : (d.hit base Reg.HDR.FLT_STAT (2 ^ bit)).rd base G j = d.rd base G j := by
    refine Dev.rd_hit_other _ _ ?_ ?_ <;> simp [Reg.HDR.FLT_STAT, eventKey] <;> omega
  unfold Dev.raise Dev.raiseFull
  dsimp only
  split
  · exact hhit
  · rw [Dev.rd_with_flt, Dev.rd_capture_other _ _ (by omega), hhit]

/-! ### ILLEGAL_OP of an M tile (R158) -/

/-- The first illegal step since ILL_VALID was cleared records its PC and reason. -/
theorem Dev.illegal_mtile {d : Dev} {c : Nat} {m : Fin 10} (h : d.flag (Pg.mtile c m) Reg.MTILE.ILL_VALID = false)
    (dom reason : Nat) :
    d.illegal c m dom reason =
      ((((d.sqSet c m { d.sqGet c m with stuck := true }).wr (Pg.mtile c m) Reg.MTILE.ILL_ADDR
        (d.rd (Pg.mtile c m) Reg.MTILE.PC)).wr (Pg.mtile c m) Reg.MTILE.ILL_REASON reason).hit (Pg.mtile c m)
          Reg.MTILE.ILL_VALID).raise (Pg.mtile c m) 3 (.unit dom c) := by
  simp [Dev.illegal, bitIllegal, tilePg_mtile, h]

/-- It stops the sequencer at its PC and raises ILLEGAL_OP. -/
theorem Dev.illegal_mtile_records {d : Dev} {c : Nat} {m : Fin 10} (h : d.flag (Pg.mtile c m) Reg.MTILE.ILL_VALID = false)
    (dom : Nat) {reason : Nat} (hreason : reason < 16) {e : Dev} (he : e = d.illegal c m dom reason) :
    (e.sqGet c m).stuck = true ∧ e.rd (Pg.mtile c m) Reg.MTILE.PC = d.rd (Pg.mtile c m) Reg.MTILE.PC ∧
      e.rd (Pg.mtile c m) Reg.MTILE.ILL_ADDR = d.rd (Pg.mtile c m) Reg.MTILE.PC ∧
      e.rd (Pg.mtile c m) Reg.MTILE.ILL_REASON = reason ∧ e.flag (Pg.mtile c m) Reg.MTILE.ILL_VALID = true ∧
      bitAt (e.rd (Pg.mtile c m) Reg.HDR.FLT_STAT) 3 = true := by
  rw [he, Dev.illegal_mtile h]
  refine ⟨?stuck, ?pc, ?addr, ?why, ?valid, Dev.fltStat_raiseFull _ _ _ _ (by decide)⟩
  case stuck =>
    rw [Dev.sqGet_congr (Dev.raise_tl _ _ _ _), Dev.sqGet_congr (Dev.hit_tl _ _ _ _ _), Dev.sqGet_congr (Dev.wr_tl _ _ _ _ _),
      Dev.sqGet_congr (Dev.wr_tl _ _ _ _ _), Dev.sqGet_sqSet_same]
  case pc =>
    rw [Dev.rd_raise_same_page _ _ _ _ (by decide) (by decide),
      Dev.rd_hit_other _ _ (by simp [Reg.MTILE.PC, Reg.MTILE.ILL_VALID]; omega)
        (by simp [Reg.MTILE.PC, Reg.MTILE.ILL_VALID, eventKey]; omega),
      Dev.rd_wr_other _ _ (by simp [Reg.MTILE.PC, Reg.MTILE.ILL_REASON]; omega),
      Dev.rd_wr_other _ _ (by simp [Reg.MTILE.PC, Reg.MTILE.ILL_ADDR]; omega), Dev.rd_sqSet]
  case addr =>
    rw [Dev.rd_raise_same_page _ _ _ _ (by decide) (by decide), Dev.rd_hit_disjoint _ (by rfl) (by decide) (by decide) (by decide),
      Dev.rd_wr_disjoint _ _ (by rfl) (by decide) (by decide), Dev.rd_wr_same _ _ _ _ _ (by decide)]
    exact Nat.mod_eq_of_lt (d.rd_lt (Pg.mtile c m) Reg.MTILE.PC 0)
  case why =>
    rw [Dev.rd_raise_same_page _ _ _ _ (by decide) (by decide), Dev.rd_hit_disjoint _ (by rfl) (by decide) (by decide) (by decide),
      Dev.rd_wr_same _ _ _ _ _ (by decide)]
    exact Nat.mod_eq_of_lt hreason
  case valid =>
    rw [Dev.flag, Dev.rd_raise_same_page _ _ _ _ (by decide) (by decide), ← Dev.flag]
    exact Dev.flag_hit_one _ _ _ (by decide) (by decide)

/-! ### Waiting (R36, R37) -/

theorem Dev.headHolds_of_empty {d : Dev} {c u p slot n q : Nat} (hq : d.queueAtHead c (inPort u p) slot = some q)
    (hempty : d.qHead q = []) : d.headHolds c u (p, slot, n + 1) = false := by
  simp [Dev.headHolds, hq, hempty]

theorem Dev.stallQueues_qs (d : Dev) (qs : List Nat) : (d.stallQueues qs).qs = d.qs :=
  List.foldlRecOn (motive := fun e : Dev => e.qs = d.qs) _ _ rfl (fun _ he _ _ => he)

/-- The queues' descriptors lie above the pages of the units. -/
theorem Dev.rd_stallQueues (d : Dev) (qs : List Nat) {base : Nat} {F : Fld} {j : Nat}
    (h : base + F.off + F.stride * j < 0x1000000) : (d.stallQueues qs).rd base F j = d.rd base F j := by
  refine List.foldlRecOn (motive := fun e : Dev => e.rd base F j = d.rd base F j) _ _ rfl (fun e he q _ => ?_)
  refine (Dev.rd_wr_other _ _ ?_).trans he
  simp [Pg.queue, Reg.FQ.Q_STALL_IN]
  omega

/-- STALL_IN of the tile counts the cycle, and its PC stays. -/
theorem Dev.stallOn_mtile (d : Dev) (c : Fin 32) (m : Fin 10) (qs : List Nat) :
    (d.stallOn (Pg.mtile c m) qs).rd (Pg.mtile c m) Reg.MTILE.PC = d.rd (Pg.mtile c m) Reg.MTILE.PC ∧
      (d.stallOn (Pg.mtile c m) qs).qs = d.qs ∧ (d.stallOn (Pg.mtile c m) qs).rd (Pg.mtile c m) Reg.HDR.STALL_IN =
        min (d.rd (Pg.mtile c m) Reg.HDR.STALL_IN + 1) (2 ^ 32 - 1) := by
  have hc := c.isLt
  have hm := m.isLt
  refine ⟨?_, ?_, ?_⟩
  · rw [Dev.stallOn, Dev.rd_stallQueues _ _ (by simp [Pg.mtile, Pg.core, Reg.MTILE.PC]; omega)]
    exact Dev.rd_wr_other _ _ (by simp [Reg.MTILE.PC, Reg.HDR.STALL_IN]; omega)
  · rw [Dev.stallOn, Dev.stallQueues_qs, Dev.bump_qs]
  · rw [Dev.stallOn, Dev.rd_stallQueues _ _ (by simp [Pg.mtile, Pg.core, Reg.HDR.STALL_IN]; omega),
      Dev.rd_bump_same _ _ _ _ _ (by decide)]
    rfl

end Sys2Proof.Machine

namespace Sys2Proof

open Machine

/-! ### The clauses of O37 -/

theorem mNop_stops_at_reserved (c : Fin 32) (m : Fin 10) (s : State) (dom iw : Nat) (h : AtStep s.dev c m dom iw)
    (hop : 0x0A < bitsOf iw 58 6) (hvalid : s.dev.flag (Pg.mtile c m) Reg.MTILE.ILL_VALID = false) :
    GivesDev (.mNop c m) s (fun d => (d.sqGet c m).stuck = true ∧
      d.rd (Pg.mtile c m) Reg.MTILE.PC = s.dev.rd (Pg.mtile c m) Reg.MTILE.PC ∧
      d.rd (Pg.mtile c m) Reg.MTILE.ILL_ADDR = s.dev.rd (Pg.mtile c m) Reg.MTILE.PC ∧
      d.rd (Pg.mtile c m) Reg.MTILE.ILL_REASON = 0 ∧ d.flag (Pg.mtile c m) Reg.MTILE.ILL_VALID = true ∧
      bitAt (d.rd (Pg.mtile c m) Reg.HDR.FLT_STAT) 3 = true) := by
  have hvalid' : (s.dev.tries c m).flag (Pg.mtile c m) Reg.MTILE.ILL_VALID = false := by rwa [Dev.tries, Dev.flag_sqSet]
  have hstep : s.dev.stepNop c m 0x0A = (s.dev.tries c m).illegal c m dom 0 := by
    rw [Dev.stepNop, Dev.tryIssue_of_reserved (Dev.looks_of_atStep h) hop]
  have hrec := Dev.illegal_mtile_records hvalid' dom (by decide) hstep
  simp only [Dev.tries, Dev.rd_sqSet] at hrec
  exact ⟨s.dev.stepNop c m 0x0A, rfl, hrec⟩

theorem mDrop_waits_for_item (c : Fin 32) (m : Fin 10) (s : State) (dom iw q : Nat) (h : AtStep s.dev c m dom iw)
    (hop : bitsOf iw 58 6 = 10) (hzero : bitsOf iw 0 53 = 0) (hport : bitsOf iw 56 2 ≠ 3)
    (hq : s.dev.queueAtHead c (inPort m (bitsOf iw 56 2)) (bitsOf iw 53 3) = some q) (hempty : s.dev.qHead q = []) :
    GivesDev (.mDrop c m) s (fun d => d.rd (Pg.mtile c m) Reg.MTILE.PC = s.dev.rd (Pg.mtile c m) Reg.MTILE.PC ∧ d.qs = s.dev.qs ∧
      d.rd (Pg.mtile c m) Reg.HDR.STALL_IN = min (s.dev.rd (Pg.mtile c m) Reg.HDR.STALL_IN + 1) (2 ^ 32 - 1)) := by
  have hhead : s.dev.headHolds c m (bitsOf iw 56 2, bitsOf iw 53 3, 1) = false := Dev.headHolds_of_empty hq hempty
  have hmerge : mergeTakes [(bitsOf iw 56 2, bitsOf iw 53 3, 1)] = [(bitsOf iw 56 2, bitsOf iw 53 3, 1)] := rfl
  have hissue := Dev.tryIssue_of_missing (op := 10) (opMax := 0x0A) (takes := [(bitsOf iw 56 2, bitsOf iw 53 3, 1)]) (put := none)
    (interval := 1) (plan := fun _ iw _ => if bitsOf iw 0 53 ≠ 0 then .bad 1 else if bitsOf iw 56 2 = 3 then .bad 8
      else .go [(bitsOf iw 56 2, bitsOf iw 53 3, 1)] none 1) (Dev.looks_of_atStep h) hop (by decide) (by simp [hzero, hport])
    (by simp [hmerge, hhead])
  have hstep : ∃ l, s.dev.mDrop c m = (s.dev.tries c m).stallOn (Pg.mtile c m) l := by
    rw [Dev.mDrop, hissue, tilePg_mtile]
    exact ⟨_, rfl⟩
  obtain ⟨l, hl⟩ := hstep
  have hstall := (s.dev.tries c m).stallOn_mtile c m l
  rw [← hl] at hstall
  simp only [Dev.tries, Dev.rd_sqSet, Dev.sqSet_qs] at hstall
  exact ⟨s.dev.mDrop c m, rfl, hstall⟩

theorem mPhold_waits_for_output (c : Fin 32) (m : Fin 10) (s : State) (dom iw : Nat) (h : AtStep s.dev c m dom iw)
    (hop : bitsOf iw 58 6 = 9) (hzero : bitsOf iw 0 54 = 0)
    (hfull : s.dev.creditOk c m (bitsOf iw 54 4) 1 = false ∨ 4 ≤ (Tab.get s.dev.fab.outp (outKey c m 0) []).length) :
    GivesDev (.mPhold c m) s (fun d => d.rd (Pg.mtile c m) Reg.MTILE.PC = s.dev.rd (Pg.mtile c m) Reg.MTILE.PC ∧
      d.fab = s.dev.fab ∧
      d.rd (Pg.mtile c m) Reg.HDR.STALL_OUT = min (s.dev.rd (Pg.mtile c m) Reg.HDR.STALL_OUT + 1) (2 ^ 32 - 1)) := by
  have hissue := Dev.tryIssue_of_full (op := 9) (opMax := 0x0A) (takes := []) (interval := 1) (plan := fun _ iw _ =>
    if bitsOf iw 0 54 ≠ 0 then .bad 1 else .go [] (some (outKey c m 0, bitsOf iw 54 4)) 1) (Dev.looks_of_atStep h) hop (by decide)
    (by simp [hzero]) rfl rfl hfull
  have hstep : s.dev.mPhold c m = (s.dev.tries c m).bump (Pg.mtile c m) Reg.HDR.STALL_OUT := by
    rw [Dev.mPhold, hissue, tilePg_mtile]
  refine ⟨s.dev.mPhold c m, rfl, ?_⟩
  rw [hstep]
  refine ⟨?_, ?_, ?_⟩
  · rw [Dev.bump, Dev.rd_wr_other _ _ (by simp [Reg.MTILE.PC, Reg.HDR.STALL_OUT]; omega), Dev.tries, Dev.rd_sqSet]
  · rw [Dev.bump_fab, Dev.tries, Dev.sqSet_fab]
  · rw [Dev.rd_bump_same _ _ _ _ _ (by decide), Dev.tries, Dev.rd_sqSet]
    rfl

/-- Settles O37, clause by clause. -/
theorem stepsStopAndWait : Obligations.StepsStopAndWait :=
  ⟨mNop_stops_at_reserved, mDrop_waits_for_item, mPhold_waits_for_output⟩

end Sys2Proof
end

section
/-!
PROOFS of 03_fabric_and_tricks.md: packets are given their output lanes (R88, R90, R91).
-/

namespace Sys2Proof.Machine

/-- An output lane that is free goes to the one packet that waits for it, wherever the round-robin stands (R91). -/
theorem Dev.grant_of_only_waiter {d : Dev} {c i l k p out : Nat} (key : Nat)
    (hfree : Tab.get d.fab.lane (((64 * c + p) * 2 + k) * 2 + out) none = none) (honly : d.waiters c p k out = [2 * i + l]) :
    d.grant c key i l k p out = { d with fab := { d.fab with
      lane := Tab.set d.fab.lane (((64 * c + p) * 2 + k) * 2 + out) (some key) none
      route := Tab.set d.fab.route key (some (p, out)) none
      rr := Tab.set d.fab.rr (((64 * c + p) * 2 + k) * 2 + out) ((2 * i + l + 1) % 10) 0 } } := by
  by_cases hturn : Tab.get d.fab.rr (((64 * c + p) * 2 + k) * 2 + out) 0 ≤ 2 * i + l <;>
    simp [Dev.grant, hfree, honly, hturn]

/-- A packet for an endpoint, well formed as far as it has arrived, asks for the lane towards a neighbour that is not isolated. -/
theorem Dev.packetForward_to_neighbour {d : Dev} {c i k l p out dir n : Nat} {f : BFlit} {rest : List BFlit}
    (hiso : d.isolated c = false) (hroute : Tab.get d.fab.route (bufKey c i k l) none = none)
    (hbuf : Tab.get d.fab.buf (bufKey c i k l) [] = f :: rest) (hhead : f.head = true) (hkind : Hdr.kind f.item.data.toNat ≠ 7)
    (hlen : lenWrong (f :: rest) (Hdr.len f.item.data.toNat) = false) (hdest : endpointCode (Hdr.dest f.item.data.toNat) = true)
    (hstep : routeStep c f.item.data.toNat l = (p, out)) (hdir : portDir p = some dir) (hn : neighbour c dir = some n)
    (hison : d.isolated n = false) :
    d.packetForward c i k l = d.grant c (bufKey c i k l) i l k p out := by
  simp [Dev.packetForward, hiso, hroute, hbuf, hhead, hkind, hlen, hdest, hstep, hdir, hn, hison]

end Sys2Proof.Machine

namespace Sys2Proof

open Machine

/-- Settles O20: the packet asks for its lane, and is the one that waits for it. -/
theorem packetsForwarded : Obligations.PacketsForwarded := by
  refine ⟨?forward, fun n s => ⟨s.dev.isoMapUpdate n, rfl, rfl, Tab.get_set_same _ _ _ _⟩⟩
  intro c i k lane s f rest kk p out dir n hkk hiso hroute hbuf hhead hkind hlen hdest hstep hdir hn hison hfree honly
  refine ⟨s.dev.packetForward c i kk lane, by rw [hkk]; rfl, ?_⟩
  rw [Dev.packetForward_to_neighbour hiso hroute hbuf hhead hkind hlen hdest hstep hdir hn hison,
    Dev.grant_of_only_waiter _ hfree honly]
  exact ⟨rfl, by rw [Tab.get_set_same], by rw [Tab.get_set_same]⟩

end Sys2Proof
end

section
/-!
PROOFS of 03_fabric_and_tricks.md: a write of CT_DATA does not clear a bit that hardware set in the same cycle (R9, R377).
-/

namespace Sys2Proof.Machine

/-- A bit that hardware set in this cycle stays set through a write of its word (R9). -/
theorem Dev.bitAt_storeReg_of_event {d : Dev} {a v i : Nat} (hgroup : (regGroup a).isSome = true) (hi : i < 32)
    (hword : bitAt (d.word a) i = true) (hev : bitAt (d.events a) i = true) : bitAt ((d.storeReg a v).word a) i = true := by
  obtain ⟨⟨fs, b⟩, hg⟩ := Option.isSome_iff_exists.mp hgroup
  simp only [bitAt] at hword hev
  simp only [Dev.storeReg, Dev.storeAt, hg, Dev.word_setWord_same, bitAt, Nat.testBit_mod_two_pow, Nat.testBit_or, Nat.testBit_and, hi,
    hword, hev, decide_true, Bool.true_and, Bool.or_true]

theorem Dev.hostPageWord_of_no_stall {d : Dev} {a : Nat} (h : NoStall d a) (v : Nat) : d.hostPageWord a v = d.pageWord a v := by
  have hwait : d.waitsAt .host (blockAt a) = false := h
  simp only [Dev.hostPageWord, hwait, Bool.false_eq_true, if_false]

theorem Dev.pageWord_ctData (d : Dev) (v : Nat) :
    d.pageWord (Pg.host + 0xAC) v = (d.storeReg (Pg.host + 0xAC) v).hostCt v := by
  have hkind : pageKind ((Pg.host + 0xAC) / 4096) = some (.hostport, 0) := by decide
  have hcore : PageKind.isCore .hostport = false := by decide
  have hoff : (Pg.host + 0xAC) % 4096 = 0xAC := by decide
  simp only [Dev.pageWord, hkind, hcore, Dev.chipWord, Dev.hostWord, hoff]
  simp

theorem Dev.hostCt_regs (d : Dev) (v : Nat) : (d.hostCt v).regs = d.regs := by
  by_cases h : d.rd Pg.host Reg.HOSTPORT.CT_INDEX < 1536
  · rw [Dev.hostCt, if_pos h, Dev.stageTarget]
  · rw [Dev.hostCt, if_neg h]

/-- CT_DATA holds 1, and its bit stands among those that hardware set in this cycle. -/
def ctDataEvent : State :=
  { State.reset with dev := { State.reset.dev with regs := [((Pg.host + 0xAC) / 4, 1), (eventKey (Pg.host + 0xAC), 1)] } }

end Sys2Proof.Machine

namespace Sys2Proof

open Machine

/-- The device that CT_DATA gives. -/
theorem dev_of_givesDev_ctData {w : Word} {s : State} {P : Dev → Prop} (hstall : NoStall s.dev Pg.host)
    (h : GivesDev (.ctData w) s P) : P ((s.dev.storeReg (Pg.host + 0xAC) w.toNat).hostCt w.toNat) := by
  obtain ⟨d, hd, hP⟩ := h
  have hexec : exec (.ctData w) s = .next { s with dev := s.dev.hostPageWord (Pg.host + 0xAC) w.toNat } := rfl
  have hstall' : NoStall s.dev (Pg.host + 0xAC) := hstall
  rw [hexec, Dev.hostPageWord_of_no_stall hstall', Dev.pageWord_ctData] at hd
  injection hd with hs
  have hdev : (s.dev.storeReg (Pg.host + 0xAC) w.toNat).hostCt w.toNat = d := congrArg State.dev hs
  rwa [hdev]

/-- Refutes O56 in its clause about CT_DATA, which has no premise about R9: where bit 0 of CT_DATA is set and the state holds it as a bit
that hardware set in this cycle, CT_DATA reads 1 after a write of 0. -/
theorem not_routeTablesFollow : ¬ Obligations.RouteTablesFollow := by
  intro ⟨_, _, _, _, _, _, hct⟩
  have hstall : NoStall ctDataEvent.dev Pg.host := by decide
  have hread := (dev_of_givesDev_ctData hstall (hct 0 ctDataEvent (by decide) hstall)).2
  have hclear : (ctDataEvent.dev.storeReg (Pg.host + 0xAC) 0).rd Pg.host Reg.HOSTPORT.CT_DATA = 0 :=
    (Dev.rd_congr (Dev.hostCt_regs _ _) _ _ _).symm.trans hread
  have hset : bitAt ((ctDataEvent.dev.storeReg (Pg.host + 0xAC) 0).rd Pg.host Reg.HOSTPORT.CT_DATA) 0 = true := by
    rw [bitAt, Dev.rd, testBit_bitsOf]
    exact Dev.bitAt_storeReg_of_event (by decide) (by decide) (by decide) (by decide)
  rw [hclear] at hset
  exact absurd hset (by decide)

end Sys2Proof
end

section
/-!
PROOFS of 03_fabric_and_tricks.md: what an access to a B tile leaves unchanged (R209 to R214, R329).
-/

namespace Sys2Proof.Machine

/-! ### What an access to a B tile leaves unchanged (R209 to R214) -/

theorem Dev.FaultFrame.wr {d e : Dev} (h : d.FaultFrame e) (base : Nat) (F : Fld) (v i : Nat) : d.FaultFrame (e.wr base F v i) :=
  h.trans (e.wr_frame base F v i)

theorem Dev.FaultFrame.hit {d e : Dev} (h : d.FaultFrame e) (base : Nat) (F : Fld) (v i : Nat) : d.FaultFrame (e.hit base F v i) :=
  h.trans (e.hit_frame base F v i)

theorem Dev.FaultFrame.raise {d e : Dev} (h : d.FaultFrame e) (base bit : Nat) (attr : Attr) : d.FaultFrame (e.raise base bit attr) :=
  h.trans (Dev.raiseFull_frame _ _ _ _ _)

theorem Dev.bUe_frame (d : Dev) (c b w : Nat) (scrub : Bool) (attr : Attr) : d.FaultFrame (d.bUe c b w scrub attr) := by
  have hbump : d.FaultFrame (d.bump (Pg.btile c b) Reg.BTILE.UE_CNT) := d.wr_frame _ _ _ _
  have hue := ((hbump.wr (Pg.btile c b) Reg.BTILE.UE_ADDR w 0).wr (Pg.btile c b) Reg.BTILE.UE_SCRUB (if scrub then 1 else 0) 0).hit
    (Pg.btile c b) Reg.BTILE.UE_VALID 1 0
  have himage (e : Dev) (he : d.FaultFrame e) :
      d.FaultFrame (if e.bInImage c b w then e.imageUe (e.coreDom c) (Pg.btile c b / 4096) else e) := by
    split
    · exact he.trans (e.withFlt_frame _)
    · exact he
  unfold Dev.bUe
  dsimp only
  split
  · exact himage _ (hbump.raise _ _ _)
  · exact himage _ (hue.raise _ _ _)

theorem Dev.bWinErr_frame (d : Dev) (c b p m w : Nat) (bulk : Bool) : d.FaultFrame (d.bWinErr c b p m w bulk) := by
  unfold Dev.bWinErr
  dsimp only
  split
  · rfl
  · exact ((((d.wr_frame _ _ _ _).wr _ _ _ _).wr _ _ _ _).wr _ _ _ _).hit _ _ _ _

theorem Dev.armedFor_frame (d : Dev) (kind page : Nat) : d.FaultFrame (d.armedFor kind page).2 := by
  unfold Dev.armedFor
  split
  · split_ifs
    · exact (d.withFlt_frame _).wr _ _ _ _
    · rfl
  · rfl

/-- From `d` to `e` only registers, the fault state, free values and performance counters changed. -/
def Dev.ReadFrame (d e : Dev) : Prop := e = { d with regs := e.regs, flt := e.flt, fv := e.fv, perf := e.perf }

theorem Dev.ReadFrame.trans {d e f : Dev} (h : d.ReadFrame e) (h' : e.ReadFrame f) : d.ReadFrame f := by
  unfold Dev.ReadFrame at *
  exact h'.trans (by rw [h])

theorem Dev.ReadFrame.qs_eq {d e : Dev} (h : d.ReadFrame e) : e.qs = d.qs := by
  unfold Dev.ReadFrame at h
  rw [h]

theorem Dev.FaultFrame.readFrame {d e : Dev} (h : d.FaultFrame e) : d.ReadFrame e := by
  unfold Dev.FaultFrame at h
  rw [h]
  rfl

theorem Dev.count_readFrame (d : Dev) (base mask ev n : Nat) : d.ReadFrame (d.count base mask ev n) := by
  unfold Dev.count
  split <;> rfl

theorem eccDecode_readFrame {d d1 : Dev} {pat data v : Nat} {r : EccRead} (h : eccDecode d pat data = (r, v, d1)) : d.ReadFrame d1 := by
  have hd : d1 = (eccDecode d pat data).2.2 := by rw [h]
  rw [hd]
  unfold eccDecode Dev.choose
  dsimp only
  split_ifs <;> rfl

theorem Dev.bReadWord_readFrame (d : Dev) (c b w : Nat) (attr : Attr) : d.ReadFrame (d.bReadWord c b w attr).2.2.2 := by
  unfold Dev.bReadWord
  dsimp only
  split
  next h => exact eccDecode_readFrame h
  next h => exact (eccDecode_readFrame h).trans (Dev.wr_frame _ _ _ _ _).readFrame
  next h => exact (eccDecode_readFrame h).trans (Dev.bUe_frame _ _ _ _ _ _).readFrame

theorem Dev.bReadRun_readFrame (c b : Nat) (attr : Attr) : ∀ (n w : Nat) (d : Dev), d.ReadFrame (d.bReadRun c b w n attr).2.2.2
  | 0, _, _ => rfl
  | n + 1, w, d => (d.bReadWord_readFrame c b w attr).trans (Dev.bReadRun_readFrame c b attr n (w + 1) _)

theorem Dev.bReadWords_readFrame (d : Dev) (c b w n : Nat) (attr : Attr) : d.ReadFrame (d.bReadWords c b w n attr).2.2 := by
  have hrun := Dev.bReadRun_readFrame c b attr n w d
  unfold Dev.bReadWords
  dsimp only
  split_ifs
  · exact hrun.trans (Dev.count_readFrame _ _ _ _ _)
  · exact hrun

theorem Dev.bBulkMiss_readFrame (d : Dev) (c b w : Nat) : d.ReadFrame (d.bBulkMiss c b w) :=
  ((d.bWinErr_frame _ _ _ _ _ _).raise _ _ _).readFrame

theorem Dev.bWriteEntry_frame (d : Dev) (c b p m a : Nat) (bs : List Byte) : ∃ r f x, d.bWriteEntry c b p m a bs =
    { d with regs := r, flt := f, mem := x } := by
  have hmiss (w n : Nat) : d.FaultFrame (d.bWindowMiss c b p m w n) := (d.bWinErr_frame _ _ _ _ _ _).raise _ _ _
  have harm := d.armedFor_frame 0 (Pg.btile c b / 4096)
  unfold Dev.bWriteEntry
  dsimp only
  split_ifs
  · unfold Dev.FaultFrame at harm
    refine ⟨(d.armedFor 0 (Pg.btile c b / 4096)).2.regs, (d.armedFor 0 (Pg.btile c b / 4096)).2.flt, (d.bStore c b a bs).mem, ?_⟩
    unfold Dev.bStore
    dsimp only
    rw [harm]
  · exact ⟨_, _, d.mem, hmiss _ _⟩

/-! ### Descriptor words, which no access to a B tile writes (R97, R218) -/

/-- Addresses of the queue descriptors, of body mode descriptors, and of what stands above them in the register table. -/
def descriptorWord (a : Nat) : Prop := a < 2 ^ 29 ∧ (0x1000000 ≤ a ∨ 0x100000 ≤ a ∧ 0x200 ≤ a % 4096)

/-- The first 0x200 bytes of the page at `base` hold no descriptor. -/
def plainPage (base : Nat) : Prop := ∀ o < 0x200, base + o < 0x1000000 ∧ (base + o < 0x100000 ∨ (base + o) % 4096 < 0x200)

theorem plainPage_btile {c b : Nat} (hc : c < 32) (hb : b < 4) : plainPage (Pg.btile c b) := by
  intro o ho
  simp only [Pg.btile, Pg.core]
  omega

theorem plainPage_fault : plainPage Pg.fault := by
  intro o ho
  simp only [Pg.fault]
  omega

/-- From `d` to `e` no descriptor changed. -/
def Dev.KeepsDescriptors (d e : Dev) : Prop := ∀ a, descriptorWord a → e.word a = d.word a

theorem Dev.keepsDescriptors_of_regs {d e : Dev} (h : e.regs = d.regs) : d.KeepsDescriptors e := fun a _ => Dev.word_congr h a

section
variable {d e : Dev} {base : Nat} (h : d.KeepsDescriptors e) (hpg : plainPage base)
include h hpg

theorem Dev.KeepsDescriptors.setWord {o : Nat} (ho : o < 0x200) (v : Nat) : d.KeepsDescriptors (e.setWord (base + o) v) := by
  intro a ha
  obtain ⟨hlow, hplain⟩ := hpg o ho
  have hdesc := ha.2
  exact (Dev.word_setWord_other _ _ (by omega)).trans (h a ha)

theorem Dev.KeepsDescriptors.wr {F : Fld} {i : Nat} (hF : F.off + F.stride * i < 0x200) (v : Nat) : d.KeepsDescriptors (e.wr base F v i) := by
  rw [Dev.wr, Nat.add_assoc]
  exact h.setWord hpg hF _

theorem Dev.KeepsDescriptors.hit {F : Fld} {i : Nat} (hF : F.off + F.stride * i < 0x200) (v : Nat) :
    d.KeepsDescriptors (e.hit base F v i) := by
  intro a ha
  have hword := h.setWord hpg hF (e.word (base + (F.off + F.stride * i)) ||| v <<< F.lo) a ha
  rw [← Nat.add_assoc] at hword
  have hkey : a / 4 ≠ eventKey (base + F.off + F.stride * i) := by
    have hlt := ha.1
    unfold eventKey
    omega
  rw [← hword]
  simp only [Dev.hit, Dev.word, Tab.get_set_other _ _ _ _ hkey]

theorem Dev.KeepsDescriptors.capture (bit : Nat) : d.KeepsDescriptors (e.capture base bit) := by
  unfold Dev.capture
  split
  · exact (h.wr hpg (by decide) _).wr hpg (by decide) _
  · exact h.wr hpg (by decide) _

theorem Dev.KeepsDescriptors.raise (bit : Nat) (attr : Attr) : d.KeepsDescriptors (e.raise base bit attr) := by
  have hhit := h.hit hpg (F := Reg.HDR.FLT_STAT) (i := 0) (by decide) (2 ^ bit)
  unfold Dev.raise Dev.raiseFull
  dsimp only
  split_ifs
  · exact hhit
  · exact hhit.capture hpg bit

end

theorem Dev.bWriteEntry_keepsDescriptors (d : Dev) {c b : Nat} (hc : c < 32) (hb : b < 4) (p m a : Nat) (bs : List Byte) :
    d.KeepsDescriptors (d.bWriteEntry c b p m a bs) := by
  have hpg := plainPage_btile hc hb
  have hmiss (w n : Nat) : d.KeepsDescriptors (d.bWindowMiss c b p m w n) := by
    refine Dev.KeepsDescriptors.raise ?_ hpg _ _
    unfold Dev.bWinErr
    dsimp only
    split
    · exact Dev.keepsDescriptors_of_regs rfl
    · refine Dev.KeepsDescriptors.hit ?_ hpg (by decide) _
      exact ((((Dev.keepsDescriptors_of_regs rfl).wr hpg (by decide) _).wr hpg (by decide) _).wr hpg (by decide) _).wr hpg
        (by decide) _
  have harm : d.KeepsDescriptors (d.armedFor 0 (Pg.btile c b / 4096)).2 := by
    unfold Dev.armedFor
    split
    · split
      · exact Dev.KeepsDescriptors.wr (Dev.keepsDescriptors_of_regs rfl) plainPage_fault (by decide) _
      · exact Dev.keepsDescriptors_of_regs rfl
    · exact Dev.keepsDescriptors_of_regs rfl
  unfold Dev.bWriteEntry
  dsimp only
  split
  · exact fun x hx => harm x hx
  · exact hmiss _ _

theorem descriptorWord_queue {q o : Nat} (hq : q < 61440) (ho : o < 32) : descriptorWord (Pg.queue q + o) := by
  simp only [descriptorWord, Pg.queue]
  omega

theorem descriptorWord_bmdAt (d : Dev) {c b i o : Nat} (st : Bool) (hc : c < 32) (hb : b < 4) (hi : i < 16) (ho : o < 32) :
    descriptorWord (d.bmdAt c b i st + o) := by
  simp only [descriptorWord, Dev.bmdAt, Pg.bmd, Pg.btile, Pg.core, Pg.staged]
  split <;> omega

section
variable {d e : Dev} (h : d.KeepsDescriptors e) {q : Nat} (hq : q < 61440)
include h hq

theorem Dev.KeepsDescriptors.rd_queue {F : Fld} (hF : F.off < 32 ∧ F.stride = 0) : e.rd (Pg.queue q) F = d.rd (Pg.queue q) F := by
  have hword := h _ (descriptorWord_queue hq hF.1)
  simp only [Dev.rd, hF.2, Nat.zero_mul, Nat.add_zero, hword]

theorem Dev.KeepsDescriptors.qSize : e.qSize q = d.qSize q := h.rd_queue hq (by decide)

theorem Dev.KeepsDescriptors.rd_qBmd (hfab : e.fab = d.fab) {F : Fld} (hF : F.off < 32 ∧ F.stride = 0) {i : Nat} (hi : i < 16) :
    e.rd (e.qBmd q i) F = d.rd (d.qBmd q i) F := by
  have htile : e.qTile q = d.qTile q := h.rd_queue hq (by decide)
  have hbank (k : Nat) : e.bank k = d.bank k := by rw [Dev.bank, Dev.bank, hfab]
  have haddr : e.qBmd q i = d.qBmd q i := by rw [Dev.qBmd, Dev.qBmd, htile, Dev.bmdAt, Dev.bmdAt, hbank]
  have hcore : qCore q < 32 := by unfold qCore; omega
  have hword := h _ (descriptorWord_bmdAt d false hcore (d.rd_lt (Pg.queue q) Reg.FQ.BODY_TILE 0) hi hF.1)
  simp only [Dev.rd, haddr, hF.2, Nat.zero_mul, Nat.add_zero]
  rw [Dev.qBmd, Dev.qTile, hword]

theorem Dev.KeepsDescriptors.bmdOf (hfab : e.fab = d.fab) : e.bmdOf q = d.bmdOf q := by
  refine List.find?_congr (fun i hi => ?_)
  have hi' := List.mem_range.mp hi
  simp only [h.rd_qBmd hq hfab (F := Reg.BMD.MODE) (by decide) hi', h.rd_qBmd hq hfab (F := Reg.BMD.QUEUE) (by decide) hi',
    h.rd_qBmd hq hfab (F := Reg.BMD.DUAL) (by decide) hi', h.rd_qBmd hq hfab (F := Reg.BMD.QUEUE2) (by decide) hi']

theorem Dev.KeepsDescriptors.qMode (hfab : e.fab = d.fab) : e.qMode q = d.qMode q := by
  unfold Dev.qMode
  rw [h.qSize hq, h.bmdOf hq hfab]
  split
  · rfl
  · split
    next => rfl
    next i hi => exact h.rd_qBmd hq hfab (by decide) (List.mem_range.mp (List.mem_of_find?_eq_some hi))

end

end Sys2Proof.Machine
end

section
/-!
PROOFS of 03_fabric_and_tricks.md: queue pushes, responses, acknowledgements and spills (R87, R102, R106, R217, R237, R245, R249, R360).
-/

namespace Sys2Proof.Machine

/-! ### Items enter a FIFO-like body (R102, R106) -/

theorem Dev.bodyPut_qBody (d : Dev) (q port : Nat) (x : Item) (at_ : Nat) :
    (d.bodyPut q port x at_).qBody q = d.qBody q ++ [⟨q, { x with data := 0 }, at_⟩] := by
  obtain ⟨r, f, m, hput⟩ := d.bWriteEntry_frame (qCore q) (d.qTile q) port (d.qDom q) (d.bodyAddr q (d.bodyNext q)).1
    (leBytes (d.bodyAddr q (d.bodyNext q)).2 x.data.toNat)
  simp only [Dev.bodyPut, hput, Dev.qBody, Dev.setBody, Tab.get_set_same]

theorem Dev.bodyPut_fab (d : Dev) (q port : Nat) (x : Item) (at_ : Nat) : (d.bodyPut q port x at_).fab = d.fab := by
  obtain ⟨r, f, m, hput⟩ := d.bWriteEntry_frame (qCore q) (d.qTile q) port (d.qDom q) (d.bodyAddr q (d.bodyNext q)).1
    (leBytes (d.bodyAddr q (d.bodyNext q)).2 x.data.toNat)
  simp only [Dev.bodyPut, hput, Dev.setBody]

theorem Dev.bodyPut_keepsDescriptors (d : Dev) {q : Nat} (hq : q < 61440) (port : Nat) (x : Item) (at_ : Nat) :
    d.KeepsDescriptors (d.bodyPut q port x at_) := by
  have hcore : qCore q < 32 := by unfold qCore; omega
  exact fun a ha => d.bWriteEntry_keepsDescriptors hcore (d.rd_lt (Pg.queue q) Reg.FQ.BODY_TILE 0) port _ _ _ a ha

/-- An item pushed into the body of a queue without a BMD stands behind the others and is counted. -/
theorem Dev.pushBody_fifo {d : Dev} {q : Nat} (hq : q < 61440) (hmode : d.qMode q = 0) (x : Item) {e : Dev} (he : e = d.pushBody q x false) :
    e.qBody q = d.qBody q ++ [⟨q, { x with data := 0 }, d.cycle + 1⟩] ∧
      e.rd (Pg.queue q) Reg.FQ.COUNT = (d.rd (Pg.queue q) Reg.FQ.COUNT + 1) % 2 ^ Reg.FQ.COUNT.w := by
  have hkeep (p : Nat) := d.bodyPut_keepsDescriptors hq p x (d.cycle + 1)
  have hmode' (p : Nat) : (d.bodyPut q p x (d.cycle + 1)).qMode q = 0 :=
    ((hkeep p).qMode hq (d.bodyPut_fab q p x _)).trans hmode
  have hcount (p : Nat) : (d.bodyPut q p x (d.cycle + 1)).rd (Pg.queue q) Reg.FQ.COUNT = d.rd (Pg.queue q) Reg.FQ.COUNT :=
    (hkeep p).rd_queue hq (by decide)
  rw [he]
  simp only [Dev.pushBody, Dev.qAdd, hmode, hmode', hcount, zero_ne_one, if_false, Bool.false_eq_true]
  exact ⟨d.bodyPut_qBody q _ x _, Dev.rd_wr_same _ _ _ _ _ (by decide)⟩

/-! ### A service of the bulk port that has its B tile to itself (R207, R208, R217) -/

/-- Taking a packet changes the queue of packets at its endpoint only. -/
theorem Dev.popPacket_eq {d d1 : Dev} {code k h : Nat} {payload : List Item} (hpop : d.popPacket code k = some (h, payload, d1)) :
    ∃ pk, d1 = { d with fab := { d.fab with inPk := pk } } := by
  unfold Dev.popPacket at hpop
  split at hpop
  · cases hpop
  · split at hpop
    · split at hpop
      · cases hpop
        exact ⟨_, rfl⟩
      · cases hpop
    · cases hpop

theorem Dev.bGrant_of_alone {d : Dev} {c b w : Nat} (halone : BulkAlone d c b w) :
    d.bGrant (4 * c + b) (d.btReqs c b) ⟨3, 64, w, 4, .bulk⟩ = true := by
  obtain ⟨hreqs, huse⟩ := halone
  have hused (p : Nat) : d.bUsed (4 * c + b) p = false := by
    simp only [Dev.bUsed, List.any_eq_false]
    intro e he
    simp [huse e he]
  have hconflict (banks : List Nat) : d.bConflict (4 * c + b) [⟨3, 64, w, 4, .bulk⟩] 3 banks = false := by
    have hlower : d.mem.buse.any (fun e => e.1 == 4 * c + b && decide (e.2.1 < 3) && e.2.2.any (fun k => banks.contains k)) = false := by
      rw [List.any_eq_false]
      intro e he
      simp [huse e he]
    simp only [Dev.bConflict, hlower]
    simp
  simp [Dev.bGrant, hreqs, hused, hconflict, BReq.first]

theorem Serving_bulk (d : Dev) (c : Nat) (s : Bulk) : Tab.get (Serving d c s).mem.bulk c none = some s := by
  rw [Serving, Tab.get_set_same]

theorem Dev.bulkStart_of_left (d : Dev) (c : Nat) {s : Bulk} (hleft : s.left ≠ 0) : d.bulkStart c s = (Serving d c s).bulkTurn c :=
  if_neg hleft

/-- The service makes its first access in the cycle in which it begins. -/
theorem Dev.bulkStart_of_alone {d : Dev} {c w : Nat} {s : Bulk} (hleft : s.left ≠ 0)
    (hroom : s.kind = 2 → d.qMode s.q ≠ 3 ∧ d.qFull s.q = false) (halone : BulkAlone (Serving d c s) c s.tile w) :
    d.bulkStart c s = ((Serving d c s).bTake c s.tile 3 (banksOf w 4)).bulkAccess c s := by
  have hserved := Serving_bulk d c s
  have hstays : ¬ (s.kind = 2 ∧ ((Serving d c s).qMode s.q = 3 ∨ (Serving d c s).qFull s.q = true)) := by
    rintro ⟨hk, hfull⟩
    obtain ⟨hmode, hfree⟩ := hroom hk
    exact hfull.elim hmode (fun h => Bool.noConfusion (hfree.symm.trans h))
  have hfind : ((Serving d c s).btReqs c s.tile).find? (fun r => r.act == .bulk) = some ⟨3, 64, w, 4, .bulk⟩ := by
    rw [halone.1]
    rfl
  simp only [Dev.bulkStart_of_left d c hleft, Dev.bulkTurn, hserved, if_neg hstays, hfind, Dev.bGrant_of_alone halone, if_true]

theorem Dev.bTake_qs (d : Dev) (c b p : Nat) (banks : List Nat) : (d.bTake c b p banks).qs = d.qs := by rw [Dev.bTake, Dev.count_qs]
theorem Dev.bTake_regs (d : Dev) (c b p : Nat) (banks : List Nat) : (d.bTake c b p banks).regs = d.regs := by rw [Dev.bTake, Dev.count_regs]
theorem Dev.bTake_fab (d : Dev) (c b p : Nat) (banks : List Nat) : (d.bTake c b p banks).fab = d.fab := by rw [Dev.bTake, Dev.count_fab]
theorem Dev.bTake_cycle (d : Dev) (c b p : Nat) (banks : List Nat) : (d.bTake c b p banks).cycle = d.cycle := by
  rw [Dev.bTake, Dev.count_cycle]

/-! ### Queue pushes (R106, R217) -/

/-- The service of a queue push of which one item is left. -/
def lastPush (h q b : Nat) (x : Item) : Bulk := ⟨2, h, q, b, 0, [x], [], 1, false⟩

/-- `d` with no service at the bulk port of core `c`. -/
def Dev.bulkIdle (d : Dev) (c : Nat) : Dev := { d with mem := { d.mem with bulk := Tab.set d.mem.bulk c none none } }

theorem Dev.bulkIdle_served_regs (d : Dev) (c b : Nat) : ((d.bulkIdle c).bulkServed c b).regs = d.regs := Dev.count_regs _ _ _ _ _
theorem Dev.bulkIdle_served_qs (d : Dev) (c b : Nat) : ((d.bulkIdle c).bulkServed c b).qs = d.qs := Dev.count_qs _ _ _ _ _
theorem Dev.bulkIdle_served_bulk (d : Dev) (c b : Nat) : Tab.get ((d.bulkIdle c).bulkServed c b).mem.bulk c none = none := by
  rw [Dev.bulkServed, Dev.count_mem, Dev.bulkIdle, Tab.get_set_same]

theorem Dev.bulkNext_lastPush (d : Dev) (c h q b : Nat) (x : Item) :
    d.bulkNext c { lastPush h q b x with payload := [] } = (d.bulkIdle c).bulkServed c b := rfl

theorem Dev.bulkAccess_lastPush (d : Dev) (c h q b : Nat) (x : Item) :
    d.bulkAccess c (lastPush h q b x) = ((d.pushBody q (x.narrow (d.qNet q)) false).bulkIdle c).bulkServed c b := rfl

/-- The one item of a push to a queue without a BMD that has room enters its body at once. -/
theorem Dev.bulkStart_lastPush {d e : Dev} {c h q b w : Nat} {x : Item} (he : e = d.bulkStart c (lastPush h q b x)) (hq : q < 61440)
    (hmode : d.qMode q = 0) (hroom : d.qFull q = false) (halone : BulkAlone (Serving d c (lastPush h q b x)) c b w) :
    e.qBody q = d.qBody q ++ [⟨q, { x with data := 0 }, d.cycle + 1⟩] ∧
      e.rd (Pg.queue q) Reg.FQ.COUNT = (d.rd (Pg.queue q) Reg.FQ.COUNT + 1) % 2 ^ Reg.FQ.COUNT.w ∧
      Tab.get e.mem.bulk c none = none := by
  have htaken := (Serving d c (lastPush h q b x)).bTake_regs c b 3 (banksOf w 4)
  have hne : d.qMode q ≠ 3 := by omega
  have hmode' : ((Serving d c (lastPush h q b x)).bTake c b 3 (banksOf w 4)).qMode q = 0 :=
    ((Dev.keepsDescriptors_of_regs htaken).qMode hq (Dev.bTake_fab _ _ _ _ _)).trans hmode
  have hstart := Dev.bulkStart_of_alone (s := lastPush h q b x) one_ne_zero (fun _ => ⟨hne, hroom⟩) halone
  rw [hstart] at he
  change e = Dev.bulkAccess _ c (lastPush h q b x) at he
  obtain ⟨hbody, hcount⟩ := Dev.pushBody_fifo hq hmode' (x.narrow (Dev.qNet _ q)) rfl
  rw [Dev.bTake_cycle, Dev.qBody, Dev.qBody, Dev.bTake_qs] at hbody
  rw [Dev.rd_congr htaken] at hcount
  rw [he, Dev.bulkAccess_lastPush, Dev.qBody, Dev.bulkIdle_served_qs, Dev.rd_congr (Dev.bulkIdle_served_regs _ _ _)]
  exact ⟨hbody, hcount, Dev.bulkIdle_served_bulk _ _ _⟩

theorem Dev.setOvr_qs (d : Dev) (q : Nat) : (d.setOvr q).qs = d.qs := by
  unfold Dev.setOvr
  dsimp only
  split <;> rfl

theorem Dev.qOverrun_qs (d : Dev) (q : Nat) : (d.qOverrun q).qs = d.qs := by rw [Dev.qOverrun, Dev.raise_qs, Dev.setOvr_qs]

/-- The one item of a push to a full queue is discarded with Q_OVERRUN. -/
theorem Dev.bulkStart_lastPush_full {d e : Dev} {c h q b : Nat} {x : Item} (he : e = d.bulkStart c (lastPush h q b x))
    (hfull : d.qFull q = true) :
    e.qs = d.qs ∧ bitAt (e.rd (Pg.qeng (qCore q)) Reg.HDR.FLT_STAT) 0 = true := by
  have hserved := Serving_bulk d c (lastPush h q b x)
  have hdrop : (lastPush h q b x).kind = 2 ∧ ((Serving d c (lastPush h q b x)).qMode (lastPush h q b x).q = 3 ∨
      (Serving d c (lastPush h q b x)).qFull (lastPush h q b x).q = true) := ⟨rfl, .inr hfull⟩
  have hturn : d.bulkStart c (lastPush h q b x) = (((Serving d c (lastPush h q b x)).qOverrun q).bulkIdle c).bulkServed c b := by
    have hleft : (lastPush h q b x).left ≠ 0 := one_ne_zero
    simp only [Dev.bulkStart_of_left d c hleft, Dev.bulkTurn, hserved, if_pos hdrop]
    exact Dev.bulkNext_lastPush _ _ _ _ _ _
  rw [he, hturn, Dev.bulkIdle_served_qs, Dev.rd_congr (Dev.bulkIdle_served_regs _ _ _)]
  exact ⟨Dev.qOverrun_qs _ _, Dev.fltStat_raiseFull _ _ _ _ (by decide)⟩

section
variable {d d1 : Dev} {n h : Nat} {payload : List Item} (hn : n < 32) (hpop : d.popPacket n 2 = some (h, payload, d1))
include hn hpop

theorem Dev.queuePush_of_queue (htarget : Hdr.target h % 2048 < 1920) (hen : d.qEn (1920 * n + Hdr.target h % 2048) = true)
    (hsize : d.qSize (1920 * n + Hdr.target h % 2048) ≠ 0)
    (hfree : d.bulkFree n (d.qTile (1920 * n + Hdr.target h % 2048)) = true) :
    d.queuePush n = d1.bulkStart n ⟨2, h, 1920 * n + Hdr.target h % 2048, d.qTile (1920 * n + Hdr.target h % 2048), 0,
      payload.map (fun x => { x with fsb := false }), [], payload.length, false⟩ := by
  obtain ⟨pk, rfl⟩ := Dev.popPacket_eq hpop
  have htakes : ¬ (1920 ≤ Hdr.target h % 2048 ∨ d.qEn (1920 * n + Hdr.target h % 2048) = false ∨
      d.qSize (1920 * n + Hdr.target h % 2048) = 0) := by
    simp [hen, hsize, htarget]
  rw [Dev.queuePush, if_pos hn]
  simp only [Dev.queuePushCore, hpop]
  exact (if_neg htakes).trans (if_neg (fun hbusy => Bool.noConfusion (hfree.symm.trans hbusy)))

theorem Dev.queuePush_of_no_queue (hno : 1920 ≤ Hdr.target h % 2048 ∨ d.qEn (1920 * n + Hdr.target h % 2048) = false) :
    d.queuePush n = d1.raise (Pg.qeng n) 3 (.unit (d1.qDom (1920 * n + Hdr.target h % 2048)) n) := by
  obtain ⟨pk, rfl⟩ := Dev.popPacket_eq hpop
  rw [Dev.queuePush, if_pos hn]
  simp only [Dev.queuePushCore, hpop]
  exact if_pos (hno.imp_right .inl)

end

/-! ### Spills (R237, R245, R249) -/

theorem Dev.PacketFrame.qs_eq {d e : Dev} (h : d.PacketFrame e) : e.qs = d.qs := by
  unfold Dev.PacketFrame at h
  rw [h]

section
variable (d : Dev) (src dest kind target addr txid cls : Nat) (payload : List Item) (dom : Option Nat) (psum : Bool) (own : Nat)

theorem Dev.sendPacket_qs : (d.sendPacket src dest kind target addr txid cls payload dom psum own).2.qs = d.qs :=
  (Dev.sendPacket_packetFrame (Prod.eta _).symm).qs_eq

theorem Dev.sendPacket_mem : (d.sendPacket src dest kind target addr txid cls payload dom psum own).2.mem = d.mem :=
  (Dev.sendPacket_packetFrame (Prod.eta _).symm).mem_eq

end

section
variable {d : Dev} {c : Nat} {s : Bulk} (hkind : s.kind = 5)
include hkind

/-- The service of a spill reads the next item of the body, whatever the window and the code make of it. -/
theorem Dev.bulkAccess_spill : ∃ (x : Item) (e : Dev), d.ReadFrame e ∧
    d.bulkAccess c s = e.bulkNext c { s with addr := s.addr + 1, got := s.got ++ [x] } := by
  simp only [Dev.bulkAccess, hkind]
  generalize hr : (if d.bBulkOk c s.tile ((d.bodyAddr s.q s.addr).1 / 32 * 4) 4 false = true then
    d.bReadWords c s.tile ((d.bodyAddr s.q s.addr).1 / 32 * 4) 4 .none_
    else (0, true, d.bBulkMiss c s.tile ((d.bodyAddr s.q s.addr).1 / 32 * 4))) = r
  have hframe : d.ReadFrame r.2.2 := by
    rw [← hr]
    split
    · exact d.bReadWords_readFrame _ _ _ _ _
    · exact d.bBulkMiss_readFrame _ _ _
  exact ⟨_, r.2.2, hframe, rfl⟩

/-- The items of a spill packet leave the body when it is sent, and count as sent. -/
theorem Dev.bulkEnd_spill : (d.bulkEnd c s).qBody s.q = (d.qBody s.q).drop s.got.length ∧
    Tab.get (d.bulkEnd c s).qs.spSent s.q 0 = Tab.get d.qs.spSent s.q 0 + s.got.length := by
  simp only [Dev.bulkEnd, hkind, Dev.qBody]
  rw [Dev.sendPacket_qs]
  simp only [Dev.setBody, Tab.get_set_same]
  exact ⟨rfl, rfl⟩

end

/-- A spill that has its B tile to itself reads its first item at once. -/
theorem Dev.bulkStart_spill {d : Dev} {c w : Nat} {s : Bulk} (hkind : s.kind = 5) (hleft : s.left ≠ 0) (hgot : s.got = [])
    (halone : BulkAlone (Serving d c s) c s.tile w) {e : Dev} (he : e = d.bulkStart c s) :
    (s.left = 1 → Tab.get e.qs.spSent s.q 0 = Tab.get d.qs.spSent s.q 0 + 1 ∧ e.qBody s.q = (d.qBody s.q).drop 1) ∧
      (1 < s.left → e.qBody s.q = d.qBody s.q ∧ ∃ x : Item, Tab.get e.mem.bulk c none =
        some { s with addr := s.addr + 1, got := [x], left := s.left - 1 }) := by
  obtain ⟨x, d1, hframe, haccess⟩ := Dev.bulkAccess_spill (d := (Serving d c s).bTake c s.tile 3 (banksOf w 4)) (c := c) hkind
  have hqs : d1.qs = d.qs := hframe.qs_eq.trans (Dev.bTake_qs _ _ _ _ _)
  rw [he, Dev.bulkStart_of_alone hleft (fun h2 => absurd (hkind.symm.trans h2) (by decide)) halone, haccess, hgot]
  constructor
  · intro h1
    obtain ⟨hbody, hsent⟩ := Dev.bulkEnd_spill (d := d1) (c := c) (s := { s with addr := s.addr + 1, got := [x], left := 0 }) hkind
    rw [Dev.bulkNext, if_pos (by exact h1.le)]
    rw [hqs] at hsent
    rw [Dev.qBody, Dev.qBody, hqs] at hbody
    exact ⟨hsent, hbody⟩
  · intro h1
    rw [Dev.bulkNext, if_neg (by exact h1.not_ge)]
    refine ⟨?_, x, ?_⟩
    · rw [Dev.qBody, Dev.qBody, ← hqs]
    · rw [Tab.get_set_same]
      rfl

theorem Dev.spillSend_of_ready {d : Dev} {c b i q n : Nat} (hq : q = 1920 * c + d.rd (d.bmdAt c b i false) Reg.BMD.QUEUE)
    (hmode : d.rd (d.bmdAt c b i false) Reg.BMD.MODE = 4) (hen : d.qEn q = true) (hrun : d.running (d.qDom q) = true)
    (htile : d.qTile q = b) (hfence : d.fenced c = false) (hfree : d.bulkFree c b = true)
    (hn : n = bitsOf (d.rd (d.bmdAt c b i false) Reg.BMD.MODEARG) 6 6 + 1)
    (hready : n ≤ ((d.qBody q).filter (fun x => decide (x.at_ ≤ d.cycle))).length) :
    d.spillSend c b i =
      d.bulkStart c ⟨5, bitsOf (d.rd (d.bmdAt c b i false) Reg.BMD.MODEARG) 0 6, q, b, d.bodyIndex q 0, [], [], n, false⟩ := by
  subst hq hn
  simp only [Dev.spillSend, if_pos hready]
  exact if_neg (by simp [hmode, hen, hrun, htile, hfence, hfree])

@[simp] theorem Dev.stGet_stSet_same (d : Dev) (f s : Nat) (x : FStream) : (d.stSet f s x).stGet f s = x := by
  rw [Dev.stGet, Dev.stSet, Tab.get_set_same]

@[simp] theorem Dev.stGet_setStState (d : Dev) (f s v g t : Nat) : (d.setStState f s v).stGet g t = d.stGet g t := rfl

theorem Dev.setStState_stSet_frame (d : Dev) (f s v : Nat) (x : FStream) {e : Dev} (he : e = (d.stSet f s x).setStState f s v) :
    e = { d with mem := e.mem, regs := e.regs } := by
  rw [he]
  rfl

theorem Dev.stState_setStState (d : Dev) (f s v : Nat) : (d.setStState f s v).stState f s = v % 8 := Dev.rd_wr_same _ _ _ _ _ (by decide)

/-- SPILL_PACKET of a live SPILL stream whose pass may begin: its writes queue behind those of the stream. -/
theorem Dev.spillPacket_of_live {d d1 : Dev} {f h : Nat} {payload : List Item} (hpop : d.popPacket (32 + f) 0 = some (h, payload, d1))
    (hst : Hdr.target h < 64) (hkind : d.sd f (Hdr.target h) Reg.SDESC.KIND = 6) (hlive : d.stLive f (Hdr.target h) = true)
    (hdue : d.passDue f (Hdr.target h) ((Hdr.addr h + payload.length - 1) / max 1 (d.passItems f (Hdr.target h))) = true) :
    ∃ x : FStream, d.spillPacket f = (if d.stState f (Hdr.target h) = 0 then (d1.stSet f (Hdr.target h) x).setStState f (Hdr.target h) 1
        else d1.stSet f (Hdr.target h) x) ∧ x.spill = (d.stGet f (Hdr.target h)).spill ++ [(h, payload)] := by
  obtain ⟨pk, rfl⟩ := Dev.popPacket_eq hpop
  have htakes : ¬ (64 ≤ Hdr.target h ∨ d.sd f (Hdr.target h) Reg.SDESC.KIND ≠ 6 ∨ d.stLive f (Hdr.target h) = false) := by
    simp [hst, hkind, hlive]
  simp only [Dev.spillPacket, hpop]
  refine ⟨_, (if_neg htakes).trans (if_neg (by simp [hdue])), rfl⟩

/-- A SPILL stream whose items before `done` are stored, with the packets `rest` in service; a pass has `n` items. -/
def FStream.stored (x : FStream) (rest : List (Nat × List Item)) (done n : Nat) : FStream :=
  { x with spill := rest, spDone := done, passDone := done / n }

/-- SPILL_ACK once the writes of the oldest packet are stored: `e` is the device that has sent the acknowledgement. -/
theorem Dev.spillAck_of_stored {d : Dev} {f s h : Nat} {payload : List Item} {rest : List (Nat × List Item)}
    (hspill : (d.stGet f s).spill = (h, payload) :: rest) (hwq : (d.stGet f s).wq = [])
    (hdone : d.mem.reqs.any (fun r => r.f == f && r.st == s && r.write && !r.done) = false) :
    ∃ e : Dev, e.stGet f s = (d.stGet f s).stored rest (max (d.stGet f s).spDone (Hdr.addr h + payload.length))
        (max 1 (d.passItems f s)) ∧
      d.spillAck f s = if rest.isEmpty then e.setStState f s 0 else e := by
  have hstored : ¬ ((d.stGet f s).wq.isEmpty = false ∨
      d.mem.reqs.any (fun r => r.f == f && r.st == s && r.write && !r.done) = true) := by
    simp only [hwq, hdone]
    decide
  simp only [Dev.spillAck, hspill]
  refine ⟨_, ?_, if_neg hstored⟩
  rw [Dev.stGet, Dev.sendPacket_mem]
  exact Dev.stGet_stSet_same _ _ _ _

end Sys2Proof.Machine

namespace Sys2Proof

open Machine

/-! ### The clauses of O45 -/

theorem queuePush_enters (n : Fin 64) (s : State) (h q : Nat) (x : Item) (d1 d2 : Dev) (hn : n.val < 32)
    (hpop : s.dev.popPacket n 2 = some (h, [x], d1)) (hq : q = 1920 * n.val + Hdr.target h % 2048)
    (htarget : Hdr.target h % 2048 < 1920) (hen : s.dev.qEn q = true) (hsize : s.dev.qSize q ≠ 0) (hmode : s.dev.qMode q = 0)
    (hroom : s.dev.qFull q = false) (hfree : s.dev.bulkFree n (s.dev.qTile q) = true)
    (hd2 : d2 = Serving d1 n ⟨2, h, q, s.dev.qTile q, 0, [{ x with fsb := false }], [], 1, false⟩)
    (halone : BulkAlone d2 n (s.dev.qTile q) (s.dev.bodyWord q)) :
    GivesDev (.queuePush n) s (fun d => d.qBody q = s.dev.qBody q ++ [⟨q, { x with data := 0, fsb := false }, s.dev.cycle + 1⟩] ∧
      d.rd (Pg.queue q) Reg.FQ.COUNT = (s.dev.rd (Pg.queue q) Reg.FQ.COUNT + 1) % 2 ^ Reg.FQ.COUNT.w ∧
      Tab.get d.mem.bulk n none = none) := by
  subst hd2
  refine ⟨s.dev.queuePush n, rfl, ?_⟩
  have hstart : s.dev.queuePush n = d1.bulkStart n (lastPush h q (s.dev.qTile q) { x with fsb := false }) := by
    subst hq
    exact Dev.queuePush_of_queue hn hpop htarget hen hsize hfree
  obtain ⟨pk, rfl⟩ := Dev.popPacket_eq hpop
  exact Dev.bulkStart_lastPush hstart (by omega) hmode hroom halone

theorem queuePush_overruns (n : Fin 64) (s : State) (h q : Nat) (x : Item) (d1 : Dev) (hn : n.val < 32)
    (hpop : s.dev.popPacket n 2 = some (h, [x], d1)) (hq : q = 1920 * n.val + Hdr.target h % 2048)
    (htarget : Hdr.target h % 2048 < 1920) (hen : s.dev.qEn q = true) (hsize : s.dev.qSize q ≠ 0)
    (hfull : s.dev.qFull q = true) (hfree : s.dev.bulkFree n (s.dev.qTile q) = true) :
    GivesDev (.queuePush n) s (fun d => d.qs.body = s.dev.qs.body ∧ bitAt (d.rd (Pg.qeng n) Reg.HDR.FLT_STAT) 0 = true) := by
  refine ⟨s.dev.queuePush n, rfl, ?_⟩
  have hstart : s.dev.queuePush n = d1.bulkStart n (lastPush h q (s.dev.qTile q) { x with fsb := false }) := by
    subst hq
    exact Dev.queuePush_of_queue hn hpop htarget hen hsize hfree
  have hcore : qCore q = n.val := by
    unfold qCore
    omega
  obtain ⟨pk, rfl⟩ := Dev.popPacket_eq hpop
  obtain ⟨hqs, hbit⟩ := Dev.bulkStart_lastPush_full hstart hfull
  exact ⟨by rw [hqs], hcore ▸ hbit⟩

theorem queuePush_refuses (n : Fin 64) (s : State) (h q : Nat) (payload : List Item) (d1 : Dev) (hn : n.val < 32)
    (hpop : s.dev.popPacket n 2 = some (h, payload, d1)) (hq : q = 1920 * n.val + Hdr.target h % 2048)
    (hno : 1920 ≤ Hdr.target h % 2048 ∨ s.dev.qEn q = false) :
    GivesDev (.queuePush n) s (fun d => d.qs = s.dev.qs ∧ bitAt (d.rd (Pg.qeng n) Reg.HDR.FLT_STAT) 3 = true) := by
  subst hq
  refine ⟨s.dev.queuePush n, rfl, ?_⟩
  rw [Dev.queuePush_of_no_queue hn hpop hno]
  obtain ⟨pk, rfl⟩ := Dev.popPacket_eq hpop
  exact ⟨Dev.raise_qs _ _ _ _, Dev.fltStat_raiseFull _ _ _ _ (by decide)⟩

theorem readResponse_ends_access (n : Fin 64) (s : State) (h : Nat) (payload : List Item) (d1 : Dev) (a : AperReq) (rest : List AperReq)
    (hn : n.val = 44) (hpop : s.dev.popPacket n 4 = some (h, payload, d1)) (haper : s.dev.hp.aper = a :: rest)
    (htx : a.tx = some (Hdr.txid h)) :
    GivesDev (.readResponse n) s (fun d => d = (d1.owedDone 44 (Hdr.srcn h)).aperResponse a rest payload (Hdr.psum h)) := by
  refine ⟨s.dev.readResponse n, rfl, ?_⟩
  have haper' : (d1.owedDone 44 (Hdr.srcn h)).hp.aper = a :: rest := by
    obtain ⟨pk, rfl⟩ := Dev.popPacket_eq hpop
    rw [(Dev.owedDone_packetFrame _ _ _).hp_eq]
    exact haper
  rw [hn] at hpop ⊢
  simp only [Dev.readResponse, hpop, ne_eq, not_true_eq_false, if_false, haper', htx, if_true]

theorem writeAcknowledgement_ends_record (n : Fin 64) (s : State) (h : Nat) (payload : List Item) (d1 : Dev) (e : Nat × Nat)
    (hn : n.val = 44) (hpop : s.dev.popPacket n 5 = some (h, payload, d1))
    (hsent : s.dev.hp.ldrTx.find? (fun e => e.1 == Hdr.txid h) = some e) :
    GivesDev (.writeAcknowledgement n) s (fun d => d = { d1.owedDone 44 (Hdr.srcn h) with hp := d.hp } ∧
      d.hp.ldrTx = s.dev.hp.ldrTx.erase e ∧
      d.hp.refused = if Hdr.psum h then (e.2, s.dev.recordOff (Hdr.txid h)) :: s.dev.hp.refused else s.dev.hp.refused) := by
  refine ⟨s.dev.writeAck n, rfl, ?_⟩
  have hhp : (d1.owedDone 44 (Hdr.srcn h)).hp = s.dev.hp := by
    obtain ⟨pk, rfl⟩ := Dev.popPacket_eq hpop
    exact (Dev.owedDone_packetFrame _ _ _).hp_eq
  rw [hn] at hpop ⊢
  simp [Dev.writeAck, hpop, Dev.recordOff, hhp, hsent]

theorem writeAcknowledgement_frees_spill (n : Fin 64) (s : State) (h : Nat) (payload : List Item) (d1 : Dev) (hn : n.val < 32)
    (hpop : s.dev.popPacket n 5 = some (h, payload, d1)) :
    GivesDev (.writeAcknowledgement n) s (fun d => d = (d1.owedDone n (Hdr.srcn h)).spillFreed n (Hdr.txid h)) :=
  ⟨s.dev.writeAck n, rfl, by simp only [Dev.writeAck, hpop, if_pos hn]⟩

theorem writeAcknowledgement_reaches_engine (n : Fin 64) (s : State) (h : Nat) (payload : List Item) (d1 : Dev) (hlo : 32 ≤ n.val)
    (hhi : n.val < 40) (hpop : s.dev.popPacket n 5 = some (h, payload, d1)) :
    GivesDev (.writeAcknowledgement n) s (fun d => d = (d1.owedDone n (Hdr.srcn h)).fetchAck (n.val - 32) (Hdr.txid h)) :=
  ⟨s.dev.writeAck n, rfl, by simp only [Dev.writeAck, hpop, if_neg hlo.not_gt, if_pos hhi]⟩

theorem spillSend_reads (c : Fin 32) (b : Fin 4) (i : Fin 16) (s : State) (a q n k : Nat) (d1 : Dev) (ha : a = s.dev.bmdAt c b i false)
    (hq : q = 1920 * c + s.dev.rd a Reg.BMD.QUEUE) (hmode : s.dev.rd a Reg.BMD.MODE = 4) (hen : s.dev.qEn q = true)
    (hrun : s.dev.running (s.dev.qDom q) = true) (htile : s.dev.qTile q = b.val) (hfence : s.dev.fenced c = false)
    (hfree : s.dev.bulkFree c b = true) (hn : n = bitsOf (s.dev.rd a Reg.BMD.MODEARG) 6 6 + 1)
    (hready : n ≤ ((s.dev.qBody q).filter (fun x => decide (x.at_ ≤ s.dev.cycle))).length) (hk : k = s.dev.bodyIndex q 0)
    (hd1 : d1 = Serving s.dev c ⟨5, bitsOf (s.dev.rd a Reg.BMD.MODEARG) 0 6, q, b, k, [], [], n, false⟩)
    (halone : BulkAlone d1 c b ((s.dev.bodyAddr q k).1 / 32 * 4)) :
    GivesDev (.spillSend c b i) s (fun d =>
      (n = 1 → Tab.get d.qs.spSent q 0 = Tab.get s.dev.qs.spSent q 0 + 1 ∧ d.qBody q = (s.dev.qBody q).drop 1) ∧
      (1 < n → d.qBody q = s.dev.qBody q ∧ ∃ x : Item, Tab.get d.mem.bulk c none =
        some ⟨5, bitsOf (s.dev.rd a Reg.BMD.MODEARG) 0 6, q, b, k + 1, [], [x], n - 1, false⟩)) := by
  subst ha hd1 hk
  have hleft : n ≠ 0 := by omega
  exact ⟨s.dev.spillSend c b i, rfl, Dev.bulkStart_spill (s := ⟨5, _, q, b, s.dev.bodyIndex q 0, [], [], n, false⟩) rfl hleft rfl halone
    (Dev.spillSend_of_ready hq hmode hen hrun htile hfence hfree hn hready)⟩

theorem spillPacket_stores (f : Fin 8) (s : State) (h : Nat) (payload : List Item) (d1 : Dev)
    (hpop : s.dev.popPacket (32 + f) 0 = some (h, payload, d1)) (hst : Hdr.target h < 64)
    (hkind : s.dev.sd f (Hdr.target h) Reg.SDESC.KIND = 6) (hlive : s.dev.stLive f (Hdr.target h) = true)
    (hdue : s.dev.passDue f (Hdr.target h) ((Hdr.addr h + payload.length - 1) / max 1 (s.dev.passItems f (Hdr.target h))) = true) :
    GivesDev (.spillPacket f) s (fun d => d = { d1 with mem := d.mem, regs := d.regs } ∧
      (d.stGet f (Hdr.target h)).spill = (s.dev.stGet f (Hdr.target h)).spill ++ [(h, payload)] ∧
      d.stState f (Hdr.target h) = if s.dev.stState f (Hdr.target h) = 0 then 1 else s.dev.stState f (Hdr.target h)) := by
  refine ⟨s.dev.spillPacket f, rfl, ?_⟩
  obtain ⟨x, hx, hspilled⟩ := Dev.spillPacket_of_live hpop hst hkind hlive hdue
  have hstate : d1.stState f (Hdr.target h) = s.dev.stState f (Hdr.target h) := by
    obtain ⟨pk, rfl⟩ := Dev.popPacket_eq hpop
    rfl
  rw [hx, ← hspilled]
  by_cases hidle : s.dev.stState f (Hdr.target h) = 0
  · rw [if_pos hidle, if_pos hidle]
    exact ⟨Dev.setStState_stSet_frame _ _ _ _ _ rfl, by rw [Dev.stGet_setStState, Dev.stGet_stSet_same], Dev.stState_setStState _ _ _ _⟩
  · rw [if_neg hidle, if_neg hidle]
    exact ⟨rfl, by rw [Dev.stGet_stSet_same], hstate⟩

theorem spillAck_acknowledges (f : Fin 8) (st : Fin 64) (s : State) (h : Nat) (payload : List Item) (rest : List (Nat × List Item))
    (hspill : (s.dev.stGet f st).spill = (h, payload) :: rest) (hwq : (s.dev.stGet f st).wq = [])
    (hdone : s.dev.mem.reqs.any (fun r => r.f == f.val && r.st == st.val && r.write && !r.done) = false) :
    GivesDev (.spillAck f st) s (fun d => (d.stGet f st).spill = rest ∧
      (d.stGet f st).spDone = max (s.dev.stGet f st).spDone (Hdr.addr h + payload.length) ∧
      (rest = [] → d.stState f st = 0)) := by
  refine ⟨s.dev.spillAck f st, rfl, ?_⟩
  obtain ⟨e, hget, he⟩ := Dev.spillAck_of_stored hspill hwq hdone
  have hget' : (s.dev.spillAck f st).stGet f st = e.stGet f st := by
    rw [he]
    split <;> rfl
  refine ⟨by rw [hget', hget]; rfl, by rw [hget', hget]; rfl, fun hrest => ?_⟩
  rw [he, if_pos (by rw [hrest]; rfl), Dev.stState_setStState]

/-- Settles O45, clause by clause. -/
theorem answersAndSpillsMove : Obligations.AnswersAndSpillsMove :=
  ⟨fun n s h q x d1 d2 hn hpop hq htarget hen hsize _ hmode hroom _ hfree =>
      queuePush_enters n s h q x d1 d2 hn hpop hq htarget hen hsize hmode hroom hfree,
    queuePush_overruns, queuePush_refuses, readResponse_ends_access, writeAcknowledgement_ends_record,
    writeAcknowledgement_frees_spill, writeAcknowledgement_reaches_engine, spillSend_reads, spillPacket_stores, spillAck_acknowledges⟩

end Sys2Proof
end

section
/-!
PROOFS of 04_queues.md: windows, items that land in heads and bodies, and credit words (R101 to R106, R121 to R123).
-/

namespace Sys2Proof.Machine

/-! ### An item enters a head without passing its body (R102, R121) -/

/-- `d` with item `x` at the end of the head of `q`, and counted. -/
def Dev.enterHead (d : Dev) (q : Nat) (x : Item) : Dev := (d.qAdd q 1).setHead q (d.qHead q ++ [x])

theorem Dev.enterHead_qHead (d : Dev) (q : Nat) (x : Item) : (d.enterHead q x).qHead q = d.qHead q ++ [x] := Tab.get_set_same _ _ _ _

theorem Dev.enterHead_lin (d : Dev) (q : Nat) (x : Item) : (d.enterHead q x).qs.lin = d.qs.lin := rfl

/-! ### Window reads (R121 to R123) -/

/-- The answer to a read of the device's own registers is no TUNNEL request (R398). -/
theorem Dev.emit_readDone (d : Dev) (who : Requester) (off v : Nat) :
    d.emit (.readDone who off v) = { d with out := .readDone who off v :: d.out } := by
  have hnone : (if d.noPcie then d.tunRequests (.readDone who off v) else []) = [] := ite_self _
  simp only [Dev.emit, hnone, List.isEmpty_nil, if_true]

section
variable {d d1 : Dev} {who : Requester} {q v : Nat} {e : Stall}

theorem Dev.winValue_of_word (hreads : d.winReads q = true) (hword : d.winReadWord q = some (v, d1)) :
    d.winValue q = some (v, d1) := by
  simp [Dev.winValue, hreads, hword]

theorem Dev.winValue_of_stall (hreads : d.winReads q = true) (hword : d.winReadWord q = none) (hstalls : d.winStalls q = true)
    (hover : d.stallOver q = false) : d.winValue q = none := by
  simp [Dev.winValue, hreads, hword, hstalls, hover]

theorem Dev.winValue_of_native (hreads : d.winReads q = true) (hword : d.winReadWord q = none) (hstalls : d.winStalls q = false) :
    d.winValue q = some (0, d) := by
  simp [Dev.winValue, hreads, hword, hstalls]

theorem Dev.windowRead_of_value (hfree : d.waitsAt who (winBlock q) = false) (hvalue : d.winValue q = some (v, d1)) :
    d.windowRead who q = { d1 with out := .readDone who (winOff q) v :: d1.out } := by
  simp only [Dev.windowRead, hfree, hvalue, Dev.emit_readDone, Bool.false_eq_true, if_false]

theorem Dev.windowRead_of_wait (h : d.waitsAt who (winBlock q) = true ∨ d.winValue q = none) :
    d.windowRead who q = d.hold_ who (winBlock q) q .read := by
  unfold Dev.windowRead
  split
  next => rfl
  next hfree => rw [h.resolve_left hfree]

theorem Dev.stallFront_eq_some (h : d.stallFront who q = some e) : e.who = who ∧ e.q = q := by
  unfold Dev.stallFront at h
  split at h
  next x hfind =>
    split at h
    next hq =>
      have hx := List.find?_some hfind
      cases h
      exact ⟨by simpa using (Bool.and_eq_true_iff.mp hx).1, hq⟩
    next => cases h
  next => cases h

theorem Dev.windowStallReturn_of_value {d0 : Dev} (hfront : d.stallFront who q = some e) (hop : e.op = .read)
    (hd0 : d0 = { d with qs := { d.qs with stalls := d.qs.stalls.erase e } }) (hvalue : d0.winValue q = some (v, d1)) :
    d.windowStallReturn who q = ({ d1 with out := .readDone e.who (winOff q) v :: d1.out } : Dev).stallEnd e := by
  obtain ⟨-, rfl⟩ := Dev.stallFront_eq_some hfront
  have hserve : d0.stallServe e = some { d1 with out := .readDone e.who (winOff e.q) v :: d1.out } := by
    simp only [Dev.stallServe, hop, hvalue, Option.map_some, Dev.emit_readDone]
  simp only [Dev.windowStallReturn, hfront, ← hd0, hserve]

theorem Dev.windowStallTimeout_of_read (hfront : d.stallFront who q = some e) (hop : e.op = .read) (hvalue : d.winValue q = none)
    (hlate : e.at_ + usCycles (d.rd (winBlock q) Reg.QENG.QSTALL_MAX) ≤ d.cycle) :
    d.windowStallTimeout who q =
      (({ d with qs := { d.qs with stalls := d.qs.stalls.erase e } } : Dev).emit (.readDone who (winOff q) 0)).stallEnd e := by
  simp only [Dev.windowStallTimeout, hfront, hop, hvalue, Option.isSome_none, Nat.not_lt.mpr hlate, decide_false, Bool.or_self,
    Bool.false_eq_true, if_false]

end

/-! ### Window writes (R121) -/

/-- The data of the flit begun at the window of `q`, with word `v` in the place that it names. -/
def Dev.winFlit (d : Dev) (q v : Nat) : Nat := setBits (Tab.get d.qs.winWData q 0) (32 * bitsOf v 40 3) 32 v

/-- `d` with no flit begun at the window of `q`. -/
def Dev.winFresh (d : Dev) (q : Nat) : Dev :=
  { d with qs := { d.qs with winW := Tab.set d.qs.winW q 0 0, winWData := Tab.set d.qs.winWData q 0 0 } }

section
variable {d : Dev} {q v : Nat} (hfence : q < 61440 → d.fenced (qCore q) = false) (hwrites : d.winWrites q = true)
  (hnet : d.winNet q = 0) (hnext : bitsOf v 40 3 = Tab.get d.qs.winW q 0 % 8)
include hfence hwrites hnet hnext

theorem Dev.windowPut_of_earlier_word (hlast : bitsOf v 40 3 ≠ 7) :
    d.windowPut q v = { d with qs := { d.qs with
      winW := Tab.set d.qs.winW q (8 * (Tab.get d.qs.winW q 0 / 8) + bitsOf v 40 3 + 1) 0
      winWData := Tab.set d.qs.winWData q (d.winFlit q v) 0 } } := by
  have htakes : (decide (q < 61440) && d.fenced (qCore q)) = false := by simpa using hfence
  simp only [Dev.windowPut, htakes, hwrites, hnet, ← hnext, if_neg hlast]
  simp [Dev.winFlit]

theorem Dev.windowPut_of_last_word (hlast : bitsOf v 40 3 = 7) (hwhole : Tab.get d.qs.winW q 0 / 8 = 0) :
    d.windowPut q v = (d.winFresh q).winPush q (itemOfWindow (d.winFlit q v) (bitsOf v 32 8) 0) := by
  have htakes : (decide (q < 61440) && d.fenced (qCore q)) = false := by simpa using hfence
  simp only [Dev.windowPut, htakes, hwrites, hnet, ← hnext, if_pos hlast, hwhole]
  simp [Dev.winFlit, Dev.winFresh]

end

theorem Dev.winPush_of_head {d : Dev} {q : Nat} (hq : q < 61440) (hsize : d.qSize q = 0) (hroom : d.qFull q = false)
    (hhead : (d.qHead q).length < 4) (x : Item) : d.winPush q x = d.enterHead q x := by
  have hfits : ¬ 4 ≤ (d.qHead q).length := by omega
  simp only [Dev.winPush, hq, hsize, hroom, hfits, if_true, decide_false, Bool.or_self, Bool.false_eq_true, if_false]
  rfl

theorem Dev.windowWrite_of_free {d : Dev} {q : Nat} (hfree : d.waitsAt .host (winBlock q) = false) (w : BitVec 64) :
    d.windowWrite q w = d.windowPut q w.toNat := by
  simp [Dev.windowWrite, hfree]

theorem Dev.windowWrite_of_wait {d : Dev} {q : Nat} (hwait : d.waitsAt .host (winBlock q) = true) (w : BitVec 64) :
    d.windowWrite q w = d.hold_ .host (winBlock q) q (.winWrite w.toNat) := if_pos hwait

/-! ### Items that land in a head (R101, R102, R106) -/

theorem Dev.count_frame (d : Dev) (base mask ev n : Nat) :
    d.count base mask ev n = { d with perf := (d.count base mask ev n).perf } := by
  unfold Dev.count
  split <;> rfl

/-- A performance counter has no part in a queue's fill. -/
theorem Dev.qFull_count (d : Dev) (base mask ev n q : Nat) : (d.count base mask ev n).qFull q = d.qFull q := by
  rw [Dev.count_frame]
  rfl

theorem Dev.qHead_count (d : Dev) (base mask ev n q : Nat) : (d.count base mask ev n).qHead q = d.qHead q := by
  rw [Dev.qHead, Dev.count_qs, Dev.qHead]

theorem Dev.ptrCheck_count_of_good {d : Dev} {q : Nat} (h : d.upsetAt (Upset.ptr q) = 0) (base mask ev n : Nat) :
    (d.count base mask ev n).ptrCheck q = d.count base mask ev n := by
  refine if_pos ?_
  rw [Dev.upsetAt, Dev.count_flt]
  exact h

theorem Dev.poisonSeen_false (d : Dev) (base : Nat) : d.poisonSeen base false = d := if_neg Bool.false_ne_true

/-- Landing entry `e` is valid and sends what arrives at input `p` of core `c`, which is no queue-engine input, to the head of an enabled
queue of its network (R101). -/
structure Dev.LandsInHead (d : Dev) (c p e : Nat) : Prop where
  valid : bitAt e 12 = true
  noCredit : bitAt e 11 = false
  namesQueue : e % 2048 < 1920
  headInput : ¬(p = 28 ∨ p = 29 ∨ p = 48 ∨ p = 58)
  enabled : d.qEn (entryQueue c e) = true
  network : some (d.qNet (entryQueue c e)) = portNet p

/-- `d` after the oldest item on its way to a local input has arrived, with `rest` still to come. -/
def Dev.arrived (d : Dev) (key : Nat) (rest : List Landed) : Dev :=
  { d with qs := { d.qs with lin := Tab.set d.qs.lin key rest [] } }

theorem Dev.itemLand_of_head {d : Dev} {c p : Nat} {l : Landed} {rest : List Landed}
    (hlin : Tab.get d.qs.lin (64 * c + p) [] = l :: rest) (hdue : l.at_ < d.cycle) (hfence : d.fenced c = false)
    (hpoison : l.flit.item.poison = false) (hfrom : l.flit.fromQ = 0) (hentry : d.LandsInHead c p l.entry)
    (hptr : d.upsetAt (Upset.ptr (entryQueue c l.entry)) = 0) (hroom : d.qFull (entryQueue c l.entry) = false)
    (hhead : (d.qHead (entryQueue c l.entry)).length < 4) :
    d.itemLand c p = ((d.arrived (64 * c + p) rest).count (Pg.qeng c) 0xF 0).enterHead (entryQueue c l.entry) l.flit.item := by
  obtain ⟨hvalid, hnoCredit, hqueue, hinput, hen, hnet⟩ := hentry
  obtain ⟨d1, hd1⟩ : ∃ d1, d1 = d.arrived (64 * c + p) rest := ⟨_, rfl⟩
  have hfence1 : d1.fenced c = false := hd1 ▸ hfence
  have hen1 : d1.qEn (entryQueue c l.entry) = true := hd1 ▸ hen
  have hnet1 : some (d1.qNet (entryQueue c l.entry)) = portNet p := hd1 ▸ hnet
  have hroom1 : d1.qFull (entryQueue c l.entry) = false := hd1 ▸ hroom
  have hhead1 : ¬ 4 ≤ (d1.qHead (entryQueue c l.entry)).length := hd1 ▸ Nat.not_le.mpr hhead
  have hptr1 : d1.upsetAt (Upset.ptr (entryQueue c l.entry)) = 0 := hd1 ▸ hptr
  have hout : 0 ≠ entryQueue c l.entry + 1 := by omega
  unfold Dev.arrived at hd1
  -- the item left no body, its entry is no miss and no credit, and the head has room: the last branch of each test of ITEM_LAND is taken
  simp only [Dev.itemLand, hlin, ← hd1, if_neg (Nat.not_le.mpr hdue), hfence1, hpoison, Dev.poisonSeen_false, hfrom, hvalid, hnoCredit,
    bne_self_eq_false, Bool.false_and, Bool.not_true, Bool.false_eq_true, if_false, Nat.not_le.mpr hqueue, hen1, hnet1, ne_eq,
    not_true_eq_false, hinput, false_and, or_self, Dev.ptrCheck_count_of_good hptr1, hout, Dev.qFull_count, hroom1, Dev.qHead_count, hhead1]
  rw [Dev.enterHead, Dev.qHead_count, Dev.arrived, ← hd1]

/-! ### Credit words (R103, R104) -/

/-- A sum that does not pass the capacity fits the counter: the two fields have the same width. -/
theorem counterRef_width {c u pg : Nat} {cnt ex cap : Fld} (h : counterRef c u = some (pg, cnt, ex, cap)) :
    cnt.lo + cnt.w ≤ 32 ∧ cap.w = cnt.w := by
  unfold counterRef at h
  split_ifs at h <;> cases h <;> decide

/-- A credit that the capacity has room for is added. -/
theorem Dev.creditAdd_of_room {d : Dev} {c u i n pg : Nat} {cnt ex cap : Fld} (href : counterRef c u = some (pg, cnt, ex, cap))
    (hroom : d.rd pg cnt i + n ≤ d.rd pg cap i) (owner : Attr) :
    d.creditAdd c u i n owner = d.wr pg cnt (d.rd pg cnt i + n) i := by
  simp only [Dev.creditAdd, href, if_pos hroom]

theorem Dev.rd_creditAdd_of_room {d : Dev} {c u i n pg : Nat} {cnt ex cap : Fld} (href : counterRef c u = some (pg, cnt, ex, cap))
    (hroom : d.rd pg cnt i + n ≤ d.rd pg cap i) (owner : Attr) :
    (d.creditAdd c u i n owner).rd pg cnt i = d.rd pg cnt i + n := by
  obtain ⟨hword, hwidth⟩ := counterRef_width href
  have hcap := d.rd_lt pg cap i
  rw [hwidth] at hcap
  rw [Dev.creditAdd_of_room href hroom, Dev.rd_wr_same _ _ _ _ _ hword, Nat.mod_eq_of_lt (hroom.trans_lt hcap)]

/-- `d` with `rest` of core `c`'s landed credit words still to be used. -/
def Dev.creditUsed (d : Dev) (c : Nat) (rest : List (Nat × Nat)) : Dev :=
  { d with qs := { d.qs with credIn := Tab.set d.qs.credIn c rest [] } }

theorem Dev.creditWordIn_of_word {d : Dev} {c w owner : Nat} {rest : List (Nat × Nat)} (hfence : d.fenced c = false)
    (hin : Tab.get d.qs.credIn c [] = (w, owner) :: rest) :
    d.creditWordIn c =
      ((d.creditUsed c rest).creditAdd c (bitsOf w 4 4) (bitsOf w 0 4) (bitsOf w 8 20) (.unit owner c)).count (Pg.qeng c) 0xF 3 := by
  simp only [Dev.creditWordIn, hfence, hin, Bool.false_eq_true, if_false]
  rfl

/-! ### Landed items that enter their bodies (R102, R208) -/

theorem Dev.bodyWrite_of_grant {d : Dev} {c p : Nat} {x : BodyItem} {rest : List BodyItem} {r : BReq} {l : List BReq}
    (hland : Tab.get d.qs.land (64 * c + p) [] = x :: rest) (hreq : d.landReq c (d.qTile x.q) p = r :: l)
    (hgrant : d.bGrant (4 * c + d.qTile x.q) (d.btReqs c (d.qTile x.q)) r = true) (hmode : d.qMode x.q ≠ 1) {d1 : Dev}
    (hd1 : d1 = d.bTake c (d.qTile x.q) r.port (banksOf r.word r.n)) :
    d.bodyWrite c p = ({ d1 with
      qs := { d1.qs with land := Tab.set d1.qs.land (64 * c + p) rest [] },
      mem := { d1.mem with used := (2048 + 64 * c + p) :: d1.mem.used } } : Dev).bodyPut x.q r.port x.item (d1.cycle + 2) := by
  have hmode' : d1.qMode x.q ≠ 1 := by
    rwa [hd1, Dev.bTake, Dev.count_frame]
  simp only [Dev.bodyWrite, hland, hreq, hgrant, Bool.not_true, Bool.false_eq_true, if_false, ← hd1]
  exact if_neg hmode'

end Sys2Proof.Machine

namespace Sys2Proof

open Machine

/-! ### The clauses of O12 and O13 -/

theorem windowRead_answers (who : Requester) (q : Fin 65536) (s : State) (v : Nat) (d1 : Dev)
    (hfree : s.dev.waitsAt who (winBlock q) = false) (hreads : s.dev.winReads q = true)
    (hword : s.dev.winReadWord q = some (v, d1)) :
    GivesDev (.windowRead who q) s (fun d => d = { d1 with out := .readDone who (winOff q) v :: d1.out }) :=
  ⟨s.dev.windowRead who q, rfl, Dev.windowRead_of_value hfree (Dev.winValue_of_word hreads hword)⟩

theorem windowRead_waits (who : Requester) (q : Fin 65536) (s : State)
    (h : s.dev.waitsAt who (winBlock q) = true ∨
      (s.dev.winReads q = true ∧ s.dev.winReadWord q = none ∧ s.dev.winStalls q = true ∧ s.dev.stallOver q = false)) :
    GivesDev (.windowRead who q) s (fun d =>
      d = { s.dev with qs := { s.dev.qs with stalls := s.dev.qs.stalls ++ [⟨who, winBlock q, q, s.dev.cycle, .read⟩] } }) :=
  ⟨s.dev.windowRead who q, rfl, Dev.windowRead_of_wait (h.imp_right (fun ⟨hreads, hword, hstalls, hover⟩ =>
    Dev.winValue_of_stall hreads hword hstalls hover))⟩

theorem windowStallReturn_answers (who : Requester) (q : Fin 65536) (s : State) (e : Stall) (d0 d1 : Dev) (v : Nat)
    (hfront : s.dev.stallFront who q = some e) (hop : e.op = .read)
    (hd0 : d0 = { s.dev with qs := { s.dev.qs with stalls := s.dev.qs.stalls.erase e } }) (hreads : d0.winReads q = true)
    (hword : d0.winReadWord q = some (v, d1)) :
    GivesDev (.windowStallReturn who q) s (fun d =>
      d = ({ d1 with out := .readDone e.who (winOff q) v :: d1.out } : Dev).stallEnd e) :=
  ⟨s.dev.windowStallReturn who q, rfl,
    Dev.windowStallReturn_of_value hfront hop hd0 (Dev.winValue_of_word hreads hword)⟩

theorem windowStallTimeout_answers_zero (who : Requester) (q : Fin 65536) (s : State) (e : Stall) (d0 : Dev)
    (hfront : s.dev.stallFront who q = some e) (hop : e.op = .read)
    (hd0 : d0 = { s.dev with qs := { s.dev.qs with stalls := s.dev.qs.stalls.erase e } }) (hvalue : s.dev.winValue q = none)
    (hlate : e.at_ + usCycles (s.dev.rd (winBlock q) Reg.QENG.QSTALL_MAX) ≤ s.dev.cycle) :
    GivesDev (.windowStallTimeout who q) s (fun d =>
      d = ({ d0 with out := .readDone who (winOff q) 0 :: d0.out } : Dev).stallEnd e) := by
  refine ⟨s.dev.windowStallTimeout who q, rfl, ?_⟩
  rw [Dev.windowStallTimeout_of_read hfront hop hvalue hlate, ← hd0, Dev.emit_readDone]

theorem windowWrite_keeps_word (q : Fin 65536) (w : BitVec 64) (s : State) (hfree : s.dev.waitsAt .host (winBlock q) = false)
    (hfence : q.val < 61440 → s.dev.fenced (qCore q) = false) (hwrites : s.dev.winWrites q = true) (hnet : s.dev.winNet q = 0)
    (hnext : bitsOf w.toNat 40 3 = Tab.get s.dev.qs.winW q 0 % 8) (hlast : bitsOf w.toNat 40 3 ≠ 7) :
    GivesDev (.windowWrite q w) s (fun d => d = { s.dev with qs := d.qs } ∧ d.qs.head = s.dev.qs.head ∧
      Tab.get d.qs.winWData q 0 = setBits (Tab.get s.dev.qs.winWData q 0) (32 * bitsOf w.toNat 40 3) 32 w.toNat ∧
      Tab.get d.qs.winW q 0 % 8 = bitsOf w.toNat 40 3 + 1) := by
  refine ⟨s.dev.windowWrite q w, rfl, ?_⟩
  rw [Dev.windowWrite_of_free hfree, Dev.windowPut_of_earlier_word hfence hwrites hnet hnext hlast]
  have hword := bitsOf_lt w.toNat 40 3
  refine ⟨rfl, rfl, Tab.get_set_same _ _ _ _, ?_⟩
  rw [Tab.get_set_same]
  omega

theorem windowWrite_enters_head (q : Fin 65536) (w : BitVec 64) (s : State) (hfree : s.dev.waitsAt .host (winBlock q) = false)
    (hfence : s.dev.fenced (qCore q) = false) (hwrites : s.dev.winWrites q = true) (hnet : s.dev.winNet q = 0)
    (hq : q.val < 61440) (hcur : Tab.get s.dev.qs.winW q 0 = 7) (hlast : bitsOf w.toNat 40 3 = 7) (hsize : s.dev.qSize q = 0)
    (hroom : s.dev.qFull q = false) (hhead : (s.dev.qHead q).length < 4) :
    GivesDev (.windowWrite q w) s (fun d => d = { s.dev with qs := d.qs, regs := d.regs } ∧
      d.qHead q = s.dev.qHead q ++
        [itemOfWindow (setBits (Tab.get s.dev.qs.winWData q 0) 224 32 w.toNat) (bitsOf w.toNat 32 8) 0]) := by
  refine ⟨s.dev.windowWrite q w, rfl, ?_⟩
  have hnext : bitsOf w.toNat 40 3 = Tab.get s.dev.qs.winW q 0 % 8 := by rw [hlast, hcur]
  rw [Dev.windowWrite_of_free hfree,
    Dev.windowPut_of_last_word (fun _ => hfence) hwrites hnet hnext hlast (by rw [hcur]),
    Dev.winPush_of_head (d := s.dev.winFresh q) hq hsize hroom hhead, Dev.winFlit, hlast]
  exact ⟨rfl, Dev.enterHead_qHead _ _ _⟩

/-- Settles O12, clause by clause. The sideband of the last word and the order in which stalled accesses go on are the model's choice
(logs 49 and 50). -/
theorem windowsReadAndWrite : Obligations.WindowsReadAndWrite :=
  ⟨windowRead_answers, windowRead_waits, windowStallReturn_answers, windowStallTimeout_answers_zero, windowWrite_keeps_word,
    windowWrite_enters_head, fun q w s hwait => ⟨s.dev.windowWrite q w, rfl, Dev.windowWrite_of_wait hwait w⟩⟩

/-- Settles O13: with STALL_EMPTY 0, what cannot be popped answers 0. -/
theorem nativeWindowReads : Obligations.NativeWindowReads := fun who q s hstalls hfree hreads =>
  ⟨fun v d1 hword => windowRead_answers who q s v d1 hfree hreads hword,
    fun hword => ⟨s.dev.windowRead who q, rfl, Dev.windowRead_of_value hfree (Dev.winValue_of_native hreads hword hstalls)⟩⟩

/-! ### The clauses of O17 -/

theorem itemLand_enters_head (c : Fin 32) (p : Fin 59) (s : State) (l : Landed) (rest : List Landed)
    (hlin : Tab.get s.dev.qs.lin (64 * c.val + p.val) [] = l :: rest) (hdue : l.at_ < s.dev.cycle) (hfence : s.dev.fenced c = false)
    (hpoison : l.flit.item.poison = false) (hfrom : l.flit.fromQ = 0) (hentry : s.dev.LandsInHead c p l.entry)
    (hptr : s.dev.upsetAt (Upset.ptr (entryQueue c l.entry)) = 0) (hroom : s.dev.qFull (entryQueue c l.entry) = false)
    (hhead : (s.dev.qHead (entryQueue c l.entry)).length < 4) :
    GivesDev (.itemLand c p) s (fun d => d = { s.dev with qs := d.qs, regs := d.regs, perf := d.perf } ∧
      d.qHead (entryQueue c l.entry) = s.dev.qHead (entryQueue c l.entry) ++ [l.flit.item] ∧
      Tab.get d.qs.lin (64 * c.val + p.val) [] = rest) := by
  refine ⟨s.dev.itemLand c p, rfl, ?_⟩
  rw [Dev.itemLand_of_head hlin hdue hfence hpoison hfrom hentry hptr hroom hhead]
  refine ⟨?_, ?_, ?_⟩
  · rw [Dev.count_frame]
    rfl
  · rw [Dev.enterHead_qHead, Dev.qHead_count]
    rfl
  · rw [Dev.enterHead_lin, Dev.count_qs]
    exact Tab.get_set_same _ _ _ _

theorem creditWord_adds (c : Fin 32) (s : State) (w owner : Nat) (rest : List (Nat × Nat)) (pg : Nat) (cnt ex cap : Fld)
    (hfence : s.dev.fenced c = false) (hin : Tab.get s.dev.qs.credIn c [] = (w, owner) :: rest)
    (href : counterRef c (bitsOf w 4 4) = some (pg, cnt, ex, cap))
    (hroom : s.dev.rd pg cnt (bitsOf w 0 4) + bitsOf w 8 20 ≤ s.dev.rd pg cap (bitsOf w 0 4)) :
    GivesDev (.creditWord c) s (fun d => d = { s.dev with qs := d.qs, regs := d.regs, perf := d.perf } ∧
      d.rd pg cnt (bitsOf w 0 4) = s.dev.rd pg cnt (bitsOf w 0 4) + bitsOf w 8 20 ∧ Tab.get d.qs.credIn c [] = rest) := by
  refine ⟨s.dev.creditWordIn c, rfl, ?_⟩
  have hroom' : (s.dev.creditUsed c rest).rd pg cnt (bitsOf w 0 4) + bitsOf w 8 20 ≤ (s.dev.creditUsed c rest).rd pg cap (bitsOf w 0 4) :=
    hroom
  rw [Dev.creditWordIn_of_word hfence hin]
  refine ⟨?_, ?_, ?_⟩
  · rw [Dev.count_frame, Dev.creditAdd_of_room href hroom']
    rfl
  · rw [Dev.rd_congr (Dev.count_regs _ _ _ _ _), Dev.rd_creditAdd_of_room href hroom']
    rfl
  · rw [Dev.count_qs, Dev.creditAdd_of_room href hroom']
    exact Tab.get_set_same _ _ _ _

/-- Settles O17, clause by clause. -/
theorem itemsAndCreditsLand : Obligations.ItemsAndCreditsLand :=
  ⟨fun c p s l rest hlin hdue hfence hpoison hfrom hvalid hnoCredit hqueue hinput hen hnet =>
      itemLand_enters_head c p s l rest hlin hdue hfence hpoison hfrom ⟨hvalid, hnoCredit, hqueue, hinput, hen, hnet⟩,
    fun c p s _ _ _ _ _ hland hreq hgrant hmode hd1 =>
      ⟨s.dev.bodyWrite c p, rfl, Dev.bodyWrite_of_grant hland hreq hgrant hmode hd1⟩,
    creditWord_adds⟩

end Sys2Proof
end

section
/-!
PROOFS of 05_multiplier_tiles.md: which commands change the weight stores, the scratch and the flash, and that these stay in canonical form
(R135, R198, R282, R333, R406).
-/

namespace Sys2Proof.Machine

/-! ### What keeps a memory canonical -/

theorem Tab.wfFrom_filter {α : Type} [DecidableEq α] {f : Nat → α} (p : Nat × α → Bool) : ∀ {t : Tab α} {lo : Nat},
    Tab.wfFrom f lo t = true → Tab.wfFrom f lo (t.filter p) = true
  | [], _, _ => rfl
  | (k, v) :: r, lo, h => by
    simp only [Tab.wfFrom, Bool.and_eq_true, decide_eq_true_eq] at h
    rw [List.filter_cons]
    split
    · simp only [Tab.wfFrom, Bool.and_eq_true, decide_eq_true_eq]
      exact ⟨h.1, Tab.wfFrom_filter p h.2⟩
    · exact Tab.wfFrom_mono (by omega) (Tab.wfFrom_filter p h.2)

theorem flashErase_wf {d : Byte} {m : Memory} (h : Memory.wf d m = true) (a n : Nat) : Memory.wf d (flashErase m a n) = true :=
  Tab.wfFrom_filter _ h

theorem flashProgram_wf {m : Memory} (h : Memory.wf 0xFF m = true) (a : Nat) (bs : List Byte) :
    Memory.wf 0xFF (flashProgram m a bs) = true := Memory.wf_writeList h

/-! ### The flash under the scoresheet and the journal (R333 to R348) -/

section
variable {fl : Memory} (h : Memory.wf 0xFF fl = true)
include h

theorem Dev.writeRecord_wf (d : Dev) (r : RecReq) : Memory.wf 0xFF (d.writeRecord fl r).1 = true := by
  unfold Dev.writeRecord
  dsimp only
  split
  · exact h
  · exact flashProgram_wf h _ _

theorem Dev.recordCommit_wf (d : Dev) : Memory.wf 0xFF (d.recordCommit fl).1 = true := by
  unfold Dev.recordCommit
  split
  · exact h
  · split
    · exact h
    · exact Dev.writeRecord_wf h _ _

theorem Dev.takeSnapshot_wf (d : Dev) (p seq : Nat) : Memory.wf 0xFF (d.takeSnapshot fl p seq).1 = true := by
  unfold Dev.takeSnapshot
  dsimp only
  exact flashProgram_wf (flashErase_wf h _ _) _ _

theorem Dev.journalRecord_wf (d : Dev) (fails : Bool) : Memory.wf 0xFF (d.journalRecord fl fails).1 = true := by
  unfold Dev.journalRecord
  dsimp only
  split
  · exact h
  · split
    · exact h
    · split
      · exact h
      · split
        · exact h
        · split
          · exact h
          · exact flashProgram_wf h _ _

theorem Dev.compactionDone_wf (d : Dev) (fails : Bool) : Memory.wf 0xFF (d.compactionDone fl fails).1 = true := by
  unfold Dev.compactionDone
  dsimp only
  split_ifs
  case neg => exact flashErase_wf (Dev.takeSnapshot_wf h _ _ _) _ _
  all_goals exact h

theorem Dev.scoreErased_wf (d : Dev) : Memory.wf 0xFF (d.scoreErased fl).1 = true := by
  unfold Dev.scoreErased
  split
  · exact h
  · dsimp only
    split
    · exact h
    · exact Dev.writeRecord_wf (flashErase_wf h _ _) _ _

theorem Dev.journalSelect_wf (d : Dev) : Memory.wf 0xFF (d.journalSelect fl).1 = true := by
  unfold Dev.journalSelect
  dsimp only
  split
  · exact Dev.takeSnapshot_wf h _ _ _
  · split
    · exact flashErase_wf h _ _
    · exact h

theorem Dev.firmwareRuns_wf (d : Dev) (head digest : List Byte) (fwB aBad : Bool) :
    Memory.wf 0xFF (d.firmwareRuns fl head digest fwB aBad).1 = true := by
  unfold Dev.firmwareRuns
  dsimp only
  exact Dev.journalSelect_wf h _

theorem Dev.firmwareVerified_wf (d : Dev) (upstream : List Byte) : Memory.wf 0xFF (d.firmwareVerified fl upstream).1 = true := by
  unfold Dev.firmwareVerified
  dsimp only
  split
  · exact h
  · split
    · split
      · exact Dev.firmwareRuns_wf h _ _ _ _ _
      · split
        · exact Dev.firmwareRuns_wf h _ _ _ _ _
        · exact h
    · split
      · exact Dev.firmwareRuns_wf h _ _ _ _ _
      · exact h

end

theorem Dev.writeRecords_wf : ∀ (l : List RecReq) (d : Dev) {fl : Memory}, Memory.wf 0xFF fl = true →
    Memory.wf 0xFF (d.writeRecords fl l).1 = true
  | [], _, _, h => h
  | _ :: rest, _, _, h => Dev.writeRecords_wf rest _ (Dev.writeRecord_wf h _ _)

section
variable {fl : Memory} (h : Memory.wf 0xFF fl = true)
include h

theorem Dev.clearScore_wf (d : Dev) (r : Nat) (sig : HostRead) : Memory.wf 0xFF (d.clearScore fl r sig).1 = true := by
  unfold Dev.clearScore
  split
  · exact h
  · extract_lets
    split
    · exact h
    · split
      · exact h
      · split
        · exact h
        · split
          · exact h
          · exact Dev.writeRecords_wf _ _ h

theorem Dev.scoreScan_wf (d : Dev) : Memory.wf 0xFF (d.scoreScan fl).1 = true := by
  unfold Dev.scoreScan
  dsimp only
  split_ifs
  · exact h
  · exact h
  · split
    · exact Dev.writeRecords_wf _ _ h
    · exact Dev.writeRecord_wf (flashErase_wf h _ _) _ _

end

/-! ### Weight stores and scratch (R135, R198, R282) -/

theorem Dev.weightWrite_wf {wm : Memory} (h : Memory.wf 0 wm = true) (d : Dev) (c : Nat) :
    Memory.wf 0 (d.weightWrite wm c).1 = true := by
  unfold Dev.weightWrite
  split
  · exact h
  · dsimp only
    split_ifs
    · exact h
    · exact h
    all_goals exact Memory.wf_writeList h

theorem Dev.cfgScratch_wf {sc : Memory} (hsc : Memory.wf 0 sc = true) (d : Dev) (c h : Nat) (payload : List Item) :
    Memory.wf 0 (d.cfgScratch sc c h payload).1 = true := by
  unfold Dev.cfgScratch
  extract_lets
  split
  · exact hsc
  · exact Memory.wf_writeList hsc

theorem Dev.configWrite_wf {sc : Memory} (h : Memory.wf 0 sc = true) (d : Dev) (n : Nat) : Memory.wf 0 (d.configWrite sc n).1 = true := by
  unfold Dev.configWrite
  split
  · exact h
  · dsimp only
    split_ifs
    · exact Dev.cfgScratch_wf h _ _ _ _
    all_goals exact h

theorem Dev.sstStore_wf {sc : Memory} (h : Memory.wf 0 sc = true) (d : Dev) (c v m : Nat) (r : Run) :
    Memory.wf 0 (d.sstStore sc c v m r).1 = true :=
  List.foldlRecOn (motive := fun acc : Memory × Dev => Memory.wf 0 acc.1 = true) _ _ h (fun _ hacc _ _ => Memory.wf_writeList hacc)

theorem Dev.sst_wf {sc : Memory} (h : Memory.wf 0 sc = true) (d : Dev) (c v : Nat) : Memory.wf 0 (d.sst sc c v).1 = true := by
  unfold Dev.sst
  split
  · exact h
  · dsimp only
    split
    · exact h
    · exact Dev.sstStore_wf h _ _ _ _ _

/-! ### A memory that a command may change -/

/-- From `m` to `m'` a memory of default byte `d` stays as it is or, if it `may` change, stays in canonical form. -/
def Memory.Changes (may : Bool) (d : Byte) (m m' : Memory) : Prop :=
  m' = m ∨ may = true ∧ (Memory.wf d m = true → Memory.wf d m' = true)

theorem Memory.Changes.wf {may : Bool} {d : Byte} {m m' : Memory} (h : Memory.Changes may d m m') (hm : Memory.wf d m = true) :
    Memory.wf d m' = true :=
  h.elim (fun heq => heq ▸ hm) (fun hmay => hmay.2 hm)

theorem Memory.Changes.eq_of_not {may : Bool} {d : Byte} {m m' : Memory} (h : Memory.Changes may d m m') (hnot : may = false) :
    m' = m :=
  h.elim id (fun hmay => absurd hmay.1 (by rw [hnot]; decide))

end Sys2Proof.Machine

namespace Sys2Proof

open Machine

/-! ### What a command does to the memories beside the device -/

/-- The three memories after command `i` are those before it but for what `i` may change. -/
def StoresFollow (i : Instr) (s t : State) : Prop :=
  Memory.Changes i.changesWeights 0 s.wmem t.wmem ∧ Memory.Changes i.changesScratch 0 s.scr t.scr ∧
    Memory.Changes i.changesFlash 0xFF s.flash t.flash

theorem storesFollow_dev {i : Instr} (s : State) (d : Dev) : StoresFollow i s { s with dev := d } := ⟨.inl rfl, .inl rfl, .inl rfl⟩

theorem storesFollow_flash {i : Instr} {s : State} {r : Memory × Dev} (hmay : i.changesFlash = true)
    (hwf : Memory.wf 0xFF s.flash = true → Memory.wf 0xFF r.1 = true) : StoresFollow i s { s with dev := r.2, flash := r.1 } :=
  ⟨.inl rfl, .inl rfl, .inr ⟨hmay, hwf⟩⟩

theorem storesFollow_scratch {i : Instr} {s : State} {r : Memory × Dev} (hmay : i.changesScratch = true)
    (hwf : Memory.wf 0 s.scr = true → Memory.wf 0 r.1 = true) : StoresFollow i s { s with scr := r.1, dev := r.2 } :=
  ⟨.inl rfl, .inr ⟨hmay, hwf⟩, .inl rfl⟩

theorem storesFollow_weights {i : Instr} {s : State} {r : Memory × Dev} (hmay : i.changesWeights = true)
    (hwf : Memory.wf 0 s.wmem = true → Memory.wf 0 r.1 = true) : StoresFollow i s { s with wmem := r.1, dev := r.2 } :=
  ⟨.inr ⟨hmay, hwf⟩, .inl rfl, .inl rfl⟩

section
variable {i : Instr} (hw : i.changesWeights = true) (hs : i.changesScratch = true)
include hw hs

theorem storesFollow_chipReset (s : State) (reason : Nat) : StoresFollow i s (s.chipReset reason) := by
  rw [State.chipReset]
  exact ⟨.inr ⟨hw, fun _ => rfl⟩, .inr ⟨hs, fun _ => rfl⟩, .inl rfl⟩

theorem storesFollow_chipResetDue (s : State) : StoresFollow i s s.chipResetDue := by
  unfold State.chipResetDue
  split
  · exact storesFollow_dev s _
  · split
    · exact storesFollow_chipReset hw hs s 2
    · exact storesFollow_dev s _

theorem storesFollow_resetPulse (s : State) (ns : Nat) : StoresFollow i s (s.resetPulse ns) := by
  unfold State.resetPulse
  split
  · exact storesFollow_dev s _
  · split
    · exact storesFollow_chipReset hw hs s 1
    · dsimp only
      split
      · exact storesFollow_chipReset hw hs { s with dev := (s.dev.choose 2).2 } 1
      · exact storesFollow_dev s _

end

theorem storesFollow_of_next {i : Instr} {s u t : State} (h : Host.Outcome.next (φ := Fault) (ρ := Refusal) u = .next t)
    (hu : StoresFollow i s u) : StoresFollow i s t := Host.Outcome.next.inj h ▸ hu

/-- Every command that completes leaves the three memories as they are but for what it may change. -/
theorem exec_stores {i : Instr} {s t : State} (h : exec i s = .next t) : StoresFollow i s t := by
  cases i with
  | weightStoreWrite c => exact storesFollow_of_next h (storesFollow_weights rfl (fun hw => Dev.weightWrite_wf hw _ _))
  | configurationWrite n => exact storesFollow_of_next h (storesFollow_scratch rfl (fun hs => Dev.configWrite_wf hs _ _))
  | sst c v => exact storesFollow_of_next h (storesFollow_scratch rfl (fun hs => Dev.sst_wf hs _ _ _))
  | clearScoresheet r sig => exact storesFollow_of_next h (storesFollow_flash rfl (fun hf => Dev.clearScore_wf hf _ _ _))
  | scoresheetEraseDone => exact storesFollow_of_next h (storesFollow_flash rfl (fun hf => Dev.scoreErased_wf hf _))
  | recordCommit => exact storesFollow_of_next h (storesFollow_flash rfl (fun hf => Dev.recordCommit_wf hf _))
  | scoresheetScan => exact storesFollow_of_next h (storesFollow_flash rfl (fun hf => Dev.scoreScan_wf hf _))
  | journalRecord fails => exact storesFollow_of_next h (storesFollow_flash rfl (fun hf => Dev.journalRecord_wf hf _ _))
  | compactionDone fails => exact storesFollow_of_next h (storesFollow_flash rfl (fun hf => Dev.compactionDone_wf hf _ _))
  | firmwareVerified upstream => exact storesFollow_of_next h (storesFollow_flash rfl (fun hf => Dev.firmwareVerified_wf hf _ _))
  | pwrokFall => exact storesFollow_of_next h (storesFollow_chipReset rfl rfl s 0)
  | resetL ns => exact storesFollow_of_next h (storesFollow_resetPulse rfl rfl s ns)
  | chipReset => exact storesFollow_of_next h (storesFollow_chipResetDue rfl rfl s)
  | memAccess p tag =>
    rw [exec, execMemAccess] at h
    split at h
    · exact absurd h (by simp)
    · exact storesFollow_of_next h (storesFollow_dev s _)
  | _ => exact storesFollow_of_next h (storesFollow_dev s _)

/-- Settles O4: an idle step changes no memory, and a command's step changes them as `exec_stores` says. -/
theorem stepKeepsSafe : Obligations.StepKeepsSafe := by
  intro s t ⟨hw, hs, hf⟩ hstep
  cases hp : s.pending with
  | nil =>
    rw [step_of_pending_nil hp] at hstep
    rw [← Host.Outcome.next.inj hstep, State.idle]
    exact ⟨hw, hs, hf⟩
  | cons i rest =>
    rw [step, hp] at hstep
    obtain ⟨hweights, hscratch, hflash⟩ := exec_stores hstep
    exact ⟨hweights.wf hw, hscratch.wf hs, hflash.wf hf⟩

/-- Settles O6. -/
theorem storesChangeByNamedCommands : Obligations.StoresChangeByNamedCommands := by
  intro i s t hexec
  obtain ⟨hweights, hscratch, hflash⟩ := exec_stores hexec
  exact ⟨hweights.eq_of_not, hscratch.eq_of_not, hflash.eq_of_not⟩

end Sys2Proof
end

section
/-!
PROOFS of 05_multiplier_tiles.md: WPSET, WSWAP, EMIT, PHOLD and DROP of an M tile (R132, R136, R157, R159).
-/

namespace Sys2Proof.Machine

/-! ### Words of one page that an update elsewhere leaves alone -/

/-- From `d` to `e` no word of the page at `base` changed. -/
def Dev.KeepsPage (base : Nat) (d e : Dev) : Prop := ∀ o < 0x1000, e.word (base + o) = d.word (base + o)

theorem Dev.KeepsPage.trans {base : Nat} {d e f : Dev} (h : d.KeepsPage base e) (h' : e.KeepsPage base f) : d.KeepsPage base f :=
  fun o ho => (h' o ho).trans (h o ho)

theorem Dev.keepsPage_of_regs (base : Nat) {d e : Dev} (h : e.regs = d.regs) : d.KeepsPage base e := fun _ _ => Dev.word_congr h _

theorem Dev.KeepsPage.rd {base : Nat} {d e : Dev} (h : d.KeepsPage base e) {F : Fld} {i : Nat} (hF : F.off + F.stride * i < 0x1000) :
    e.rd base F i = d.rd base F i := by
  rw [Dev.rd, Dev.rd, Nat.add_assoc, h _ hF]

/-- The pages at `base` and at `pg` have no word in common, nor `base` with the event bits of `pg`. -/
structure Pg.Apart (base pg : Nat) : Prop where
  aligned : base % 4 = 0
  low : base < 2 ^ 28
  apart : base + 0x1000 ≤ pg ∨ pg + 0x1000 ≤ base

section
variable {base pg : Nat} (h : Pg.Apart base pg) (d : Dev)
include h

theorem Dev.keepsPage_wr {F : Fld} {i : Nat} (hF : F.off + F.stride * i < 0x1000) (v : Nat) : d.KeepsPage base (d.wr pg F v i) := by
  obtain ⟨haligned, -, hapart⟩ := h
  exact fun o ho => Dev.word_setWord_other _ _ (by omega)

theorem Dev.keepsPage_hit {F : Fld} {i : Nat} (hF : F.off + F.stride * i < 0x1000) (v : Nat) : d.KeepsPage base (d.hit pg F v i) := by
  obtain ⟨haligned, hlow, hapart⟩ := h
  intro o ho
  have hword : (base + o) / 4 ≠ (pg + F.off + F.stride * i) / 4 := by omega
  have hkey : (base + o) / 4 ≠ eventKey (pg + F.off + F.stride * i) := by
    unfold eventKey
    omega
  simp only [Dev.hit, Dev.word, Dev.setWord, Tab.get_set_other _ _ _ _ hkey, Tab.get_set_other _ _ _ _ hword]

theorem Dev.keepsPage_capture (bit : Nat) : d.KeepsPage base (d.capture pg bit) := by
  unfold Dev.capture
  split
  · exact (d.keepsPage_wr h (by decide) _).trans (Dev.keepsPage_wr h _ (by decide) _)
  · exact d.keepsPage_wr h (by decide) _

theorem Dev.keepsPage_raise (bit : Nat) (attr : Attr) : d.KeepsPage base (d.raise pg bit attr) := by
  have hhit := d.keepsPage_hit h (F := Reg.HDR.FLT_STAT) (i := 0) (by decide) (2 ^ bit)
  unfold Dev.raise Dev.raiseFull
  dsimp only
  split
  · exact hhit
  · exact hhit.trans (Dev.keepsPage_capture h _ bit)

theorem Dev.keepsPage_upsetFound (k bit : Nat) (attr : Attr) : d.KeepsPage base (d.upsetFound k pg bit [attr]) := by
  unfold Dev.upsetFound
  split
  · exact Dev.keepsPage_of_regs _ rfl
  · exact (d.setUpset k 0).keepsPage_raise h bit attr

end

theorem Pg.apart_queue {base : Nat} (haligned : base % 4 = 0) (hlow : base + 0x1000 ≤ 0x1000000) (q : Nat) :
    Pg.Apart base (Pg.queue q) := ⟨haligned, by omega, .inl (by unfold Pg.queue; omega)⟩

theorem Pg.apart_mtile_queue (c : Fin 32) (m : Fin 10) (q : Nat) : Pg.Apart (Pg.mtile c m) (Pg.queue q) :=
  Pg.apart_queue (by simp only [Pg.mtile, Pg.core]; omega) (by simp only [Pg.mtile, Pg.core]; omega) q

theorem Pg.apart_mtile_qeng (c : Fin 32) (m : Fin 10) : Pg.Apart (Pg.mtile c m) (Pg.qeng c) :=
  ⟨by simp only [Pg.mtile, Pg.core]; omega, by simp only [Pg.mtile, Pg.core]; omega, .inr (by simp only [Pg.mtile, Pg.qeng, Pg.core]; omega)⟩

/-! ### A consumer takes an item (R104, R107) -/

theorem Dev.ptrCheck_frame (d : Dev) (q : Nat) : d.FaultFrame (d.ptrCheck q) := by
  unfold Dev.ptrCheck
  split
  · rfl
  · refine (d.hit_frame (Pg.queue q) Reg.FQ.PAR_ERR 1 0).trans ?_
    unfold Dev.upsetFound
    split
    · rfl
    · exact (Dev.withFlt_frame _ _).raise _ _ _

theorem Dev.keepsPage_ptrCheck {base q : Nat} (hqueue : Pg.Apart base (Pg.queue q)) (hqeng : Pg.Apart base (Pg.qeng (qCore q))) (d : Dev) :
    d.KeepsPage base (d.ptrCheck q) := by
  unfold Dev.ptrCheck
  split
  · exact Dev.keepsPage_of_regs _ rfl
  · exact (d.keepsPage_hit hqueue (by decide) _).trans (Dev.keepsPage_upsetFound hqeng _ _ _ _)

theorem Dev.freeItems_eq (d : Dev) (q n : Nat) : ∃ x, d.freeItems q n = { d with qs := x } ∧ x.head = d.qs.head := by
  unfold Dev.freeItems
  dsimp only
  split
  · exact ⟨d.qs, rfl, rfl⟩
  · split
    · exact ⟨_, rfl, rfl⟩
    · exact ⟨_, rfl, rfl⟩

/-- From `d` to `e` only queues, the fault state and registers changed. -/
def Dev.QueueFrame (d e : Dev) : Prop := e = { d with qs := e.qs, flt := e.flt, regs := e.regs }

theorem Dev.QueueFrame.trans {d e f : Dev} (h : d.QueueFrame e) (h' : e.QueueFrame f) : d.QueueFrame f := by
  unfold Dev.QueueFrame at *
  exact h'.trans (by rw [h])

theorem Dev.FaultFrame.queueFrame {d e : Dev} (h : d.FaultFrame e) : d.QueueFrame e := by
  unfold Dev.FaultFrame at h
  rw [h]
  rfl

theorem Dev.qSub_queueFrame (d : Dev) (q n : Nat) : d.QueueFrame (d.qSub q n) := rfl

theorem Dev.keepsPage_qSub {base : Nat} (hqueue : ∀ k, Pg.Apart base (Pg.queue k)) (d : Dev) (q n : Nat) :
    d.KeepsPage base (d.qSub q n) := Dev.keepsPage_wr (hqueue _) _ (by decide) _

/-- The device after the oldest item of `q` was taken and its pointers were checked, before the item is counted off. -/
def Dev.headTaken (d : Dev) (q : Nat) (rest : List Item) : Dev := (d.setHead q rest).ptrCheck q

theorem Dev.takeHead_of_cons {d : Dev} {q : Nat} {x : Item} {rest : List Item} (hhead : d.qHead q = x :: rest) :
    d.takeHead q = (some x, d.headTaken q rest) ∨ d.takeHead q = (some x, ((d.headTaken q rest).qSub q 1).freeItems q 1) := by
  simp only [Dev.takeHead, hhead]
  split
  · exact .inl rfl
  · exact .inl rfl
  · exact .inr rfl

/-- From `d` to `e` the oldest item of `q` was taken: the others stay in the head, and beside the queues only the queue's own registers,
the header of its queue engine and the fault state changed. -/
structure Dev.Took (d : Dev) (q : Nat) (rest : List Item) (e : Dev) : Prop where
  frame : d.QueueFrame e
  head : e.qHead q = rest
  page : ∀ base, (∀ k, Pg.Apart base (Pg.queue k)) → Pg.Apart base (Pg.qeng (qCore q)) → d.KeepsPage base e

theorem Dev.took_headTaken (d : Dev) (q : Nat) (rest : List Item) : d.Took q rest (d.headTaken q rest) := by
  have hcheck := (d.setHead q rest).ptrCheck_frame q
  refine ⟨Dev.QueueFrame.trans (e := d.setHead q rest) rfl hcheck.queueFrame, ?_, fun base hqueue hqeng => ?_⟩
  · unfold Dev.FaultFrame at hcheck
    rw [Dev.headTaken, hcheck]
    exact Tab.get_set_same _ _ _ _
  · exact Dev.KeepsPage.trans (e := d.setHead q rest) (Dev.keepsPage_of_regs _ rfl) (Dev.keepsPage_ptrCheck (hqueue q) hqeng _)

theorem Dev.Took.freed {d e : Dev} {q : Nat} {rest : List Item} (h : d.Took q rest e) :
    d.Took q rest ((e.qSub q 1).freeItems q 1) := by
  obtain ⟨hframe, hhead, hpage⟩ := h
  obtain ⟨qs, hfree, hheads⟩ := (e.qSub q 1).freeItems_eq q 1
  rw [hfree]
  refine ⟨(hframe.trans (e.qSub_queueFrame q 1)).trans rfl, ?_, fun base hqueue hqeng => ?_⟩
  · rw [Dev.qHead, hheads]
    exact hhead
  · exact ((hpage base hqueue hqeng).trans (e.keepsPage_qSub hqueue q 1)).trans (Dev.keepsPage_of_regs _ rfl)

theorem Dev.took_of_cons {d : Dev} {q : Nat} {x : Item} {rest : List Item} (hhead : d.qHead q = x :: rest) :
    ∃ e, d.takeHead q = (some x, e) ∧ d.Took q rest e := by
  obtain htake | htake := Dev.takeHead_of_cons hhead
  · exact ⟨_, htake, d.took_headTaken q rest⟩
  · exact ⟨_, htake, (d.took_headTaken q rest).freed⟩

/-! ### Which queue stands at a head (R99) -/

theorem Tab.filterMap_put {α β : Type} (f : Nat × α → Option β) {k : Nat} (hk : ∀ v, f (k, v) = none) (v : α) :
    ∀ t : Tab α, (Tab.put t k v).filterMap f = t.filterMap f
  | [] => by simp [Tab.put, hk]
  | (j, w) :: r => by
    unfold Tab.put
    split
    next hj =>
      subst hj
      simp [hk]
    next =>
      split
      · simp [List.filterMap_cons, hk]
      · simp [List.filterMap_cons, Tab.filterMap_put f hk v r]

theorem Tab.filterMap_del {α β : Type} (f : Nat × α → Option β) {k : Nat} (hk : ∀ v, f (k, v) = none) :
    ∀ t : Tab α, (Tab.del t k).filterMap f = t.filterMap f
  | [] => rfl
  | (j, w) :: r => by
    unfold Tab.del
    split
    next hj =>
      subst hj
      simp [hk, Tab.filterMap_del f hk r]
    next => simp [List.filterMap_cons, Tab.filterMap_del f hk r]

/-- What a table lists of other keys does not change with the entry of `k`. -/
theorem Tab.filterMap_set {α β : Type} [DecidableEq α] (f : Nat × α → Option β) {k : Nat} (hk : ∀ v, f (k, v) = none) (t : Tab α)
    (v d : α) : (Tab.set t k v d).filterMap f = t.filterMap f := by
  unfold Tab.set
  split
  · exact Tab.filterMap_del f hk t
  · exact Tab.filterMap_put f hk v t

theorem Dev.queueAtHead_congr {d e : Dev} (h : d.regs = e.regs) (c port slot : Nat) : d.queueAtHead c port slot = e.queueAtHead c port slot := by
  simp only [Dev.queueAtHead, Dev.listedQueues, Dev.rd_congr h, Dev.flag_congr h, h]

theorem Dev.listedQueues_setWord (d : Dev) {a : Nat} (ha : a < 0x1000000) (v : Nat) : (d.setWord a v).listedQueues = d.listedQueues := by
  refine Tab.filterMap_set _ (fun w => if_neg ?_) _ _ _
  dsimp only
  omega

/-- A write of a unit's page changes no descriptor of a queue. -/
theorem Dev.queueAtHead_wr (d : Dev) {base : Nat} {F : Fld} {i : Nat} (h : base + F.off + F.stride * i < 0x1000000) (v : Nat)
    (c port slot : Nat) : (d.wr base F v i).queueAtHead c port slot = d.queueAtHead c port slot := by
  have hrd (q : Nat) (G : Fld) : (d.wr base F v i).rd (Pg.queue q) G = d.rd (Pg.queue q) G := by
    refine Dev.rd_wr_other _ _ ?_
    unfold Pg.queue
    omega
  have hflag (q : Nat) (G : Fld) : (d.wr base F v i).flag (Pg.queue q) G = d.flag (Pg.queue q) G := by rw [Dev.flag, hrd, ← Dev.flag]
  have hlisted : (d.wr base F v i).listedQueues = d.listedQueues := d.listedQueues_setWord h _
  simp only [Dev.queueAtHead, hlisted, hrd, hflag]

theorem Dev.qCore_of_queueAtHead {d : Dev} {c port slot q : Nat} (h : d.queueAtHead c port slot = some q) : qCore q = c := by
  have hq := List.find?_some h
  simp only [Bool.and_eq_true, beq_iff_eq] at hq
  exact hq.1.1.1.1

/-- The pages of the units lie below the descriptors of the queues. -/
theorem tilePg_lt (c : Fin 32) (m : Fin 10) : tilePg c m + 0x1000 ≤ 0x1000000 := by
  rw [tilePg_mtile]
  simp only [Pg.mtile, Pg.core]
  omega

theorem fPC_off (u : Nat) : (fPC u).off = 0x40 ∧ (fPC u).stride = 0 := by
  unfold fPC
  split <;> exact ⟨rfl, rfl⟩

theorem fDepth_off (u : Nat) : (fDepth u).off = 0x40 ∧ (fDepth u).stride = 0 := by
  unfold fDepth
  split <;> exact ⟨rfl, rfl⟩

theorem Dev.queueAtHead_issued (d : Dev) (c : Fin 32) (m : Fin 10) (dom interval port slot : Nat) :
    (d.issued c m dom interval).queueAtHead c port slot = d.queueAtHead c port slot := by
  have hlow := tilePg_lt c m
  have hpc : tilePg c m + (fPC m).off + (fPC m).stride * 0 < 0x1000000 := by
    rw [(fPC_off m).1]
    omega
  have hdepth : tilePg c m + (fDepth m).off + (fDepth m).stride * 0 < 0x1000000 := by
    rw [(fDepth_off m).1]
    omega
  have hregs : (d.issued c m dom interval).regs = (((d.tries c m).sqSet c m
      { (d.tries c m).sqGet c m with readyAt := d.dcyc dom + interval }).advancePc c m).regs := by
    rw [Dev.issued, Dev.markStepped_regs, Dev.count_regs]
  rw [Dev.queueAtHead_congr hregs, Dev.advancePc_eq, Dev.goTo, Dev.queueAtHead_wr _ hdepth, Dev.queueAtHead_wr _ hpc]
  exact Dev.queueAtHead_congr (by simp only [Dev.tries, Dev.sqSet_regs]) _ _ _

/-! ### What a step leaves of its issue (R35, R158) -/

/-- What follows the issue of a step leaves it issued as long as PC, the time of the next step and the progress of the domains stay. -/
theorem stepped_of_kept {d0 d e : Dev} {c u dom interval : Nat} (h : Stepped d0 d c u dom interval)
    (hpc : e.rd (tilePg c u) (fPC u) = d.rd (tilePg c u) (fPC u)) (hsq : e.sqGet c u = d.sqGet c u) (hhold : e.hold = d.hold) :
    Stepped d0 e c u dom interval := by
  obtain ⟨hadv, hready, hstep⟩ := h
  exact ⟨hpc.trans hadv, hsq ▸ hready, hhold ▸ hstep⟩

/-- A later step of the same tile page, beside PC, leaves it issued. -/
theorem stepped_wr {d0 d : Dev} {c u dom interval : Nat} (h : Stepped d0 d c u dom interval) {F : Fld} {i : Nat}
    (hF : 0x44 ≤ F.off + F.stride * i) (v : Nat) : Stepped d0 (d.wr (tilePg c u) F v i) c u dom interval := by
  refine stepped_of_kept h (Dev.rd_wr_other _ _ ?_) rfl rfl
  obtain ⟨hoff, hstride⟩ := fPC_off u
  rw [hoff, hstride]
  omega

/-! ### A step that puts an item (R36, R38, R103) -/

theorem Dev.sqSet_wr (d : Dev) (c u : Nat) (s : Sqr) (base : Nat) (F : Fld) (v i : Nat) :
    (d.sqSet c u s).wr base F v i = (d.wr base F v i).sqSet c u s := by
  unfold Dev.sqSet
  split <;> rfl

/-- Credits are counted in registers. -/
theorem Dev.creditTake_regs (d : Dev) (c u i n : Nat) : d.creditTake c u i n = { d with regs := (d.creditTake c u i n).regs } := by
  unfold Dev.creditTake
  split
  · rfl
  · split <;> rfl

theorem Dev.creditTake_sqSet (d : Dev) (c u i n : Nat) (s : Sqr) :
    (d.sqSet c u s).creditTake c u i n = (d.creditTake c u i n).sqSet c u s := by
  simp only [Dev.creditTake, Dev.flag_sqSet, Dev.rd_sqSet]
  split
  · rfl
  · split
    · rfl
    · exact d.sqSet_wr _ _ _ _ _ _ _

theorem Dev.creditTake_mtile (d : Dev) (c i n : Nat) (m : Fin 10) : d.creditTake c m i n =
    if d.flag (Pg.mtile c m) Reg.MTILE.EXEMPT i then d
    else d.wr (Pg.mtile c m) Reg.MTILE.CCNT (d.rd (Pg.mtile c m) Reg.MTILE.CCNT i - n) i := by
  simp only [Dev.creditTake, counterRef, m.isLt, if_true]

/-- A credit counter stands behind the words of the sequencer. -/
theorem Dev.rd_creditTake_mtile (d : Dev) (c i n : Nat) (m : Fin 10) {F : Fld} {j : Nat} (hF : F.off + F.stride * j < 0x80) :
    (d.creditTake c m i n).rd (Pg.mtile c m) F j = d.rd (Pg.mtile c m) F j := by
  rw [Dev.creditTake_mtile]
  split
  · rfl
  · exact Dev.rd_wr_other _ _ (by simp only [Reg.MTILE.CCNT, Pg.mtile, Pg.core]; omega)

section
variable {d : Dev} {c u dom iw op opMax : Nat} {plan : Dev → Nat → Nat → Plan} {key cnt interval : Nat} (h : d.Looks c u dom iw)
  (hop : bitsOf iw 58 6 = op) (hmax : op ≤ opMax) (hplan : plan d iw dom = .go [] (some (key, cnt)) interval)
  (hcredit : d.creditOk c u cnt 1 = true) (hroom : (Tab.get d.fab.outp key []).length < 4)
include h hop hmax hplan hcredit hroom

/-- A step that puts an item and takes none issues once its output has a credit and room, and the credit is used. -/
theorem Dev.tryIssue_of_put : d.tryIssue c u op opMax plan = (some (iw, dom, []), (d.creditTake c u cnt 1).issued c u dom interval) := by
  have hgate : (d.creditTake c u cnt 1).sqGet c u = d.sqGet c u := Dev.sqGet_congr (by rw [Dev.creditTake_regs]) _ _
  have hcycle : (d.creditTake c u cnt 1).cycle = d.cycle := by rw [Dev.creditTake_regs]
  have hdcyc : (d.creditTake c u cnt 1).dcyc dom = d.dcyc dom := by rw [Dev.creditTake_regs]; rfl
  have hlegal : ¬ opMax < op := by omega
  simp [Dev.tryIssue, Dev.issued, Dev.tries, h.dom_eq, h.not_skipped, h.instr, h.no_upset, hop, hlegal, hplan, mergeTakes, hcredit,
    hroom.not_ge, Dev.creditTake_sqSet, hgate, hcycle, hdcyc]

end

section
variable {d : Dev} {c : Nat} {m : Fin 10} {dom cnt : Nat} (hloops : (d.sqGet c m).loops = [])
include hloops

/-- The step is the one that R35 describes, with the credit used. -/
theorem stepped_creditTake_issued (interval : Nat) : Stepped d ((d.creditTake c m cnt 1).issued c m dom interval) c m dom interval := by
  have hgate : (d.creditTake c m cnt 1).sqGet c m = d.sqGet c m := Dev.sqGet_congr (by rw [Dev.creditTake_regs]) _ _
  have hdcyc : (d.creditTake c m cnt 1).dcyc dom = d.dcyc dom := by rw [Dev.creditTake_regs]; rfl
  have hstep := (Dev.issued_of_no_loop (d := d.creditTake c m cnt 1) (hgate ▸ hloops) dom interval).1
  rwa [Stepped, tilePg_mtile, fPC_mtile, fLen_mtile, Dev.rd_creditTake_mtile _ _ _ _ _ (by decide),
    Dev.rd_creditTake_mtile _ _ _ _ _ (by decide), hdcyc, ← fPC_mtile m, ← fLen_mtile m, ← tilePg_mtile] at hstep

end

/-! ### Words beside the sequencer's own -/

theorem Dev.rd_issued_other (d : Dev) {c u dom interval base : Nat} {F : Fld} {j : Nat}
    (h : (base + F.off + F.stride * j) / 4 ≠ (tilePg c u + 0x40) / 4) : (d.issued c u dom interval).rd base F j = d.rd base F j := by
  obtain ⟨hpc, hpc'⟩ := fPC_off u
  obtain ⟨hdepth, hdepth'⟩ := fDepth_off u
  rw [Dev.rd_issued, Dev.advancePc_eq, Dev.goTo, Dev.rd_wr_other, Dev.rd_wr_other, Dev.rd_sqSet, Dev.rd_sqSet, Dev.tries, Dev.rd_sqSet]
  · rwa [hpc, hpc']
  · rwa [hdepth, hdepth']

/-- Fields of the tile behind the sequencer's word. -/
theorem Dev.rd_issued_mtile (d : Dev) {c dom interval : Nat} {m : Fin 10} {F : Fld} {j : Nat} (hF : 0x44 ≤ F.off + F.stride * j) :
    (d.issued c m dom interval).rd (Pg.mtile c m) F j = d.rd (Pg.mtile c m) F j := by
  rw [← tilePg_mtile]
  exact d.rd_issued_other (by omega)

theorem Dev.tileDom_lt {d : Dev} {c dom : Nat} (h : d.tileDom c = some dom) : dom < 4 := by
  have hlt := d.rd_lt (Pg.corectl c) Reg.HDR.DOMAIN 0
  unfold Dev.tileDom Dev.coreDom at h
  split at h
  · cases h
  next k hk =>
    split at hk
    · cases hk
      split at h
      · cases h
        exact hlt
      · cases h
    · cases hk

theorem Dev.equaliser_congr {d e : Dev} {m : Nat} (hlo : e.rd (Pg.ldom m) Reg.LDOM.EQ_LO = d.rd (Pg.ldom m) Reg.LDOM.EQ_LO)
    (hhi : e.rd (Pg.ldom m) Reg.LDOM.EQ_HI = d.rd (Pg.ldom m) Reg.LDOM.EQ_HI) (i : Nat) : e.equaliser m i = d.equaliser m i := by
  rw [Dev.equaliser, Dev.equaliser, hlo, hhi]

/-- The equalisers of a domain stand on the loader's page. -/
theorem Dev.equaliser_issued (d : Dev) {c dom interval k : Nat} {m : Fin 10} (hk : k < 4) (i : Nat) :
    (d.issued c m dom interval).equaliser k i = d.equaliser k i := by
  have hfar : 0x100000 ≤ tilePg c m := by
    rw [tilePg_mtile]
    simp only [Pg.mtile, Pg.core]
    omega
  refine Dev.equaliser_congr (d.rd_issued_other ?_) (d.rd_issued_other ?_) i <;>
    simp only [Pg.ldom, Reg.LDOM.EQ_LO, Reg.LDOM.EQ_HI] <;> omega

theorem Dev.equaliser_creditTake (d : Dev) {c cnt n k : Nat} {m : Fin 10} (hk : k < 4) (i : Nat) :
    (d.creditTake c m cnt n).equaliser k i = d.equaliser k i := by
  have hfar : 0x100000 ≤ Pg.mtile c m := by
    simp only [Pg.mtile, Pg.core]
    omega
  rw [Dev.creditTake_mtile]
  split
  · rfl
  · refine Dev.equaliser_congr (Dev.rd_wr_other _ _ ?_) (Dev.rd_wr_other _ _ ?_) i <;>
      simp only [Pg.ldom, Reg.LDOM.EQ_LO, Reg.LDOM.EQ_HI, Reg.MTILE.CCNT] <;> omega

/-! ### A step that takes one item (R36, R39, R159) -/

theorem Dev.headHolds_of_cons {d : Dev} {c u p slot q : Nat} {x : Item} {rest : List Item}
    (hq : d.queueAtHead c (inPort u p) slot = some q) (hhead : d.qHead q = x :: rest) : d.headHolds c u (p, slot, 1) = true := by
  simp [Dev.headHolds, hq, hhead]

/-- The item is taken at the issue, and its poison is seen. -/
theorem Dev.takeOne_of_head {d : Dev} {c : Fin 32} {m : Fin 10} {p slot q : Nat} {x : Item} {rest : List Item}
    (hq : d.queueAtHead c (inPort m p) slot = some q) (hhead : d.qHead q = x :: rest) :
    ∃ e, d.takeOne c m p slot = (some x, e) ∧ d.QueueFrame e ∧ e.qHead q = rest ∧
      (∀ F : Fld, 0x40 ≤ F.off → F.stride = 0 → F.off < 0x1000 → e.rd (Pg.mtile c m) F = d.rd (Pg.mtile c m) F) ∧
      (x.poison = true → e.flag (Pg.mtile c m) Reg.HDR.POISON_SEEN = true) := by
  obtain ⟨e, htake, hframe, hrest, hpage⟩ := Dev.took_of_cons hhead
  have hkeep := hpage (Pg.mtile c m) (Pg.apart_mtile_queue c m) (by
    rw [Dev.qCore_of_queueAtHead hq]
    exact Pg.apart_mtile_qeng c m)
  refine ⟨e.poisonSeen (Pg.mtile c m) x.poison, ?_, ?_, ?_, fun F hlo hstride hhi => ?_, fun hpoison => ?_⟩
  · simp only [Dev.takeOne, hq, htake, tilePg_mtile]
  · refine hframe.trans ?_
    unfold Dev.poisonSeen
    split <;> rfl
  · rwa [Dev.qHead, Dev.poisonSeen_qs]
  · refine Eq.trans ?_ (hkeep.rd (by rw [hstride]; omega))
    unfold Dev.poisonSeen
    split
    · refine Dev.rd_hit_other _ _ ?_ ?_ <;> simp only [hstride, Reg.HDR.POISON_SEEN, eventKey, Pg.mtile, Pg.core] <;> omega
    · rfl
  · rw [Dev.poisonSeen, if_pos hpoison]
    exact Dev.flag_hit_one _ _ _ (by decide) (by decide)

/-! ### What an M tile holds beside its sequencer -/

theorem Dev.mtGet_congr {d e : Dev} (h : d.tl = e.tl) (c m : Nat) : d.mtGet c m = e.mtGet c m := by simp only [Dev.mtGet, h]

theorem Dev.mtGet_sqSet (d : Dev) (c : Nat) (m : Fin 10) (s : Sqr) : (d.sqSet c m s).mtGet c m = { d.mtGet c m with sq := s } := by
  simp only [Dev.sqSet, isM_mtile, if_true, Dev.mtGet_mtSet_same]

/-- An issue changes the sequencer of a tile alone. -/
theorem Dev.mtGet_issued (d : Dev) (c : Nat) (m : Fin 10) (dom interval : Nat) :
    ∃ s, (d.issued c m dom interval).mtGet c m = { d.mtGet c m with sq := s } := by
  have htl : ∀ e : Dev, ((e.count (tilePg c m) 0xF (evStep m)).markStepped dom).tl = e.tl := fun e => by simp
  rw [Dev.issued, Dev.mtGet_congr (htl _), Dev.advancePc_eq, Dev.goTo, Dev.mtGet_congr (Dev.wr_tl _ _ _ _ _),
    Dev.mtGet_congr (Dev.wr_tl _ _ _ _ _), Dev.mtGet_sqSet, Dev.mtGet_sqSet, Dev.tries, Dev.mtGet_sqSet]
  exact ⟨_, rfl⟩

theorem bitsOf_eq_zero_of_within {x lo w lo' w' : Nat} (h : bitsOf x lo w = 0) (hlo : lo ≤ lo') (hhi : lo' + w' ≤ lo + w) :
    bitsOf x lo' w' = 0 := by
  refine Nat.eq_of_testBit_eq (fun i => ?_)
  rw [testBit_bitsOf, Nat.zero_testBit]
  by_cases hi : i < w'
  · have hbit := testBit_bitsOf x lo w (lo' - lo + i)
    rw [h, Nat.zero_testBit, decide_eq_true (by omega), Bool.true_and, show lo + (lo' - lo + i) = lo' + i by omega] at hbit
    rw [← hbit, Bool.and_false]
  · simp [hi]

/-! ### The halves of a weight store (R136) -/

theorem Dev.rd_swapHalves (d : Dev) (c t base : Nat) (F : Fld) (j : Nat) : (d.swapHalves c t).rd base F j =
    (d.wr (Pg.mtile c t) Reg.MTILE.ACTIVE_HALF (1 - d.rd (Pg.mtile c t) Reg.MTILE.ACTIVE_HALF)).rd base F j := rfl

/-- After an exchange no half is marked as written beside the active one. -/
theorem Dev.swapHalves_shadow (d : Dev) (c t : Nat) : Tab.get (d.swapHalves c t).ldr.shadow (10 * c + t) false = false := by
  simp only [Dev.swapHalves, Tab.get_set_same]

end Sys2Proof.Machine

namespace Sys2Proof

open Machine

/-! ### The clauses of O38 -/

theorem wpset_sets_pointer (c : Fin 32) (m : Fin 10) (s : State) (dom iw : Nat) (h : AtStep s.dev c m dom iw)
    (hop : bitsOf iw 58 6 = 8) (hzero : bitsOf iw 12 46 = 0) (hwp : bitsOf iw 0 12 ≤ 3071) :
    GivesDev (.wpset c m) s (fun d => d = { s.dev with tl := d.tl, regs := d.regs, perf := d.perf, hold := d.hold } ∧
      Stepped s.dev d c m dom 1 ∧ d.rd (Pg.mtile c m) Reg.MTILE.WP = bitsOf iw 0 12) := by
  have hissue := Dev.tryIssue_of_heads (op := 8) (opMax := 0x0A) (takes := []) (put := none) (interval := 1) (plan := fun _ iw _ =>
    if bitsOf iw 12 46 ≠ 0 then .bad 1 else if 3071 < bitsOf iw 0 12 then .bad 5 else .go [] none 1) (Dev.looks_of_atStep h) hop
    (by decide) (by simp [hzero, hwp]) rfl rfl
  have hstep : s.dev.wpset c m = (s.dev.issued c m dom 1).wr (tilePg c m) Reg.MTILE.WP (bitsOf iw 0 12) := by
    rw [Dev.wpset, hissue, tilePg_mtile]
  refine ⟨s.dev.wpset c m, rfl, ?_⟩
  rw [hstep]
  refine ⟨(Dev.issued_tileFrame _ _ _ _ _).trans (Dev.wr_tileFrame _ _ _ _ _),
    stepped_wr (Dev.issued_of_no_loop (Dev.loops_of_atStep h) dom 1).1 (by decide) _, ?_⟩
  rw [tilePg_mtile, Dev.rd_wr_same _ _ _ _ _ (by decide)]
  exact Nat.mod_eq_of_lt (bitsOf_lt _ _ _)

theorem Dev.mNv_false (d : Dev) (c t m : Nat) : d.mNv c t m false = d := rfl

section
variable {d : Dev} {c : Fin 32} {m : Fin 10} {dom interval p slot q : Nat} {x : Item} {rest : List Item}
  (hloops : (d.sqGet c m).loops = []) (hq : d.queueAtHead c (inPort m p) slot = some q) (hhead : d.qHead q = x :: rest)
include hloops hq hhead

/-- A step that takes one item at its issue: it is issued as R35 says, the other items stay, and poison is seen. -/
theorem takeOne_after_issue : ∃ e, (d.issued c m dom interval).takeOne c m p slot = (some x, e) ∧ Stepped d e c m dom interval ∧
    e.qHead q = rest ∧ (x.poison = true → e.flag (Pg.mtile c m) Reg.HDR.POISON_SEEN = true) ∧
    e.rd (Pg.mtile c m) Reg.MTILE.ACTIVE_HALF = d.rd (Pg.mtile c m) Reg.MTILE.ACTIVE_HALF := by
  have hframe := d.issued_tileFrame c m dom interval
  have hq' : (d.issued c m dom interval).queueAtHead c (inPort m p) slot = some q := by rwa [Dev.queueAtHead_issued]
  have hhead' : (d.issued c m dom interval).qHead q = x :: rest := by
    unfold Dev.TileFrame at hframe
    rw [hframe]
    exact hhead
  obtain ⟨e, htake, hqueue, hrest, hkeep, hpoison⟩ := Dev.takeOne_of_head hq' hhead'
  unfold Dev.QueueFrame at hqueue
  refine ⟨e, htake, ?_, hrest, hpoison, ?_⟩
  · refine stepped_of_kept (Dev.issued_of_no_loop hloops dom interval).1 ?_ (Dev.sqGet_congr (by rw [hqueue]) _ _) (by rw [hqueue])
    rw [tilePg_mtile, fPC_mtile]
    exact hkeep _ (by decide) rfl (by decide)
  · exact (hkeep _ (by decide) rfl (by decide)).trans (d.rd_issued_mtile (by decide))

end

theorem wswap_exchanges_halves (c : Fin 32) (m : Fin 10) (s : State) (dom iw q : Nat) (x : Item) (rest : List Item)
    (h : AtStep s.dev c m dom iw) (hop : bitsOf iw 58 6 = 7) (hzero : bitsOf iw 0 55 = 0)
    (hq : s.dev.queueAtHead c (inPort m 2) (bitsOf iw 55 3) = some q) (hhead : s.dev.qHead q = x :: rest) (hvalid : x.valid = true) :
    GivesDev (.wswap c m) s (fun d => Stepped s.dev d c m dom (2 + s.dev.equaliser dom 4) ∧ d.qHead q = rest ∧
      d.rd (Pg.mtile c m) Reg.MTILE.ACTIVE_HALF = 1 - s.dev.rd (Pg.mtile c m) Reg.MTILE.ACTIVE_HALF ∧
      Tab.get d.ldr.shadow (10 * c.val + m.val) false = false) := by
  have hholds : s.dev.headHolds c m (2, bitsOf iw 55 3, 1) = true := Dev.headHolds_of_cons hq hhead
  have hissue := Dev.tryIssue_of_heads (op := 7) (opMax := 0x0A) (takes := [(2, bitsOf iw 55 3, 1)]) (put := none)
    (interval := 2 + s.dev.equaliser dom 4) (plan := fun d iw m =>
      if bitsOf iw 0 55 ≠ 0 then .bad 1 else .go [(2, bitsOf iw 55 3, 1)] none (2 + d.equaliser m 4)) (Dev.looks_of_atStep h) hop
    (by decide) (by simp [hzero]) (by simpa [mergeTakes] using hholds) rfl
  obtain ⟨e, htake, hstepped, hrest, -, hhalf⟩ := takeOne_after_issue (dom := dom) (interval := 2 + s.dev.equaliser dom 4)
    (Dev.loops_of_atStep h) hq hhead
  have hstep : s.dev.wswap c m = e.swapHalves c m := by
    simp only [Dev.wswap, hissue, htake, hvalid, Bool.not_true, Dev.mNv_false]
  refine ⟨s.dev.wswap c m, rfl, ?_⟩
  rw [hstep]
  refine ⟨?_, hrest, ?_, e.swapHalves_shadow c m⟩
  · have hwr := stepped_wr hstepped (F := Reg.MTILE.ACTIVE_HALF) (i := 0) (by decide)
      (1 - e.rd (Pg.mtile c m) Reg.MTILE.ACTIVE_HALF)
    rw [tilePg_mtile] at hwr
    exact stepped_of_kept hwr rfl rfl rfl
  · rw [Dev.rd_swapHalves, Dev.rd_wr_same _ _ _ _ _ (by decide), hhalf]
    exact Nat.mod_eq_of_lt (Nat.lt_succ_of_le (Nat.sub_le _ _))

theorem mDrop_takes_item (c : Fin 32) (m : Fin 10) (s : State) (dom iw q : Nat) (x : Item) (rest : List Item)
    (h : AtStep s.dev c m dom iw) (hop : bitsOf iw 58 6 = 10) (hzero : bitsOf iw 0 53 = 0) (hport : bitsOf iw 56 2 ≠ 3)
    (hq : s.dev.queueAtHead c (inPort m (bitsOf iw 56 2)) (bitsOf iw 53 3) = some q) (hhead : s.dev.qHead q = x :: rest)
    (hvalid : x.valid = true) :
    GivesDev (.mDrop c m) s (fun d => Stepped s.dev d c m dom 1 ∧ d.qHead q = rest ∧
      (x.poison = true → d.flag (Pg.mtile c m) Reg.HDR.POISON_SEEN = true)) := by
  have hholds : s.dev.headHolds c m (bitsOf iw 56 2, bitsOf iw 53 3, 1) = true := Dev.headHolds_of_cons hq hhead
  have hissue := Dev.tryIssue_of_heads (op := 10) (opMax := 0x0A) (takes := [(bitsOf iw 56 2, bitsOf iw 53 3, 1)]) (put := none)
    (interval := 1) (plan := fun _ iw _ => if bitsOf iw 0 53 ≠ 0 then .bad 1 else if bitsOf iw 56 2 = 3 then .bad 8
      else .go [(bitsOf iw 56 2, bitsOf iw 53 3, 1)] none 1) (Dev.looks_of_atStep h) hop (by decide) (by simp [hzero, hport])
    (by simpa [mergeTakes] using hholds) rfl
  obtain ⟨e, htake, hstepped, hrest, hpoison, -⟩ := takeOne_after_issue (dom := dom) (interval := 1) (Dev.loops_of_atStep h) hq hhead
  have hstep : s.dev.mDrop c m = e := by
    simp only [Dev.mDrop, hissue, htake, hvalid, Bool.not_true, Dev.mNv_false]
  exact ⟨s.dev.mDrop c m, rfl, hstep ▸ ⟨hstepped, hrest, hpoison⟩⟩

/-! ### Puts (R38, R93, R157, R159) -/

theorem putOut_frame (d : Dev) (c u o lat : Nat) (x : Item) : ∃ p, d.putOut c u o lat x = { d with perf := p, fab := { d.fab with
    outp := Tab.set d.fab.outp (outKey c u o) (Tab.get d.fab.outp (outKey c u o) [] ++ [⟨x, d.cycle + lat, false⟩]) [] } } := by
  unfold Dev.putOut
  dsimp only
  rw [Dev.count_frame]
  exact ⟨_, rfl⟩

section
variable {d : Dev} {c : Fin 32} {m : Fin 10} {dom cnt : Nat} (hdom : d.tileDom c = some dom) (hloops : (d.sqGet c m).loops = [])
  (x : Item)
include hdom hloops

/-- A step that puts an item at its issue: it is issued as R35 says with a credit used, and the item stands behind the others of its
output. -/
theorem putOut_after_issue {e : Dev} (he : e = (d.creditTake c m cnt 1).issued c m dom 1) :
    ∃ f, e.putOut c m 0 (3 + e.equaliser dom 3) x = f ∧ Stepped d f c m dom 1 ∧
      f.fab = { d.fab with outp := Tab.set d.fab.outp (outKey c m 0) (Tab.get d.fab.outp (outKey c m 0) [] ++
        [⟨x, d.cycle + (3 + d.equaliser dom 3), false⟩]) [] } ∧ f.qs = d.qs ∧ f.regs = e.regs := by
  have hequal : e.equaliser dom 3 = d.equaliser dom 3 := by
    rw [he, Dev.equaliser_issued _ (Dev.tileDom_lt hdom), Dev.equaliser_creditTake _ (Dev.tileDom_lt hdom)]
  have hframe := (d.creditTake c m cnt 1).issued_tileFrame c m dom 1
  rw [← he] at hframe
  unfold Dev.TileFrame at hframe
  have hstepped : Stepped d e c m dom 1 := he ▸ stepped_creditTake_issued hloops 1
  obtain ⟨p, hput⟩ := putOut_frame e c m 0 (3 + e.equaliser dom 3) x
  refine ⟨_, hput, stepped_of_kept hstepped rfl rfl rfl, ?_, ?_, rfl⟩
  · rw [hequal, hframe, Dev.creditTake_regs]
  · rw [hframe, Dev.creditTake_regs]

end

theorem mPhold_puts_placeholder (c : Fin 32) (m : Fin 10) (s : State) (dom iw : Nat) (h : AtStep s.dev c m dom iw)
    (hop : bitsOf iw 58 6 = 9) (hzero : bitsOf iw 0 54 = 0) (hcredit : s.dev.creditOk c m (bitsOf iw 54 4) 1 = true)
    (hroom : (Tab.get s.dev.fab.outp (outKey c m 0) []).length < 4) :
    GivesDev (.mPhold c m) s (fun d => Stepped s.dev d c m dom 1 ∧
      d.fab = { s.dev.fab with outp := Tab.set s.dev.fab.outp (outKey c m 0) (Tab.get s.dev.fab.outp (outKey c m 0) [] ++
        [⟨Item.placeholder, s.dev.cycle + (3 + s.dev.equaliser dom 3), false⟩]) [] } ∧
      (s.dev.flag (Pg.mtile c m) Reg.MTILE.EXEMPT (bitsOf iw 54 4) = false →
        d.rd (Pg.mtile c m) Reg.MTILE.CCNT (bitsOf iw 54 4) = s.dev.rd (Pg.mtile c m) Reg.MTILE.CCNT (bitsOf iw 54 4) - 1)) := by
  have hlook := Dev.looks_of_atStep h
  have hissue := Dev.tryIssue_of_put (op := 9) (opMax := 0x0A) (interval := 1) (plan := fun _ iw _ =>
    if bitsOf iw 0 54 ≠ 0 then .bad 1 else .go [] (some (outKey c m 0, bitsOf iw 54 4)) 1) hlook hop (by decide)
    (by simp [hzero]) hcredit hroom
  obtain ⟨f, hput, hstepped, hfab, -, hregs⟩ := putOut_after_issue hlook.dom_eq (Dev.loops_of_atStep h) Item.placeholder
    (cnt := bitsOf iw 54 4) rfl
  have hstep : s.dev.mPhold c m = f := by simp only [Dev.mPhold, hissue, hput]
  refine ⟨s.dev.mPhold c m, rfl, ?_⟩
  rw [hstep]
  refine ⟨hstepped, hfab, fun hexempt => ?_⟩
  have hcount : s.dev.rd (Pg.mtile c m) Reg.MTILE.CCNT (bitsOf iw 54 4) - 1 < 2 ^ Reg.MTILE.CCNT.w :=
    (Nat.sub_le _ _).trans_lt (s.dev.rd_lt _ _ _)
  rw [Dev.rd_congr hregs, Dev.rd_issued_mtile _ (by simp only [Reg.MTILE.CCNT]; omega), Dev.creditTake_mtile, hexempt,
    if_neg Bool.false_ne_true, Dev.rd_wr_same _ _ _ _ _ (by decide), Nat.mod_eq_of_lt hcount]

section
variable {d : Dev} {c : Fin 32} {m : Fin 10} {dom iw ns k : Nat} (hzero : bitsOf iw 0 46 = 0) (hns : ns = bitsOf iw 46 4 + 1)
  (ha8 : bitAt (d.mtGet c m).slotA12 (bitsOf iw 50 4) = false)
  (hk : k = 32 * (bitsOf iw 50 4 + d.rd (Pg.mtile c m) Reg.MTILE.EP % (32 * ns) % ns) +
    d.rd (Pg.mtile c m) Reg.MTILE.EP % (32 * ns) / ns)
include hzero hns ha8 hk

/-- A legal EMIT of A8 rows in the order of the slots issues once its row is visible. -/
theorem planEmit_of_visible (hslots : bitsOf iw 50 4 + ns ≤ 16) (hwritten : 0 < Tab.get (d.mtGet c m).slotAt k 0)
    (hvisible : Tab.get (d.mtGet c m).slotAt k 0 < d.dcyc dom) :
    planEmit c m d iw dom = .go [] (some (outKey c m 0, bitsOf iw 54 4)) 1 := by
  have hunused : bitsOf iw 0 45 = 0 := bitsOf_eq_zero_of_within hzero (by decide) (by decide)
  have horder : bitsOf iw 45 1 = 0 := bitsOf_eq_zero_of_within hzero (by decide) (by decide)
  have hfit : ¬ 16 < bitsOf iw 50 4 + ns := by omega
  have hready : ¬ (Tab.get (d.mtGet c m).slotAt k 0 = 0 ∨ d.dcyc dom ≤ Tab.get (d.mtGet c m).slotAt k 0) := by omega
  subst hk
  simp only [planEmit, emitElement, ← hns, hunused, horder, ha8, ne_eq, not_true_eq_false, Bool.false_eq_true, if_false, if_true,
    Nat.mul_one, Nat.div_one, if_neg hfit, if_neg hready]

/-- EMIT puts the row that EP names and advances EP. -/
theorem mEmit_of_issue {e : Dev} {takes : List (Nat × Nat × Nat)} {s : Sqr}
    (hissue : d.tryIssue c m 6 0x0A (planEmit c m) = (some (iw, dom, takes), e)) (htile : e.mtGet c m = { d.mtGet c m with sq := s })
    (hep : e.rd (Pg.mtile c m) Reg.MTILE.EP = d.rd (Pg.mtile c m) Reg.MTILE.EP) :
    d.mEmit c m = (e.putOut c m 0 (3 + e.equaliser dom 3) ⟨BitVec.ofNat 256 (emitData false 0 (Tab.get (d.mtGet c m).slots k [])),
      !bitAt (d.mtGet c m).slotPh k, bitAt (d.mtGet c m).slotPoison k, 0, 0, false⟩).wr (Pg.mtile c m) Reg.MTILE.EP
        ((d.rd (Pg.mtile c m) Reg.MTILE.EP % (32 * ns) + 1) % (32 * ns)) := by
  have horder : bitsOf iw 45 1 = 0 := bitsOf_eq_zero_of_within hzero (by decide) (by decide)
  subst hk
  simp only [Dev.mEmit, hissue, htile, hep, emitElement, ← hns, horder, ha8, Bool.false_eq_true, if_false, if_true, Nat.mul_one,
    Nat.div_one, Nat.mod_one]

end

theorem mEmit_puts_row (c : Fin 32) (m : Fin 10) (s : State) (dom iw ns k : Nat) (h : AtStep s.dev c m dom iw)
    (hop : bitsOf iw 58 6 = 6) (hzero : bitsOf iw 0 46 = 0) (hns : ns = bitsOf iw 46 4 + 1) (hslots : bitsOf iw 50 4 + ns ≤ 16)
    (ha8 : bitAt (s.dev.mtGet c m).slotA12 (bitsOf iw 50 4) = false)
    (hk : k = 32 * (bitsOf iw 50 4 + s.dev.rd (Pg.mtile c m) Reg.MTILE.EP % (32 * ns) % ns) +
      s.dev.rd (Pg.mtile c m) Reg.MTILE.EP % (32 * ns) / ns)
    (hwritten : 0 < Tab.get (s.dev.mtGet c m).slotAt k 0) (hvisible : Tab.get (s.dev.mtGet c m).slotAt k 0 < s.dev.dcyc dom)
    (hcredit : s.dev.creditOk c m (bitsOf iw 54 4) 1 = true) (hroom : (Tab.get s.dev.fab.outp (outKey c m 0) []).length < 4) :
    GivesDev (.mEmit c m) s (fun d => Stepped s.dev d c m dom 1 ∧
      d.fab = { s.dev.fab with outp := Tab.set s.dev.fab.outp (outKey c m 0) (Tab.get s.dev.fab.outp (outKey c m 0) [] ++
        [⟨⟨BitVec.ofNat 256 (emitData false 0 (Tab.get (s.dev.mtGet c m).slots k [])), !bitAt (s.dev.mtGet c m).slotPh k,
          bitAt (s.dev.mtGet c m).slotPoison k, 0, 0, false⟩, s.dev.cycle + (3 + s.dev.equaliser dom 3), false⟩]) [] } ∧
      d.rd (Pg.mtile c m) Reg.MTILE.EP = (s.dev.rd (Pg.mtile c m) Reg.MTILE.EP % (32 * ns) + 1) % (32 * ns) ∧ d.qs = s.dev.qs) := by
  have hlook := Dev.looks_of_atStep h
  have hissue := Dev.tryIssue_of_put (op := 6) (opMax := 0x0A) hlook hop (by decide)
    (planEmit_of_visible hzero hns ha8 hk hslots hwritten hvisible) hcredit hroom
  obtain ⟨sq, htile⟩ := (s.dev.creditTake c m (bitsOf iw 54 4) 1).mtGet_issued c m dom 1
  have htile' : (s.dev.creditTake c m (bitsOf iw 54 4) 1).mtGet c m = s.dev.mtGet c m := Dev.mtGet_congr (by rw [Dev.creditTake_regs]) _ _
  have hep : ((s.dev.creditTake c m (bitsOf iw 54 4) 1).issued c m dom 1).rd (Pg.mtile c m) Reg.MTILE.EP =
      s.dev.rd (Pg.mtile c m) Reg.MTILE.EP :=
    (Dev.rd_issued_mtile _ (by decide)).trans (Dev.rd_creditTake_mtile _ _ _ _ _ (by decide))
  rw [htile'] at htile
  have hstep := mEmit_of_issue hzero hns ha8 hk hissue htile hep
  obtain ⟨f, hput, hstepped, hfab, hqs, -⟩ := putOut_after_issue hlook.dom_eq (Dev.loops_of_atStep h)
    ⟨BitVec.ofNat 256 (emitData false 0 (Tab.get (s.dev.mtGet c m).slots k [])), !bitAt (s.dev.mtGet c m).slotPh k,
      bitAt (s.dev.mtGet c m).slotPoison k, 0, 0, false⟩ (cnt := bitsOf iw 54 4) rfl
  rw [hput] at hstep
  refine ⟨s.dev.mEmit c m, rfl, ?_⟩
  rw [hstep]
  refine ⟨?_, hfab, ?_, hqs⟩
  · have hwr := stepped_wr hstepped (F := Reg.MTILE.EP) (i := 0) (by decide)
      ((s.dev.rd (Pg.mtile c m) Reg.MTILE.EP % (32 * ns) + 1) % (32 * ns))
    rwa [tilePg_mtile] at hwr
  · have hpattern := Nat.mod_lt (s.dev.rd (Pg.mtile c m) Reg.MTILE.EP % (32 * ns) + 1) (show 0 < 32 * ns by omega)
    rw [Dev.rd_wr_same _ _ _ _ _ (by decide)]
    refine Nat.mod_eq_of_lt (hpattern.trans ?_)
    simp only [Reg.MTILE.EP]
    omega

/-- Settles O38, clause by clause. -/
theorem multiplierTileMoves : Obligations.MultiplierTileMoves :=
  ⟨wpset_sets_pointer, wswap_exchanges_halves, mEmit_puts_row, mPhold_puts_placeholder, mDrop_takes_item⟩

end Sys2Proof
end

section
/-!
PROOFS of 05_multiplier_tiles.md: the words of the program, descriptor and function tables of the tiles (R163, R201).
-/

namespace Sys2Proof.Machine

/-! ### A word of a core's page -/

/-- A word beyond the header of a page of a core that is not fenced goes to the page's own words, when nothing waits in its block. -/
theorem Dev.coreWord_of_core {d : Dev} {c p o : Nat} {k : PageKind} {n : Nat} (hc : c < 32) (hp : p < 32) (ho : 0x40 ≤ o) (ho2 : o < 0x1000)
    (hkind : pageKind (0x100 + 32 * c + p) = some (k, n)) (hcore : k.isCore = true) (hfence : d.fenced c = false)
    (hstall : NoStall d (Pg.core c p)) (v : Nat) :
    d.coreWord (Pg.core c p + o) v = d.corePageWord k c (Pg.core c p + o) v := by
  have hpage : (Pg.core c p + o) / 4096 = 0x100 + 32 * c + p := by unfold Pg.core; omega
  have hoff : ¬ (Pg.core c p + o) % 4096 < 0x40 := by unfold Pg.core; omega
  have hof : pageCore (0x100 + 32 * c + p) = c := by unfold pageCore; omega
  have hblock : blockAt (Pg.core c p + o) = blockAt (Pg.core c p) := by
    have hlt : Pg.core c p + o < 0x1000000 := by unfold Pg.core; omega
    have hge : 0x6C000 ≤ Pg.core c p := by unfold Pg.core; omega
    unfold blockAt
    rw [if_neg (by omega), if_neg (by omega), if_neg (by omega), if_neg (by omega), hpage]
    unfold Pg.core
    omega
  have hwrite : d.coreWrite (0x100 + 32 * c + p) = (true, d) := by
    have hcore' : (0x100 + 32 * c + p - 0x100) / 32 = c := by omega
    rw [Dev.coreWrite, hcore', hfence, if_neg (by simp)]
  have hstall' : NoStall d (Pg.core c p + o) := by
    rw [NoStall, hblock]
    exact hstall
  unfold Dev.coreWord
  rw [Dev.hostPageWord_of_no_stall hstall']
  simp only [Dev.pageWord, hpage, hkind, hcore, hwrite, hoff, hof, if_true, if_false, Bool.not_true, Bool.false_eq_true]

theorem pageKind_mtile {c m : Nat} (hc : c < 32) (hm : m < 10) : pageKind (0x100 + 32 * c + (3 + m)) = some (.mtile, m) := by
  have hpage : (0x100 + 32 * c + (3 + m) - 0x100) % 32 = 3 + m := by omega
  unfold pageKind
  simp (disch := omega) only [hpage, if_neg, if_pos]
  simp

theorem pageKind_vtile {c v : Nat} (hc : c < 32) (hv : v < 2) : pageKind (0x100 + 32 * c + (13 + v)) = some (.vtile, v) := by
  have hpage : (0x100 + 32 * c + (13 + v) - 0x100) % 32 = 13 + v := by omega
  unfold pageKind
  simp (disch := omega) only [hpage, if_neg, if_pos]
  simp

/-! ### The bank that an index register names -/

theorem Dev.coreDom_congr {d e : Dev} {c : Nat} (hen : e.rd (Pg.corectl c) Reg.HDR.ENABLE = d.rd (Pg.corectl c) Reg.HDR.ENABLE)
    (hdom : e.rd (Pg.corectl c) Reg.HDR.DOMAIN = d.rd (Pg.corectl c) Reg.HDR.DOMAIN) : e.coreDom c = d.coreDom c := by
  have hflag : e.flag (Pg.corectl c) Reg.HDR.ENABLE = d.flag (Pg.corectl c) Reg.HDR.ENABLE := by rw [Dev.flag, hen, Dev.flag]
  rw [Dev.coreDom, hflag, hdom, Dev.coreDom]

theorem Dev.coreDom_lt {d : Dev} {c m : Nat} (h : d.coreDom c = some m) : m < 4 := by
  unfold Dev.coreDom at h
  split at h
  · cases h
    exact d.rd_lt _ _ _
  · cases h

/-- A write to a tile's page does not move the bank that an index register of the core names. -/
theorem Dev.unitBank_wr (d : Dev) {c u : Nat} (u' : Nat) {F : Fld} (v : Nat) (staged : Bool) (hc : c < 32) (hu : u < 12) (hoff : F.off < 0x1000) :
    (d.wr (tilePg c u) F v).unitBank c u' staged = d.unitBank c u' staged := by
  have hpg : 0x100000 + c * 0x20000 + 0x3000 ≤ tilePg c u := by
    unfold tilePg Pg.mtile Pg.vtile Pg.core
    split <;> omega
  have hctl : ∀ G : Fld, G.off < 0x1000 → (d.wr (tilePg c u) F v).rd (Pg.corectl c) G = d.rd (Pg.corectl c) G := fun G hG =>
    Dev.rd_wr_other _ _ (by unfold Pg.corectl Pg.core; omega)
  have hdom : (d.wr (tilePg c u) F v).coreDom c = d.coreDom c := Dev.coreDom_congr (hctl _ (by decide)) (hctl _ (by decide))
  have hruns : (d.wr (tilePg c u) F v).coreRuns c = d.coreRuns c := by
    unfold Dev.coreRuns
    rw [hdom]
    cases h : d.coreDom c with
    | none => rfl
    | some m =>
      have hm := Dev.coreDom_lt h
      have hstate : (d.wr (tilePg c u) F v).dstate m = d.dstate m :=
        Dev.rd_wr_other _ _ (by simp only [Pg.ldom, Reg.LDOM.STATE]; omega)
      simp only [Dev.running, hstate]
  have hsel : (d.wr (tilePg c u) F v).bank (Bank.tile c u') = d.bank (Bank.tile c u') := rfl
  rw [Dev.unitBank, hruns, hsel, Dev.unitBank]

/-! ### What a commit leaves -/

/-- `e` is `d` with the upset of cell `k` cleared, the tile memories `tl` and other registers. -/
def Dev.Committed (d e : Dev) (k : Nat) (tl : Tiles) : Prop := e = { d.setUpset k 0 with regs := e.regs, tl := tl }

theorem Dev.Committed.wr {d e : Dev} {k : Nat} {tl : Tiles} (h : d.Committed e k tl) (base : Nat) (F : Fld) (v : Nat) :
    d.Committed (e.wr base F v) k tl := by
  unfold Dev.Committed at h ⊢
  rw [h]
  rfl

theorem Dev.Committed.setWord {d e : Dev} {k : Nat} {tl : Tiles} (h : d.Committed e k tl) (a v : Nat) :
    d.Committed (e.setWord a v) k tl := by
  unfold Dev.Committed at h ⊢
  rw [h]
  rfl

section
variable {d : Dev} {c u b : Nat} {staged : Bool} {F : Fld} (hc : c < 32) (hu : u < 12) (hoff : F.off < 0x1000)
  (hbank : d.unitBank c u staged = some b) (x : Nat)
include hc hu hoff hbank

theorem Dev.putProg_wr_committed (i v : Nat) :
    d.Committed ((d.wr (tilePg c u) F x).putProg c u i v staged) (Upset.prog (((16 * c + u) * 2 + b) * 512 + i))
      { d.tl with prog := Tab.set d.tl.prog (((16 * c + u) * 2 + b) * 512 + i) v 0 } := by
  unfold Dev.putProg
  rw [Dev.unitBank_wr d u x staged hc hu hoff, hbank]
  rfl

theorem Dev.putProg_wr_regs (i v : Nat) : ((d.wr (tilePg c u) F x).putProg c u i v staged).regs = (d.wr (tilePg c u) F x).regs := by
  unfold Dev.putProg
  rw [Dev.unitBank_wr d u x staged hc hu hoff, hbank]
  rfl

theorem Dev.putDesc_wr_committed (i w v : Nat) :
    d.Committed ((d.wr (tilePg c u) F x).putDesc c u i w v staged) (Upset.desc (((16 * c + u) * 2 + b) * 32 + 2 * i + w))
      { d.tl with desc := Tab.set d.tl.desc (((16 * c + u) * 2 + b) * 32 + 2 * i + w) v 0 } := by
  unfold Dev.putDesc
  rw [Dev.unitBank_wr d u x staged hc hu hoff, hbank]
  rfl

theorem Dev.putDesc_wr_regs (i w v : Nat) : ((d.wr (tilePg c u) F x).putDesc c u i w v staged).regs = (d.wr (tilePg c u) F x).regs := by
  unfold Dev.putDesc
  rw [Dev.unitBank_wr d u x staged hc hu hoff, hbank]
  rfl

end

/-! ### The index registers -/

/-- A field of the index word at offset `o`, as Tables 5.10 and 6.10 give them. -/
def indexField (o lo w : Nat) : Fld := ⟨o, 0, 1, lo, w, .rw, 0, 0, 0⟩

/-- DI_WORD, then DI_INDEX, goes on by one when AUTOINC is set. -/
theorem Dev.rd_index_advanceDesc (d : Dev) (base o : Nat) :
    2 * (d.advanceDesc (base + o)).rd base (indexField o 0 4) + (d.advanceDesc (base + o)).rd base (indexField o 4 1) =
      if d.flag base (indexField o 31 1) then (2 * d.rd base (indexField o 0 4) + d.rd base (indexField o 4 1) + 1) % 32
      else 2 * d.rd base (indexField o 0 4) + d.rd base (indexField o 4 1) := by
  have hword : ∀ (e : Dev) (lo w : Nat), e.rd base (indexField o lo w) = bitsOf (e.word (base + o)) lo w := fun _ _ _ => rfl
  have hflag : d.flag base (indexField o 31 1) = bitAt (d.word (base + o)) 31 := by
    rw [Dev.flag, hword, bitAt, bitsOf, Nat.testBit_eq_decide_div_mod_eq, Nat.shiftRight_eq_div_pow]
    rcases Nat.mod_two_eq_zero_or_one (d.word (base + o) / 2 ^ 31) with h | h <;> rw [pow_one, h] <;> rfl
  have hindex : bitsOf (d.word (base + o)) 0 4 = d.word (base + o) % 16 := by simp [bitsOf]
  rw [hflag]
  simp only [hword]
  unfold Dev.advanceDesc
  dsimp only
  split
  · rw [Dev.word_setWord_same, Nat.mod_eq_of_lt (setBits_lt (setBits_lt (d.word_lt _) (by decide)) (by decide)), bitsOf_setBits_same,
      bitsOf_setBits_other _ _ _ _ (by decide), bitsOf_setBits_same, hindex]
    omega
  · rfl

theorem Dev.advanceDesc_committed {d e : Dev} {k : Nat} {tl : Tiles} (h : d.Committed e k tl) (a : Nat) :
    d.Committed (e.advanceDesc a) k tl := by
  unfold Dev.advanceDesc
  dsimp only
  split
  · exact h.setWord _ _
  · exact h

/-- Where the commit keeps the registers of `d.wr base F x`, a word of the page other than the one written reads as before. -/
theorem Dev.rd_of_regs_wr {d e : Dev} {base : Nat} {F : Fld} {x : Nat} (h : e.regs = (d.wr base F x).regs) {G : Fld}
    (hoff : (base + G.off + G.stride * 0) / 4 ≠ (base + F.off + F.stride * 0) / 4) : e.rd base G = d.rd base G :=
  (Dev.rd_congr h base G 0).trans (Dev.rd_wr_other d x hoff)

/-- The word of a table index goes on with AUTOINC, and only then. -/
theorem Dev.advanceDesc_of_regs_wr {d e : Dev} {base o : Nat} {F : Fld} {x : Nat} (h : e.regs = (d.wr base F x).regs)
    (hoff : (base + o) / 4 ≠ (base + F.off + F.stride * 0) / 4) :
    2 * (e.advanceDesc (base + o)).rd base (indexField o 0 4) + (e.advanceDesc (base + o)).rd base (indexField o 4 1) =
      if d.flag base (indexField o 31 1) then (2 * d.rd base (indexField o 0 4) + d.rd base (indexField o 4 1) + 1) % 32
      else 2 * d.rd base (indexField o 0 4) + d.rd base (indexField o 4 1) := by
  have hrd : ∀ lo w, e.rd base (indexField o lo w) = d.rd base (indexField o lo w) := fun lo w =>
    Dev.rd_of_regs_wr h (by simpa [indexField] using hoff)
  rw [Dev.rd_index_advanceDesc, Dev.flag, hrd, hrd, hrd, Dev.flag]

/-! ### The high halves (R163, R201) -/

section
variable {d : Dev} {c b : Nat} (hc : c < 32)
include hc

section
variable {m : Nat} (hm : m < 10)
include hm

theorem Dev.mPiHi_committed (v : Nat) (hbank : d.unitBank c m (d.flag (Pg.mtile c m) Reg.MTILE.PI_STAGED) = some b) :
    d.Committed (d.mPiHi c m v) (Upset.prog (((16 * c + m) * 2 + b) * 512 + d.rd (Pg.mtile c m) Reg.MTILE.PI_INDEX))
      { d.tl with
        prog := Tab.set d.tl.prog (((16 * c + m) * 2 + b) * 512 + d.rd (Pg.mtile c m) Reg.MTILE.PI_INDEX)
          (d.rd (Pg.mtile c m) Reg.MTILE.PI_LO + v * 2 ^ 32) 0 } ∧
    (d.mPiHi c m v).rd (Pg.mtile c m) Reg.MTILE.PI_INDEX =
      if d.flag (Pg.mtile c m) Reg.MTILE.PI_AUTOINC then (d.rd (Pg.mtile c m) Reg.MTILE.PI_INDEX + 1) % 256
      else d.rd (Pg.mtile c m) Reg.MTILE.PI_INDEX := by
  have hu : m < 12 := by omega
  have hpg : tilePg c m = Pg.mtile c m := tilePg_mtile c ⟨m, hm⟩
  have hput := Dev.putProg_wr_committed hc hu (F := Reg.MTILE.PI_HI) (by decide) hbank v (d.rd (Pg.mtile c m) Reg.MTILE.PI_INDEX)
    (d.rd (Pg.mtile c m) Reg.MTILE.PI_LO + v * 2 ^ 32)
  have hregs := Dev.putProg_wr_regs hc hu (F := Reg.MTILE.PI_HI) (by decide) hbank v (d.rd (Pg.mtile c m) Reg.MTILE.PI_INDEX)
    (d.rd (Pg.mtile c m) Reg.MTILE.PI_LO + v * 2 ^ 32)
  rw [hpg] at hput hregs
  unfold Dev.mPiHi
  dsimp only
  split
  · exact ⟨hput.wr _ _ _, by rw [Dev.rd_wr_same _ _ _ _ _ (by decide)]; exact Nat.mod_mod _ _⟩
  · exact ⟨hput, Dev.rd_of_regs_wr hregs (by simp only [Reg.MTILE.PI_INDEX, Reg.MTILE.PI_HI]; omega)⟩

theorem Dev.mDiHi_committed (v : Nat) (hbank : d.unitBank c m (d.flag (Pg.mtile c m) Reg.MTILE.DI_STAGED) = some b) :
    d.Committed (d.mDiHi c m v)
      (Upset.desc (((16 * c + m) * 2 + b) * 32 + 2 * d.rd (Pg.mtile c m) Reg.MTILE.DI_INDEX + d.rd (Pg.mtile c m) Reg.MTILE.DI_WORD))
      { d.tl with
        desc := Tab.set d.tl.desc
          (((16 * c + m) * 2 + b) * 32 + 2 * d.rd (Pg.mtile c m) Reg.MTILE.DI_INDEX + d.rd (Pg.mtile c m) Reg.MTILE.DI_WORD)
          (d.rd (Pg.mtile c m) Reg.MTILE.DI_LO + v * 2 ^ 32) 0 } ∧
    2 * (d.mDiHi c m v).rd (Pg.mtile c m) Reg.MTILE.DI_INDEX + (d.mDiHi c m v).rd (Pg.mtile c m) Reg.MTILE.DI_WORD =
      if d.flag (Pg.mtile c m) Reg.MTILE.DI_AUTOINC then
        (2 * d.rd (Pg.mtile c m) Reg.MTILE.DI_INDEX + d.rd (Pg.mtile c m) Reg.MTILE.DI_WORD + 1) % 32
      else 2 * d.rd (Pg.mtile c m) Reg.MTILE.DI_INDEX + d.rd (Pg.mtile c m) Reg.MTILE.DI_WORD := by
  have hu : m < 12 := by omega
  have hpg : tilePg c m = Pg.mtile c m := tilePg_mtile c ⟨m, hm⟩
  have hput := Dev.putDesc_wr_committed hc hu (F := Reg.MTILE.DI_HI) (by decide) hbank v (d.rd (Pg.mtile c m) Reg.MTILE.DI_INDEX)
    (d.rd (Pg.mtile c m) Reg.MTILE.DI_WORD) (d.rd (Pg.mtile c m) Reg.MTILE.DI_LO + v * 2 ^ 32)
  have hregs := Dev.putDesc_wr_regs hc hu (F := Reg.MTILE.DI_HI) (by decide) hbank v (d.rd (Pg.mtile c m) Reg.MTILE.DI_INDEX)
    (d.rd (Pg.mtile c m) Reg.MTILE.DI_WORD) (d.rd (Pg.mtile c m) Reg.MTILE.DI_LO + v * 2 ^ 32)
  rw [hpg] at hput hregs
  unfold Dev.mDiHi
  exact ⟨Dev.advanceDesc_committed hput _, Dev.advanceDesc_of_regs_wr hregs (by simp only [Reg.MTILE.DI_HI]; omega)⟩

/-- PI_HI and DI_HI of an M tile are written through the page. -/
theorem Dev.coreWord_mtile_hi (hfence : d.fenced c = false) (hstall : NoStall d (Pg.mtile c m)) (v : Nat) :
    d.coreWord (Pg.mtile c m + 0x108) v = d.mPiHi c m v ∧ d.coreWord (Pg.mtile c m + 0x114) v = d.mDiHi c m v := by
  have hpage : ∀ o < 0x1000, (Pg.mtile c m + o) % 4096 = o ∧ (Pg.mtile c m + o) / 4096 % 32 - 3 = m := fun o ho => by
    unfold Pg.mtile Pg.core
    omega
  have hword : ∀ o, 0x40 ≤ o → o < 0x1000 →
      d.coreWord (Pg.mtile c m + o) v = d.corePageWord .mtile c (Pg.mtile c m + o) v := fun o hlo hhi =>
    Dev.coreWord_of_core hc (by omega) hlo hhi (pageKind_mtile hc hm) rfl hfence hstall v
  constructor
  · obtain ⟨hoff, hunit⟩ := hpage 0x108 (by decide)
    rw [hword _ (by decide) (by decide)]
    simp only [Dev.corePageWord, hoff, hunit, if_true]
  · obtain ⟨hoff, hunit⟩ := hpage 0x114 (by decide)
    rw [hword _ (by decide) (by decide)]
    simp only [Dev.corePageWord, hoff, hunit, if_true]
    exact if_neg (by decide)

end

section
variable {u : Nat} (hu : u < 2)
include hu

theorem Dev.vPiHi_committed (v : Nat) (hbank : d.unitBank c (10 + u) (d.flag (Pg.vtile c u) Reg.VTILE.PI_STAGED) = some b) :
    d.Committed (d.vPiHi c u v) (Upset.prog (((16 * c + (10 + u)) * 2 + b) * 512 + d.rd (Pg.vtile c u) Reg.VTILE.PI_INDEX))
      { d.tl with
        prog := Tab.set d.tl.prog (((16 * c + (10 + u)) * 2 + b) * 512 + d.rd (Pg.vtile c u) Reg.VTILE.PI_INDEX)
          (d.rd (Pg.vtile c u) Reg.VTILE.PI_LO + v * 2 ^ 32) 0 } ∧
    (d.vPiHi c u v).rd (Pg.vtile c u) Reg.VTILE.PI_INDEX =
      if d.flag (Pg.vtile c u) Reg.VTILE.PI_AUTOINC then (d.rd (Pg.vtile c u) Reg.VTILE.PI_INDEX + 1) % 512
      else d.rd (Pg.vtile c u) Reg.VTILE.PI_INDEX := by
  have hu12 : 10 + u < 12 := by omega
  have hput := Dev.putProg_wr_committed hc hu12 (F := Reg.VTILE.PI_HI) (by decide) hbank v (d.rd (Pg.vtile c u) Reg.VTILE.PI_INDEX)
    (d.rd (Pg.vtile c u) Reg.VTILE.PI_LO + v * 2 ^ 32)
  have hregs := Dev.putProg_wr_regs hc hu12 (F := Reg.VTILE.PI_HI) (by decide) hbank v (d.rd (Pg.vtile c u) Reg.VTILE.PI_INDEX)
    (d.rd (Pg.vtile c u) Reg.VTILE.PI_LO + v * 2 ^ 32)
  rw [tilePg_vtile] at hput hregs
  unfold Dev.vPiHi
  dsimp only
  split
  · exact ⟨hput.wr _ _ _, by rw [Dev.rd_wr_same _ _ _ _ _ (by decide)]; exact Nat.mod_mod _ _⟩
  · exact ⟨hput, Dev.rd_of_regs_wr hregs (by simp only [Reg.VTILE.PI_INDEX, Reg.VTILE.PI_HI]; omega)⟩

theorem Dev.vDiHi_committed (v : Nat) (hbank : d.unitBank c (10 + u) (d.flag (Pg.vtile c u) Reg.VTILE.DI_STAGED) = some b) :
    d.Committed (d.vDiHi c u v)
      (Upset.desc (((16 * c + (10 + u)) * 2 + b) * 32 + 2 * d.rd (Pg.vtile c u) Reg.VTILE.DI_INDEX + d.rd (Pg.vtile c u) Reg.VTILE.DI_WORD))
      { d.tl with
        desc := Tab.set d.tl.desc
          (((16 * c + (10 + u)) * 2 + b) * 32 + 2 * d.rd (Pg.vtile c u) Reg.VTILE.DI_INDEX + d.rd (Pg.vtile c u) Reg.VTILE.DI_WORD)
          (d.rd (Pg.vtile c u) Reg.VTILE.DI_LO + v * 2 ^ 32) 0 } ∧
    2 * (d.vDiHi c u v).rd (Pg.vtile c u) Reg.VTILE.DI_INDEX + (d.vDiHi c u v).rd (Pg.vtile c u) Reg.VTILE.DI_WORD =
      if d.flag (Pg.vtile c u) Reg.VTILE.DI_AUTOINC then
        (2 * d.rd (Pg.vtile c u) Reg.VTILE.DI_INDEX + d.rd (Pg.vtile c u) Reg.VTILE.DI_WORD + 1) % 32
      else 2 * d.rd (Pg.vtile c u) Reg.VTILE.DI_INDEX + d.rd (Pg.vtile c u) Reg.VTILE.DI_WORD := by
  have hu12 : 10 + u < 12 := by omega
  have hput := Dev.putDesc_wr_committed hc hu12 (F := Reg.VTILE.DI_HI) (by decide) hbank v (d.rd (Pg.vtile c u) Reg.VTILE.DI_INDEX)
    (d.rd (Pg.vtile c u) Reg.VTILE.DI_WORD) (d.rd (Pg.vtile c u) Reg.VTILE.DI_LO + v * 2 ^ 32)
  have hregs := Dev.putDesc_wr_regs hc hu12 (F := Reg.VTILE.DI_HI) (by decide) hbank v (d.rd (Pg.vtile c u) Reg.VTILE.DI_INDEX)
    (d.rd (Pg.vtile c u) Reg.VTILE.DI_WORD) (d.rd (Pg.vtile c u) Reg.VTILE.DI_LO + v * 2 ^ 32)
  rw [tilePg_vtile] at hput hregs
  unfold Dev.vDiHi
  exact ⟨Dev.advanceDesc_committed hput _, Dev.advanceDesc_of_regs_wr hregs (by simp only [Reg.VTILE.DI_HI]; omega)⟩

omit hc hu in
theorem Dev.ftHi_committed (v : Nat) (hbank : d.unitBank c (10 + u) (d.flag (Pg.vtile c u) Reg.VTILE.FT_STAGED) = some b)
    (hentry : d.rd (Pg.vtile c u) Reg.VTILE.FT_ENTRY < 64) :
    d.Committed (d.ftHi c u v)
      (Upset.ftab (((2 * c + u) * 2 + b) * 1024 + 128 * d.rd (Pg.vtile c u) Reg.VTILE.FT_TABLE + d.rd (Pg.vtile c u) Reg.VTILE.FT_ENTRY))
      { d.tl with
        ftab := Tab.set d.tl.ftab
          (((2 * c + u) * 2 + b) * 1024 + 128 * d.rd (Pg.vtile c u) Reg.VTILE.FT_TABLE + d.rd (Pg.vtile c u) Reg.VTILE.FT_ENTRY)
          (d.rd (Pg.vtile c u) Reg.VTILE.FT_LO + v * 2 ^ 32) 0 } ∧
    (d.ftHi c u v).rd (Pg.vtile c u) Reg.VTILE.FT_TABLE = d.rd (Pg.vtile c u) Reg.VTILE.FT_TABLE ∧
    (d.ftHi c u v).rd (Pg.vtile c u) Reg.VTILE.FT_ENTRY =
      if d.flag (Pg.vtile c u) Reg.VTILE.FT_AUTOINC then d.rd (Pg.vtile c u) Reg.VTILE.FT_ENTRY + 1
      else d.rd (Pg.vtile c u) Reg.VTILE.FT_ENTRY := by
  have hput : ∀ (k : Nat) (tl : Tiles), d.Committed (((d.wr (Pg.vtile c u) Reg.VTILE.FT_HI v).setTl (fun _ => tl)).setUpset k 0) k tl :=
    fun _ _ => rfl
  have hother : ∀ (k : Nat) (f : Tiles → Tiles) (G : Fld), G.off = 0x158 → G.stride = 0 →
      (((d.wr (Pg.vtile c u) Reg.VTILE.FT_HI v).setTl f).setUpset k 0).rd (Pg.vtile c u) G = d.rd (Pg.vtile c u) G := fun k f G ho hs =>
    Dev.rd_of_regs_wr rfl (by rw [ho, hs]; simp only [Reg.VTILE.FT_HI]; omega)
  have hle : d.rd (Pg.vtile c u) Reg.VTILE.FT_ENTRY ≤ 64 := by omega
  unfold Dev.ftHi
  simp only [hbank, hle, if_true, hentry]
  cases d.flag (Pg.vtile c u) Reg.VTILE.FT_AUTOINC with
  | false => exact ⟨hput _ _, hother _ _ _ rfl rfl, hother _ _ _ rfl rfl⟩
  | true =>
    simp only [Bool.not_true, Bool.false_eq_true, if_false, if_true]
    refine ⟨(hput _ _).wr _ _ _, ?_, ?_⟩
    · rw [Dev.rd_wr_disjoint (F := Reg.VTILE.FT_ENTRY) (G := Reg.VTILE.FT_TABLE) _ _ rfl (by decide) (by decide)]
      exact hother _ _ _ rfl rfl
    · rw [Dev.rd_wr_same _ _ _ _ _ (by decide)]
      exact Nat.mod_eq_of_lt (by simp only [Reg.VTILE.FT_ENTRY] at hentry ⊢; omega)

/-- PI_HI, DI_HI and FT_HI of a V tile are written through the page. -/
theorem Dev.coreWord_vtile_hi (hfence : d.fenced c = false) (hstall : NoStall d (Pg.vtile c u)) (v : Nat) :
    d.coreWord (Pg.vtile c u + 0x148) v = d.vPiHi c u v ∧ d.coreWord (Pg.vtile c u + 0x154) v = d.vDiHi c u v ∧
      d.coreWord (Pg.vtile c u + 0x160) v = d.ftHi c u v := by
  have hpage : ∀ o < 0x1000, (Pg.vtile c u + o) % 4096 = o ∧ (Pg.vtile c u + o) / 4096 % 32 - 13 = u := fun o ho => by
    unfold Pg.vtile Pg.core
    omega
  have hword : ∀ o, 0x40 ≤ o → o < 0x1000 →
      d.coreWord (Pg.vtile c u + o) v = d.corePageWord .vtile c (Pg.vtile c u + o) v := fun o hlo hhi =>
    Dev.coreWord_of_core hc (by omega) hlo hhi (pageKind_vtile hc hu) rfl hfence hstall v
  refine ⟨?_, ?_, ?_⟩
  · obtain ⟨hoff, hunit⟩ := hpage 0x148 (by decide)
    rw [hword _ (by decide) (by decide)]
    simp only [Dev.corePageWord, hoff, hunit, if_true]
  · obtain ⟨hoff, hunit⟩ := hpage 0x154 (by decide)
    rw [hword _ (by decide) (by decide)]
    simp only [Dev.corePageWord, hoff, hunit, if_true]
    exact if_neg (by decide)
  · obtain ⟨hoff, hunit⟩ := hpage 0x160 (by decide)
    rw [hword _ (by decide) (by decide)]
    simp only [Dev.corePageWord, hoff, hunit, if_true]
    exact (if_neg (by decide)).trans (if_neg (by decide))

end

end

end Sys2Proof.Machine

namespace Sys2Proof

open Machine

theorem givesDev_of_eq {i : Instr} {s : State} {d e : Dev} {P : Dev → Prop} (hexec : exec i s = .next { s with dev := d }) (h : d = e)
    (hP : P e) : GivesDev i s P := ⟨e, h ▸ hexec, hP⟩

/-- Settles O57: each high half is a word of its tile's page, whose commit writes one cell of the bank that STAGED names. -/
theorem tileTablesFollow : Obligations.TileTablesFollow := by
  unfold Obligations.TileTablesFollow
  refine ⟨?_, ?_, ?_, ?_, ?_⟩
  · rintro c m w s i b hfence rfl hbank hstall
    exact givesDev_of_eq rfl (Dev.coreWord_mtile_hi c.isLt m.isLt hfence hstall w.toNat).1
      (Dev.mPiHi_committed c.isLt m.isLt w.toNat hbank)
  · rintro c m w s i x b hfence rfl rfl hbank hstall
    exact givesDev_of_eq rfl (Dev.coreWord_mtile_hi c.isLt m.isLt hfence hstall w.toNat).2
      (Dev.mDiHi_committed c.isLt m.isLt w.toNat hbank)
  · rintro c v w s i b hfence rfl hbank hstall
    exact givesDev_of_eq rfl (Dev.coreWord_vtile_hi c.isLt v.isLt hfence hstall w.toNat).1
      (Dev.vPiHi_committed c.isLt v.isLt w.toNat hbank)
  · rintro c v w s i x b hfence rfl rfl hbank hstall
    exact givesDev_of_eq rfl (Dev.coreWord_vtile_hi c.isLt v.isLt hfence hstall w.toNat).2.1
      (Dev.vDiHi_committed c.isLt v.isLt w.toNat hbank)
  · rintro c v w s t e b hfence rfl rfl hentry hbank hstall
    exact givesDev_of_eq rfl (Dev.coreWord_vtile_hi c.isLt v.isLt hfence hstall w.toNat).2.2
      (Dev.ftHi_committed w.toNat hbank hentry)

end Sys2Proof
end

section
/-!
PROOFS of 05_multiplier_tiles.md: weight-store writes and configuration records (R135, R282, R283, R285).
-/

namespace Sys2Proof.Machine

/-! ### The bytes of a payload -/

theorem length_leBytes : ∀ n v : Nat, (leBytes n v).length = n
  | 0, _ => rfl
  | n + 1, v => by rw [leBytes, List.length_cons, length_leBytes n]

theorem length_payloadBytes (payload : List Item) : (payloadBytes payload).length = 32 * payload.length := by
  induction payload with
  | nil => rfl
  | cons x r ih => rw [payloadBytes, List.flatMap_cons, List.length_append, length_leBytes, ← payloadBytes, ih, List.length_cons]; omega

/-- A payload that ends inside a memory of `size` bytes is stored whole. -/
theorem take_payloadBytes {payload : List Item} {a size : Nat} (h : a + 32 * payload.length ≤ size) :
    (payloadBytes payload).take (size - a) = payloadBytes payload :=
  List.take_of_length_le (by rw [length_payloadBytes]; omega)

/-! ### What the device keeps -/

theorem Dev.armedFor_mem (d : Dev) (kind page : Nat) : (d.armedFor kind page).2.mem = d.mem := by
  rw [Dev.armedFor_frame d kind page]

theorem Dev.armedFor_qs (d : Dev) (kind page : Nat) : (d.armedFor kind page).2.qs = d.qs := by
  rw [Dev.armedFor_frame d kind page]

theorem Dev.popPacket_keeps {d d1 : Dev} {n k h : Nat} {payload : List Item} (hpop : d.popPacket n k = some (h, payload, d1)) :
    d1.regs = d.regs ∧ d1.mem = d.mem ∧ d1.qs = d.qs := by
  obtain ⟨pk, rfl⟩ := Dev.popPacket_eq hpop
  exact ⟨rfl, rfl, rfl⟩

/-- A record that is not bad leaves nothing to report. -/
theorem Dev.ldrRecordBad_good (d : Dev) (c h : Nat) : d.ldrRecordBad c h false = d := rfl

/-! ### A weight-store write (R135) -/

/-- A write to a named half of a tile whose domain does not run. -/
theorem Dev.weightWrite_named {d d1 : Dev} {c h half : Nat} {payload : List Item} (wm : Memory) (hpop : d.popPacket c 1 = some (h, payload, d1))
    (htile : Hdr.target h % 16 < 10) (hhalf : bitsOf (Hdr.target h) 4 2 = half + 1) (hhalf2 : half < 2) (hfree : d.coreDom c = none)
    (halign : Hdr.addr h % 32 = 0) (hfit : Hdr.addr h + 32 * payload.length ≤ 49152) :
    (d.weightWrite wm c).1 =
      Memory.writeList wm (((10 * c + Hdr.target h % 16) * 2 + half) * 49152 + Hdr.addr h) (payloadBytes payload) 0 ∧
    (d.weightWrite wm c).2.mem = d.mem ∧ (d.weightWrite wm c).2.qs = d.qs := by
  obtain ⟨hregs, hmem, hqs⟩ := Dev.popPacket_keeps hpop
  have hfree1 : d1.coreDom c = none := by
    rw [Dev.coreDom_congr (Dev.rd_congr hregs _ _ _) (Dev.rd_congr hregs _ _ _), hfree]
  have hsel : ¬ (half + 1 = 3 ∨ (half + 1 ≠ 0 ∧ true = false) ∨ Hdr.addr h % 32 ≠ 0) := by simp; omega
  have hdrop : 32 * payload.length - (payloadBytes payload).length = 0 := by rw [length_payloadBytes]; omega
  unfold Dev.weightWrite
  rw [hpop]
  simp only [hhalf, hfree1, take_payloadBytes hfit, hdrop, if_neg (not_le.mpr htile), if_neg hsel, if_true, if_neg (Nat.succ_ne_zero half),
    Nat.add_sub_cancel]
  exact ⟨trivial, (Dev.armedFor_mem d1 _ _).trans hmem, (Dev.armedFor_qs d1 _ _).trans hqs⟩

/-! ### Configuration records (R282) -/

theorem Dev.cfgScratch_other (d : Dev) (sc : Memory) (c h : Nat) (payload : List Item) (htable : bitsOf (Hdr.target h) 4 4 ≠ 4) :
    d.cfgScratch sc c h payload = (sc, d) := by
  unfold Dev.cfgScratch
  exact if_pos (Or.inr (Or.inr (Or.inl htable)))

/-- A record of a table other than the scratch at a core. -/
theorem Dev.configWrite_table {d d1 : Dev} {n h : Nat} {payload : List Item} (sc : Memory) (hn : n < 32)
    (hpop : d.popPacket n 6 = some (h, payload, d1)) (htable : bitsOf (Hdr.target h) 4 4 ≠ 4) :
    d.configWrite sc n = (sc, d1.cfgCore n h payload) := by
  have hgood : ∀ running : Bool, (bitsOf (Hdr.target h) 4 4 == 4 && running) = false := fun running => by
    rw [beq_eq_false_iff_ne.mpr htable, Bool.false_and]
  unfold Dev.configWrite
  rw [hpop]
  simp only [if_pos hn, Dev.cfgScratch_other _ _ _ _ _ htable, hgood, Dev.ldrRecordBad_good]

/-- A scratch record of a V tile whose domain does not run. -/
theorem Dev.configWrite_scratch {d d1 : Dev} {n h v : Nat} {payload : List Item} (sc : Memory) (hn : n < 32)
    (hpop : d.popPacket n 6 = some (h, payload, d1)) (hunit : Hdr.target h % 16 = 10 + v) (hv : v < 2)
    (htable : bitsOf (Hdr.target h) 4 4 = 4) (hfree : d1.coreDom n = none) (halign : Hdr.addr h % 32 = 0)
    (hfit : Hdr.addr h + 32 * payload.length ≤ 65536) :
    (d.configWrite sc n).1 = Memory.writeList sc ((2 * n + v) * 65536 + Hdr.addr h) (payloadBytes payload) 0 ∧
    (d.configWrite sc n).2.mem = d1.mem ∧ (d.configWrite sc n).2.qs = d1.qs := by
  have hserved : ¬ (10 + v < 10 ∨ 12 ≤ 10 + v ∨ 4 ≠ 4 ∨ false = true ∨ Hdr.addr h % 32 ≠ 0) := by simp; omega
  have hcore : 10 + v < 12 := by omega
  unfold Dev.configWrite
  rw [hpop]
  simp only [if_pos hn, hfree, Bool.and_false, Dev.ldrRecordBad_good]
  unfold Dev.cfgCore Dev.cfgScratch
  simp only [hunit, htable, hfree, if_neg hserved, hcore, true_and, if_true, take_payloadBytes hfit, Nat.add_sub_cancel_left]
  exact ⟨Dev.armedFor_mem d1 _ _, Dev.armedFor_qs d1 _ _⟩

/-- A record at the host port. -/
theorem Dev.configWrite_host {d d1 : Dev} {n h : Nat} {payload : List Item} (sc : Memory) (hn : n = 44)
    (hpop : d.popPacket n 6 = some (h, payload, d1)) : d.configWrite sc n = (sc, d1.cfgHost h payload) := by
  unfold Dev.configWrite
  rw [hpop]
  simp only [if_neg (show ¬ n < 32 by omega), if_pos hn]

end Sys2Proof.Machine

namespace Sys2Proof

open Machine

/-- Settles O44: the payload is stored whole at the address that the header names, and a table's record goes to its own part of `cfgCore` or
`cfgHost`. -/
theorem storeWritesLand : Obligations.StoreWritesLand := by
  unfold Obligations.StoreWritesLand
  refine ⟨?_, ?_, ?_, ?_⟩
  · intro c s h payload d1 half hpop htile hhalf hhalf2 hfree halign hfit
    obtain ⟨hstore, hmem, hqs⟩ := Dev.weightWrite_named s.wmem hpop htile hhalf hhalf2 hfree halign hfit
    refine ⟨_, rfl, hstore, rfl, rfl, rfl, hmem, hqs, fun a ha => ?_⟩
    dsimp only
    rw [hstore, Memory.read_writeList_other (by rwa [length_payloadBytes])]
  · intro n s h payload d1 hn hpop htable
    have hwrite := Dev.configWrite_table s.scr hn hpop htable
    exact ⟨_, rfl, congrArg Prod.fst hwrite, rfl, rfl, congrArg Prod.snd hwrite⟩
  · intro n s h payload d1 v hn hpop hunit hv htable hfree halign hfit
    obtain ⟨hstore, hmem, hqs⟩ := Dev.configWrite_scratch s.scr hn hpop hunit hv htable hfree halign hfit
    exact ⟨_, rfl, hstore, rfl, hmem, hqs⟩
  · intro n s h payload d1 hn hpop
    have hwrite := Dev.configWrite_host s.scr hn hpop
    refine givesDev_of_eq ?_ rfl rfl
    show Host.Outcome.next _ = _
    rw [hwrite]

end Sys2Proof
end

section
/-!
PROOFS of 05_multiplier_tiles.md: what the takes of a step in progress leave of the steps in progress (R142, R151).
-/

namespace Sys2Proof.Machine

/-! ### Takes leave the tiles alone -/

theorem Dev.QueueFrame.tl_eq {d e : Dev} (h : d.QueueFrame e) : e.tl = d.tl := by
  unfold Dev.QueueFrame at h
  rw [h]

theorem Dev.takeHead_tl (d : Dev) (q : Nat) : (d.takeHead q).2.tl = d.tl := by
  cases hhead : d.qHead q with
  | nil =>
    unfold Dev.takeHead
    rw [hhead]
  | cons x rest =>
    obtain ⟨e, htake, htook⟩ := Dev.took_of_cons hhead
    rw [htake]
    exact htook.frame.tl_eq

theorem Dev.stallQueues_tl (d : Dev) (qs : List Nat) : (d.stallQueues qs).tl = d.tl :=
  List.foldlRecOn (motive := fun e : Dev => e.tl = d.tl) _ _ rfl (fun _ he _ _ => he)

theorem Dev.stallOn_tl (d : Dev) (pg : Nat) (qs : List Nat) : (d.stallOn pg qs).tl = d.tl := Dev.stallQueues_tl _ _

theorem Dev.takeFrom_tl (pg p : Nat) : ∀ (segs : List Seg) (d : Dev), (d.takeFrom pg p segs).2.2.tl = d.tl
  | [], _ => rfl
  | g :: rest, d => by
    unfold Dev.takeFrom
    split
    · have htl := d.takeHead_tl g.q
      split <;> rename_i htake <;> rw [htake] at htl
      · rw [Dev.poisonSeen_tl, htl]
      · exact htl
    · exact Dev.takeFrom_tl pg p rest d

/-! ### One cycle of takes keeps the number of steps in progress -/

/-- The number of steps in progress of unit `u`. -/
def Dev.inProgress (d : Dev) (c u : Nat) : Nat := (d.sqGet c u).runs.length

theorem Dev.inProgress_congr {d e : Dev} (h : e.tl = d.tl) (c u : Nat) : e.inProgress c u = d.inProgress c u := by
  rw [Dev.inProgress, Dev.sqGet_congr h, Dev.inProgress]

theorem Dev.inProgress_sqSet (d : Dev) (c u : Nat) (s : Sqr) : (d.sqSet c u s).inProgress c u = s.runs.length := by
  rw [Dev.inProgress, Dev.sqGet_sqSet_same]

theorem Dev.inProgress_takeCycle (d : Dev) (c u m i : Nat) (waited : Bool) :
    (d.takeCycle c u m i waited).inProgress c u = d.inProgress c u := by
  have hfold (busy : Nat → Bool) (x : List Seg × Bool × List Nat × Dev) (hx : x.2.2.2.tl = d.tl) :
      ((List.range 4).foldl (fun (acc : List Seg × Bool × List Nat × Dev) p =>
        if acc.1.any (fun g => g.port == p && g.left != 0) && !busy p then
          let (sg, w, d2) := acc.2.2.2.takeFrom (tilePg c u) p acc.1
          (sg, acc.2.1 || w, if w then acc.2.2.1 else p :: acc.2.2.1, d2)
        else acc) x).2.2.2.tl = d.tl := by
    refine List.foldlRecOn (motive := fun y : List Seg × Bool × List Nat × Dev => y.2.2.2.tl = d.tl) _ _ hx (fun y hy p _ => ?_)
    dsimp only
    split
    · exact (Dev.takeFrom_tl _ _ _ _).trans hy
    · exact hy
  unfold Dev.takeCycle
  dsimp only
  split
  · rfl
  · split
    · rfl
    · rw [Dev.inProgress_sqSet, List.length_set]
      refine Dev.inProgress_congr ?_ c u
      split
      · exact hfold _ _ rfl
      · split
        · rw [Dev.stallQueues_tl]
          exact hfold _ _ rfl
        · rw [Dev.count_tl, Dev.stallOn_tl]
          exact hfold _ _ rfl

theorem Dev.inProgress_pairStep (d : Dev) (c t m : Nat) : (d.pairStep c t m).inProgress c t = d.inProgress c t := by
  have hput (e f : Dev) (r r' : Run) (rest : List Run) (hruns : (d.sqGet c t).runs = r :: rest)
      (htl : f.tl = (e.sqSet c t { e.sqGet c t with runs := r' :: rest }).tl) : f.inProgress c t = d.inProgress c t := by
    rw [Dev.inProgress_congr htl, Dev.inProgress_sqSet, Dev.inProgress, hruns, List.length_cons, List.length_cons]
  unfold Dev.pairStep
  dsimp only
  split
  · rfl
  · rename_i hruns
    split
    · split
      · rfl
      · split
        · split
          · exact hput _ _ _ _ _ hruns rfl
          · exact hput _ _ _ _ _ hruns (Dev.raise_tl _ _ _ _)
        · exact hput _ _ _ _ _ hruns (by rw [Dev.count_tl, Dev.stallOn_tl])
    · rfl

theorem Dev.inProgress_mTake (d : Dev) (c t m : Nat) : (d.mTake c t m).inProgress c t = d.inProgress c t := by
  unfold Dev.mTake
  dsimp only
  split
  · rfl
  · split
    · rw [Dev.inProgress_sqSet, List.length_map, ← Dev.inProgress, Dev.inProgress_takeCycle, Dev.inProgress_sqSet, List.length_map,
        ← Dev.inProgress, Dev.inProgress_pairStep]
    · exact Dev.inProgress_takeCycle _ _ _ _ _ _

/-! ### The last takes of a step (R142, R145, R147) -/

theorem Dev.runs_of_mDone {d : Dev} {c t op : Nat} {r : Run} (h : d.mDone c t op = some r) :
    ∃ rest, (d.sqGet c t).runs = r :: rest := by
  unfold Dev.mDone at h
  split at h
  next x rest hruns =>
    split at h
    · cases h
      exact ⟨rest, hruns⟩
    · cases h
  next => cases h

/-- A step alone in progress is alone after its last takes. -/
theorem Dev.runs_of_last_takes {d d1 : Dev} {c t m op : Nat} {r0 r : Run} (hruns : (d.sqGet c t).runs = [r0]) (htake : d.mTake c t m = d1)
    (hdone : d1.mDone c t op = some r) : (d1.sqGet c t).runs = [r] := by
  obtain ⟨rest, hrest⟩ := Dev.runs_of_mDone hdone
  have hcount : d1.inProgress c t = 1 := by rw [← htake, Dev.inProgress_mTake, Dev.inProgress, hruns, List.length_singleton]
  rw [Dev.inProgress, hrest, List.length_cons] at hcount
  rw [hrest, List.eq_nil_of_length_eq_zero (Nat.succ.inj hcount)]

/-- A step in progress that takes its last items ends. -/
theorem Dev.mRunStep_of_last_takes {d d1 : Dev} {c t op dom : Nat} {r0 r : Run} (plan : Dev → Nat → Nat → Plan)
    (finish : Dev → Nat → Run → Dev) (hdom : d.tileDom c = some dom) (hruns : (d.sqGet c t).runs = [r0]) (hop : r0.op = op)
    (htake : d.mTake c t dom = d1) (hdone : d1.mDone c t op = some r) : d.mRunStep c t op plan finish = finish d1 dom r := by
  unfold Dev.mRunStep
  simp only [hdom, hruns, hop, beq_self_eq_true, if_true, htake, hdone]

end Sys2Proof.Machine
end

section
/-!
PROOFS of 05_multiplier_tiles.md: the steps that accumulate, CONV, WCONV and MMUL (R140, R145, R147, R152, R153).
-/

namespace Sys2Proof.Machine

/-! ### Flags of an entry (R153) -/

theorem MTile.flagEntry_acc (x : MTile) (e : Nat) (used : List Item) (poison : Bool) : (x.flagEntry e used poison).acc = x.acc := rfl

theorem MTile.flagEntry_sq (x : MTile) (e : Nat) (used : List Item) (poison : Bool) : (x.flagEntry e used poison).sq = x.sq := rfl

/-- The entry counts as accumulated into, and no other does for it. -/
theorem MTile.bitAt_flagEntry_accUsed (x : MTile) (e : Nat) (used : List Item) (poison : Bool) (k : Nat) :
    bitAt (x.flagEntry e used poison).accUsed k = if k = e then true else bitAt x.accUsed k := by
  simp only [MTile.flagEntry, bitAt, testBit_setBits]
  by_cases hk : k = e
  · simp [hk]
  · have hout : ¬ (e ≤ k ∧ k < e + 1) := by omega
    rw [if_neg hout, if_neg hk]

/-! ### A step accumulates into its entries (R152) -/

/-- Entries `key 0` to `key (n−1)` in turn take the values that `val` gives for them, with the count of saturating sums. -/
def MTile.accumulate (x : MTile) (key : Nat → Nat) (val : Nat → List Int → List Int × Nat) (used : Nat → List Item) (poison : Bool)
    (n : Nat) : MTile × Nat :=
  (List.range n).foldl (fun (acc : MTile × Nat) e =>
    let v := val e (Tab.get acc.1.acc (key e) [])
    (({ acc.1 with acc := Tab.set acc.1.acc (key e) v.1 [] }).flagEntry (key e) (used e) poison, acc.2 + v.2)) (x, 0)

section
variable (x : MTile) (key : Nat → Nat) (val : Nat → List Int → List Int × Nat) (used : Nat → List Item) (poison : Bool)

theorem MTile.accumulate_succ (n : Nat) : (x.accumulate key val used poison (n + 1)).1 =
    ({ (x.accumulate key val used poison n).1 with
        acc := Tab.set (x.accumulate key val used poison n).1.acc (key n)
          (val n (Tab.get (x.accumulate key val used poison n).1.acc (key n) [])).1 [] } : MTile).flagEntry (key n) (used n) poison := by
  rw [MTile.accumulate, List.range_succ, List.foldl_append]
  rfl

theorem MTile.accumulate_sq : ∀ n, (x.accumulate key val used poison n).1.sq = x.sq
  | 0 => rfl
  | n + 1 => by rw [MTile.accumulate_succ, MTile.flagEntry_sq, MTile.accumulate_sq n]

theorem MTile.accumulate_acc_other {k : Nat} : ∀ {n : Nat}, (∀ e < n, k ≠ key e) →
    Tab.get (x.accumulate key val used poison n).1.acc k [] = Tab.get x.acc k []
  | 0, _ => rfl
  | n + 1, hk => by
    rw [MTile.accumulate_succ, MTile.flagEntry_acc, Tab.get_set_other _ _ _ _ (hk n (Nat.lt_succ_self n))]
    exact MTile.accumulate_acc_other (fun e he => hk e (Nat.lt_succ_of_lt he))

variable {key} (hkey : Function.Injective key)
include hkey

theorem MTile.accumulate_acc {e : Nat} : ∀ {n : Nat}, e < n →
    Tab.get (x.accumulate key val used poison n).1.acc (key e) [] = (val e (Tab.get x.acc (key e) [])).1
  | n + 1, he => by
    rw [MTile.accumulate_succ, MTile.flagEntry_acc]
    rcases Nat.lt_succ_iff_lt_or_eq.mp he with hlt | rfl
    · rw [Tab.get_set_other _ _ _ _ (fun h => absurd (hkey h) (Nat.ne_of_lt hlt))]
      exact MTile.accumulate_acc hlt
    · rw [Tab.get_set_same, MTile.accumulate_acc_other _ _ _ _ _ (fun e' he' h => absurd (hkey h) (Nat.ne_of_gt he'))]

omit hkey in
theorem MTile.accumulate_used {e : Nat} : ∀ {n : Nat}, e < n → bitAt (x.accumulate key val used poison n).1.accUsed (key e) = true
  | n + 1, he => by
    rw [MTile.accumulate_succ, MTile.bitAt_flagEntry_accUsed]
    split
    next => rfl
    next hne =>
      rcases Nat.lt_succ_iff_lt_or_eq.mp he with hlt | rfl
      · exact MTile.accumulate_used hlt
      · exact absurd rfl hne

end

/-! ### Reading the weight store (R137) -/

/-- From `d` to `e` free values were used, and nothing else changed. -/
def Dev.FreeFrame (d e : Dev) : Prop := e = { d with fv := e.fv }

theorem Dev.FreeFrame.trans {d e f : Dev} (h : d.FreeFrame e) (h' : e.FreeFrame f) : d.FreeFrame f := by
  unfold Dev.FreeFrame at *
  exact h'.trans (by rw [h])

theorem Dev.wsWord_freeFrame (d : Dev) (wm : Memory) (a : Nat) : d.FreeFrame (d.wsWord wm a).2.2.2 := by
  unfold Dev.wsWord Dev.choose
  dsimp only
  split_ifs <;> rfl

theorem Dev.wsWords_freeFrame (wm : Memory) : ∀ (n a : Nat) (d : Dev), d.FreeFrame (d.wsWords wm a n).2.2.2
  | 0, _, _ => rfl
  | n + 1, a, d => (d.wsWord_freeFrame wm a).trans (Dev.wsWords_freeFrame wm n (a + 8) _)

/-- From `d` to `e` the tiles, the queues and the weight pointer of the M tile at `pg` stay as they are. -/
structure Dev.KeepsTile (pg : Nat) (d e : Dev) : Prop where
  tl : e.tl = d.tl
  qs : e.qs = d.qs
  wp : e.rd pg Reg.MTILE.WP = d.rd pg Reg.MTILE.WP

section
variable {pg : Nat} {d e : Dev}

theorem Dev.KeepsTile.refl (pg : Nat) (d : Dev) : d.KeepsTile pg d := ⟨rfl, rfl, rfl⟩

theorem Dev.KeepsTile.trans {f : Dev} (h : Dev.KeepsTile pg d e) (h' : Dev.KeepsTile pg e f) : Dev.KeepsTile pg d f :=
  ⟨h'.tl.trans h.tl, h'.qs.trans h.qs, h'.wp.trans h.wp⟩

theorem Dev.FreeFrame.keepsTile (pg : Nat) (h : d.FreeFrame e) : Dev.KeepsTile pg d e := by
  unfold Dev.FreeFrame at h
  rw [h]
  exact ⟨rfl, rfl, rfl⟩

theorem Dev.free_keepsTile (pg : Nat) (d : Dev) (w : Nat) : Dev.KeepsTile pg d (d.free w).2 := ⟨rfl, rfl, rfl⟩

theorem Dev.KeepsTile.bump (h : Dev.KeepsTile pg d e) (hpg : pg % 4 = 0) {F : Fld} (hF : F.off / 4 ≠ Reg.MTILE.WP.off / 4) (n : Nat) :
    Dev.KeepsTile pg d (e.bump pg F n) := by
  refine h.trans ⟨e.bump_tl _ _ _ _, e.bump_qs _ _ _ _, Dev.rd_wr_other _ _ ?_⟩
  rw [Nat.mul_zero, Nat.mul_zero]
  omega

theorem Dev.KeepsTile.count (h : Dev.KeepsTile pg d e) (mask ev n : Nat) : Dev.KeepsTile pg d (e.count pg mask ev n) :=
  h.trans ⟨e.count_tl _ _ _ _, e.count_qs _ _ _ _, Dev.rd_congr (e.count_regs _ _ _ _) _ _ _⟩

theorem Dev.KeepsTile.raise (h : Dev.KeepsTile pg d e) (bit : Nat) (attr : Attr) : Dev.KeepsTile pg d (e.raise pg bit attr) :=
  h.trans ⟨e.raise_tl _ _ _, e.raise_qs _ _ _, e.rd_raise_same_page _ _ _ (by decide) (by decide)⟩

theorem Dev.KeepsTile.imageUe (h : Dev.KeepsTile pg d e) (m : Option Nat) (page : Nat) : Dev.KeepsTile pg d (e.imageUe m page) :=
  h.trans ⟨rfl, rfl, rfl⟩

end

section
variable (d : Dev) (c : Nat) (t : Fin 10) (m : Nat)

theorem Pg.mtile_mod_four (c t : Nat) : Pg.mtile c t % 4 = 0 := by
  unfold Pg.mtile Pg.core
  omega

theorem Dev.wsRead_keepsTile (wm : Memory) (k n reads times : Nat) :
    Dev.KeepsTile (Pg.mtile c t) d (d.wsRead wm c t m k n reads times).2.2 := by
  have hread := (Dev.wsWords_freeFrame wm (2 * n) (wsAddr c t (d.rd (Pg.mtile c t) Reg.MTILE.ACTIVE_HALF) k) d).keepsTile (Pg.mtile c t)
  have hcount (n k : Nat) := (hread.bump (Pg.mtile_mod_four c t) (F := Reg.MTILE.WS_CORR) (by decide) n).count 0xF 3 k
  unfold Dev.wsRead
  dsimp only
  split
  · exact ((hcount _ _).raise 5 _).imageUe _ _
  · exact hcount _ _

theorem Dev.mNv_keepsTile (nv : Bool) : Dev.KeepsTile (Pg.mtile c t) d (d.mNv c t m nv) := by
  unfold Dev.mNv
  split
  · exact (Dev.KeepsTile.refl _ d).raise 0 _
  · exact Dev.KeepsTile.refl _ d

theorem Dev.macCount_keepsTile (macs esc : Nat) : Dev.KeepsTile (Pg.mtile c t) d (d.macCount c t macs esc) :=
  (((Dev.KeepsTile.refl _ d).count 0xF 0 macs).count 0xF 2 esc).bump (Pg.mtile_mod_four c t) (F := Reg.MTILE.ESC_CYCLES) (by decide) esc

theorem Dev.accSat_keepsTile (n : Nat) : Dev.KeepsTile (Pg.mtile c t) d (d.accSat c t n) := by
  unfold Dev.accSat
  dsimp only
  split
  · exact Dev.KeepsTile.refl _ d
  · exact ((Dev.KeepsTile.refl _ d).bump (Pg.mtile_mod_four c t) (F := Reg.MTILE.ACC_SAT_CNT) (by decide) n).raise 4 _

/-! ### The end of a step that accumulates -/

/-- From `d` to `e` the step at the front of tile `t` ended with tile state `x` and weight pointer `wp`, and no queue changed. -/
structure Dev.StepEnds (x : MTile) (wp : Nat) (e : Dev) : Prop where
  acc : (e.mtGet c t).acc = x.acc
  used : (e.mtGet c t).accUsed = x.accUsed
  runs : (e.sqGet c t).runs = x.sq.runs.eraseIdx 0
  qs : e.qs = d.qs
  wp_eq : e.rd (Pg.mtile c t) Reg.MTILE.WP = wp

variable {d c t}

theorem Dev.StepEnds.keeps {x : MTile} {wp : Nat} {e f : Dev} (h : d.StepEnds c t x wp e) (hkeep : Dev.KeepsTile (Pg.mtile c t) e f) :
    d.StepEnds c t x wp f := by
  obtain ⟨hacc, hused, hruns, hqs, hwp⟩ := h
  have hmt := Dev.mtGet_congr hkeep.tl c t
  exact ⟨by rw [hmt, hacc], by rw [hmt, hused], by rw [Dev.sqGet_congr hkeep.tl, hruns], hkeep.qs.trans hqs, hkeep.wp.trans hwp⟩

theorem Dev.sqGet_mtSet (d : Dev) (c : Nat) (t : Fin 10) (x : MTile) : (d.mtSet c t x).sqGet c t = x.sq := by
  rw [Dev.sqGet, isM_mtile, if_pos rfl, Dev.mtGet_mtSet_same]

theorem Dev.sqGet_mtile (d : Dev) (c : Nat) (t : Fin 10) : d.sqGet c t = (d.mtGet c t).sq := by
  rw [Dev.sqGet, isM_mtile, if_pos rfl]

theorem Dev.stepEnds_mSettle (d : Dev) (c : Nat) (t : Fin 10) (m : Nat) (r : Run) (e0 n start macs nom : Nat) :
    d.StepEnds c t (d.mtGet c t) (d.rd (Pg.mtile c t) Reg.MTILE.WP) (d.mSettle c t m r e0 n start macs nom) := by
  unfold Dev.mSettle Dev.endRun
  refine ⟨?_, ?_, ?_, ?_, ?_⟩
  · rw [Dev.mtGet_sqSet, Dev.mtGet_sqSet, Dev.mtGet_mtSet_same]
  · rw [Dev.mtGet_sqSet, Dev.mtGet_sqSet, Dev.mtGet_mtSet_same]
  · rw [Dev.sqGet_sqSet_same, Dev.sqGet_sqSet_same, Dev.sqGet_mtSet]
  · rw [Dev.sqSet_qs, Dev.sqSet_qs, Dev.mtSet_qs]
  · rw [Dev.rd_sqSet, Dev.rd_sqSet]
    exact Dev.rd_congr (d.mtSet_regs c t _) _ _ _

/-- Tile state `x` in place of the old one, the last MAC counted, and the entries settled. -/
theorem Dev.stepEnds_of_keeps {d d2 d4 : Dev} {c : Nat} {t : Fin 10} {x : MTile} (m : Nat) (r : Run) (e0 n start macs nom sat : Nat)
    (hread : Dev.KeepsTile (Pg.mtile c t) d d2) (htl : d4.tl = (d2.mtSet c t x).tl) (hqs : d4.qs = d2.qs) :
    d.StepEnds c t x (d4.rd (Pg.mtile c t) Reg.MTILE.WP) ((d4.mSettle c t m r e0 n start macs nom).accSat c t sat) := by
  have hends := (d4.stepEnds_mSettle c t m r e0 n start macs nom).keeps (Dev.accSat_keepsTile _ c t sat)
  have hmt : d4.mtGet c t = x := by rw [Dev.mtGet_congr htl, Dev.mtGet_mtSet_same]
  rw [hmt] at hends
  obtain ⟨hacc, hused, hruns, hqs', hwp⟩ := hends
  exact ⟨hacc, hused, hruns, hqs'.trans (hqs.trans hread.qs), hwp⟩

/-- The MACs of a step are counted, and NV_CONSUMED is raised: the tile's state is the one it was given. -/
theorem Dev.macs_keepsTile (d : Dev) (c : Nat) (t : Fin 10) (m : Nat) (x : MTile) (nv : Bool) (macs esc : Nat) :
    Dev.KeepsTile (Pg.mtile c t) (d.mtSet c t x) (((d.mtSet c t x).mNv c t m nv).macCount c t macs esc) :=
  (Dev.mNv_keepsTile _ c t m nv).trans (Dev.macCount_keepsTile _ c t macs esc)

/-- A step that moves the weight pointer past `k` chunks. -/
theorem Dev.stepEnds_moved {d d2 : Dev} {c : Nat} {t : Fin 10} (x : MTile) (m : Nat) (r : Run) (nv : Bool)
    (macs esc wp e0 n start macs' nom sat : Nat) (hread : Dev.KeepsTile (Pg.mtile c t) d d2) :
    d.StepEnds c t x (wp % 2 ^ 12) (((((((d2.mtSet c t x).mNv c t m nv).macCount c t macs esc).wr (Pg.mtile c t) Reg.MTILE.WP wp).mSettle
      c t m r e0 n start macs' nom)).accSat c t sat) := by
  have hmacs := Dev.macs_keepsTile d2 c t m x nv macs esc
  have hends := Dev.stepEnds_of_keeps (d4 := (((d2.mtSet c t x).mNv c t m nv).macCount c t macs esc).wr (Pg.mtile c t) Reg.MTILE.WP wp)
    m r e0 n start macs' nom sat hread (by rw [Dev.wr_tl, hmacs.tl]) (by rw [Dev.wr_qs, hmacs.qs, Dev.mtSet_qs])
  rwa [Dev.rd_wr_same _ _ _ _ _ (by decide)] at hends

/-- A step that reads no weights from the store. -/
theorem Dev.stepEnds_unmoved {d d2 : Dev} {c : Nat} {t : Fin 10} (x : MTile) (m : Nat) (r : Run) (nv : Bool)
    (macs esc e0 n start macs' nom sat : Nat) (hread : Dev.KeepsTile (Pg.mtile c t) d d2) :
    d.StepEnds c t x (d.rd (Pg.mtile c t) Reg.MTILE.WP) (((((d2.mtSet c t x).mNv c t m nv).macCount c t macs esc).mSettle
      c t m r e0 n start macs' nom).accSat c t sat) := by
  have hmacs := Dev.macs_keepsTile d2 c t m x nv macs esc
  have hends := Dev.stepEnds_of_keeps (d4 := ((d2.mtSet c t x).mNv c t m nv).macCount c t macs esc) m r e0 n start macs' nom sat hread
    hmacs.tl (by rw [hmacs.qs, Dev.mtSet_qs])
  rwa [hmacs.wp, Dev.rd_congr (d2.mtSet_regs c t x), hread.wp] at hends

end

/-! ### CONV, WCONV and MMUL -/

/-- CONV with weights of the store. -/
theorem Dev.finishConv_ends (d : Dev) (wm : Memory) (c : Nat) (t : Fin 10) (m : Nat) (r : Run) (hstore : bitAt r.iw 44 = false)
    {de : MDesc} {taps : List Tap} {per wp e0 nx fb : Nat} (hde : de = d.mDesc c t (bitsOf r.iw 54 4)) (hper : per = chunksPer de.wfmt)
    (hwp : wp = d.rd (Pg.mtile c t) Reg.MTILE.WP) (he0 : e0 = bitsOf r.iw 29 4) (hnx : nx = bitsOf r.iw 33 4 + 1)
    (hfb : fb = ((needed de.iw de.pl de.dil de.kw de.s (bitsOf r.iw 37 6) nx de.ow).1 / (de.n : Int)).toNat)
    (htaps : taps = (List.range de.kw).map (fun k =>
      tapOf de.wfmt (bitsOf (d.wsRead wm c t m wp (per * de.kw) de.kw nx).1 (128 * per * k) (128 * per)))) :
    ∃ seed used poison, d.StepEnds c t ((d.mtGet c t).accumulate (fun e => e0 + e)
      (fun e old => convEntry de taps (gotOf r 0) (gotOf r 1) fb (bitsOf r.iw 37 6 + e) seed old) used poison nx).1
      ((wp + per * de.kw) % 2 ^ 12) (d.finishConv wm c t m r) := by
  have hread := Dev.wsRead_keepsTile d c t m wm wp (per * de.kw) de.kw nx
  have hfree := hread.trans (Dev.free_keepsTile _ _ 12288)
  have hmt := Dev.mtGet_congr hfree.tl c t
  unfold Dev.finishConv
  dsimp only
  simp only [hstore, Bool.false_eq_true, if_false, ← hde, ← hper, ← hwp, ← he0, ← hnx, ← hfb, ← htaps, hmt]
  exact ⟨_, _, _, Dev.stepEnds_moved _ _ _ _ _ _ _ _ _ _ _ _ _ hfree⟩

theorem Dev.finishWconv_ends (d : Dev) (wm : Memory) (c : Nat) (t : Fin 10) (m : Nat) (r : Run) :
    ∃ (terms : Nat → List Int) (used : Nat → List Item) (poison : Bool),
      d.StepEnds c t ((d.mtGet c t).accumulate (fun g => g) (fun g old => accAdd old (terms g)) used poison 16).1
        ((d.rd (Pg.mtile c t) Reg.MTILE.WP + 48) % 2 ^ 12) (d.finishWconv wm c t m r) := by
  have hread := Dev.wsRead_keepsTile d c t m wm (d.rd (Pg.mtile c t) Reg.MTILE.WP) 48 16 1
  unfold Dev.finishWconv
  dsimp only
  generalize d.wsRead wm c t m (d.rd (Pg.mtile c t) Reg.MTILE.WP) 48 16 1 = read at hread ⊢
  obtain ⟨store, ue, d1⟩ := read
  dsimp only at hread ⊢
  rw [Dev.mtGet_congr hread.tl c t]
  exact ⟨_, _, _, Dev.stepEnds_moved _ _ _ _ _ _ _ _ _ _ _ _ _ hread⟩

/-- When a later step may see an entry does not touch the values. -/
theorem Dev.StepEnds.settledAt {d e : Dev} {c : Nat} {t : Fin 10} {x : MTile} {wp : Nat} (h : d.StepEnds c t x wp e) (at_ : Tab Nat) :
    d.StepEnds c t x wp (e.mtSet c t { e.mtGet c t with accAt := at_ }) := by
  obtain ⟨hacc, hused, hruns, hqs, hwp⟩ := h
  refine ⟨?_, ?_, ?_, ?_, ?_⟩
  · rw [Dev.mtGet_mtSet_same, hacc]
  · rw [Dev.mtGet_mtSet_same, hused]
  · rw [Dev.sqGet_mtSet, ← Dev.sqGet_mtile, hruns]
  · rw [Dev.mtSet_qs, hqs]
  · rw [Dev.rd_congr (e.mtSet_regs c t _), hwp]

/-- MMUL with B from an input port. -/
theorem Dev.finishMmul_ends (d : Dev) (wm : Memory) (c : Nat) (t : Fin 10) (m : Nat) (r : Run) (hstream : bitsOf r.iw 43 2 ≠ 0) :
    ∃ (taps : List (Tap × Nat)) (mac : Nat → List Int × Nat → Tap × Nat → List Int × Nat) (used : Nat → List Item) (poison : Bool),
      d.StepEnds c t ((d.mtGet c t).accumulate (fun e => bitsOf r.iw 34 4 + e) (fun e old => taps.foldl (mac e) (old, 0)) used poison
        (bitsOf r.iw 38 4 + 1)).1
      (d.rd (Pg.mtile c t) Reg.MTILE.WP) (d.finishMmul wm c t m r) := by
  have hfree := Dev.free_keepsTile (Pg.mtile c t) d 6144
  have hmt := Dev.mtGet_congr hfree.tl c t
  unfold Dev.finishMmul
  dsimp only
  simp only [if_neg hstream, hmt]
  exact ⟨_, _, _, _, (Dev.stepEnds_unmoved _ _ _ _ _ _ _ _ _ _ _ _ hfree).settledAt _⟩

end Sys2Proof.Machine
end

section
/-!
PROOFS of 05_multiplier_tiles.md: RSC (R154 to R156).
-/

namespace Sys2Proof.Machine

/-! ### Reading a rescale table leaves the tile alone (R154, R211, R214) -/

theorem Dev.ReadFrame.tl_eq {d e : Dev} (h : d.ReadFrame e) : e.tl = d.tl := by
  unfold Dev.ReadFrame at h
  rw [h]

/-- From `d` to `e` a B tile was read: beside registers of other pages than `base` only faults, free values and counters changed. -/
structure Dev.ReadsFar (base : Nat) (d e : Dev) : Prop where
  frame : d.ReadFrame e
  page : d.KeepsPage base e

section
variable {base pg : Nat} {d e : Dev}

theorem Dev.ReadsFar.refl (base : Nat) (d : Dev) : d.ReadsFar base d := ⟨rfl, fun _ _ => rfl⟩

theorem Dev.ReadsFar.trans {f : Dev} (h : Dev.ReadsFar base d e) (h' : Dev.ReadsFar base e f) : Dev.ReadsFar base d f :=
  ⟨h.frame.trans h'.frame, h.page.trans h'.page⟩

theorem Dev.ReadsFar.of_regs (base : Nat) (hframe : d.ReadFrame e) (hregs : e.regs = d.regs) : Dev.ReadsFar base d e :=
  ⟨hframe, Dev.keepsPage_of_regs base hregs⟩

theorem Dev.ReadsFar.wr (h : Dev.ReadsFar base d e) (hpg : Pg.Apart base pg) {F : Fld} (hF : F.off + F.stride * 0 < 0x1000) (v : Nat) :
    Dev.ReadsFar base d (e.wr pg F v) :=
  h.trans ⟨(e.wr_frame _ _ _ _).readFrame, e.keepsPage_wr hpg hF v⟩

theorem Dev.ReadsFar.hit (h : Dev.ReadsFar base d e) (hpg : Pg.Apart base pg) {F : Fld} (hF : F.off + F.stride * 0 < 0x1000) (v : Nat) :
    Dev.ReadsFar base d (e.hit pg F v) :=
  h.trans ⟨(e.hit_frame _ _ _ _).readFrame, e.keepsPage_hit hpg hF v⟩

theorem Dev.ReadsFar.raise (h : Dev.ReadsFar base d e) (hpg : Pg.Apart base pg) (bit : Nat) (attr : Attr) :
    Dev.ReadsFar base d (e.raise pg bit attr) := by
  have hframe : e.FaultFrame (e.raise pg bit attr) := Dev.raiseFull_frame _ _ _ _ _
  exact h.trans ⟨hframe.readFrame, e.keepsPage_raise hpg bit attr⟩

theorem Dev.ReadsFar.count (h : Dev.ReadsFar base d e) (pg mask ev n : Nat) : Dev.ReadsFar base d (e.count pg mask ev n) :=
  h.trans (.of_regs _ (e.count_readFrame _ _ _ _) (e.count_regs _ _ _ _))

end

theorem eccDecode_regs {d d1 : Dev} {pat data v : Nat} {r : EccRead} (h : eccDecode d pat data = (r, v, d1)) : d1.regs = d.regs := by
  have hd : d1 = (eccDecode d pat data).2.2 := by rw [h]
  rw [hd]
  unfold eccDecode Dev.choose
  dsimp only
  split_ifs <;> rfl

section
variable {base c b : Nat} (hpg : Pg.Apart base (Pg.btile c b))
include hpg

theorem Dev.bUe_readsFar (d : Dev) (w : Nat) (scrub : Bool) (attr : Attr) : Dev.ReadsFar base d (d.bUe c b w scrub attr) := by
  have hbump : Dev.ReadsFar base d (d.bump (Pg.btile c b) Reg.BTILE.UE_CNT) := (Dev.ReadsFar.refl base d).wr hpg (by decide) _
  have hvalid := ((hbump.wr hpg (F := Reg.BTILE.UE_ADDR) (by decide) w).wr hpg (F := Reg.BTILE.UE_SCRUB) (by decide)
    (if scrub then 1 else 0)).hit hpg (F := Reg.BTILE.UE_VALID) (by decide) 1
  have himage (e : Dev) (he : Dev.ReadsFar base d e) :
      Dev.ReadsFar base d (if e.bInImage c b w then e.imageUe (e.coreDom c) (Pg.btile c b / 4096) else e) := by
    split
    · exact he.trans (.of_regs base rfl rfl)
    · exact he
  unfold Dev.bUe
  dsimp only
  split
  · exact himage _ (hbump.raise hpg _ _)
  · exact himage _ (hvalid.raise hpg _ _)

theorem Dev.bReadWord_readsFar (d : Dev) (w : Nat) (attr : Attr) : Dev.ReadsFar base d (d.bReadWord c b w attr).2.2.2 := by
  have hecc {r : EccRead} {v : Nat} {d1 : Dev} {pat data : Nat} (h : eccDecode d pat data = (r, v, d1)) : Dev.ReadsFar base d d1 :=
    .of_regs base (eccDecode_readFrame h) (eccDecode_regs h)
  unfold Dev.bReadWord
  dsimp only
  split
  next h => exact hecc h
  next h => exact (hecc h).wr hpg (by decide) _
  next h => exact (hecc h).trans (Dev.bUe_readsFar hpg _ _ _ _)

theorem Dev.bReadRun_readsFar (attr : Attr) : ∀ (n w : Nat) (d : Dev), Dev.ReadsFar base d (d.bReadRun c b w n attr).2.2.2
  | 0, _, d => Dev.ReadsFar.refl base d
  | n + 1, w, d => (Dev.bReadWord_readsFar hpg d w attr).trans (Dev.bReadRun_readsFar attr n (w + 1) _)

theorem Dev.bWindowMiss_readsFar (d : Dev) (p m w n : Nat) : Dev.ReadsFar base d (d.bWindowMiss c b p m w n) := by
  have herr : Dev.ReadsFar base d (d.bWinErr c b p m (d.bFirstOutside c b p m w n) false) := by
    unfold Dev.bWinErr
    dsimp only
    split
    · exact Dev.ReadsFar.refl base d
    · exact (((((Dev.ReadsFar.refl base d).wr hpg (by decide) _).wr hpg (by decide) _).wr hpg (by decide) _).wr hpg (by decide) _).hit hpg
        (by decide) _
  exact herr.raise hpg _ _

theorem Dev.rsEntry_readsFar (d : Dev) (m base' k : Nat) : Dev.ReadsFar base d (d.rsEntry c b m base' k).2.2.2 := by
  unfold Dev.rsEntry
  dsimp only
  split
  · exact Dev.bReadRun_readsFar hpg _ 2 _ d
  · exact Dev.bWindowMiss_readsFar hpg d _ _ _ _

end

theorem Dev.rsTable_readsFar {base c m : Nat} {de : MDesc} (hpg : Pg.Apart base (Pg.btile c de.rsTile)) :
    ∀ (n k : Nat) (d : Dev), Dev.ReadsFar base d (d.rsTable c m de k n).2
  | 0, _, d => Dev.ReadsFar.refl base d
  | n + 1, k, d => by
    have htwo : Dev.ReadsFar base d ((List.range 2).foldl
        (fun (acc : (List (Option (RsEntry × Bool)) × Bool) × Dev) i =>
          if de.tlen ≤ k + i then ((acc.1.1 ++ [none], acc.1.2), acc.2)
          else
            let (e, p, f, d1) := acc.2.rsEntry c de.rsTile m de.rsBase (k + i)
            ((acc.1.1 ++ [some (e, p)], acc.1.2 || f), d1)) (([], false), d)).2 := by
      refine List.foldlRecOn (motive := fun acc : (List (Option (RsEntry × Bool)) × Bool) × Dev => Dev.ReadsFar base d acc.2) _ _
        (Dev.ReadsFar.refl base d) (fun acc hacc i _ => ?_)
      dsimp only
      split
      · exact hacc
      · exact hacc.trans (Dev.rsEntry_readsFar hpg _ _ _ _)
    unfold Dev.rsTable
    dsimp only
    split
    · exact (htwo.count _ _ _ _).trans (Dev.rsTable_readsFar hpg n _ _)
    · exact htwo.trans (Dev.rsTable_readsFar hpg n _ _)

/-! ### Slots and entries (R154) -/

/-- Slot `s` takes 32 rows in format `ofmt`. -/
def MTile.fillSlot (x : MTile) (s ofmt : Nat) (row : Nat → List Int) (poison : Nat → Bool) (ph : Bool) (at_ : Nat → Nat) : MTile :=
  (List.range 32).foldl (fun (x : MTile) r => x.putRow (32 * s + r) (row r) (poison r) ph (at_ r))
    { x with slotA12 := setBits x.slotA12 s 1 ofmt }

/-- Slots `o0` to `o0+n−1` in turn. -/
def MTile.fillSlots (x : MTile) (o0 ofmt : Nat) (row : Nat → Nat → List Int) (poison : Nat → Nat → Bool) (ph : Nat → Bool)
    (at_ : Nat → Nat → Nat) (n : Nat) : MTile :=
  (List.range n).foldl (fun x yy => x.fillSlot (o0 + yy) ofmt (row yy) (poison yy) (ph yy) (at_ yy)) x

/-- The entries of `l` are cleared. -/
def MTile.clearEntries (x : MTile) (l : List Nat) : MTile :=
  l.foldl (fun (x : MTile) e => { x with
    acc := Tab.set x.acc e [] [], accPoison := setBits x.accPoison e 1 0, accPh := setBits x.accPh e 1 0
    accUsed := setBits x.accUsed e 1 0 }) x

/-- From `x` to `y` only slots changed. -/
def MTile.SlotFrame (x y : MTile) : Prop := y.sq = x.sq ∧ y.acc = x.acc

theorem MTile.putRows_frame (x : MTile) (s : Nat) (row : Nat → List Int) (poison : Nat → Bool) (ph : Bool) (at_ : Nat → Nat) (l : List Nat) :
    x.SlotFrame (l.foldl (fun (x : MTile) r => x.putRow (32 * s + r) (row r) (poison r) ph (at_ r)) x) :=
  List.foldlRecOn (motive := fun y : MTile => x.SlotFrame y) _ _ ⟨rfl, rfl⟩ (fun _ hy _ _ => hy)

theorem MTile.fillSlot_frame (x : MTile) (s ofmt : Nat) (row : Nat → List Int) (poison : Nat → Bool) (ph : Bool) (at_ : Nat → Nat) :
    x.SlotFrame (x.fillSlot s ofmt row poison ph at_) := MTile.putRows_frame { x with slotA12 := setBits x.slotA12 s 1 ofmt } _ _ _ _ _ _

section
variable (s : Nat) (row : Nat → List Int) (poison : Nat → Bool) (ph : Bool) (at_ : Nat → Nat)

theorem MTile.putRows_slots (k : Nat) : ∀ (n : Nat) (x : MTile),
    Tab.get ((List.range n).foldl (fun (x : MTile) r => x.putRow (32 * s + r) (row r) (poison r) ph (at_ r)) x).slots k [] =
      if 32 * s ≤ k ∧ k < 32 * s + n then row (k - 32 * s) else Tab.get x.slots k []
  | 0, x => (if_neg (by omega)).symm
  | n + 1, x => by
    rw [List.range_succ, List.foldl_append, List.foldl_cons, List.foldl_nil, MTile.putRow]
    by_cases hk : k = 32 * s + n
    · subst hk
      rw [Tab.get_set_same, if_pos (by omega), Nat.add_sub_cancel_left]
    · rw [Tab.get_set_other _ _ _ _ hk, MTile.putRows_slots k n x]
      exact if_congr (by omega) rfl rfl

theorem MTile.fillSlot_slots (x : MTile) (ofmt k : Nat) : Tab.get (x.fillSlot s ofmt row poison ph at_).slots k [] =
    if 32 * s ≤ k ∧ k < 32 * s + 32 then row (k - 32 * s) else Tab.get x.slots k [] :=
  MTile.putRows_slots s row poison ph at_ k 32 _

end

section
variable (x : MTile) (o0 ofmt : Nat) (row : Nat → Nat → List Int) (poison : Nat → Nat → Bool) (ph : Nat → Bool) (at_ : Nat → Nat → Nat)

theorem MTile.fillSlots_frame (n : Nat) : x.SlotFrame (x.fillSlots o0 ofmt row poison ph at_ n) := by
  refine List.foldlRecOn (motive := fun y : MTile => x.SlotFrame y) _ _ ⟨rfl, rfl⟩ (fun y hy yy _ => ?_)
  obtain ⟨hsq, hacc⟩ := hy
  obtain ⟨hsq', hacc'⟩ := y.fillSlot_frame (o0 + yy) ofmt (row yy) (poison yy) (ph yy) (at_ yy)
  exact ⟨hsq'.trans hsq, hacc'.trans hacc⟩

theorem MTile.fillSlots_succ (n : Nat) : x.fillSlots o0 ofmt row poison ph at_ (n + 1) =
    (x.fillSlots o0 ofmt row poison ph at_ n).fillSlot (o0 + n) ofmt (row n) (poison n) (ph n) (at_ n) := by
  rw [MTile.fillSlots, List.range_succ, List.foldl_append, List.foldl_cons, List.foldl_nil, ← MTile.fillSlots]

theorem MTile.fillSlots_slots {yy j : Nat} (hj : j < 32) : ∀ {n : Nat}, yy < n →
    Tab.get (x.fillSlots o0 ofmt row poison ph at_ n).slots (32 * (o0 + yy) + j) [] = row yy j
  | n + 1, hyy => by
    rw [MTile.fillSlots_succ, MTile.fillSlot_slots]
    rcases Nat.lt_succ_iff_lt_or_eq.mp hyy with hlt | rfl
    · rw [if_neg (by omega), MTile.fillSlots_slots hj hlt]
    · rw [if_pos (by omega), Nat.add_sub_cancel_left]

end

theorem MTile.clearEntries_keeps (l : List Nat) (x : MTile) : (x.clearEntries l).sq = x.sq ∧ (x.clearEntries l).slots = x.slots :=
  List.foldlRecOn (motive := fun y : MTile => y.sq = x.sq ∧ y.slots = x.slots) _ _ ⟨rfl, rfl⟩ (fun _ hy _ _ => hy)

theorem MTile.clearEntries_acc (k : Nat) : ∀ (l : List Nat) (x : MTile),
    Tab.get (x.clearEntries l).acc k [] = if k ∈ l then [] else Tab.get x.acc k []
  | [], _ => (if_neg (List.not_mem_nil)).symm
  | e :: l, x => by
    rw [MTile.clearEntries, List.foldl_cons, ← MTile.clearEntries, MTile.clearEntries_acc k l]
    by_cases hk : k = e
    · subst hk
      simp [Tab.get_set_same]
    · rw [Tab.get_set_other _ _ _ _ hk]
      simp [hk]

end Sys2Proof.Machine
end

section
/-!
PROOFS of 05_multiplier_tiles.md: CONV, WCONV, MMUL and RSC of an M tile (R140, R145, R147, R153, R154, R156).
-/

namespace Sys2Proof.Machine

/-- Row `j` of entry `e`: zeros where the entry was never accumulated into. -/
def MTile.entryRow (x : MTile) (e j : Nat) : List Int :=
  if Tab.get x.acc e [] = [] then zeros32 else ((Tab.get x.acc e []).drop (32 * j)).take 32

/-- The device after the rescale table was read, tile state `x` was put in place and EP returned to 0; RS_RANGE is raised when a channel lies
beyond TLEN. -/
def Dev.rescaled (d : Dev) (c t m : Nat) (x : MTile) (beyond : Bool) : Dev :=
  if beyond then ((d.mtSet c t x).wr (Pg.mtile c t) Reg.MTILE.EP 0).raise (Pg.mtile c t) 2 (.unit m c)
  else (d.mtSet c t x).wr (Pg.mtile c t) Reg.MTILE.EP 0

/-- RSC without WINO, once issued. -/
theorem Dev.rsc_of_issue {d d1 : Dev} {c t iw dom nx : Nat} {takes : List (Nat × Nat × Nat)} {de : MDesc}
    (hissue : d.tryIssue c t 5 0x0A (planRsc c t) = (some (iw, dom, takes), d1)) (hwino : bitAt iw 45 = false)
    (hde : d1.mDesc c t (bitsOf iw 54 4) = de) (hnx : nx = bitsOf iw 46 4 + 1) :
    ∃ (d2 : Dev) (poison : Nat → Nat → Bool) (ph : Nat → Bool) (at_ : Nat → Nat → Nat) (beyond : Bool),
      d2 = (d1.rsTable c dom de (bitsOf iw 31 12) 16).2.rsReads c t de.rsTile de.rsBase (bitsOf iw 31 12)
        (min 32 (de.tlen - bitsOf iw 31 12)) (32 * bitsOf iw 27 4) (32 * nx) ∧
      d.rsc c t = d2.rescaled c t dom (((d2.mtGet c t).fillSlots (bitsOf iw 27 4) de.ofmt
        (fun yy j => rscRow de (bitsOf iw 21 6 + yy) ((d1.rsTable c dom de (bitsOf iw 31 12) 16).1.getD j none)
          ((d2.mtGet c t).entryRow (bitsOf iw 50 4 + yy) j)) poison ph at_ nx).clearEntries (rscEntries iw)) beyond := by
  unfold Dev.rsc
  rw [hissue]
  dsimp only
  rw [hde]
  generalize d1.rsTable c dom de (bitsOf iw 31 12) 16 = read
  obtain ⟨tab, dt⟩ := read
  simp only [hwino, Bool.false_eq_true, if_false, ← hnx]
  exact ⟨_, _, _, _, _, rfl, rfl⟩

/-! ### The issue of RSC -/

theorem Dev.sqSet_desc (d : Dev) (c u : Nat) (s : Sqr) : (d.sqSet c u s).tl.desc = d.tl.desc := by
  unfold Dev.sqSet
  split <;> rfl

/-- An issue leaves the descriptors as they are. -/
theorem Dev.mDesc_issued (d : Dev) (c : Nat) (m : Fin 10) (dom interval i : Nat) : (d.issued c m dom interval).mDesc c m i = d.mDesc c m i := by
  have htl : (d.issued c m dom interval).tl.desc = d.tl.desc := by
    rw [Dev.issued, Dev.markStepped_tl, Dev.count_tl, Dev.advancePc_eq, Dev.goTo, Dev.wr_tl, Dev.wr_tl, Dev.sqSet_desc, Dev.sqSet_desc,
      Dev.tries, Dev.sqSet_desc]
  have hfab : (d.issued c m dom interval).fab = d.fab := by rw [d.issued_tileFrame c m dom interval]
  simp only [Dev.mDesc, Dev.descWord, Dev.bank, htl, hfab]

theorem mem_rscEntries {iw e : Nat} (hwino : bitAt iw 45 = false) :
    e ∈ rscEntries iw ↔ bitsOf iw 50 4 ≤ e ∧ e < bitsOf iw 50 4 + (bitsOf iw 46 4 + 1) := by
  simp only [rscEntries, hwino, Bool.false_eq_true, if_false, List.mem_map, List.mem_range]
  constructor
  · rintro ⟨i, hi, rfl⟩
    omega
  · rintro ⟨hlo, hhi⟩
    exact ⟨e - bitsOf iw 50 4, by omega, by omega⟩

/-- A legal RSC without WINO issues once the entries that it reads are visible. -/
theorem planRsc_of_visible {d : Dev} {c m dom iw nx : Nat} (hzero : bitsOf iw 0 21 = 0) (hwino : bitAt iw 45 = false)
    (hgood : (d.mDesc c m (bitsOf iw 54 4)).bad = false) (hnx : nx = bitsOf iw 46 4 + 1) (hslots : bitsOf iw 27 4 + nx ≤ 16)
    (hentries : bitsOf iw 50 4 + nx ≤ 16)
    (hvisible : ∀ e < nx, Tab.get (d.mtGet c m).accAt (bitsOf iw 50 4 + e) 0 < d.dcyc dom) :
    planRsc c m d iw dom = .go [] none (32 * nx) := by
  have hwait : (rscEntries iw).any (fun e => decide (d.dcyc dom < Tab.get (d.mtGet c m).accAt e 0 + 1) &&
      Tab.get (d.mtGet c m).accAt e 0 != 0) = false := by
    refine List.any_eq_false.mpr (fun e he => ?_)
    obtain ⟨hlo, hhi⟩ := (mem_rscEntries hwino).mp he
    have hseen := hvisible (e - bitsOf iw 50 4) (by omega)
    rw [Nat.add_sub_cancel' hlo] at hseen
    simp only [Bool.and_eq_true, decide_eq_true_eq]
    omega
  have hfit : ¬ (16 < bitsOf iw 27 4 + nx ∨ 16 < bitsOf iw 50 4 + nx) := by omega
  subst hnx
  simp only [planRsc, hzero, hwino, hgood, hwait, ne_eq, not_true_eq_false, Bool.false_eq_true, if_false, false_and, Bool.not_false,
    true_and, false_or, if_neg hfit]

/-! ### The device after RSC -/

theorem Pg.apart_mtile_btile (c : Fin 32) (m : Fin 10) {b : Nat} : Pg.Apart (Pg.mtile c m) (Pg.btile c b) :=
  ⟨by simp only [Pg.mtile, Pg.core]; omega, by simp only [Pg.mtile, Pg.core]; omega, .inl (by simp only [Pg.mtile, Pg.btile, Pg.core]; omega)⟩

theorem Dev.rsReads_frame (d : Dev) (c u b base k n slot slots : Nat) :
    ∃ x, d.rsReads c u b base k n slot slots = { d with mem := x } := by
  unfold Dev.rsReads
  split
  · exact ⟨d.mem, rfl⟩
  · exact ⟨_, rfl⟩

theorem Dev.rescaled_tl (d : Dev) (c t m : Nat) (x : MTile) (beyond : Bool) : (d.rescaled c t m x beyond).tl = (d.mtSet c t x).tl := by
  unfold Dev.rescaled
  split
  · rw [Dev.raise_tl, Dev.wr_tl]
  · rw [Dev.wr_tl]

theorem Dev.rescaled_hold (d : Dev) (c t m : Nat) (x : MTile) (beyond : Bool) : (d.rescaled c t m x beyond).hold = d.hold := by
  unfold Dev.rescaled
  split
  · rw [Dev.raise_hold, Dev.wr_hold, Dev.mtSet_hold]
  · rw [Dev.wr_hold, Dev.mtSet_hold]

theorem Dev.rd_rescaled (d : Dev) (c t m : Nat) (x : MTile) (beyond : Bool) {F : Fld} (hlo : 0x24 ≤ F.off) (hhi : F.off < 0x1000)
    (hstride : F.stride = 0) : (d.rescaled c t m x beyond).rd (Pg.mtile c t) F =
      (d.wr (Pg.mtile c t) Reg.MTILE.EP 0).rd (Pg.mtile c t) F := by
  have hwr : ((d.mtSet c t x).wr (Pg.mtile c t) Reg.MTILE.EP 0).rd (Pg.mtile c t) F = (d.wr (Pg.mtile c t) Reg.MTILE.EP 0).rd (Pg.mtile c t) F :=
    rfl
  unfold Dev.rescaled
  split
  · rw [Dev.rd_raise_same_page _ _ _ _ (by rw [hstride]; omega) (by rw [hstride]; omega), hwr]
  · exact hwr

/-- The step after its issue: what RSC reads and writes leaves it issued. -/
theorem stepped_rescaled {d0 d : Dev} {c m : Nat} {t : Fin 10} {dom interval : Nat} {x : MTile} (h : Stepped d0 d c t dom interval)
    (hsq : x.sq = (d.mtGet c t).sq) (beyond : Bool) : Stepped d0 (d.rescaled c t m x beyond) c t dom interval := by
  refine stepped_of_kept h ?_ ?_ (Dev.rescaled_hold _ _ _ _ _ _)
  · rw [tilePg_mtile, fPC_mtile, Dev.rd_rescaled _ _ _ _ _ _ (by decide) (by decide) rfl]
    exact Dev.rd_wr_other _ _ (by simp only [Reg.MTILE.PC, Reg.MTILE.EP, Pg.mtile, Pg.core]; omega)
  · rw [Dev.sqGet_congr (Dev.rescaled_tl _ _ _ _ _ _), Dev.sqGet_mtSet, hsq, Dev.sqGet_mtile]

/-- The reads of the rescale table leave an issued step issued, and the tile as the issue left it. -/
theorem stepped_rsReads {d0 d d2 : Dev} {c : Fin 32} {m : Fin 10} {dom interval k n slot slots : Nat} {de : MDesc}
    (h : Stepped d0 d c m dom interval)
    (hd2 : d2 = (d.rsTable c dom de k 16).2.rsReads c m de.rsTile de.rsBase k n slot slots) :
    Stepped d0 d2 c m dom interval ∧ d2.mtGet c m = d.mtGet c m := by
  obtain ⟨hframe, hpage⟩ := Dev.rsTable_readsFar (base := Pg.mtile c m) (m := dom) (de := de) (Pg.apart_mtile_btile c m) 16 k d
  obtain ⟨mem, hmem⟩ := (d.rsTable c dom de k 16).2.rsReads_frame c m de.rsTile de.rsBase k n slot slots
  rw [hmem] at hd2
  have hregs : d2.regs = (d.rsTable c dom de k 16).2.regs := by rw [hd2]
  have hread : (d.rsTable c dom de k 16).2.tl = d.tl := Dev.ReadFrame.tl_eq hframe
  have htl : d2.tl = d.tl := by rw [hd2, ← hread]
  have hhold : d2.hold = d.hold := by
    unfold Dev.ReadFrame at hframe
    rw [hd2, hframe]
  refine ⟨stepped_of_kept h ?_ (Dev.sqGet_congr htl _ _) hhold, Dev.mtGet_congr htl _ _⟩
  rw [tilePg_mtile, fPC_mtile, Dev.rd_congr hregs]
  exact hpage.rd (by decide)

end Sys2Proof.Machine

namespace Sys2Proof

open Machine

/-! ### The clauses of O39 -/

theorem conv_accumulates (c : Fin 32) (m : Fin 10) (s : State) (dom : Nat) (d1 : Dev) (r0 r : Run) (de : MDesc) (taps : List Tap)
    (per wp e0 nx fb : Nat) (hdom : s.dev.tileDom c = some dom) (hruns : (s.dev.sqGet c m).runs = [r0]) (hop : r0.op = 2)
    (htake : s.dev.mTake c m dom = d1) (hdone : d1.mDone c m 2 = some r) (hstore : bitAt r.iw 44 = false)
    (hde : de = d1.mDesc c m (bitsOf r.iw 54 4)) (hper : per = chunksPer de.wfmt) (hwp : wp = d1.rd (Pg.mtile c m) Reg.MTILE.WP)
    (he0 : e0 = bitsOf r.iw 29 4) (hnx : nx = bitsOf r.iw 33 4 + 1)
    (hfb : fb = ((needed de.iw de.pl de.dil de.kw de.s (bitsOf r.iw 37 6) nx de.ow).1 / (de.n : Int)).toNat)
    (htaps : taps = (List.range de.kw).map (fun k =>
      tapOf de.wfmt (bitsOf (d1.wsRead s.wmem c m dom wp (per * de.kw) de.kw nx).1 (128 * per * k) (128 * per)))) :
    GivesDev (.conv c m) s (fun d =>
      (∃ seed, ∀ e < nx, Tab.get (d.mtGet c m).acc (e0 + e) [] =
        (convEntry de taps (gotOf r 0) (gotOf r 1) fb (bitsOf r.iw 37 6 + e) seed (Tab.get (d1.mtGet c m).acc (e0 + e) [])).1) ∧
      (∀ e, (e < e0 ∨ e0 + nx ≤ e) → Tab.get (d.mtGet c m).acc e [] = Tab.get (d1.mtGet c m).acc e []) ∧
      d.rd (Pg.mtile c m) Reg.MTILE.WP = (wp + per * de.kw) % 2 ^ 12 ∧ (d.sqGet c m).runs = [] ∧ d.qs = d1.qs) := by
  have hlast := Dev.runs_of_last_takes hruns htake hdone
  have hstep : s.dev.conv s.wmem c m = d1.finishConv s.wmem c m dom r := Dev.mRunStep_of_last_takes _ _ hdom hruns hop htake hdone
  obtain ⟨seed, used, poison, hacc, -, hrest, hqs, hmoved⟩ :=
    d1.finishConv_ends s.wmem c m dom r hstore hde hper hwp he0 hnx hfb htaps
  refine givesDev_of_eq rfl hstep ?_
  rw [hacc]
  refine ⟨⟨seed, fun e he => ?_⟩, fun e he => ?_, hmoved, ?_, hqs⟩
  · exact MTile.accumulate_acc _ _ used poison (add_right_injective e0) he
  · exact MTile.accumulate_acc_other _ _ _ _ _ (fun k hk => by omega)
  · rw [hrest, MTile.accumulate_sq, ← Dev.sqGet_mtile, hlast]
    rfl

theorem wconv_accumulates (c : Fin 32) (m : Fin 10) (s : State) (dom : Nat) (d1 : Dev) (r0 r : Run) (hdom : s.dev.tileDom c = some dom)
    (hruns : (s.dev.sqGet c m).runs = [r0]) (hop : r0.op = 3) (htake : s.dev.mTake c m dom = d1) (hdone : d1.mDone c m 3 = some r) :
    GivesDev (.wconv c m) s (fun d => d = d1.finishWconv s.wmem c m dom r ∧
      d.rd (Pg.mtile c m) Reg.MTILE.WP = (d1.rd (Pg.mtile c m) Reg.MTILE.WP + 48) % 2 ^ 12 ∧ (d.sqGet c m).runs = [] ∧ d.qs = d1.qs ∧
      (∀ e < 16, bitAt (d.mtGet c m).accUsed e = true)) := by
  have hlast := Dev.runs_of_last_takes hruns htake hdone
  have hstep : s.dev.wconv s.wmem c m = d1.finishWconv s.wmem c m dom r := Dev.mRunStep_of_last_takes _ _ hdom hruns hop htake hdone
  obtain ⟨terms, used, poison, -, hused, hrest, hqs, hmoved⟩ := d1.finishWconv_ends s.wmem c m dom r
  refine givesDev_of_eq rfl hstep ⟨rfl, ?_⟩
  rw [hused]
  refine ⟨hmoved, ?_, hqs, fun e he => MTile.accumulate_used _ _ _ _ he⟩
  rw [hrest, MTile.accumulate_sq, ← Dev.sqGet_mtile, hlast]
  rfl

theorem mmul_accumulates (c : Fin 32) (m : Fin 10) (s : State) (dom : Nat) (d1 : Dev) (r0 r : Run) (hdom : s.dev.tileDom c = some dom)
    (hruns : (s.dev.sqGet c m).runs = [r0]) (hop : r0.op = 4) (htake : s.dev.mTake c m dom = d1) (hdone : d1.mDone c m 4 = some r)
    (hstream : bitsOf r.iw 43 2 ≠ 0) :
    GivesDev (.mmul c m) s (fun d => d = d1.finishMmul s.wmem c m dom r ∧
      d.rd (Pg.mtile c m) Reg.MTILE.WP = d1.rd (Pg.mtile c m) Reg.MTILE.WP ∧ (d.sqGet c m).runs = [] ∧ d.qs = d1.qs ∧
      (∀ e, (e < bitsOf r.iw 34 4 ∨ bitsOf r.iw 34 4 + (bitsOf r.iw 38 4 + 1) ≤ e) →
        Tab.get (d.mtGet c m).acc e [] = Tab.get (d1.mtGet c m).acc e [])) := by
  have hlast := Dev.runs_of_last_takes hruns htake hdone
  have hstep : s.dev.mmul s.wmem c m = d1.finishMmul s.wmem c m dom r := Dev.mRunStep_of_last_takes _ _ hdom hruns hop htake hdone
  obtain ⟨taps, mac, used, poison, hacc, -, hrest, hqs, hkept⟩ := d1.finishMmul_ends s.wmem c m dom r hstream
  refine givesDev_of_eq rfl hstep ⟨rfl, ?_⟩
  rw [hacc]
  refine ⟨hkept, ?_, hqs, fun e he => MTile.accumulate_acc_other _ _ _ _ _ (fun k hk => by omega)⟩
  rw [hrest, MTile.accumulate_sq, ← Dev.sqGet_mtile, hlast]
  rfl

theorem rsc_rescales (c : Fin 32) (m : Fin 10) (s : State) (dom iw e0 nx o0 : Nat) (de : MDesc) (h : AtStep s.dev c m dom iw)
    (hop : bitsOf iw 58 6 = 5) (hzero : bitsOf iw 0 21 = 0) (hwino : bitAt iw 45 = false) (hde : de = s.dev.mDesc c m (bitsOf iw 54 4))
    (hgood : de.bad = false) (he0 : e0 = bitsOf iw 50 4) (hnx : nx = bitsOf iw 46 4 + 1) (ho0 : o0 = bitsOf iw 27 4)
    (hslots : o0 + nx ≤ 16) (hentries : e0 + nx ≤ 16) (hvisible : ∀ e < nx, Tab.get (s.dev.mtGet c m).accAt (e0 + e) 0 < s.dev.dcyc dom) :
    GivesDev (.rsc c m) s (fun d => Stepped s.dev d c m dom (32 * nx) ∧
      (∀ yy < nx, ∀ j < 32, Tab.get (d.mtGet c m).slots (32 * (o0 + yy) + j) [] =
        rscRow de (bitsOf iw 21 6 + yy) ((((s.dev.tryIssue c m 5 0x0A (planRsc c m)).2.rsTable c dom de (bitsOf iw 31 12) 16).1).getD j none)
          (if Tab.get (s.dev.mtGet c m).acc (e0 + yy) [] = [] then zeros32
           else ((Tab.get (s.dev.mtGet c m).acc (e0 + yy) []).drop (32 * j)).take 32)) ∧
      (∀ e, Tab.get (d.mtGet c m).acc e [] = if e0 ≤ e ∧ e < e0 + nx then [] else Tab.get (s.dev.mtGet c m).acc e []) ∧
      d.rd (Pg.mtile c m) Reg.MTILE.EP = 0) := by
  subst he0 ho0
  have hlook := Dev.looks_of_atStep h
  have hissue := Dev.tryIssue_of_heads (op := 5) (opMax := 0x0A) (takes := []) (put := none) (interval := 32 * nx) (plan := planRsc c m)
    hlook hop (by decide) (planRsc_of_visible hzero hwino (hde ▸ hgood) hnx hslots hentries hvisible) rfl rfl
  have hde1 : (s.dev.issued c m dom (32 * nx)).mDesc c m (bitsOf iw 54 4) = de := (s.dev.mDesc_issued c m dom _ _).trans hde.symm
  obtain ⟨d2, poison, ph, at_, beyond, hd2, hstep⟩ := Dev.rsc_of_issue hissue hwino hde1 hnx
  obtain ⟨hstepped, htile⟩ := stepped_rsReads (Dev.issued_of_no_loop (Dev.loops_of_atStep h) dom (32 * nx)).1 hd2
  obtain ⟨sq, hissued⟩ := s.dev.mtGet_issued c m dom (32 * nx)
  have hacc : (d2.mtGet c m).acc = (s.dev.mtGet c m).acc := by rw [htile, hissued]
  refine givesDev_of_eq rfl hstep ?_
  generalize hfill : (d2.mtGet c m).fillSlots (bitsOf iw 27 4) de.ofmt _ poison ph at_ nx = x1
  obtain ⟨hsq1, hacc1⟩ := hfill ▸ MTile.fillSlots_frame (d2.mtGet c m) _ _ _ _ _ _ _
  obtain ⟨hsq2, hslots2⟩ := MTile.clearEntries_keeps (rscEntries iw) x1
  have hresult : (d2.rescaled c m dom (x1.clearEntries (rscEntries iw)) beyond).mtGet c m = x1.clearEntries (rscEntries iw) := by
    rw [Dev.mtGet_congr (Dev.rescaled_tl _ _ _ _ _ _), Dev.mtGet_mtSet_same]
  rw [hresult]
  refine ⟨stepped_rescaled hstepped (hsq2.trans hsq1) beyond, fun yy hyy j hj => ?_, fun e => ?_, ?_⟩
  · rw [hslots2, ← hfill, MTile.fillSlots_slots _ _ _ _ _ _ _ hj hyy, hissue, MTile.entryRow, hacc]
  · rw [MTile.clearEntries_acc, hacc1, hacc]
    exact if_congr (by rw [mem_rscEntries hwino, ← hnx]) rfl rfl
  · rw [Dev.rd_rescaled _ _ _ _ _ _ (by decide) (by decide) rfl, Dev.rd_wr_same _ _ _ _ _ (by decide)]
    exact Nat.zero_mod _

/-- Settles O39, clause by clause. -/
theorem multiplierTileComputes : Obligations.MultiplierTileComputes :=
  ⟨conv_accumulates, wconv_accumulates, mmul_accumulates, rsc_rescales⟩

end Sys2Proof
end

section
/-!
PROOFS of 06_vector_tiles.md: how a step of a V tile that took its last items ends (R174, R176).
-/

namespace Sys2Proof.Machine

/-! ### The sequencer of a V tile -/

theorem Dev.vtGet_congr {d e : Dev} (h : d.tl = e.tl) (c v : Nat) : d.vtGet c v = e.vtGet c v := by simp only [Dev.vtGet, h]

theorem Dev.sqGet_vtile (d : Dev) (c v : Nat) : d.sqGet c (10 + v) = (d.vtGet c v).sq := by
  rw [Dev.sqGet, isM_vtile, if_neg Bool.false_ne_true, Nat.add_sub_cancel_left]

theorem Dev.sqSet_vtile (d : Dev) (c v : Nat) (s : Sqr) : d.sqSet c (10 + v) s = d.vtSet c v { d.vtGet c v with sq := s } := by
  rw [Dev.sqSet, isM_vtile, if_neg Bool.false_ne_true, Nat.add_sub_cancel_left]

/-- Step `i` is no longer in progress. -/
def VTile.endStep (x : VTile) (i : Nat) : VTile := { x with sq := { x.sq with runs := x.sq.runs.eraseIdx i } }

theorem Dev.endRun_vtile (d : Dev) (c v i : Nat) : d.endRun c (10 + v) i = d.vtSet c v ((d.vtGet c v).endStep i) := by
  rw [Dev.endRun, Dev.sqGet_vtile, Dev.sqSet_vtile]
  rfl

/-! ### Result slots (R174) -/

/-- Slots from `k` on take the values of `l`. -/
def putSlots (t : Tab Slot) (k : Nat) (l : List Slot) : Tab Slot := l.zipIdx.foldl (fun t s => Tab.set t (k + s.2) s.1 Slot.zero) t

theorem putSlots_cons (t : Tab Slot) (k : Nat) (x : Slot) (l : List Slot) :
    putSlots t k (x :: l) = putSlots (Tab.set t k x Slot.zero) (k + 1) l := by
  simp only [putSlots, List.zipIdx_cons', List.foldl_cons, List.foldl_map, Prod.map_fst, Prod.map_snd, id_eq, Nat.add_zero, Nat.add_assoc,
    Nat.add_comm 1]

theorem get_putSlots (j : Nat) : ∀ (l : List Slot) (t : Tab Slot) (k : Nat), Tab.get (putSlots t k l) j Slot.zero =
    if k ≤ j ∧ j < k + l.length then l.getD (j - k) Slot.zero else Tab.get t j Slot.zero
  | [], _, k => (if_neg (by rw [List.length_nil]; omega)).symm
  | x :: l, t, k => by
    rw [putSlots_cons, get_putSlots j l, List.length_cons]
    rcases Nat.lt_trichotomy j k with hlt | rfl | hgt
    · rw [if_neg (by omega), if_neg (by omega), Tab.get_set_other _ _ _ _ (by omega)]
    · rw [if_neg (by omega), if_pos (by omega), Tab.get_set_same, Nat.sub_self, List.getD_cons_zero]
    · rw [Tab.get_set_other _ _ _ _ (by omega), show j - k = j - (k + 1) + 1 by omega, List.getD_cons_succ]
      exact if_congr (by omega) rfl rfl

/-! ### The end of a step (R174, R176) -/

theorem Dev.slotsWritten_frame (d : Dev) (c v rd n : Nat) : ∃ x, d.slotsWritten c v rd n = { d with flt := x } := by
  unfold Dev.slotsWritten
  split
  · exact ⟨d.flt, rfl⟩
  · refine List.foldlRecOn (motive := fun e : Dev => ∃ x, e = { d with flt := x }) _ _ ⟨d.flt, rfl⟩ ?_
    rintro _ ⟨x, rfl⟩ i -
    exact ⟨_, rfl⟩

/-- Tile state `x` once a step has written `slots` from slot `k` on, with the times of its unit and of its slots. -/
def VTile.written (x : VTile) (k : Nat) (slots : List Slot) (begins ends at_ : Tab Nat) (scratch : List (Nat × Nat × Nat)) : VTile :=
  { x with unitBegin := begins, unitEnd := ends, slots := putSlots x.slots k slots, slotAt := at_, scrW := scratch }

/-- `e` is the device after step `i`, `r`, of V tile `v` ended with the results `res`. -/
structure VRes.Ended (res : VRes) (c v i : Nat) (r : Run) (e : Dev) : Prop where
  frame : e = { res.d with tl := e.tl, regs := e.regs, perf := e.perf, flt := e.flt }
  tile : ∃ (begins ends at_ : Tab Nat) (scratch : List (Nat × Nat × Nat)),
    e.vtGet c v = ((res.d.vtGet c v).written (vRD r.iw) res.slots begins ends at_ scratch).endStep i
  /-- the words before the channels of the descriptors -/
  low : ∀ (F : Fld) (j : Nat), F.off + F.stride * j < 0x1C0 → e.rd (Pg.vtile c v) F j = res.d.rd (Pg.vtile c v) F j

section
variable {res : VRes} {c v i : Nat} {r : Run} {e : Dev}

theorem VRes.Ended.count (h : res.Ended c v i r e) (pg mask ev n : Nat) : res.Ended c v i r (e.count pg mask ev n) := by
  obtain ⟨hframe, htile, hlow⟩ := h
  obtain ⟨p, hp⟩ : ∃ p, e.count pg mask ev n = { e with perf := p } := ⟨_, e.count_frame pg mask ev n⟩
  rw [hp]
  exact ⟨by rw [hframe], htile, hlow⟩

theorem VRes.Ended.channel (h : res.Ended c v i r e) (k n : Nat) : res.Ended c v i r (e.wr (Pg.vtile c v) Reg.VTILE.CH n k) := by
  obtain ⟨hframe, htile, hlow⟩ := h
  refine ⟨?_, htile, fun F j hF => (Dev.rd_wr_other _ _ ?_).trans (hlow F j hF)⟩
  · rw [hframe]
    rfl
  · simp only [Reg.VTILE.CH, Pg.vtile, Pg.core]
    omega

theorem Dev.vComplete_ended (d : Dev) (c v i : Nat) (r : Run) (res : VRes) : res.Ended c v i r (d.vComplete c v i r res) := by
  unfold Dev.vComplete
  extract_lets x u t1 b e rd at_ x1 d1 de pg d2
  have hd1 : res.Ended c v i r d1 := by
    obtain ⟨flt, hflt⟩ := (res.d.vtSet c v x1).slotsWritten_frame c v rd res.slots.length
    have htile : d1.vtGet c v = x1.endStep i := by
      simp only [d1, hflt, Dev.endRun_vtile]
      rw [Dev.vtGet_vtSet_same]
      exact congrArg (VTile.endStep · i) (Dev.vtGet_vtSet_same res.d c v x1)
    refine ⟨?_, ⟨_, _, _, _, htile⟩, fun F j _ => ?_⟩ <;> simp only [d1, hflt, Dev.endRun_vtile] <;> rfl
  have hd2 : res.Ended c v i r d2 := by
    unfold d2
    split
    · exact hd1.channel _ _
    · exact hd1
  split
  · exact hd2.count _ _ _ _
  · split
    · exact hd2.count _ _ _ _
    · exact hd2

end

/-! ### The cycle of the last takes (R36, R176) -/

theorem Dev.vTaken_of_alone {d : Dev} {c v op : Nat} {r : Run} (hruns : (d.vtGet c v).sq.runs = [r]) (hop : r.op = op)
    (htaken : r.taken = true) : d.vTaken c v op = some (0, r) := by
  simp [Dev.vTaken, hruns, hop, htaken]

theorem Dev.vTaken_of_idle {d : Dev} {c v op : Nat} (hruns : (d.vtGet c v).sq.runs = []) : d.vTaken c v op = none := by
  simp [Dev.vTaken, hruns]

/-- A step's results leave it in progress, with the slots as they are. -/
structure VRes.Pending (res : VRes) (c v : Nat) (d1 : Dev) : Prop where
  runs : (res.d.vtGet c v).sq.runs = (d1.vtGet c v).sq.runs
  slots : (res.d.vtGet c v).slots = (d1.vtGet c v).slots

theorem VRes.pending_of_tl {res : VRes} {d1 : Dev} (h : res.d.tl = d1.tl) (c v : Nat) : res.Pending c v d1 := by
  constructor <;> rw [Dev.vtGet_congr h]

/-- The end of the only step in progress. -/
theorem wrote_of_ended {res : VRes} {c v : Nat} {r : Run} {d1 e : Dev} (h : res.Ended c v 0 r e) (hpending : res.Pending c v d1)
    (hruns : (d1.vtGet c v).sq.runs = [r]) : Wrote d1 e c v r res.slots := by
  obtain ⟨begins, ends, at_, scratch, htile⟩ := h.tile
  obtain ⟨hkeep, hslots⟩ := hpending
  have hget (k : Nat) : Tab.get (e.vtGet c v).slots k Slot.zero = if vRD r.iw ≤ k ∧ k < vRD r.iw + res.slots.length
      then res.slots.getD (k - vRD r.iw) Slot.zero else Tab.get (res.d.vtGet c v).slots k Slot.zero := by
    rw [htile]
    exact get_putSlots k res.slots (res.d.vtGet c v).slots (vRD r.iw)
  refine ⟨fun i hi => ?_, fun k hk => ?_, ?_⟩
  · rw [hget, if_pos (by omega), Nat.add_sub_cancel_left]
  · rw [hget, if_neg (by omega), hslots]
  · rw [htile, VTile.endStep, VTile.written, hkeep, hruns]
    rfl

section
variable {d d1 : Dev} {c v dom op : Nat} {plan : Dev → Nat → Nat → Plan} {r : Run} (h : LastTakes d c v dom op plan d1 r)
include h

/-- What a command does before its step can end. -/
theorem Dev.vRunStep_of_last_takes (finish : Dev → Nat → Run → Option VRes) :
    d.vRunStep c v op plan finish = (d1.vFinish c v dom op finish).vFinish c v dom op finish := by
  obtain ⟨hdom, ⟨r0, hruns0, hop0⟩, htake, -⟩ := h
  simp only [Dev.vRunStep, hdom, hruns0, hop0, htake, List.length_singleton, List.range_one, Dev.each, List.foldl_cons, List.foldl_nil,
    List.getElem?_cons_zero, if_true]

theorem Dev.vRunStep_of_finish {finish : Dev → Nat → Run → Option VRes} {res : VRes} (hres : finish d1 dom r = some res)
    (hpending : res.Pending c v d1) : d.vRunStep c v op plan finish = d1.vComplete c v 0 r res := by
  have hrun := Dev.vRunStep_of_last_takes h finish
  obtain ⟨-, -, -, hruns, hop, htaken⟩ := h
  obtain ⟨-, -, hidle⟩ := wrote_of_ended (d1.vComplete_ended c v 0 r res) hpending hruns
  have hend : d1.vFinish c v dom op finish = d1.vComplete c v 0 r res := by
    simp only [Dev.vFinish, Dev.vTaken_of_alone hruns hop htaken, hres]
  rw [hrun, hend, Dev.vFinish, Dev.vTaken_of_idle hidle]

theorem Dev.vRunStep_of_unfinished {finish : Dev → Nat → Run → Option VRes} (hres : finish d1 dom r = none) :
    d.vRunStep c v op plan finish = d1 := by
  have hrun := Dev.vRunStep_of_last_takes h finish
  obtain ⟨-, -, -, hruns, hop, htaken⟩ := h
  have hstay : d1.vFinish c v dom op finish = d1 := by
    simp only [Dev.vFinish, Dev.vTaken_of_alone hruns hop htaken, hres]
  rw [hrun, hstay, hstay]

end

end Sys2Proof.Machine

namespace Sys2Proof

open Machine

theorem GivesDev.mono {i : Instr} {s : State} {P Q : Dev → Prop} (h : GivesDev i s P) (hPQ : ∀ d, P d → Q d) : GivesDev i s Q := by
  obtain ⟨d, hexec, hP⟩ := h
  exact ⟨d, hexec, hPQ d hP⟩

/-- The command of a step that takes its last items ends the step with its results. -/
theorem givesDev_of_last_takes {i : Instr} {s : State} {c v dom op : Nat} {plan : Dev → Nat → Nat → Plan} {d1 : Dev} {r : Run}
    {finish : Dev → Nat → Run → Option VRes} {res : VRes} (h : LastTakes s.dev c v dom op plan d1 r)
    (hexec : exec i s = .next { s with dev := s.dev.vRunStep c v op plan finish }) (hres : finish d1 dom r = some res)
    (hpending : res.Pending c v d1) : GivesDev i s (fun d => res.Ended c v 0 r d ∧ Wrote d1 d c v r res.slots) := by
  have hended := d1.vComplete_ended c v 0 r res
  rw [Dev.vRunStep_of_finish h hres hpending] at hexec
  obtain ⟨-, -, -, hruns, -, -⟩ := h
  exact ⟨_, hexec, hended, wrote_of_ended hended hpending hruns⟩

end Sys2Proof
end

section
/-!
PROOFS of 06_vector_tiles.md: what the arithmetic of a V tile leaves unchanged, and the results of its window and arithmetic steps (R179 to
R189, R198, R199).
-/

namespace Sys2Proof.Machine

/-! ### Faults, counts and memories that the results use (R169, R170, R179, R185, R199) -/

theorem Dev.ReadFrame.refl (d : Dev) : d.ReadFrame d := rfl

section
variable {d e : Dev} (h : d.ReadFrame e) (c v m : Nat)
include h

theorem Dev.ReadFrame.fault {f : Dev} (h' : e.FaultFrame f) : d.ReadFrame f := h.trans h'.readFrame

theorem Dev.ReadFrame.raise (base bit : Nat) (attr : Attr) : d.ReadFrame (e.raise base bit attr) := h.fault (Dev.raiseFull_frame _ _ _ _ _)

theorem Dev.ReadFrame.bump (base : Nat) (F : Fld) (n : Nat) : d.ReadFrame (e.bump base F n) := h.fault (e.wr_frame _ _ _ _)

theorem Dev.ReadFrame.count (base mask ev n : Nat) : d.ReadFrame (e.count base mask ev n) := h.trans (e.count_readFrame _ _ _ _)

theorem Dev.ReadFrame.imageUe (k : Option Nat) (page : Nat) : d.ReadFrame (e.imageUe k page) := h.fault rfl

theorem Dev.ReadFrame.vNv (nv : Bool) : d.ReadFrame (e.vNv c v m nv) := by
  unfold Dev.vNv
  split
  · exact h.raise _ _ _
  · exact h

theorem Dev.ReadFrame.vNan (n : Nat) : d.ReadFrame (e.vNan c v n) := by
  unfold Dev.vNan
  split
  · exact h
  · exact h.bump _ _ _

theorem Dev.ReadFrame.vSat (n : Nat) : d.ReadFrame (e.vSat c v n) := by
  unfold Dev.vSat
  dsimp only
  split
  · exact h
  · exact (h.bump _ _ _).raise _ _ _

end

theorem Dev.scrWords_readFrame (sc : Memory) : ∀ (n a : Nat) (d : Dev), d.ReadFrame (d.scrWords sc a n).2.2.2
  | 0, _, _ => rfl
  | n + 1, a, d => by
    unfold Dev.scrWords
    generalize hread : eccDecode d (Tab.get d.tl.serr (a / 8) 0) (leNat (Memory.readList sc a 8 0)) = read
    obtain ⟨o, x, d1⟩ := read
    exact (eccDecode_readFrame hread).trans (Dev.scrWords_readFrame sc n (a + 8) d1)

theorem Dev.scrRead_readFrame (d : Dev) (sc : Memory) (c v m k : Nat) : d.ReadFrame (d.scrRead sc c v m k).2.2 := by
  have hwords := d.scrWords_readFrame sc 4 (scrAddr c v k)
  unfold Dev.scrRead
  generalize d.scrWords sc (scrAddr c v k) 4 = words at hwords ⊢
  obtain ⟨x, ue, n, d1⟩ := words
  dsimp only at hwords ⊢
  split
  · exact ((hwords.bump _ _ _).raise _ _ _).imageUe _ _
  · exact hwords.bump _ _ _

theorem Dev.scrReads_readFrame (sc : Memory) (c v m : Nat) : ∀ (n k : Nat) (d : Dev), d.ReadFrame (d.scrReads sc c v m k n).2
  | 0, _, _ => rfl
  | n + 1, k, d => by
    have hread := d.scrRead_readFrame sc c v m k
    unfold Dev.scrReads
    generalize d.scrRead sc c v m k = read at hread ⊢
    exact hread.trans (Dev.scrReads_readFrame sc c v m n (k + 1) _)

theorem Dev.codeRead_readFrame (d : Dev) (c v m k : Nat) : d.ReadFrame (d.codeRead c v m k).2 := by
  unfold Dev.codeRead
  split
  · rfl
  · split <;> rename_i hread
    · exact eccDecode_readFrame hread
    · exact (eccDecode_readFrame hread).bump _ _ _
    · exact ((eccDecode_readFrame hread).raise _ _ _).imageUe _ _

theorem Dev.fTableRead_readFrame (d : Dev) (c v m t : Nat) (segs : List Nat) : d.ReadFrame (d.fTableRead c v m t segs).2 := by
  refine List.foldlRecOn (motive := fun acc : List Nat × Dev => d.ReadFrame acc.2) _ _ (Dev.ReadFrame.refl d) (fun acc hacc k _ => ?_)
  have hread := hacc.trans (acc.2.codeRead_readFrame c v m
    (Upset.ftab (((2 * c + v) * 2 + acc.2.bank (Bank.tile c (10 + v))) * 1024 + 128 * t + k)))
  dsimp only
  split
  · exact hread.raise _ _ _
  · exact hread

theorem Dev.funcEls_readFrame (t : FTab) (ifmt ofmt : Nat) : ∀ (l : List (Int × Bool × Bool)) (d : Dev),
    d.ReadFrame (d.funcEls t ifmt ofmt l).2
  | [], _ => rfl
  | (x, ph, po) :: rest, d => by
    unfold Dev.funcEls
    rcases t.apply ifmt ofmt x with _ | y | y
    · exact Dev.ReadFrame.trans (e := (d.free 16).2) rfl (Dev.funcEls_readFrame t ifmt ofmt rest _)
    · exact Dev.funcEls_readFrame t ifmt ofmt rest _
    · exact Dev.funcEls_readFrame t ifmt ofmt rest _

/-- A read of a rescale entry leaves the tiles and the queues as they are. -/
theorem Dev.vRs_keeps (d : Dev) (c v m : Nat) (de : VDesc) (iw k : Nat) :
    (d.vRs c v m de iw k).2.2.tl = d.tl ∧ (d.vRs c v m de iw k).2.2.qs = d.qs := by
  unfold Dev.vRs
  split
  · exact ⟨Dev.raise_tl _ _ _ _, Dev.raise_qs _ _ _ _⟩
  · obtain ⟨hread, -⟩ := Dev.rsEntry_readsFar (base := 0) (c := c) (b := de.rsTile)
      ⟨rfl, by decide, .inl (by simp only [Pg.btile, Pg.core]; omega)⟩ d m de.rsBase k
    dsimp only
    generalize d.rsEntry c de.rsTile m de.rsBase k = entry at hread ⊢
    obtain ⟨e, p, f, d1⟩ := entry
    have hcount : d.ReadFrame (if f then d1.count (Pg.btile c de.rsTile) 0xF 3 else d1) := by
      split
      · exact hread.count _ _ _ _
      · exact hread
    dsimp only
    generalize (if f then d1.count (Pg.btile c de.rsTile) 0xF 3 else d1) = d2 at hcount ⊢
    obtain ⟨x, hmem⟩ := d2.rsReads_frame c (10 + v) de.rsTile de.rsBase k 1 (vRD iw) (d.vSlots c v iw)
    rw [hmem]
    exact ⟨hcount.tl_eq, hcount.qs_eq⟩

/-! ### What the items of a step tell of its results (R170) -/

theorem depends_of_valid {l : List Item} (h : ∀ x ∈ l, x.valid = true) (ph : Bool) : depends ph l = (false, l.any (·.poison), false) := by
  have hinval : l.any (fun x => !x.valid) = false := List.any_eq_false.mpr (fun x hx => by simp [h x hx])
  simp [depends, hinval]

theorem depends_singleton {x : Item} (h : x.valid = true) (ph : Bool) : depends ph [x] = (false, x.poison, false) := by
  simp [depends, h]

theorem Run.fromSrc_subset (r : Run) (i : Nat) {x : Item} (hx : x ∈ r.fromSrc i) : x ∈ r.items := by
  unfold Run.fromSrc at hx
  cases hseg : r.segs[i]? with
  | none => simp [hseg] at hx
  | some g =>
    rw [hseg] at hx
    exact List.mem_flatMap.mpr ⟨g, List.mem_of_getElem? hseg, hx⟩

/-! ### DWC, POOL and FUNC (R179, R181, R185) -/

theorem Dev.dwcResult_keeps (d : Dev) (sc : Memory) (c v m : Nat) (r : Run) :
    (d.dwcResult sc c v m r).d.tl = d.tl ∧ (d.dwcResult sc c v m r).d.qs = d.qs := by
  have hread := d.scrReads_readFrame sc c v m (dwcSet (d.vDescOf c v r.iw)) (dwcBase (d.vDescOf c v r.iw) (d.vCh c v (vDesc r.iw)))
  unfold Dev.dwcResult
  dsimp only
  generalize d.scrReads sc c v m _ _ = read at hread ⊢
  have hrs := read.2.vRs_keeps c v m (d.vDescOf c v r.iw) r.iw (d.vCh c v (vDesc r.iw))
  generalize read.2.vRs c v m _ _ _ = entry at hrs ⊢
  obtain ⟨htl, hqs⟩ := hrs
  have hsum (nv : Bool) (n : Nat) := ((Dev.ReadFrame.refl entry.2.2).vNv c v m nv).vSat c v n
  exact ⟨(hsum _ _).tl_eq.trans (htl.trans hread.tl_eq), (hsum _ _).qs_eq.trans (hqs.trans hread.qs_eq)⟩

theorem Dev.poolResult_readFrame (d : Dev) (c v m : Nat) (r : Run) : d.ReadFrame (d.poolResult c v m r).d :=
  ((Dev.ReadFrame.refl d).vNv c v m _).vNan c v _

theorem Dev.funcResult_readFrame (d : Dev) (c v m : Nat) (r : Run) : d.ReadFrame (d.funcResult c v m r).d := by
  unfold Dev.funcResult
  extract_lets iw de t it nv qs
  have hread := ((Dev.ReadFrame.refl d).vNv c v m nv).trans ((d.vNv c v m nv).fTableRead_readFrame c v m (bitsOf iw 0 3) qs)
  generalize (d.vNv c v m nv).fTableRead c v m (bitsOf iw 0 3) qs = read at hread ⊢
  exact (hread.trans (Dev.funcEls_readFrame t de.ifmt de.ofmt _ read.2)).vNan c v _

/-- A step that only reads leaves the memories and the queues as they are. -/
theorem VRes.Ended.keeps_of_read {res : VRes} {c v : Nat} {r : Run} {d1 e : Dev} (h : res.Ended c v 0 r e) (hframe : d1.ReadFrame res.d) :
    e.mem = d1.mem ∧ e.qs = d1.qs := by
  unfold Dev.ReadFrame at hframe
  rw [h.frame, hframe]
  exact ⟨rfl, rfl⟩

/-! ### ARGM (R182) -/

theorem Dev.argmResult_of_valid {d : Dev} {c v nx : Nat} {r : Run} {de : VDesc} (m : Nat) (hde : de = d.vDescOf c v r.iw)
    (hnx : nx = bitsOf r.iw 21 4 + 1) (hlen : r.items.length = de.chn * nx) (hgood : ∀ x ∈ r.items, x.valid = true ∧ x.poison = false) :
    (d.argmResult c v m r).slots = packSlots 16 ((List.range nx).flatMap (fun f =>
      (List.range (perFlit de.ifmt)).map (fun j => (⟨argmaxOf de.ifmt ((List.range de.chn).map (fun ch =>
        codeAt de.ifmt (r.items.getD (ch * nx + f) Item.zero).data.toNat j)), false, false⟩ : El)))) := by
  have hat {ch f : Nat} (hch : ch < de.chn) (hf : f < nx) : r.items.getD (ch * nx + f) Item.zero ∈ r.items := by
    have hlt : ch * nx + f < r.items.length := by
      have := Nat.mul_le_mul_right nx (Nat.succ_le_of_lt hch)
      rw [Nat.succ_mul] at this
      omega
    rw [List.getD_eq_getElem _ _ hlt]
    exact List.getElem_mem hlt
  have hnv : (depends (vPH r.iw) r.items).2.2 = false := by rw [depends_of_valid (fun x hx => (hgood x hx).1)]
  unfold Dev.argmResult
  dsimp only
  rw [← hde, ← hnx, hnv]
  refine congrArg (packSlots 16) (List.flatMap_congr (fun f hf => ?_))
  have hcolumn : ∀ x ∈ (List.range de.chn).map (fun ch => r.items.getD (ch * nx + f) Item.zero), x.valid = true ∧ x.poison = false := by
    intro x hx
    obtain ⟨ch, hch, rfl⟩ := List.mem_map.mp hx
    exact hgood _ (hat (List.mem_range.mp hch) (List.mem_range.mp hf))
  have hpoison : ((List.range de.chn).map (fun ch => r.items.getD (ch * nx + f) Item.zero)).any (·.poison) = false :=
    List.any_eq_false.mpr (fun x hx => by rw [(hcolumn x hx).2]; exact Bool.false_ne_true)
  rw [depends_of_valid (fun x hx => (hcolumn x hx).1), hpoison]
  refine List.map_congr_left (fun j _ => ?_)
  rw [List.map_map]
  refine congrArg (fun l => (⟨argmaxOf de.ifmt l, false, false⟩ : El)) (List.map_congr_left (fun ch hch => ?_))
  rw [Function.comp_apply, (hgood _ (hat (List.mem_range.mp hch) (List.mem_range.mp hf))).1, if_pos rfl]

/-! ### ELT (R183) -/

theorem zipWith_replicate {α β γ : Type} (f : α → β → γ) (b : β) : ∀ l : List α, List.zipWith f l (List.replicate l.length b) = l.map (f · b)
  | [] => rfl
  | a :: l => by rw [List.length_cons, List.replicate_succ, List.zipWith_cons_cons, zipWith_replicate f b l, List.map_cons]

theorem flatMap_range_getD {α β : Type} (f : α → List β) (z : α) (l : List α) :
    (List.range l.length).flatMap (fun k => f (l.getD k z)) = l.flatMap f := by
  have hmap : (List.range l.length).map (fun k => l.getD k z) = l := List.ext_getElem (by simp) (fun i _ hi => by simp [hi])
  conv_rhs => rw [← hmap, List.flatMap_map]

theorem length_operands (fmt : Nat) (zp : Int) (x : Item) : (operands fmt zp x).length = perFlit fmt := by
  simp [operands]

/-- ELT of SUB 7 compares with its immediate: no rescale table is read and no sum can saturate. -/
theorem Dev.eltResult_of_compare {d : Dev} {c v : Nat} {r : Run} {de : VDesc} (sc : Memory) (m : Nat) (hde : de = d.vDescOf c v r.iw)
    (himm : bitsOf r.iw 29 2 = 3) (hsub : vSUB r.iw = 7) (hint : de.ifmt ≠ 2) (hlen : (r.fromSrc 0).length = vNF r.iw)
    (hvalid : ∀ x ∈ r.fromSrc 0, x.valid = true) :
    d.ReadFrame (d.eltResult sc c v m r).d ∧
    (d.eltResult sc c v m r).slots = packSlots (perFlit de.ofmt) ((r.fromSrc 0).flatMap (fun x =>
      (operands de.ifmt de.izp x).map (fun a =>
        (⟨patI de.ofmt (if sextN (bitsOf r.iw 0 16) 16 < a then 1 else 0), false, x.poison⟩ : El)))) := by
  have hnv : (depends (vPH r.iw) (r.fromSrc 0 ++ [])).2.2 = false := by rw [List.append_nil, depends_of_valid hvalid]
  unfold Dev.eltResult
  dsimp only
  simp only [himm, hsub, ← hde, hint, ne_eq, not_true_eq_false, and_false, decide_false, Bool.false_eq_true, ↓reduceIte, Nat.succ_ne_self,
    OfNat.ofNat_ne_one, OfNat.ofNat_ne_zero, or_self, hnv, Bool.or_false]
  refine ⟨(((Dev.ReadFrame.refl d).vNv c v m false).vNan c v _).vSat c v _, congrArg (packSlots _) ?_⟩
  rw [List.map_flatMap, ← flatMap_range_getD _ Item.zero (r.fromSrc 0), hlen]
  refine List.flatMap_congr (fun k hk => ?_)
  have hk : k < (r.fromSrc 0).length := hlen ▸ List.mem_range.mp hk
  have hx : ((r.fromSrc 0).getD k Item.zero).valid = true := by
    rw [List.getD_eq_getElem _ _ hk]
    exact hvalid _ (List.getElem_mem hk)
  rw [depends_singleton hx, ← length_operands de.ifmt de.izp ((r.fromSrc 0).getD k Item.zero), zipWith_replicate, List.map_map, List.map_map]
  rfl

/-! ### RED and CVT (R184, R198) -/

/-- RED over all values of integer items: one sum, and no rescale table. -/
theorem Dev.redResult_of_integers {d : Dev} {c v : Nat} {r : Run} {de : VDesc} (m : Nat) (hde : de = d.vDescOf c v r.iw)
    (haxis : bitAt r.iw 23 = false) (hint : de.ifmt ≠ 2) (hvalid : ∀ x ∈ r.items, x.valid = true) :
    d.ReadFrame (d.redResult c v m r).d ∧ (d.redResult c v m r).slots =
      [⟨twos (sat32 (redInt (vSUB r.iw) (r.items.flatMap (operands de.ifmt de.izp)))) 32, true, r.items.any (·.poison)⟩] := by
  unfold Dev.redResult
  simp only [haxis, ← hde, hint, depends_of_valid hvalid, Bool.not_false, if_true, if_false]
  exact ⟨((Dev.ReadFrame.refl d).vNv c v m false).vSat c v _, trivial⟩

theorem Dev.cvtResult_of_copy {d : Dev} {c v : Nat} {r : Run} {de : VDesc} (m : Nat) (hde : de = d.vDescOf c v r.iw)
    (hsub : vSUB r.iw = 3) (hvalid : ∀ x ∈ r.items, x.valid = true) :
    d.ReadFrame (d.cvtResult c v m r).d ∧ (d.cvtResult c v m r).slots = packSlots (perFlit de.ofmt) (r.items.flatMap (fun x =>
      (floats x).map (fun y => (⟨y.encode .b16, false, x.poison⟩ : El)))) := by
  unfold Dev.cvtResult
  simp only [hsub, ← hde, depends_of_valid hvalid, OfNat.ofNat_ne_zero, if_false, Bool.or_false]
  refine ⟨((Dev.ReadFrame.refl d).vNv c v m false).vNan c v _, congrArg (packSlots _) ?_⟩
  rw [List.map_flatMap]
  refine List.flatMap_congr (fun x hx => ?_)
  rw [List.map_map, depends_singleton (hvalid x hx)]
  rfl

/-! ### SMX and LNA (R188, R189) -/

/-- A table without an error in it is read without a word. -/
theorem Dev.fTableRead_of_clean {d : Dev} (hclean : d.flt.upset = []) (c v m t : Nat) (segs : List Nat) : d.fTableRead c v m t segs = ([], d) := by
  have hcell (k : Nat) : d.codeRead c v m k = (false, d) := by simp [Dev.codeRead, Dev.upsetAt, hclean]
  refine List.foldlRecOn (motive := fun acc : List Nat × Dev => acc = ([], d)) _ _ rfl ?_
  rintro _ rfl k -
  simp only [hcell, Bool.false_eq_true, if_false]

theorem Dev.normResult_of_valid {d : Dev} {c v : Nat} {r : Run} (m : Nat) {smx : Bool} (hclean : smx = true → d.flt.upset = [])
    (hvalid : ∀ x ∈ r.items, x.valid = true) :
    d.ReadFrame (d.normResult c v m r smx).d ∧ (d.normResult c v m r smx).slots = packSlots 16
      ((if smx then softmax (d.fTable c v (bitsOf r.iw 0 3)) (r.items.flatMap floats)
        else layerNorm (FV.decode .b32 (bitsOf (d.vDescOf c v r.iw).w1 0 32)) (r.items.flatMap floats)).map
      (fun y => (⟨y.encode .b16, false, r.items.any (·.poison)⟩ : El))) := by
  have hread (segs : List Nat) : (if smx then d.fTableRead c v m (bitsOf r.iw 0 3) segs else ([], d)) = ([], d) := by
    split
    next hsmx => exact Dev.fTableRead_of_clean (hclean hsmx) _ _ _ _ _
    next => rfl
  unfold Dev.normResult
  simp only [depends_of_valid hvalid, hread, List.isEmpty_nil, Bool.not_true, Bool.or_false]
  exact ⟨((Dev.ReadFrame.refl d).vNv c v m false).vNan c v _, trivial⟩

end Sys2Proof.Machine

namespace Sys2Proof

open Machine

/-! ### The clauses of O40 -/

/-- A step whose results follow from its items and the device, and leave the tiles as they are. -/
theorem givesDev_of_results {i : Instr} {s : State} {c v dom op : Nat} {plan : Dev → Nat → Nat → Plan} {d1 : Dev} {r : Run}
    {results : Dev → Nat → Run → VRes} (h : LastTakes s.dev c v dom op plan d1 r)
    (hexec : exec i s = .next { s with dev := s.dev.vRunStep c v op plan (fun d m r => some (results d m r)) })
    (htl : (results d1 dom r).d.tl = d1.tl) :
    GivesDev i s (fun d => (results d1 dom r).Ended c v 0 r d ∧ Wrote d1 d c v r (results d1 dom r).slots) :=
  givesDev_of_last_takes h hexec rfl (VRes.pending_of_tl htl c v)

theorem givesDev_of_read {i : Instr} {s : State} {c v dom op : Nat} {plan : Dev → Nat → Nat → Plan} {d1 : Dev} {r : Run}
    {results : Dev → Nat → Run → VRes} {l : List Slot} (h : LastTakes s.dev c v dom op plan d1 r)
    (hexec : exec i s = .next { s with dev := s.dev.vRunStep c v op plan (fun d m r => some (results d m r)) })
    (hresults : d1.ReadFrame (results d1 dom r).d ∧ (results d1 dom r).slots = l) : GivesDev i s (fun d => Wrote d1 d c v r l) := by
  obtain ⟨hframe, rfl⟩ := hresults
  exact (givesDev_of_results h hexec hframe.tl_eq).mono (fun _ hd => hd.2)

/-- Settles O40, clause by clause. -/
theorem vectorTileComputes : Obligations.VectorTileComputes := by
  unfold Obligations.VectorTileComputes
  refine ⟨?dwc, ?pool, ?func, ?argm, ?elt, ?red, ?cvt, ?smx, ?lna⟩
  case dwc =>
    intro c v s dom d1 r h
    obtain ⟨htl, hqs⟩ := d1.dwcResult_keeps s.scr c v dom r
    refine (givesDev_of_results (i := .dwc c v) h rfl htl).mono (fun d hd => ⟨hd.2, ?_⟩)
    rw [hd.1.frame]
    exact hqs
  case pool =>
    intro c v s dom d1 r h
    have hframe := d1.poolResult_readFrame c v dom r
    exact (givesDev_of_results (i := .pool c v) h rfl hframe.tl_eq).mono (fun d hd => ⟨hd.2, hd.1.keeps_of_read hframe⟩)
  case func =>
    intro c v s dom d1 r h
    have hframe := d1.funcResult_readFrame c v dom r
    exact (givesDev_of_results (i := .func c v) h rfl hframe.tl_eq).mono (fun d hd => ⟨hd.2, hd.1.keeps_of_read hframe⟩)
  case argm =>
    intro c v s dom nx d1 r de h hde hnx hlen hgood
    exact givesDev_of_read h rfl ⟨(Dev.ReadFrame.refl d1).vNv _ _ _ _, Dev.argmResult_of_valid dom hde hnx hlen hgood⟩
  case elt =>
    intro c v s dom d1 r de h hde himm hsub hint hlen hvalid
    exact givesDev_of_read h rfl (Dev.eltResult_of_compare s.scr dom hde himm hsub hint hlen hvalid)
  case red =>
    intro c v s dom d1 r de h hde haxis hint hvalid
    exact givesDev_of_read h rfl (Dev.redResult_of_integers dom hde haxis hint hvalid)
  case cvt =>
    intro c v s dom d1 r de h hde hsub hvalid
    exact givesDev_of_read h rfl (Dev.cvtResult_of_copy dom hde hsub hvalid)
  case smx =>
    intro c v s dom d1 r h hclean hvalid
    exact givesDev_of_read h rfl (Dev.normResult_of_valid dom (fun _ => hclean) hvalid)
  case lna =>
    intro c v s dom d1 r h hvalid
    exact givesDev_of_read h rfl (Dev.normResult_of_valid dom (fun h => absurd h Bool.false_ne_true) hvalid)

end Sys2Proof
end

section
/-!
PROOFS of 06_vector_tiles.md: the box, top-K and steering steps of a V tile and its classical image stages (R190 to R197).
-/

namespace Sys2Proof.Machine

/-! ### The tile's own state beside its slots -/

theorem VRes.Ended.own {res : VRes} {c v : Nat} {r : Run} {e : Dev} (h : res.Ended c v 0 r e) :
    (e.vtGet c v).boxes = (res.d.vtGet c v).boxes ∧ (e.vtGet c v).boxK = (res.d.vtGet c v).boxK ∧
      (e.vtGet c v).topk = (res.d.vtGet c v).topk ∧ (e.vtGet c v).idx = (res.d.vtGet c v).idx := by
  obtain ⟨begins, ends, at_, scratch, htile⟩ := h.tile
  rw [htile]
  exact ⟨rfl, rfl, rfl, rfl⟩

/-- The tile holds `x` and its step is still in progress. -/
theorem VRes.pending_of_vtGet {res : VRes} {c v : Nat} {d1 : Dev} {x : VTile} (htile : res.d.vtGet c v = x)
    (hsq : x.sq = (d1.vtGet c v).sq) (hslots : x.slots = (d1.vtGet c v).slots) : res.Pending c v d1 :=
  ⟨by rw [htile, hsq], by rw [htile, hslots]⟩

theorem Dev.vNv_tl (d : Dev) (c v m : Nat) (nv : Bool) : (d.vNv c v m nv).tl = d.tl := ((Dev.ReadFrame.refl d).vNv c v m nv).tl_eq

/-! ### CREQ and CSMP (R190, R191) -/

/-- The tile's state as it was put in place, whatever is counted and raised after that. -/
theorem Dev.vtGet_boxed (d : Dev) (c v m : Nat) (x : VTile) (n : Nat) (nv clamp : Bool) :
    (if clamp then (((d.vtSet c v x).wr (Pg.vtile c v) Reg.VTILE.BOXQ n).vNv c v m nv).raise (Pg.vtile c v) 8 .none_
      else ((d.vtSet c v x).wr (Pg.vtile c v) Reg.VTILE.BOXQ n).vNv c v m nv).vtGet c v = x := by
  have htl : (((d.vtSet c v x).wr (Pg.vtile c v) Reg.VTILE.BOXQ n).vNv c v m nv).tl = (d.vtSet c v x).tl := Dev.vNv_tl _ _ _ _ _
  split
  · rw [Dev.vtGet_congr (Dev.raise_tl _ _ _ _), Dev.vtGet_congr htl, Dev.vtGet_vtSet_same]
  · rw [Dev.vtGet_congr htl, Dev.vtGet_vtSet_same]

/-- CREQ while the box FIFO has room. -/
theorem Dev.creqResult_of_room {d : Dev} {c v : Nat} (hroom : (d.vtGet c v).boxes.length < 64) (m : Nat) (r : Run) :
    ∃ res : VRes, d.creqResult c v m r = some res ∧ ∃ box : Box, res.d.vtGet c v =
      if bitAt r.iw 30 then { d.vtGet c v with box := box, boxes := (d.vtGet c v).boxes ++ [box] } else d.vtGet c v := by
  have hfull : ¬ (bitAt r.iw 30 = true ∧ 64 ≤ (d.vtGet c v).boxes.length) := by omega
  unfold Dev.creqResult
  dsimp only
  rw [if_neg hfull]
  refine ⟨_, rfl, ?_⟩
  rw [Dev.vtGet_congr (Dev.count_tl _ _ _ _ _), Dev.vtGet_boxed]
  exact ⟨_, rfl⟩

theorem Dev.csmpResult_of_box {d : Dev} {c v : Nat} {b : Box} {rest : List Box} (hboxes : (d.vtGet c v).boxes = b :: rest) (m : Nat)
    (r : Run) : ∃ res : VRes, d.csmpResult c v m r = some res ∧ res.d.vtGet c v =
      if bitAt r.iw 30 then { d.vtGet c v with boxes := rest, boxK := 0 } else { d.vtGet c v with boxK := (d.vtGet c v).boxK + 1 } := by
  unfold Dev.csmpResult
  simp only [hboxes]
  refine ⟨_, rfl, ?_⟩
  rw [Dev.vtGet_congr (Dev.vNv_tl _ _ _ _ _), Dev.vtGet_congr (Dev.wr_tl _ _ _ _ _), Dev.vtGet_vtSet_same]

/-! ### TOPK (R192) -/

theorem Dev.topkResult_of_size {d : Dev} {c v : Nat} {r : Run} (m : Nat) (hmode : bitsOf r.iw 29 2 = 1) :
    d.topkResult c v m r = ⟨d, [⟨(d.vtGet c v).topk.length, true, (d.vtGet c v).tkPoison⟩], 1, d.vLat m 12⟩ := by
  simp only [Dev.topkResult, hmode]

theorem Dev.topkResult_of_clear {d : Dev} {c v : Nat} {r : Run} (m : Nat) (hmode : bitsOf r.iw 29 2 = 3) :
    d.topkResult c v m r = ⟨(d.vtSet c v { d.vtGet c v with topk := [], idx := 0, tkPoison := false }).wr (Pg.vtile c v)
      Reg.VTILE.TOPK_N 0, [], 1, d.vLat m 12⟩ := by
  simp only [Dev.topkResult, hmode]

/-! ### SEL and TOK (R193, R194) -/

/-- SEL with a good token and streams in step with it. -/
theorem Dev.selResult_of_token {d : Dev} {c v : Nat} {r : Run} {tok : Item} (m : Nat) (htok : r.fromSrc 0 = [tok]) (hvalid : tok.valid = true)
    (hkind : tokKind tok.data.toNat = 0)
    (hstep : ∀ x ∈ r.fromSrc 1 ++ r.fromSrc 2, x.valid = true ∧ x.seq.toNat = bitsOf tok.data.toNat 12 2) :
    d.ReadFrame (d.selResult c v m r).d ∧ (d.selResult c v m r).slots =
      (if bitAt tok.data.toNat 0 then r.fromSrc 2 else r.fromSrc 1).map
        (fun x => (⟨x.data.toNat, true, x.poison || tok.poison⟩ : Slot)) := by
  have hseq : (r.fromSrc 1 ++ r.fromSrc 2).any (fun f => f.seq.toNat != bitsOf tok.data.toNat 12 2) = false :=
    List.any_eq_false.mpr (fun x hx => by simp [(hstep x hx).2])
  unfold Dev.selResult
  simp only [htok, List.getD_cons_zero, hvalid, hkind, hseq, depends_of_valid (fun x hx => (hstep x hx).1), Bool.not_true, Bool.or_false,
    Bool.false_eq_true, OfNat.zero_ne_ofNat, ne_eq, not_true_eq_false, if_false]
  refine ⟨((Dev.ReadFrame.refl d).vNv c v m false).count _ _ _ _, List.map_congr_left (fun x hx => ?_)⟩
  have hx : x.valid = true := by
    refine (hstep x ?_).1
    split at hx
    · exact List.mem_append_right _ hx
    · exact List.mem_append_left _ hx
  simp only [depends_singleton hx, hx, if_true, Bool.not_false]

/-- TOK of a word of SI, against an integer threshold. -/
theorem Dev.tokResult_of_word {d : Dev} {c v : Nat} {r : Run} {x : Item} {w1 : Nat} (m : Nat) (hw1 : w1 = (d.vDescOf c v r.iw).w1)
    (hport : vSA r.iw / 8 = 2) (hint : bitAt w1 32 = false) (hbit : bitAt w1 33 = false) (hitem : r.items = [x]) (hvalid : x.valid = true) :
    d.ReadFrame (d.tokResult c v m r).d ∧ (d.tokResult c v m r).slots =
      [⟨if sextN (bitsOf w1 0 32) 32 < sextN (bitsOf x.data.toNat 0 32) 32 then 1 else 0, true, x.poison⟩] := by
  unfold Dev.tokResult
  simp only [hitem, List.getD_cons_zero, hport, ← hw1, hint, hbit, hvalid, depends_singleton hvalid, Nat.reduceEqDiff, Bool.false_eq_true, if_true,
    if_false, decide_eq_true_eq, Bool.not_false]
  exact ⟨(Dev.ReadFrame.refl d).vNv c v m false, trivial⟩

/-! ### CCV, BGM and TRK (R195 to R197) -/

theorem Dev.ccvResult_readFrame (d : Dev) (sc : Memory) (c v m : Nat) (r : Run) : d.ReadFrame (d.ccvResult sc c v m r).d := by
  have hread := d.scrRead_readFrame sc c v m (bitsOf (d.vDescOf c v r.iw).w1 0 11)
  unfold Dev.ccvResult
  extract_lets iw de m422 sg
  generalize d.scrRead sc c v m (bitsOf de.w1 0 11) = read at hread ⊢
  exact hread.vNv c v m _

theorem Dev.bgmResult_readFrame (d : Dev) (c v m : Nat) (r : Run) : d.ReadFrame (d.bgmResult c v m r).d :=
  (Dev.ReadFrame.refl d).vNv c v m _

theorem Dev.trkResult_of_valid {d : Dev} {c v : Nat} {r : Run} (m : Nat) (hvalid : ∀ x ∈ r.items, x.valid = true) :
    d.ReadFrame (d.trkResult c v m r).d ∧ (d.trkResult c v m r).slots = List.zipWith (fun a b =>
      (⟨trackStep (d.vDescOf c v r.iw).w1 a.data.toNat b.data.toNat, true, a.poison || b.poison⟩ : Slot)) (r.fromSrc 0) (r.fromSrc 1) := by
  unfold Dev.trkResult
  simp only [depends_of_valid hvalid]
  refine ⟨(Dev.ReadFrame.refl d).vNv c v m false, ?_⟩
  rw [← List.map_uncurry_zip_eq_zipWith, ← List.map_uncurry_zip_eq_zipWith]
  refine List.map_congr_left (fun ⟨a, b⟩ hab => ?_)
  obtain ⟨ha, hb⟩ := List.of_mem_zip hab
  have ha : a.valid = true := hvalid a (r.fromSrc_subset 0 ha)
  have hb : b.valid = true := hvalid b (r.fromSrc_subset 1 hb)
  have hflags : depends (vPH r.iw) [a, b] = (false, a.poison || b.poison, false) := by simp [depends, ha, hb]
  simp only [Function.uncurry_apply_pair, ha, hb, hflags, if_true, Bool.not_false, Bool.or_false]

end Sys2Proof.Machine

namespace Sys2Proof

open Machine

/-! ### The clauses of O41 -/

theorem creq_requests (c : Fin 32) (v : Fin 2) (s : State) (dom : Nat) (d1 : Dev) (r : Run)
    (h : LastTakes s.dev c v dom 0x0A (planCreq c v) d1 r) (hroom : (d1.vtGet c v).boxes.length < 64) :
    GivesDev (.creq c v) s (fun d => ∃ res, d1.creqResult c v dom r = some res ∧ Wrote d1 d c v r res.slots ∧
      (d.vtGet c v).boxes.length = (d1.vtGet c v).boxes.length + (if bitAt r.iw 30 then 1 else 0)) := by
  obtain ⟨res, hres, box, htile⟩ := Dev.creqResult_of_room hroom dom r
  have hpending : res.Pending c v d1 := VRes.pending_of_vtGet htile (by split <;> rfl) (by split <;> rfl)
  refine (givesDev_of_last_takes (i := .creq c v) h rfl hres hpending).mono (fun d hd => ⟨res, hres, hd.2, ?_⟩)
  rw [hd.1.own.1, htile]
  split
  · exact List.length_append
  · rfl

theorem csmp_samples (c : Fin 32) (v : Fin 2) (s : State) (dom : Nat) (d1 : Dev) (r : Run) (b : Box) (rest : List Box)
    (h : LastTakes s.dev c v dom 0x0B (planCsmp c v) d1 r) (hboxes : (d1.vtGet c v).boxes = b :: rest) :
    GivesDev (.csmp c v) s (fun d => ∃ res, d1.csmpResult c v dom r = some res ∧ Wrote d1 d c v r res.slots ∧
      (d.vtGet c v).boxes = (if bitAt r.iw 30 then rest else b :: rest) ∧
      (d.vtGet c v).boxK = (if bitAt r.iw 30 then 0 else (d1.vtGet c v).boxK + 1)) := by
  obtain ⟨res, hres, htile⟩ := Dev.csmpResult_of_box hboxes dom r
  have hpending : res.Pending c v d1 := VRes.pending_of_vtGet htile (by split <;> rfl) (by split <;> rfl)
  refine (givesDev_of_last_takes (i := .csmp c v) h rfl hres hpending).mono (fun d hd => ⟨res, hres, hd.2, ?_⟩)
  obtain ⟨hown, hrow, -⟩ := hd.1.own
  rw [hown, hrow, htile]
  split
  · exact ⟨rfl, rfl⟩
  · exact ⟨hboxes, rfl⟩

theorem topk_sizes (c : Fin 32) (v : Fin 2) (s : State) (dom : Nat) (d1 : Dev) (r : Run)
    (h : LastTakes s.dev c v dom 0x0C (planTopk c v) d1 r) (hmode : bitsOf r.iw 29 2 = 1) :
    GivesDev (.topk c v) s (fun d => Wrote d1 d c v r [⟨(d1.vtGet c v).topk.length, true, (d1.vtGet c v).tkPoison⟩] ∧
      (d.vtGet c v).topk = (d1.vtGet c v).topk) := by
  have hres := congrArg some (Dev.topkResult_of_size (d := d1) (c := c) (v := v) dom hmode)
  exact (givesDev_of_last_takes (i := .topk c v) h rfl hres (VRes.pending_of_tl rfl c v)).mono (fun d hd => ⟨hd.2, hd.1.own.2.2.1⟩)

theorem topk_clears (c : Fin 32) (v : Fin 2) (s : State) (dom : Nat) (d1 : Dev) (r : Run)
    (h : LastTakes s.dev c v dom 0x0C (planTopk c v) d1 r) (hmode : bitsOf r.iw 29 2 = 3) :
    GivesDev (.topk c v) s (fun d => Wrote d1 d c v r [] ∧ (d.vtGet c v).topk = [] ∧ (d.vtGet c v).idx = 0 ∧
      d.rd (Pg.vtile c v) Reg.VTILE.TOPK_N = 0) := by
  have hres := congrArg some (Dev.topkResult_of_clear (d := d1) (c := c) (v := v) dom hmode)
  have htile : ((d1.vtSet c v { d1.vtGet c v with topk := [], idx := 0, tkPoison := false }).wr (Pg.vtile c v)
      Reg.VTILE.TOPK_N 0).vtGet c v = { d1.vtGet c v with topk := [], idx := 0, tkPoison := false } := d1.vtGet_vtSet_same c v _
  refine (givesDev_of_last_takes (i := .topk c v) h rfl hres (VRes.pending_of_vtGet htile rfl rfl)).mono (fun d hd => ⟨hd.2, ?_⟩)
  obtain ⟨-, -, htopk, hidx⟩ := hd.1.own
  rw [htopk, hidx, htile, hd.1.low _ _ (by decide), Dev.rd_wr_same _ _ _ _ _ (by decide)]
  exact ⟨rfl, rfl, Nat.zero_mod _⟩

/-- Settles O41, clause by clause. -/
theorem vectorTileSelects : Obligations.VectorTileSelects := by
  unfold Obligations.VectorTileSelects
  refine ⟨creq_requests, csmp_samples, fun c v s dom d1 r h => ⟨topk_sizes c v s dom d1 r h, topk_clears c v s dom d1 r h⟩, ?sel, ?tok,
    ?ccv, ?bgm, ?trk⟩
  case sel =>
    intro c v s dom d1 r tok h htok hvalid hkind hstep
    exact givesDev_of_read h rfl (Dev.selResult_of_token dom htok hvalid hkind hstep)
  case tok =>
    intro c v s dom d1 r x w1 h hw1 hport hint hbit hitem hvalid
    exact givesDev_of_read h rfl (Dev.tokResult_of_word dom hw1 hport hint hbit hitem hvalid)
  case ccv =>
    intro c v s dom d1 r h
    exact givesDev_of_read h rfl ⟨d1.ccvResult_readFrame s.scr c v dom r, rfl⟩
  case bgm =>
    intro c v s dom d1 r h
    exact givesDev_of_read h rfl ⟨d1.bgmResult_readFrame c v dom r, rfl⟩
  case trk =>
    intro c v s dom d1 r h hvalid _
    exact givesDev_of_read h rfl (Dev.trkResult_of_valid dom hvalid)

end Sys2Proof
end

section
/-!
PROOFS of 06_vector_tiles.md: SST and SLD of a V tile (R198).
-/

namespace Sys2Proof.Machine

/-! ### Flits in the scratch -/

/-- Flits stored one behind the other from address `a` on, a placeholder as zeros. -/
def storeFlits (m : Memory) (a : Nat) (l : List Item) : Memory :=
  l.zipIdx.foldl (fun m x => Memory.writeList m (a + 32 * x.2) (leBytes 32 (if x.1.valid then x.1.data.toNat else 0)) 0) m

theorem storeFlits_cons (m : Memory) (a : Nat) (x : Item) (l : List Item) : storeFlits m a (x :: l) =
    storeFlits (Memory.writeList m a (leBytes 32 (if x.valid then x.data.toNat else 0)) 0) (a + 32) l := by
  simp only [storeFlits, List.zipIdx_cons', List.foldl_cons, List.foldl_map, Prod.map_fst, Prod.map_snd, id_eq, Nat.mul_zero, Nat.add_zero,
    Nat.mul_add, Nat.mul_one, Nat.add_assoc, Nat.add_comm 32]

theorem read_storeFlits_other {k : Nat} : ∀ {l : List Item} {m : Memory} {a : Nat}, (k < a ∨ a + 32 * l.length ≤ k) →
    Memory.read (storeFlits m a l) k 0 = Memory.read m k 0
  | [], _, _, _ => rfl
  | x :: l, m, a, h => by
    rw [List.length_cons] at h
    rw [storeFlits_cons, read_storeFlits_other (by omega), Memory.read_writeList_other (by rw [length_leBytes]; omega)]

theorem read_storeFlits {i k : Nat} (hk : k < 32) : ∀ {l : List Item} {m : Memory} {a : Nat}, (∀ x ∈ l, x.valid = true) → i < l.length →
    Memory.read (storeFlits m a l) (a + 32 * i + k) 0 = (leBytes 32 (l.getD i Item.zero).data.toNat).getD k 0 := by
  induction i with
  | zero =>
    rintro (_ | ⟨x, l⟩) m a hvalid hi
    · exact absurd hi (Nat.not_lt_zero 0)
    · have hlen : k < (leBytes 32 x.data.toNat).length := by rwa [length_leBytes]
      rw [storeFlits_cons, read_storeFlits_other (by omega), hvalid x List.mem_cons_self, if_pos rfl, Nat.mul_zero, Nat.add_zero,
        Memory.read_writeList_same hlen, List.getD_cons_zero, List.getD_eq_getElem _ _ hlen]
  | succ i ih =>
    rintro (_ | ⟨x, l⟩) m a hvalid hi
    · exact absurd hi (Nat.not_lt_zero _)
    · rw [storeFlits_cons, List.getD_cons_succ, show a + 32 * (i + 1) + k = a + 32 + 32 * i + k by omega]
      exact ih (fun y hy => hvalid y (List.mem_cons_of_mem x hy)) (Nat.lt_of_succ_lt_succ hi)

theorem scrAddr_add (c v e i : Nat) : scrAddr c v (e + i) = scrAddr c v e + 32 * i := by
  unfold scrAddr
  omega

/-! ### SST (R198) -/

theorem Dev.sstStore_stores (d : Dev) (sc : Memory) (c v m : Nat) (r : Run) :
    (d.sstStore sc c v m r).1 = storeFlits sc (scrAddr c v (bitsOf r.iw 13 11)) r.items := by
  unfold Dev.sstStore
  dsimp only
  rw [storeFlits, ← List.foldl_hom Prod.fst (g₂ := fun m x => Memory.writeList m (scrAddr c v (bitsOf r.iw 13 11) + 32 * x.2)
    (leBytes 32 (if x.1.valid then x.1.data.toNat else 0)) 0) (fun acc x => by rw [scrAddr_add])]

theorem Dev.sstStore_vtGet (d : Dev) (sc : Memory) (c v m : Nat) (r : Run) : (d.sstStore sc c v m r).2.vtGet c v = d.vtGet c v := by
  have harm : (d.armedFor 3 (Pg.vtile c v / 4096)).2.tl = d.tl := (d.armedFor_frame _ _).readFrame.tl_eq
  refine List.foldlRecOn (motive := fun acc : Memory × Dev => acc.2.vtGet c v = d.vtGet c v) _ _ ?_ (fun acc hacc x _ => hacc)
  exact Dev.vtGet_congr ((Dev.vNv_tl _ _ _ _ _).trans harm) c v

/-- The entries that a step just issued will write are marked. -/
def Dev.sstMarked (d d1 : Dev) (c v m : Nat) : Dev :=
  if (d.vtGet c v).sq.runs.length < (d1.vtGet c v).sq.runs.length then
    match (d1.vtGet c v).sq.runs.getLast? with
    | some r => d1.vtSet c v { d1.vtGet c v with
        scrW := (d1.vtGet c v).scrW.filter (fun w => decide (d.dcyc m ≤ w.2.2)) ++ [(bitsOf r.iw 13 11, vNF r.iw, laterMark)] }
    | none => d1
  else d1

theorem Dev.sstMarked_runs (d d1 : Dev) (c v m : Nat) : ((d.sstMarked d1 c v m).vtGet c v).sq.runs = (d1.vtGet c v).sq.runs := by
  unfold Dev.sstMarked
  split
  · split
    · rw [Dev.vtGet_vtSet_same]
    · rfl
  · rfl

theorem Dev.sst_of_last_takes {d d1 : Dev} {c v dom : Nat} {r : Run} (h : LastTakes d c v dom 0x13 (planSst c v) d1 r) (sc : Memory) :
    d.sst sc c v = (((d.sstMarked d1 c v dom).sstStore sc c v dom r).1,
      ((d.sstMarked d1 c v dom).sstStore sc c v dom r).2.vComplete c v 0 r
        ⟨((d.sstMarked d1 c v dom).sstStore sc c v dom r).2, [], vNF r.iw, 1⟩) := by
  have hrun : d.vRunStep c v 0x13 (planSst c v) (fun _ _ _ => none) = d1 := Dev.vRunStep_of_unfinished h rfl
  obtain ⟨hdom, -, -, hruns, hop, htaken⟩ := h
  have htakes := Dev.vTaken_of_alone ((d.sstMarked_runs d1 c v dom).trans hruns) hop htaken
  have hstep : d.sst sc c v = (match (d.sstMarked d1 c v dom).vTaken c v 0x13 with
      | none => (sc, d.sstMarked d1 c v dom)
      | some (i, r) => (((d.sstMarked d1 c v dom).sstStore sc c v dom r).1,
          ((d.sstMarked d1 c v dom).sstStore sc c v dom r).2.vComplete c v i r
            ⟨((d.sstMarked d1 c v dom).sstStore sc c v dom r).2, [], vNF r.iw, 1⟩)) := by
    unfold Dev.sst
    simp only [hdom, hrun]
    rfl
  rw [hstep, htakes]

/-! ### SLD (R198) -/

theorem Dev.sld_of_last_takes {d d1 : Dev} {c v dom : Nat} {r : Run} (h : LastTakes d c v dom 0x14 (planSld c v) d1 r) (sc : Memory)
    {read : List (Nat × Bool) × Dev} (hread : d1.scrReads sc c v dom (bitsOf r.iw 13 11) (vNF r.iw) = read) (htl : read.2.tl = d1.tl) :
    d.sld sc c v = d1.vComplete c v 0 r ⟨read.2, read.1.map (fun x => ⟨x.1, true, x.2⟩), vNF r.iw, 2⟩ := by
  refine Dev.vRunStep_of_finish h ?_ (VRes.pending_of_tl htl c v)
  rw [hread]

end Sys2Proof.Machine

namespace Sys2Proof

open Machine

theorem sst_stores (c : Fin 32) (v : Fin 2) (s : State) (dom e0 : Nat) (d1 : Dev) (r : Run)
    (h : LastTakes s.dev c v dom 0x13 (planSst c v) d1 r) (he0 : e0 = bitsOf r.iw 13 11) (hvalid : ∀ x ∈ r.items, x.valid = true) :
    Gives (.sst c v) s (fun t => (∀ i < r.items.length, ∀ k < 32, Memory.read t.scr (scrAddr c v (e0 + i) + k) 0 =
        (leBytes 32 (r.items.getD i Item.zero).data.toNat).getD k 0) ∧
      (∀ a, (a < scrAddr c v e0 ∨ scrAddr c v (e0 + r.items.length) ≤ a) → Memory.read t.scr a 0 = Memory.read s.scr a 0) ∧
      t.wmem = s.wmem ∧ t.flash = s.flash ∧ t.pending = s.pending ∧ (t.dev.vtGet c v).sq.runs = []) := by
  subst he0
  have hsst := Dev.sst_of_last_takes h s.scr
  obtain ⟨-, -, -, hruns, -, -⟩ := h
  generalize hstore : (s.dev.sstMarked d1 c v dom).sstStore s.scr c v dom r = store at hsst
  have hscr : store.1 = storeFlits s.scr (scrAddr c v (bitsOf r.iw 13 11)) r.items := hstore ▸ Dev.sstStore_stores _ _ _ _ _ _
  have hpending : (store.2.vtGet c v).sq.runs = [r] := by
    rw [← hstore, Dev.sstStore_vtGet, Dev.sstMarked_runs, hruns]
  obtain ⟨-, -, hidle⟩ := wrote_of_ended (store.2.vComplete_ended c v 0 r ⟨store.2, [], vNF r.iw, 1⟩) (VRes.pending_of_tl rfl c v) hpending
  refine ⟨_, rfl, ?_⟩
  rw [hsst, hscr]
  refine ⟨fun i hi k hk => ?_, fun a ha => ?_, rfl, rfl, rfl, hidle⟩
  · rw [scrAddr_add]
    exact read_storeFlits hk hvalid hi
  · rw [scrAddr_add] at ha
    exact read_storeFlits_other ha

theorem sld_loads (c : Fin 32) (v : Fin 2) (s : State) (dom : Nat) (d1 : Dev) (r : Run)
    (h : LastTakes s.dev c v dom 0x14 (planSld c v) d1 r) :
    GivesDev (.sld c v) s (fun d => Wrote d1 d c v r ((d1.scrReads s.scr c v dom (bitsOf r.iw 13 11) (vNF r.iw)).1.map
      (fun x => (⟨x.1, true, x.2⟩ : Slot)))) := by
  have htl := (d1.scrReads_readFrame s.scr c v dom (vNF r.iw) (bitsOf r.iw 13 11)).tl_eq
  generalize hread : d1.scrReads s.scr c v dom (bitsOf r.iw 13 11) (vNF r.iw) = read at htl ⊢
  have hstep := Dev.sld_of_last_takes h s.scr hread htl
  obtain ⟨-, -, -, hruns, -, -⟩ := h
  exact givesDev_of_eq rfl hstep (wrote_of_ended (d1.vComplete_ended c v 0 r _) (VRes.pending_of_tl htl c v) hruns)

end Sys2Proof
end

section
/-!
PROOFS of 06_vector_tiles.md: EMIT and PHOLD of a V tile (R175).
-/

namespace Sys2Proof.Machine

/-! ### Words of a V tile's page (R36, R103, R174, R175) -/

theorem Dev.creditTake_vtile (d : Dev) (c i n : Nat) (v : Fin 2) : d.creditTake c (10 + v) i n =
    if d.flag (Pg.vtile c v) Reg.VTILE.EXEMPT i then d
    else d.wr (Pg.vtile c v) Reg.VTILE.CCNT (d.rd (Pg.vtile c v) Reg.VTILE.CCNT i - n) i := by
  have hunit : 10 + v.val < 12 := by omega
  simp only [Dev.creditTake, counterRef, if_neg (show ¬ 10 + v.val < 10 by omega), if_pos hunit, Nat.add_sub_cancel_left]

/-- The credit counters stand between the sequencer's words and the stamps. -/
theorem Dev.rd_creditTake_vtile (d : Dev) {c i n : Nat} {v : Fin 2} (hi : i < 16) {F : Fld} {j : Nat}
    (hF : F.off + F.stride * j < 0x80 ∨ 0xC0 ≤ F.off + F.stride * j) :
    (d.creditTake c (10 + v) i n).rd (Pg.vtile c v) F j = d.rd (Pg.vtile c v) F j := by
  rw [Dev.creditTake_vtile]
  split
  · rfl
  · exact Dev.rd_wr_other _ _ (by simp only [Reg.VTILE.CCNT, Pg.vtile, Pg.core]; omega)

/-- Fields of the tile behind the sequencer's word. -/
theorem Dev.rd_issued_vtile (d : Dev) {c v dom interval : Nat} {F : Fld} {j : Nat} (hF : 0x44 ≤ F.off + F.stride * j) :
    (d.issued c (10 + v) dom interval).rd (Pg.vtile c v) F j = d.rd (Pg.vtile c v) F j := by
  rw [← tilePg_vtile]
  exact d.rd_issued_other (by omega)

/-- The equalisers of a domain stand on the loader's page. -/
theorem Dev.equaliser_wr_vtile (d : Dev) (c v : Nat) (F : Fld) (x j : Nat) {m : Nat} (hm : m < 4) (i : Nat) :
    (d.wr (Pg.vtile c v) F x j).equaliser m i = d.equaliser m i := by
  refine Dev.equaliser_congr (Dev.rd_wr_other _ _ ?_) (Dev.rd_wr_other _ _ ?_) i <;>
    simp only [Pg.ldom, Pg.vtile, Pg.core, Reg.LDOM.EQ_LO, Reg.LDOM.EQ_HI] <;> omega

/-- An issue changes the sequencer of a tile alone. -/
theorem Dev.vtGet_issued (d : Dev) (c v dom interval : Nat) :
    ∃ s, (d.issued c (10 + v) dom interval).vtGet c v = { d.vtGet c v with sq := s } := by
  have htl : ∀ e : Dev, ((e.count (tilePg c (10 + v)) 0xF (evStep (10 + v))).markStepped dom).tl = e.tl := fun e => by simp
  rw [Dev.issued, Dev.vtGet_congr (htl _), Dev.advancePc_eq, Dev.goTo, Dev.vtGet_congr (Dev.wr_tl _ _ _ _ _),
    Dev.vtGet_congr (Dev.wr_tl _ _ _ _ _)]
  simp only [Dev.tries, Dev.sqSet_vtile, Dev.vtGet_vtSet_same]
  exact ⟨_, rfl⟩

/-! ### A step that puts an item (R36, R38, R175) -/

/-- `e` is the device once V tile `v` issued a step that puts an item with credit counter `cnt`. -/
structure Dev.PutIssued (d : Dev) (c v dom cnt : Nat) (e : Dev) : Prop where
  stepped : Stepped d e c (10 + v) dom 1
  fab : e.fab = d.fab
  cycle : e.cycle = d.cycle
  flt : e.flt = d.flt
  equaliser : ∀ i, e.equaliser dom i = d.equaliser dom i
  /-- the words behind the sequencer's, beside the credit counters -/
  words : ∀ (F : Fld) (j : Nat), 0x44 ≤ F.off + F.stride * j → (F.off + F.stride * j < 0x80 ∨ 0xC0 ≤ F.off + F.stride * j) →
    e.rd (Pg.vtile c v) F j = d.rd (Pg.vtile c v) F j
  slots : (e.vtGet c v).slots = (d.vtGet c v).slots

theorem Dev.putIssued_issued {d : Dev} {c dom cnt : Nat} {v : Fin 2} (hdom : dom < 4) (hcnt : cnt < 16)
    (hloops : (d.sqGet c (10 + v)).loops = []) :
    d.PutIssued c v dom cnt ((d.creditTake c (10 + v) cnt 1).issued c (10 + v) dom 1) := by
  have hregs := d.creditTake_regs c (10 + v) cnt 1
  have hwords {F : Fld} {j : Nat} := d.rd_creditTake_vtile (c := c) (n := 1) (v := v) hcnt (F := F) (j := j)
  have hequal (i : Nat) : (d.creditTake c (10 + v) cnt 1).equaliser dom i = d.equaliser dom i := by
    rw [Dev.creditTake_vtile]
    split
    · rfl
    · exact d.equaliser_wr_vtile c v _ _ _ hdom i
  generalize d.creditTake c (10 + v) cnt 1 = e at *
  have hgate : e.sqGet c (10 + v) = d.sqGet c (10 + v) := Dev.sqGet_congr (by rw [hregs]) _ _
  obtain ⟨sq, htile⟩ := e.vtGet_issued c v dom 1
  have hframe := e.issued_tileFrame c (10 + v) dom 1
  unfold Dev.TileFrame at hframe
  refine ⟨?_, by rw [hframe, hregs], by rw [hframe, hregs], by rw [hframe, hregs], fun i => ?_,
    fun F j hlo hF => (e.rd_issued_vtile hlo).trans (hwords hF), ?_⟩
  · have hstep := (Dev.issued_of_no_loop (hgate ▸ hloops) dom 1).1
    have hdcyc : e.dcyc dom = d.dcyc dom := by rw [hregs]; rfl
    rwa [Stepped, tilePg_vtile, fPC_vtile, fLen_vtile, hwords (.inl (by decide)), hwords (.inl (by decide)), hdcyc, ← fPC_vtile v.val,
      ← fLen_vtile v.val, ← tilePg_vtile] at hstep
  · have hfar : 0x100000 ≤ tilePg c (10 + v) := by
      rw [tilePg_vtile]
      simp only [Pg.vtile, Pg.core]
      omega
    refine (Dev.equaliser_congr (e.rd_issued_other ?_) (e.rd_issued_other ?_) i).trans (hequal i) <;>
      simp only [Pg.ldom, Reg.LDOM.EQ_LO, Reg.LDOM.EQ_HI] <;> omega
  · have hsame : e.vtGet c v = d.vtGet c v := Dev.vtGet_congr (by rw [hregs]) c v
    rw [htile, ← hsame]

/-- What stands between the issue of a put and its output: from `d` to `e` the first words of the tile's page, its sequencer, the fabric and
what the latency depends on stay. -/
structure Dev.BeforePut (c v dom : Nat) (d e : Dev) : Prop where
  low : ∀ (F : Fld) (j : Nat), F.off + F.stride * j < 0x48 → e.rd (Pg.vtile c v) F j = d.rd (Pg.vtile c v) F j
  sq : (e.vtGet c v).sq = (d.vtGet c v).sq
  fab : e.fab = d.fab
  hold : e.hold = d.hold
  cycle : e.cycle = d.cycle
  equaliser : ∀ i, e.equaliser dom i = d.equaliser dom i

section
variable {c v dom : Nat} {d e : Dev}

theorem Dev.BeforePut.refl (d : Dev) : d.BeforePut c v dom d := ⟨fun _ _ _ => rfl, rfl, rfl, rfl, rfl, fun _ => rfl⟩

theorem Dev.BeforePut.wr (h : Dev.BeforePut c v dom d e) (hdom : dom < 4) {F : Fld} {i : Nat} (hF : 0x48 ≤ F.off + F.stride * i) (x : Nat) :
    Dev.BeforePut c v dom d (e.wr (Pg.vtile c v) F x i) := by
  obtain ⟨hlow, hsq, hfab, hhold, hcycle, hequal⟩ := h
  refine ⟨fun G j hG => (Dev.rd_wr_other _ _ ?_).trans (hlow G j hG), hsq, hfab, hhold, hcycle,
    fun k => (e.equaliser_wr_vtile c v F x i hdom k).trans (hequal k)⟩
  simp only [Pg.vtile, Pg.core]
  omega

theorem Dev.BeforePut.vStamp (h : Dev.BeforePut c v dom d e) (hdom : dom < 4) (n : Nat) : Dev.BeforePut c v dom d (e.vStamp c v n).2 := by
  have hset (x : VTile) (hx : x.sq = (e.vtGet c v).sq) : Dev.BeforePut c v dom d (e.vtSet c v x) := by
    obtain ⟨hlow, hsq, hfab, hhold, hcycle, hequal⟩ := h
    exact ⟨hlow, by rw [Dev.vtGet_vtSet_same, hx, hsq], hfab, hhold, hcycle, hequal⟩
  unfold Dev.vStamp
  dsimp only
  split
  · refine Dev.BeforePut.wr (hset _ ?_) hdom (Nat.le_add_right_of_le (by decide)) _
    rfl
  · exact hset _ rfl

/-- The channel of the descriptor, where the step advances it. -/
theorem Dev.vAdvance_eq (d : Dev) (c v iw : Nat) :
    d.vAdvance c v iw = d ∨ ∃ x, d.vAdvance c v iw = d.wr (Pg.vtile c v) Reg.VTILE.CH x (vDesc iw) := by
  unfold Dev.vAdvance
  split
  · exact .inr ⟨_, rfl⟩
  · exact .inl rfl

/-- An item put at an output of the tile. -/
theorem put_after_issue {d0 : Dev} {p : Nat} {x : Item} {iw : Nat} (hstepped : Stepped d0 d c (10 + v) dom 1)
    (hfab0 : d.fab = d0.fab) (hcycle0 : d.cycle = d0.cycle) (hequal : ∀ i, d.equaliser dom i = d0.equaliser dom i)
    (h : Dev.BeforePut c v dom d e) {f : Dev}
    (hf : f = (e.putOut c (10 + v) p (e.vLat dom 15) x).vAdvance c v iw) : Stepped d0 f c (10 + v) dom 1 ∧
      f.fab = { d0.fab with outp := Tab.set d0.fab.outp (outKey c (10 + v) p) (Tab.get d0.fab.outp (outKey c (10 + v) p) [] ++
        [⟨x, d0.cycle + d0.vLat dom 15, false⟩]) [] } ∧
      ∀ (F : Fld) (j : Nat), F.off + F.stride * j < 0x48 → f.rd (Pg.vtile c v) F j = d.rd (Pg.vtile c v) F j := by
  obtain ⟨hlow, hsq, hfab, hhold, hcycle, hlat⟩ := h
  obtain ⟨perf, hput⟩ := putOut_frame e c (10 + v) p (e.vLat dom 15) x
  have hvlat : e.vLat dom 15 = d0.vLat dom 15 := congrArg (3 + ·) ((hlat 15).trans (hequal 15))
  have hmoved : ∃ regs, f = { e.putOut c (10 + v) p (e.vLat dom 15) x with regs := regs } ∧
      ∀ (F : Fld) (j : Nat), F.off + F.stride * j < 0x48 → f.rd (Pg.vtile c v) F j = e.rd (Pg.vtile c v) F j := by
    rw [hf, hput]
    obtain hkeep | ⟨y, hmove⟩ := Dev.vAdvance_eq { e with perf := perf, fab := _ } c v iw
    · rw [hkeep]
      exact ⟨e.regs, rfl, fun _ _ _ => rfl⟩
    · rw [hmove]
      refine ⟨_, rfl, fun F j hF => Dev.rd_wr_other _ _ ?_⟩
      simp only [Reg.VTILE.CH, Pg.vtile, Pg.core]
      omega
  obtain ⟨regs, hend, hwords⟩ := hmoved
  rw [hput] at hend
  have hpc (F : Fld) (j : Nat) (hF : F.off + F.stride * j < 0x48) := (hwords F j hF).trans (hlow F j hF)
  refine ⟨stepped_of_kept hstepped ?_ ?_ ?_, ?_, hpc⟩
  · rw [tilePg_vtile, fPC_vtile]
    exact hpc _ _ (by decide)
  · rw [Dev.sqGet_vtile, Dev.sqGet_vtile, ← hsq, hend]
    rfl
  · rw [hend, ← hhold]
  · rw [hend, hvlat, hfab.trans hfab0, hcycle.trans hcycle0]

end

/-! ### PHOLD and EMIT (R175) -/

theorem bitAt_eq_false_of_within {x lo w i : Nat} (h : bitsOf x lo w = 0) (hlo : lo ≤ i) (hhi : i < lo + w) : bitAt x i = false := by
  have hbit := testBit_bitsOf x lo w (i - lo)
  rw [h, Nat.zero_testBit, decide_eq_true (by omega), Bool.true_and, Nat.add_sub_cancel' hlo] at hbit
  exact hbit.symm

theorem Dev.vEp_setVEp (d : Dev) (c v : Nat) {p x : Nat} (hp : p < 4) (hx : x < 64) : (d.setVEp c v p x).vEp c v p = x := by
  have hword := setBits_lt (lo := 6 * p) (w := 6) (v := x) (d.rd_lt (Pg.vtile c v) Reg.VTILE.EP 0) (by simp only [Reg.VTILE.EP]; omega)
  rw [Dev.vEp, Dev.setVEp, Dev.rd_wr_same _ _ _ _ _ (by decide), Nat.mod_eq_of_lt hword, bitsOf_setBits_same]
  exact Nat.mod_eq_of_lt hx

/-- A counter without stamps gives the stamp 0. -/
theorem Dev.vStamp_fst {d : Dev} {c v n : Nat} (h : d.flag (Pg.vtile c v) Reg.VTILE.SQ_EN n = false) : (d.vStamp c v n).1 = 0 := by
  simp only [Dev.vStamp, h, Bool.false_eq_true, if_false]

/-- What PHOLD needs. -/
def planVPhold (c v : Nat) (_ : Dev) (iw _ : Nat) : Plan :=
  if bitsOf iw 0 25 ≠ 0 ∨ vUnused iw false false false false false false = true then .bad 1
  else if 1 < bitsOf iw 29 2 then .bad 9
  else .go [] (some (outKey c (10 + v) (bitsOf iw 29 2), bitsOf iw 25 4)) 1

theorem planVPhold_of_legal {d : Dev} {c v iw dom p : Nat} (hzero : bitsOf iw 0 25 = 0)
    (hunused : vUnused iw false false false false false false = false) (hp : p = bitsOf iw 29 2) (hflit : p < 2) :
    planVPhold c v d iw dom = .go [] (some (outKey c (10 + v) p, bitsOf iw 25 4)) 1 := by
  have hport : ¬ 1 < p := by omega
  simp only [planVPhold, hzero, hunused, ← hp, if_neg hport, ne_eq, not_true_eq_false, Bool.false_eq_true, or_self, if_false]

theorem Dev.vPhold_of_issue {d e : Dev} {c v iw dom p : Nat} {takes : List (Nat × Nat × Nat)}
    (hissue : d.tryIssue c (10 + v) 0x16 0x17 (planVPhold c v) = (some (iw, dom, takes), e)) (hp : p = bitsOf iw 29 2)
    (hstamp : e.flag (Pg.vtile c v) Reg.VTILE.SQ_EN (bitsOf iw 25 4) = false) {e2 : Dev} (he2 : (e.vStamp c v (bitsOf iw 25 4)).2 = e2) :
    d.vPhold c v = (e2.putOut c (10 + v) p (e2.vLat dom 15) Item.placeholder).vAdvance c v iw := by
  subst hp he2
  unfold planVPhold at hissue
  simp only [Dev.vPhold, hissue, Dev.vStamp_fst hstamp]
  rfl

/-- The words of a slot without errors are read as they stand. -/
theorem Dev.codeReads_of_clean {d : Dev} {key : Nat → Nat} (c v m : Nat) : ∀ {words : List Nat}, (∀ i ∈ words, d.upsetAt (key i) = 0) →
    words.foldl (fun (acc : Bool × Dev) i =>
      let (u, d2) := acc.2.codeRead c v m (key i)
      (acc.1 || u, d2)) (false, d) = (false, d)
  | [], _ => rfl
  | i :: words, h => by
    have hcell : d.codeRead c v m (key i) = (false, d) := if_pos (h i List.mem_cons_self)
    rw [List.foldl_cons, hcell]
    exact Dev.codeReads_of_clean c v m (fun j hj => h j (List.mem_cons_of_mem i hj))

/-- EMIT of a flit output: the slot that EP names, whose words hold no error, is put, and EP goes on. -/
theorem Dev.vEmit_of_issue {d e : Dev} {c v iw dom p len ep : Nat} {takes : List (Nat × Nat × Nat)} {sl : Slot}
    (hissue : d.tryIssue c (10 + v) 0x15 0x17 (planVEmit c v) = (some (iw, dom, takes), e)) (hzero : bitsOf iw 0 13 = 0)
    (hp : p = bitsOf iw 29 2) (hflit : p < 2) (hlen : len = bitsOf iw 13 6 + 1) (hep : e.vEp c v p % len = ep)
    (hsl : Tab.get (e.vtGet c v).slots (bitsOf iw 19 6 + ep) Slot.zero = sl)
    (hclean : ∀ i < 4, e.upsetAt (Upset.slot c v (4 * (bitsOf iw 19 6 + ep) + i)) = 0)
    (hstamp : e.flag (Pg.vtile c v) Reg.VTILE.SQ_EN (bitsOf iw 25 4) = false) {e1 e2 : Dev} (he1 : e.setVEp c v p ((ep + 1) % len) = e1)
    (he2 : (e1.vStamp c v (bitsOf iw 25 4)).2 = e2) :
    d.vEmit c v = (e2.putOut c (10 + v) p (e2.vLat dom 15) ⟨BitVec.ofNat 256 sl.data, sl.valid, sl.poison, 0, 0, false⟩).vAdvance c v iw := by
  have hfirst : bitAt iw 12 = false := bitAt_eq_false_of_within hzero (by decide) (by decide)
  have hwords := Dev.codeReads_of_clean (d := e) (key := fun i => Upset.slot c v (4 * (bitsOf iw 19 6 + ep) + i)) c v dom
    (words := [0, 1, 2, 3]) (fun i hi => hclean i (by simp at hi; omega))
  have hstamp1 : (e1.vStamp c v (bitsOf iw 25 4)).1 = 0 := by
    refine Dev.vStamp_fst ?_
    rw [← he1, Dev.flag, Dev.setVEp, Dev.rd_wr_other _ _ (by simp only [Reg.VTILE.EP, Reg.VTILE.SQ_EN]; omega)]
    exact hstamp
  subst hp hlen
  simp only [Dev.vEmit, hissue, vEmitAt, if_pos hflit, hfirst, Bool.false_eq_true, if_false, hep, hsl, hwords, he1, hstamp1, he2, Bool.or_false]
  rfl

/-- A legal EMIT of a flit output issues once its slot is visible. -/
theorem planVEmit_of_visible {d : Dev} {c v iw dom p len ep : Nat} (hzero : bitsOf iw 0 13 = 0)
    (hunused : vUnused iw false false false false false false = false) (hp : p = bitsOf iw 29 2) (hflit : p < 2)
    (hlen : len = bitsOf iw 13 6 + 1) (hslots : bitsOf iw 19 6 + len ≤ 64) (hep : d.vEp c v p % len = ep)
    (hwritten : 0 < Tab.get (d.vtGet c v).slotAt (bitsOf iw 19 6 + ep) 0)
    (hvisible : Tab.get (d.vtGet c v).slotAt (bitsOf iw 19 6 + ep) 0 < d.dcyc dom) :
    planVEmit c v d iw dom = .go [] (some (outKey c (10 + v) p, bitsOf iw 25 4)) 1 := by
  have hfirst : bitAt iw 12 = false := bitAt_eq_false_of_within hzero (by decide) (by decide)
  have hlow : bitsOf iw 0 12 = 0 := bitsOf_eq_zero_of_within hzero (by decide) (by decide)
  have hfit : ¬ 63 < bitsOf iw 19 6 + len - 1 := by omega
  have hready : ¬ (Tab.get (d.vtGet c v).slotAt (bitsOf iw 19 6 + ep) 0 = 0 ∨
      d.dcyc dom ≤ Tab.get (d.vtGet c v).slotAt (bitsOf iw 19 6 + ep) 0) := by omega
  subst hp hlen
  simp only [planVEmit, vEmitAt, if_pos hflit, hfirst, hlow, hunused, hep, if_neg hfit, if_neg hready, ne_eq, not_true_eq_false,
    Bool.false_eq_true, or_self, if_false]

end Sys2Proof.Machine

namespace Sys2Proof

open Machine

theorem vPhold_puts_placeholder (c : Fin 32) (v : Fin 2) (s : State) (dom iw p : Nat) (h : AtStep s.dev c (10 + v) dom iw)
    (hop : bitsOf iw 58 6 = 0x16) (hzero : bitsOf iw 0 25 = 0) (hunused : vUnused iw false false false false false false = false)
    (hp : p = bitsOf iw 29 2) (hflit : p < 2) (hcredit : s.dev.creditOk c (10 + v) (bitsOf iw 25 4) 1 = true)
    (hroom : (Tab.get s.dev.fab.outp (outKey c (10 + v) p) []).length < 4)
    (hstamp : s.dev.flag (Pg.vtile c v) Reg.VTILE.SQ_EN (bitsOf iw 25 4) = false) :
    GivesDev (.vPhold c v) s (fun d => Stepped s.dev d c (10 + v) dom 1 ∧
      d.fab = { s.dev.fab with outp := Tab.set s.dev.fab.outp (outKey c (10 + v) p) (Tab.get s.dev.fab.outp (outKey c (10 + v) p) [] ++
        [⟨Item.placeholder, s.dev.cycle + s.dev.vLat dom 15, false⟩]) [] }) := by
  have hlook := Dev.looks_of_atStep h
  have hdom := Dev.tileDom_lt hlook.dom_eq
  have hissued := Dev.putIssued_issued (c := c) (v := v) hdom (bitsOf_lt iw 25 4) (Dev.loops_of_atStep h)
  have hissue := Dev.tryIssue_of_put (opMax := 0x17) hlook hop (by decide) (planVPhold_of_legal hzero hunused hp hflit) hcredit hroom
  generalize (s.dev.creditTake c (10 + v) (bitsOf iw 25 4) 1).issued c (10 + v) dom 1 = e at hissued hissue
  obtain ⟨hstepped, hfab0, hcycle0, -, hequal, hwords, -⟩ := hissued
  have hstamp1 : e.flag (Pg.vtile c v) Reg.VTILE.SQ_EN (bitsOf iw 25 4) = false := by
    rw [Dev.flag, hwords _ _ (by simp only [Reg.VTILE.SQ_EN]; omega) (.inr (by simp only [Reg.VTILE.SQ_EN]; omega))]
    exact hstamp
  obtain ⟨hput, hfab, -⟩ := put_after_issue hstepped hfab0 hcycle0 hequal ((Dev.BeforePut.refl e).vStamp hdom (bitsOf iw 25 4))
    (Dev.vPhold_of_issue hissue hp hstamp1 rfl)
  exact ⟨s.dev.vPhold c v, rfl, hput, hfab⟩

theorem vEmit_puts_slot (c : Fin 32) (v : Fin 2) (s : State) (dom iw p b len ep : Nat) (sl : Slot) (h : AtStep s.dev c (10 + v) dom iw)
    (hop : bitsOf iw 58 6 = 0x15) (hzero : bitsOf iw 0 13 = 0) (hunused : vUnused iw false false false false false false = false)
    (hp : p = bitsOf iw 29 2) (hflit : p < 2) (hb : b = bitsOf iw 19 6) (hlen : len = bitsOf iw 13 6 + 1) (hslots : b + len ≤ 64)
    (hep : ep = s.dev.vEp c v p % len) (hsl : sl = Tab.get (s.dev.vtGet c v).slots (b + ep) Slot.zero)
    (hwritten : 0 < Tab.get (s.dev.vtGet c v).slotAt (b + ep) 0) (hvisible : Tab.get (s.dev.vtGet c v).slotAt (b + ep) 0 < s.dev.dcyc dom)
    (hclean : ∀ i < 4, s.dev.upsetAt (Upset.slot c v (4 * (b + ep) + i)) = 0)
    (hcredit : s.dev.creditOk c (10 + v) (bitsOf iw 25 4) 1 = true)
    (hroom : (Tab.get s.dev.fab.outp (outKey c (10 + v) p) []).length < 4)
    (hstamp : s.dev.flag (Pg.vtile c v) Reg.VTILE.SQ_EN (bitsOf iw 25 4) = false) :
    GivesDev (.vEmit c v) s (fun d => Stepped s.dev d c (10 + v) dom 1 ∧
      d.fab = { s.dev.fab with outp := Tab.set s.dev.fab.outp (outKey c (10 + v) p) (Tab.get s.dev.fab.outp (outKey c (10 + v) p) [] ++
        [⟨⟨BitVec.ofNat 256 sl.data, sl.valid, sl.poison, 0, 0, false⟩, s.dev.cycle + s.dev.vLat dom 15, false⟩]) [] } ∧
      d.vEp c v p = (ep + 1) % len) := by
  have hlook := Dev.looks_of_atStep h
  have hdom := Dev.tileDom_lt hlook.dom_eq
  have hissued := Dev.putIssued_issued (c := c) (v := v) hdom (bitsOf_lt iw 25 4) (Dev.loops_of_atStep h)
  subst hb
  have hissue := Dev.tryIssue_of_put (opMax := 0x17) hlook hop (by decide)
    (planVEmit_of_visible hzero hunused hp hflit hlen hslots hep.symm hwritten hvisible) hcredit hroom
  generalize (s.dev.creditTake c (10 + v) (bitsOf iw 25 4) 1).issued c (10 + v) dom 1 = e at hissued hissue
  obtain ⟨hstepped, hfab0, hcycle0, hflt, hequal, hwords, htile⟩ := hissued
  have hstamp1 : e.flag (Pg.vtile c v) Reg.VTILE.SQ_EN (bitsOf iw 25 4) = false := by
    rw [Dev.flag, hwords _ _ (by simp only [Reg.VTILE.SQ_EN]; omega) (.inr (by simp only [Reg.VTILE.SQ_EN]; omega))]
    exact hstamp
  have hep1 : e.vEp c v p % len = ep := by
    rw [Dev.vEp, hwords _ _ (by decide) (.inl (by decide)), hep, Dev.vEp]
  have hclean1 : ∀ i < 4, e.upsetAt (Upset.slot c v (4 * (bitsOf iw 19 6 + ep) + i)) = 0 := by
    unfold Dev.upsetAt at hclean ⊢
    rwa [hflt]
  have hstep := Dev.vEmit_of_issue hissue hzero hp hflit hlen hep1 ((congrArg (Tab.get · _ _) htile).trans hsl.symm) hclean1 hstamp1 rfl rfl
  have hmoved : Stepped s.dev (e.setVEp c v p ((ep + 1) % len)) c (10 + v) dom 1 := by
    have hwr := stepped_wr hstepped (F := Reg.VTILE.EP) (i := 0) (by decide) (setBits (e.rd (Pg.vtile c v) Reg.VTILE.EP) (6 * p) 6 ((ep + 1) % len))
    rwa [tilePg_vtile] at hwr
  obtain ⟨hput, hfab, hlow⟩ := put_after_issue (d := e.setVEp c v p ((ep + 1) % len)) hmoved hfab0 hcycle0
    (fun i => (e.equaliser_wr_vtile c v _ _ _ hdom i).trans (hequal i))
    ((Dev.BeforePut.refl _).vStamp hdom (bitsOf iw 25 4)) hstep
  refine ⟨s.dev.vEmit c v, rfl, hput, hfab, ?_⟩
  have hpattern : (ep + 1) % len < len := Nat.mod_lt _ (by omega)
  rw [Dev.vEp, hlow _ _ (by decide), ← Dev.vEp, Dev.vEp_setVEp _ _ _ (by omega) (by omega)]

end Sys2Proof
end

section
/-!
PROOFS of 06_vector_tiles.md: DROP of a V tile (R176).
-/

namespace Sys2Proof.Machine

/-! ### The page of a V tile lies apart from those of the queues (R9, R99) -/

theorem Pg.apart_vtile_queue (c : Fin 32) (v : Fin 2) (q : Nat) : Pg.Apart (Pg.vtile c v) (Pg.queue q) :=
  Pg.apart_queue (by simp only [Pg.vtile, Pg.core]; omega) (by simp only [Pg.vtile, Pg.core]; omega) q

theorem Pg.apart_vtile_qeng (c : Fin 32) (v : Fin 2) : Pg.Apart (Pg.vtile c v) (Pg.qeng c) :=
  ⟨by simp only [Pg.vtile, Pg.core]; omega, by simp only [Pg.vtile, Pg.core]; omega,
    .inr (by simp only [Pg.vtile, Pg.qeng, Pg.core]; omega)⟩

/-- An issue writes PC and LOOP_DEPTH, below the descriptors of the queues. -/
theorem Dev.queueAtHead_issued_of_low (d : Dev) {c u : Nat} (hlow : tilePg c u + 0x1000 ≤ 0x1000000) (dom interval port slot : Nat) :
    (d.issued c u dom interval).queueAtHead c port slot = d.queueAtHead c port slot := by
  obtain ⟨hpc, hpc'⟩ := fPC_off u
  obtain ⟨hdepth, hdepth'⟩ := fDepth_off u
  have hregs : (d.issued c u dom interval).regs = (((d.tries c u).sqSet c u
      { (d.tries c u).sqGet c u with readyAt := d.dcyc dom + interval }).advancePc c u).regs := by
    rw [Dev.issued, Dev.markStepped_regs, Dev.count_regs]
  rw [Dev.queueAtHead_congr hregs, Dev.advancePc_eq, Dev.goTo, Dev.queueAtHead_wr _ (by rw [hdepth, hdepth']; omega),
    Dev.queueAtHead_wr _ (by rw [hpc, hpc']; omega)]
  exact Dev.queueAtHead_congr (by simp only [Dev.tries, Dev.sqSet_regs]) _ _ _

theorem Dev.rd_poisonSeen_vtile (d : Dev) (c : Fin 32) (v : Fin 2) (poison : Bool) {F : Fld} (hlo : 0x40 ≤ F.off) (hhi : F.off < 0x1000)
    (hstride : F.stride = 0) : (d.poisonSeen (Pg.vtile c v) poison).rd (Pg.vtile c v) F = d.rd (Pg.vtile c v) F := by
  unfold Dev.poisonSeen
  split
  · refine Dev.rd_hit_other _ _ ?_ ?_ <;> simp only [hstride, Reg.HDR.POISON_SEEN, eventKey, Pg.vtile, Pg.core] <;> omega
  · rfl

/-! ### DROP (R176) -/

/-- What DROP needs. -/
def planVDrop (_ : Dev) (iw _ : Nat) : Plan :=
  if bitsOf iw 0 31 ≠ 0 ∨ vUnused iw false true false false false false = true then .bad 1 else .go [srcTake (vSA iw) 1] none 1

theorem Dev.vDrop_eq (d : Dev) (c v : Nat) : d.vDrop c v = d.vRunStep c v 0x17 planVDrop (fun d _ _ => some ⟨d, [], 0, 0⟩) := rfl

/-- A step as it stands at its issue in domain cycle `t`, with nothing taken. -/
def Run.begun (iw pc t : Nat) (segs : List Seg) : Run := ⟨bitsOf iw 58 6, iw, pc, t, segs, 0, 0, t, false⟩

/-- The issue of a step without results that takes one item begins its take phase. -/
theorem Dev.vIssue_of_one_take {d e : Dev} {c v op iw dom p slot q : Nat} {plan : Dev → Nat → Nat → Plan}
    (hissue : d.tryIssue c (10 + v) op 0x17 plan = (some (iw, dom, [(p, slot, 1)]), e))
    (hq : e.queueAtHead c (inPort (10 + v) p) slot = some q) (hslots : d.vSlots c v iw = 0) {r0 : Run}
    (hr0 : r0 = Run.begun iw (d.rd (Pg.vtile c v) Reg.VTILE.PC) (e.dcyc dom) [⟨p, q, 1, []⟩]) :
    (∃ tl, d.vIssue c v op plan = { e with tl := tl }) ∧ (d.vIssue c v op plan).vtGet c v =
      { e.vtGet c v with sq := { (e.vtGet c v).sq with runs := (e.vtGet c v).sq.runs ++ [r0] } } := by
  have hbegin : d.vIssue c v op plan = (e.beginRun c (10 + v) (d.rd (Pg.vtile c v) Reg.VTILE.PC) iw dom [(p, slot, 1)]).vPend c v (vRD iw) 0 := by
    simp only [Dev.vIssue, hissue, hslots]
  have hrun : e.beginRun c (10 + v) (d.rd (Pg.vtile c v) Reg.VTILE.PC) iw dom [(p, slot, 1)] =
      e.vtSet c v { e.vtGet c v with sq := { (e.vtGet c v).sq with runs := (e.vtGet c v).sq.runs ++ [r0] } } := by
    simp only [Dev.beginRun, List.filterMap_cons, List.filterMap_nil, hq, Option.map_some, Nat.one_ne_zero, if_false, Dev.sqGet_vtile,
      Dev.sqSet_vtile, hr0, Run.begun]
  rw [hbegin, hrun]
  refine ⟨⟨_, rfl⟩, ?_⟩
  rw [Dev.vPend, Dev.vtGet_vtSet_same, Dev.vtGet_vtSet_same, List.range_zero, List.foldl_nil]

theorem Dev.takeCycle_of_head {d e : Dev} {c u m p q : Nat} {x : Item} {r : Run} (hruns : (d.sqGet c u).runs = [r])
    (hsegs : r.segs = [⟨p, q, 1, []⟩]) (hacted : r.acted ≠ d.cycle + 1) (hp : p < 4)
    (hfree : Tab.get (d.sqGet c u).portUse p 0 ≠ d.cycle + 1) (htake : d.takeHead q = (some x, e)) :
    ∃ r1 : Run, ∃ use : Tab Nat, r1.op = r.op ∧ r1.taken = true ∧ d.takeCycle c u m 0 =
      (e.poisonSeen (tilePg c u) x.poison).sqSet c u { (e.poisonSeen (tilePg c u) x.poison).sqGet c u with
        runs := ((e.poisonSeen (tilePg c u) x.poison).sqGet c u).runs.set 0 r1, portUse := use } := by
  have hleft : r.taken = false := by simp [Run.taken, hsegs]
  refine ⟨{ r with segs := [⟨p, q, 0, [x]⟩], acted := d.cycle + 1, lastTake := d.dcyc m },
    Tab.set ((e.poisonSeen (tilePg c u) x.poison).sqGet c u).portUse p (d.cycle + 1) 0, rfl, rfl, ?_⟩
  unfold Dev.takeCycle
  simp only [hruns, List.getElem?_cons_zero, hacted, hleft, Bool.false_eq_true, or_self, if_false, hsegs]
  interval_cases p
  all_goals simp [List.range_succ, hfree, Dev.takeFrom, htake]

/-- The take cycle of the only step in progress, for one item that waits at the head of `q`. -/
structure Dev.TookLast (c v : Nat) (q : Nat) (rest : List Item) (op : Nat) (d d1 : Dev) (r1 : Run) : Prop where
  runs : (d1.vtGet c v).sq.runs = [r1]
  op_eq : r1.op = op
  taken : r1.taken = true
  slots : (d1.vtGet c v).slots = (d.vtGet c v).slots
  head : d1.qHead q = rest
  /-- the words of the tile behind its header -/
  words : ∀ F : Fld, 0x40 ≤ F.off → F.off < 0x1000 → F.stride = 0 → d1.rd (Pg.vtile c v) F = d.rd (Pg.vtile c v) F

theorem Dev.takeCycle_tookLast {d : Dev} {c : Fin 32} {v : Fin 2} {m p q : Nat} {x : Item} {rest : List Item} {r : Run}
    (hruns : (d.vtGet c v).sq.runs = [r]) (hsegs : r.segs = [⟨p, q, 1, []⟩]) (hacted : r.acted = 0) (hp : p < 4)
    (hfree : Tab.get (d.vtGet c v).sq.portUse p 0 ≠ d.cycle + 1) (hhead : d.qHead q = x :: rest) (hcore : qCore q = c) :
    ∃ d1 r1, d.takeCycle c (10 + v) m 0 = d1 ∧ Dev.TookLast c v q rest r.op d d1 r1 := by
  obtain ⟨e, htake, hframe, hrest, hpage⟩ := Dev.took_of_cons hhead
  rw [← Dev.sqGet_vtile] at hruns hfree
  have hfirst : r.acted ≠ d.cycle + 1 := hacted.symm ▸ (Nat.succ_ne_zero d.cycle).symm
  obtain ⟨r1, use, hop, htaken, hcycle⟩ := Dev.takeCycle_of_head (m := m) hruns hsegs hfirst hp hfree htake
  have hkeep := hpage (Pg.vtile c v) (Pg.apart_vtile_queue c v) (by
    rw [hcore]
    exact Pg.apart_vtile_qeng c v)
  have hsame : (e.poisonSeen (Pg.vtile c v) x.poison).vtGet c v = d.vtGet c v :=
    Dev.vtGet_congr (by rw [Dev.poisonSeen_tl, hframe.tl_eq]) c v
  rw [Dev.sqGet_vtile] at hruns
  rw [tilePg_vtile, Dev.sqGet_vtile, Dev.sqSet_vtile, hsame, hruns] at hcycle
  refine ⟨_, r1, hcycle, ?_, hop, htaken, ?_, ?_, fun F hlo hhi hstride => ?_⟩
  · rw [Dev.vtGet_vtSet_same]
    rfl
  · rw [Dev.vtGet_vtSet_same]
  · refine Eq.trans ?_ hrest
    exact congrArg (fun s : Qs => Tab.get s.head q []) (Dev.poisonSeen_qs e _ _)
  · exact (e.rd_poisonSeen_vtile c v x.poison hlo hhi hstride).trans (hkeep.rd (by rw [hstride]; omega))

/-- `b` is the device once V tile `v` issued step `r`, outside loops and with no other in progress, to take one item of `q`. -/
structure Dev.TakeIssued (c v p q : Nat) (d b : Dev) (r : Run) : Prop where
  runs : (b.vtGet c v).sq.runs = [r]
  segs : r.segs = [⟨p, q, 1, []⟩]
  acted : r.acted = 0
  portUse : (b.vtGet c v).sq.portUse = (d.vtGet c v).sq.portUse
  slots : (b.vtGet c v).slots = (d.vtGet c v).slots
  qs : b.qs = d.qs
  cycle : b.cycle = d.cycle
  pc : b.rd (Pg.vtile c v) Reg.VTILE.PC = (d.rd (Pg.vtile c v) Reg.VTILE.PC + 1) % (d.rd (Pg.vtile c v) Reg.VTILE.PROG_LEN_M1 + 1)

theorem Dev.vIssue_takeIssued {d : Dev} {c : Fin 32} {v : Fin 2} {dom iw op p slot q interval : Nat} {plan : Dev → Nat → Nat → Plan}
    (h : AtStep d c (10 + v) dom iw)
    (hissue : d.tryIssue c (10 + v) op 0x17 plan = (some (iw, dom, [(p, slot, 1)]), d.issued c (10 + v) dom interval))
    (hq : d.queueAtHead c (inPort (10 + v) p) slot = some q) (hslots : d.vSlots c v iw = 0) :
    ∃ r, r.op = bitsOf iw 58 6 ∧ Dev.TakeIssued c v p q d (d.vIssue c v op plan) r := by
  have hidle := (Dev.looks_of_atStep h).no_run
  obtain ⟨⟨hpc, -, -⟩, -⟩ := Dev.issued_of_no_loop (Dev.loops_of_atStep h) dom interval
  obtain ⟨sq, htile⟩ := d.vtGet_issued c v dom interval
  have hsq := d.sqGet_issued c (10 + v) dom interval
  have hframe := d.issued_tileFrame c (10 + v) dom interval
  have hlow : tilePg c (10 + v) + 0x1000 ≤ 0x1000000 := by
    rw [tilePg_vtile]
    simp only [Pg.vtile, Pg.core]
    omega
  have hatHead := (d.queueAtHead_issued_of_low hlow dom interval (inPort (10 + v) p) slot).trans hq
  rw [Dev.sqGet_vtile, Dev.sqGet_vtile] at hsq
  rw [Dev.sqGet_vtile] at hidle
  rw [tilePg_vtile, fPC_vtile, fLen_vtile] at hpc
  generalize d.issued c (10 + v) dom interval = e at *
  unfold Dev.TileFrame at hframe
  obtain ⟨⟨tl, hbegun⟩, hbegunTile⟩ := Dev.vIssue_of_one_take hissue hatHead hslots rfl
  refine ⟨Run.begun iw (d.rd (Pg.vtile c v) Reg.VTILE.PC) (e.dcyc dom) [⟨p, q, 1, []⟩], rfl, ?_, rfl, rfl, ?_, ?_, ?_, ?_, ?_⟩
  · rw [hbegunTile, hsq, hidle]
    rfl
  · rw [hbegunTile, hsq]
  · rw [hbegunTile, htile]
  · rw [hbegun, hframe]
  · rw [hbegun, hframe]
  · rw [hbegun]
    exact hpc

end Sys2Proof.Machine

namespace Sys2Proof

open Machine

theorem vDrop_takes_item (c : Fin 32) (v : Fin 2) (s : State) (dom iw q : Nat) (x : Item) (rest : List Item)
    (h : AtStep s.dev c (10 + v) dom iw) (hop : bitsOf iw 58 6 = 0x17) (hzero : bitsOf iw 0 31 = 0)
    (hunused : vUnused iw false true false false false false = false)
    (hq : s.dev.queueAtHead c (inPort (10 + v) (vSA iw / 8)) (vSA iw % 8) = some q) (hhead : s.dev.qHead q = x :: rest)
    (hfree : Tab.get (s.dev.vtGet c v).sq.portUse (vSA iw / 8) 0 ≠ s.dev.cycle + 1) :
    GivesDev (.vDrop c v) s (fun d => d.rd (Pg.vtile c v) Reg.VTILE.PC =
        (s.dev.rd (Pg.vtile c v) Reg.VTILE.PC + 1) % (s.dev.rd (Pg.vtile c v) Reg.VTILE.PROG_LEN_M1 + 1) ∧
      (d.vtGet c v).sq.runs = [] ∧ d.qHead q = rest ∧ (d.vtGet c v).slots = (s.dev.vtGet c v).slots) := by
  have hlook := Dev.looks_of_atStep h
  have hholds : s.dev.headHolds c (10 + v) (vSA iw / 8, vSA iw % 8, 1) = true := Dev.headHolds_of_cons hq hhead
  have hissue := Dev.tryIssue_of_heads (opMax := 0x17) (takes := [(vSA iw / 8, vSA iw % 8, 1)]) (put := none) (interval := 1)
    (plan := planVDrop) hlook hop (by decide) (by simp [planVDrop, hzero, hunused, srcTake]) (by simpa [mergeTakes] using hholds) rfl
  obtain ⟨r, hopRun, hruns, hsegs, hacted, huse, hslots, hqs, hcycle, hpc⟩ := Dev.vIssue_takeIssued h hissue hq
    (by simp only [Dev.vSlots, hop])
  have hport : vSA iw / 8 < 4 := by
    have hlt := bitsOf_lt iw 49 5
    unfold vSA
    omega
  rw [← huse, ← hcycle] at hfree
  rw [Dev.qHead, ← hqs] at hhead
  obtain ⟨d1, r1, htake, htook⟩ := Dev.takeCycle_tookLast (m := dom) hruns hsegs hacted hport hfree hhead (Dev.qCore_of_queueAtHead hq)
  have hop0 := hopRun.trans hop
  have hlast : LastTakes s.dev c v dom 0x17 planVDrop d1 r1 :=
    ⟨hlook.dom_eq, ⟨r, hruns, hop0⟩, htake, htook.runs, htook.op_eq.trans hop0, htook.taken⟩
  refine (givesDev_of_last_takes (i := .vDrop c v) (finish := fun d _ _ => some ⟨d, [], 0, 0⟩) hlast rfl rfl
    (VRes.pending_of_tl rfl c v)).mono (fun d hd => ?_)
  obtain ⟨hended, -, -, hidle⟩ := hd
  refine ⟨?_, hidle, ?_, ?_⟩
  · rw [hended.low _ _ (by decide), ← hpc]
    exact htook.words _ (by decide) (by decide) rfl
  · have hend := hended.frame
    rw [hend]
    exact htook.head
  · obtain ⟨begins, ends, at_, scratch, hdone⟩ := hended.tile
    rw [hdone, ← hslots, ← htook.slots]
    rfl

/-- Settles O42, clause by clause: SST through the bytes its flits store, SLD as a step that reads the scratch, EMIT and PHOLD through
their issue and the put after it, DROP through its issue, its take cycle and the end of the step. EP is taken modulo LEN, as log 144
chooses, and EMIT reads its slot at issue, as log 17 does. -/
theorem vectorTileMoves : Obligations.VectorTileMoves :=
  ⟨sst_stores, sld_loads, vEmit_puts_slot, vPhold_puts_placeholder, vDrop_takes_item⟩

end Sys2Proof
end

section
/-!
PROOFS of 07_buffer_tiles_and_stripes.md: bulk writes and reads of B tile memory (R207, R211, R212, R217).
-/

namespace Sys2Proof.Machine

/-! ### A flit stored in a memory -/

/-- From `m` to `m'` the 32 bytes of flit `x` were stored at address `a`, and no other byte changed. -/
def Memory.FlitStored (m m' : Memory) (a : Nat) (x : Item) : Prop :=
  (∀ k < 32, Memory.read m' (a + k) 0 = (leBytes 32 x.data.toNat).getD k 0) ∧
    ∀ k, (k < a ∨ a + 32 ≤ k) → Memory.read m' k 0 = Memory.read m k 0

theorem Memory.flitStored_writeList (m : Memory) (a : Nat) (x : Item) :
    Memory.FlitStored m (Memory.writeList m a (leBytes 32 x.data.toNat) 0) a x := by
  have hlen := length_leBytes 32 x.data.toNat
  constructor
  · intro k hk
    rw [← hlen] at hk
    rw [Memory.read_writeList_same hk, List.getD_eq_getElem _ _ hk]
  · intro k hk
    rw [Memory.read_writeList_other (by rwa [hlen])]

theorem Dev.bStore_bmem (d : Dev) (c b a : Nat) (bs : List Byte) :
    (d.bStore c b a bs).mem.bmem = Memory.writeList d.mem.bmem (bBase c b + a) bs 0 := by
  rw [← Dev.armedFor_mem d 0 (Pg.btile c b / 4096)]
  rfl

theorem Dev.bStore_qs (d : Dev) (c b a : Nat) (bs : List Byte) : (d.bStore c b a bs).qs = d.qs :=
  d.armedFor_qs 0 (Pg.btile c b / 4096)

/-! ### An access of the bulk port (R207, R212, R217) -/

theorem Dev.ReadFrame.mem_eq {d e : Dev} (h : d.ReadFrame e) : e.mem = d.mem := by
  unfold Dev.ReadFrame at h
  rw [h]

theorem Dev.bTake_bmem (d : Dev) (c b p : Nat) (banks : List Nat) : (d.bTake c b p banks).mem.bmem = d.mem.bmem := by
  rw [Dev.bTake, Dev.count_mem]

/-- Whether a bulk access is allowed is a matter of registers: the bulk range, the windows and the states of the domains. -/
theorem Dev.bBulkOk_congr {d e : Dev} (h : e.regs = d.regs) (c b w n : Nat) (write : Bool) :
    e.bBulkOk c b w n write = d.bBulkOk c b w n write := by
  simp only [Dev.bBulkOk, Dev.running, Dev.dstate, Dev.flag, Dev.rd_congr h]

theorem Dev.bulkAccess_write {d : Dev} {c : Nat} {s : Bulk} (hkind : s.kind = 0) (hok : d.bBulkOk c s.tile (s.addr / 8) 4 true = true) :
    d.bulkAccess c s = (d.bStore c s.tile s.addr (leBytes 32 (s.payload.headD Item.zero).data.toNat)).bulkNext c
      { s with payload := s.payload.drop 1, addr := s.addr + 32 } := by
  simp only [Dev.bulkAccess, hkind, if_pos hok]

theorem Dev.bulkAccess_read {d d1 : Dev} {c v : Nat} {p : Bool} {s : Bulk} (hkind : s.kind = 3)
    (hok : d.bBulkOk c s.tile (s.addr / 8) 4 false = true) (hread : d.bReadWords c s.tile (s.addr / 8) 4 .none_ = (v, p, d1)) :
    d.bulkAccess c s = d1.bulkNext c { s with addr := s.addr + 32, got := s.got ++ [Item.ofNat v p] } := by
  simp only [Dev.bulkAccess, hkind, if_pos hok, hread]

theorem Dev.bulkNext_of_last (d : Dev) (c : Nat) {s : Bulk} (hleft : s.left = 1) : d.bulkNext c s = d.bulkEnd c { s with left := 0 } :=
  if_pos hleft.le

theorem Dev.bulkNext_of_more (d : Dev) (c : Nat) {s : Bulk} (hleft : 1 < s.left) :
    d.bulkNext c s = Serving d c { s with left := s.left - 1 } :=
  if_neg hleft.not_ge

/-- The end of a write of which no entry was refused, and which asks for no acknowledgement. -/
theorem Dev.bulkEnd_write (d : Dev) (c : Nat) {s : Bulk} (hkind : s.kind = 0) (hgood : s.bad = false)
    (hack : bitAt (Hdr.target s.hdr) 2 = false) : d.bulkEnd c s = (d.bulkIdle c).bulkServed c s.tile := by
  simp only [Dev.bulkEnd, hkind, hgood, Dev.ldrRecordBad_good, Dev.bulkAck, hack, Bool.false_eq_true, if_false]
  rfl

/-- The end of a read sends the flits it got to the requester. -/
theorem Dev.bulkEnd_read (d : Dev) (c : Nat) {s : Bulk} (hkind : s.kind = 3) : d.bulkEnd c s =
    (((d.bulkIdle c).sendPacket c (Hdr.srcn s.hdr) 4 (Hdr.target s.hdr) (Hdr.addr s.hdr) (Hdr.txid s.hdr) (Hdr.cls s.hdr) s.got none
      false).2).bulkServed c s.tile := by
  simp only [Dev.bulkEnd, hkind]
  rfl

/-! ### The bulk port waits (R207, R217) -/

theorem Dev.act_of_transReq {d : Dev} {c b p : Nat} {r : BReq} (h : r ∈ d.transReq c b p) : r.act = .trans p := by
  unfold Dev.transReq at h
  split at h
  · cases h
  · obtain ⟨-, hr⟩ := List.mem_ite_nil_right.mp h
    rw [List.mem_singleton.mp hr]

theorem Dev.act_of_landReq {d : Dev} {c b p : Nat} {r : BReq} (h : r ∈ d.landReq c b p) : r.act = .land p := by
  unfold Dev.landReq at h
  split at h
  · cases h
  · obtain ⟨-, hr⟩ := List.mem_ite_nil_right.mp h
    rw [List.mem_singleton.mp hr]

/-- The bulk port asks for port 3 (R207). -/
theorem Dev.port_of_bulk_request {d : Dev} {c b : Nat} {r : BReq} (hmem : r ∈ d.btReqs c b) (hact : r.act = .bulk) : r.port = 3 := by
  have htrans (p : Nat) : r ∉ d.transReq c b p := fun h => BAct.noConfusion (hact.symm.trans (Dev.act_of_transReq h))
  have hland (p : Nat) : r ∉ d.landReq c b p := fun h => BAct.noConfusion (hact.symm.trans (Dev.act_of_landReq h))
  unfold Dev.btReqs at hmem
  simp only [List.mem_append, htrans, hland, false_or, List.mem_filterMap, Option.ite_none_right_eq_some, Option.some.injEq] at hmem
  obtain (⟨_, _, -, rfl⟩ | ⟨_, _, -, rfl⟩) | hbulk := hmem
  · cases hact
  · rfl
  · split at hbulk
    · obtain ⟨-, hbulk⟩ := List.mem_ite_nil_right.mp hbulk
      split at hbulk
      · rw [List.mem_singleton.mp hbulk]
      · cases hbulk
    · cases hbulk

/-- While port 3 of its tile is used, a service that is not a queue push waits. -/
theorem Dev.bulkTurn_of_used {d : Dev} {c : Nat} {s : Bulk} (hserved : Tab.get d.mem.bulk c none = some s) (hkind : s.kind ≠ 2)
    (hused : d.bUsed (4 * c + s.tile) 3 = true) : d.bulkTurn c = d := by
  have hstays : ¬ (s.kind = 2 ∧ (d.qMode s.q = 3 ∨ d.qFull s.q = true)) := fun h => hkind h.1
  simp only [Dev.bulkTurn, hserved, if_neg hstays]
  split
  · rfl
  next r hfind =>
    have hport : r.port = 3 := Dev.port_of_bulk_request (List.mem_of_find?_eq_some hfind) (beq_iff_eq.mp (List.find?_some hfind :))
    have hgrant : d.bGrant (4 * c + s.tile) (d.btReqs c s.tile) r = false := by simp [Dev.bGrant, hport, hused]
    rw [hgrant]
    rfl

/-! ### Which service a packet begins (R217, R239) -/

/-- The service of the B_TILE_WRITE with header `h`. -/
def writeService (h : Nat) (payload : List Item) : Bulk :=
  ⟨0, h, 0, Hdr.target h % 4, Hdr.addr h, payload, [], payload.length, false⟩

/-- The service of the READ_REQUEST of one flit with header `h`. -/
def readService (h : Nat) : Bulk := ⟨3, h, 0, Hdr.target h % 4, Hdr.addr h, [], [], 1, false⟩

section
variable {d d1 : Dev} {c h : Nat} {payload : List Item} (hpop : d.popPacket c 0 = some (h, payload, d1))
include hpop

theorem Dev.bTileWrite_of_busy (hbusy : d.bulkFree c (Hdr.target h % 4) = false) : d.bTileWrite c = d := by
  simp only [Dev.bTileWrite, hpop, if_pos hbusy]

variable (hfree : d.bulkFree c (Hdr.target h % 4) = true)
include hfree

theorem Dev.bTileWrite_of_misaligned (halign : Hdr.addr h % 32 ≠ 0) : d.bTileWrite c =
    (((d1.bBulkMiss c (Hdr.target h % 4) (Hdr.addr h / 8)).ldrRecordBad c h true).bulkAck c h true).bulkServed c (Hdr.target h % 4) := by
  simp only [Dev.bTileWrite, hpop, hfree, Bool.true_eq_false, if_false, if_pos halign]

theorem Dev.bTileWrite_of_aligned (halign : Hdr.addr h % 32 = 0) : d.bTileWrite c = d1.bulkStart c (writeService h payload) := by
  simp only [Dev.bTileWrite, hpop, hfree, Bool.true_eq_false, if_false, halign, ne_eq, not_true_eq_false]
  rfl

end

/-- A write that has its B tile to itself stores its first flit at once, and goes on with the others. -/
theorem Dev.bTileWrite_stores {d d1 : Dev} {c h : Nat} {x : Item} {rest : List Item}
    (hpop : d.popPacket c 0 = some (h, x :: rest, d1)) (hfree : d.bulkFree c (Hdr.target h % 4) = true) (halign : Hdr.addr h % 32 = 0)
    (halone : BulkAlone (Serving d1 c (writeService h (x :: rest))) c (Hdr.target h % 4) (Hdr.addr h / 8))
    (hok : d.bBulkOk c (Hdr.target h % 4) (Hdr.addr h / 8) 4 true = true) :
    ∃ e : Dev, e.qs = d.qs ∧ Memory.FlitStored d.mem.bmem e.mem.bmem (bBase c (Hdr.target h % 4) + Hdr.addr h) x ∧
      d.bTileWrite c = e.bulkNext c { writeService h (x :: rest) with payload := rest, addr := Hdr.addr h + 32 } := by
  obtain ⟨hregs, hmem, hqs⟩ := Dev.popPacket_keeps hpop
  have hregs' := ((Serving d1 c (writeService h (x :: rest))).bTake_regs c (Hdr.target h % 4) 3 (banksOf (Hdr.addr h / 8) 4)).trans hregs
  have hstart := Dev.bulkStart_of_alone (s := writeService h (x :: rest)) (Nat.succ_ne_zero _) (fun h2 => nomatch h2) halone
  rw [Dev.bTileWrite_of_aligned hpop hfree halign, hstart]
  refine ⟨_, ?_, ?_, Dev.bulkAccess_write rfl ((Dev.bBulkOk_congr hregs' _ _ _ _ _).trans hok)⟩
  · rw [Dev.bStore_qs, Dev.bTake_qs]
    exact hqs
  · have hbmem : (Serving d1 c (writeService h (x :: rest))).mem.bmem = d.mem.bmem := by
      rw [← hmem]
      rfl
    rw [Dev.bStore_bmem, Dev.bTake_bmem, hbmem]
    exact Memory.flitStored_writeList _ _ x

theorem Dev.readRequest_of_aligned {d d1 : Dev} {c h : Nat} {payload : List Item} (hpop : d.popPacket c 3 = some (h, payload, d1))
    (hfree : d.bulkFree c (Hdr.target h % 4) = true) (halign : Hdr.addr h % 32 = 0) (hone : bitsOf (Hdr.target h) 6 10 = 0) :
    d.readRequest c = d1.bulkStart c (readService h) := by
  have hlen : ¬ (0 + 1 = 1024) := by decide
  simp only [Dev.readRequest, hpop, hfree, hone, halign, hlen, Bool.true_eq_false, if_false, ne_eq, not_true_eq_false]
  rfl

/-- A read that has its B tile to itself reads its flit at once; no byte changes. -/
theorem Dev.bulkStart_read {d d3 : Dev} {c h v : Nat} {p : Bool}
    (halone : BulkAlone (Serving d c (readService h)) c (Hdr.target h % 4) (Hdr.addr h / 8))
    (hok : d.bBulkOk c (Hdr.target h % 4) (Hdr.addr h / 8) 4 false = true)
    (hread : ((Serving d c (readService h)).bTake c (Hdr.target h % 4) 3 (banksOf (Hdr.addr h / 8) 4)).bReadWords c (Hdr.target h % 4)
      (Hdr.addr h / 8) 4 .none_ = (v, p, d3)) :
    d3.mem.bmem = d.mem.bmem ∧
      d.bulkStart c (readService h) =
        d3.bulkEnd c { readService h with addr := Hdr.addr h + 32, got := [Item.ofNat v p], left := 0 } := by
  have htaken := (Serving d c (readService h)).bTake_regs c (Hdr.target h % 4) 3 (banksOf (Hdr.addr h / 8) 4)
  constructor
  · have hframe := (Dev.bReadWords_readFrame ((Serving d c (readService h)).bTake c (Hdr.target h % 4) 3 (banksOf (Hdr.addr h / 8) 4)) c
      (Hdr.target h % 4) (Hdr.addr h / 8) 4 .none_).mem_eq
    rw [hread] at hframe
    rw [hframe]
    exact Dev.bTake_bmem _ _ _ _ _
  · have hfirst := Dev.bulkStart_of_alone (s := readService h) one_ne_zero (fun h2 => nomatch h2) halone
    have haccess := Dev.bulkAccess_read (s := readService h) rfl ((Dev.bBulkOk_congr htaken _ _ _ _ _).trans hok) hread
    exact hfirst.trans (haccess.trans (Dev.bulkNext_of_last _ _ rfl))

/-! ### Packets sent leave the page of a B tile alone (R90) -/

theorem Pg.apart_btile_xnode (c : Fin 32) {b : Nat} (hb : b < 4) (n : Nat) : Pg.Apart (Pg.btile c b) (Pg.xnode n) :=
  ⟨by simp only [Pg.btile, Pg.core]; omega, by simp only [Pg.btile, Pg.core]; omega, by simp only [Pg.btile, Pg.xnode, Pg.core]; omega⟩

/-- A packet that finds no route is reported on the page of a switch node only. -/
theorem Dev.keepsPage_pickWay {base : Nat} (h : ∀ n, Pg.Apart base (Pg.xnode n)) {d e : Dev} {src dest : Nat} {dom : Option Nat}
    {way : Option (Option Nat)} (hpick : d.pickWay src dest dom = (way, e)) : d.KeepsPage base e := by
  unfold Dev.pickWay at hpick
  split at hpick
  · cases hpick
    exact Dev.keepsPage_of_regs _ rfl
  · cases hpick
    exact d.keepsPage_raise (h _) _ _

theorem Dev.keepsPage_sendPacket {base : Nat} (h : ∀ n, Pg.Apart base (Pg.xnode n)) (d : Dev) (src dest kind target addr txid cls : Nat)
    (payload : List Item) (dom : Option Nat) (psum : Bool) (own : Nat) :
    d.KeepsPage base (d.sendPacket src dest kind target addr txid cls payload dom psum own).2 := by
  unfold Dev.sendPacket
  dsimp only
  split
  · exact Dev.keepsPage_of_regs _ rfl
  · split
    next hpick => exact Dev.keepsPage_pickWay h hpick
    next hpick =>
      refine (Dev.keepsPage_pickWay h hpick).trans (Dev.keepsPage_of_regs _ ?_)
      dsimp only
      split <;> rfl

theorem Dev.bulkAck_mem (d : Dev) (c h : Nat) (bad : Bool) : (d.bulkAck c h bad).mem = d.mem := by
  unfold Dev.bulkAck
  split
  · exact Dev.sendPacket_mem _ _ _ _ _ _ _ _ _ _ _ _
  · rfl

theorem Dev.keepsPage_bulkAck {base : Nat} (hapart : ∀ n, Pg.Apart base (Pg.xnode n)) (d : Dev) (c h : Nat) (bad : Bool) :
    d.KeepsPage base (d.bulkAck c h bad) := by
  unfold Dev.bulkAck
  split
  · exact Dev.keepsPage_sendPacket hapart _ _ _ _ _ _ _ _ _ _ _ _
  · exact Dev.keepsPage_of_regs _ rfl

theorem Dev.ldrRecordBad_keeps (d : Dev) (c h : Nat) (bad : Bool) :
    (d.ldrRecordBad c h bad).regs = d.regs ∧ (d.ldrRecordBad c h bad).mem = d.mem := by
  unfold Dev.ldrRecordBad
  split
  · split <;> exact ⟨rfl, rfl⟩
  · exact ⟨rfl, rfl⟩

end Sys2Proof.Machine

namespace Sys2Proof

open Machine

/-! ### The clauses of O43 -/

theorem bTileWrite_stores_one (c : Fin 32) (s : State) (h b : Nat) (x : Item) (d1 d2 : Dev)
    (hpop : s.dev.popPacket c 0 = some (h, [x], d1)) (hb : b = Hdr.target h % 4) (halign : Hdr.addr h % 32 = 0)
    (hack : bitAt (Hdr.target h) 2 = false) (hfree : s.dev.bulkFree c b = true)
    (hd2 : d2 = Serving d1 c ⟨0, h, 0, b, Hdr.addr h, [x], [], 1, false⟩) (halone : BulkAlone d2 c b (Hdr.addr h / 8))
    (hok : s.dev.bBulkOk c b (Hdr.addr h / 8) 4 true = true) :
    GivesDev (.bTileWrite c) s (fun d => Tab.get d.mem.bulk c none = none ∧ d.qs = s.dev.qs ∧
      Memory.FlitStored s.dev.mem.bmem d.mem.bmem (bBase c b + Hdr.addr h) x) := by
  subst hb hd2
  obtain ⟨e, hqs, hstored, hwrite⟩ := Dev.bTileWrite_stores hpop hfree halign halone hok
  refine givesDev_of_eq (e := (e.bulkIdle c).bulkServed c (Hdr.target h % 4)) rfl ?_ ⟨Dev.bulkIdle_served_bulk _ _ _, ?_, ?_⟩
  · rw [hwrite, Dev.bulkNext_of_last _ _ rfl]
    exact Dev.bulkEnd_write _ _ rfl rfl hack
  · rw [Dev.bulkIdle_served_qs, hqs]
  · rw [Dev.bulkServed, Dev.count_mem]
    exact hstored

theorem bTileWrite_goes_on (c : Fin 32) (s : State) (h b : Nat) (x y : Item) (rest : List Item) (d1 d2 : Dev)
    (hpop : s.dev.popPacket c 0 = some (h, x :: y :: rest, d1)) (hb : b = Hdr.target h % 4) (halign : Hdr.addr h % 32 = 0)
    (hfree : s.dev.bulkFree c b = true)
    (hd2 : d2 = Serving d1 c ⟨0, h, 0, b, Hdr.addr h, x :: y :: rest, [], rest.length + 2, false⟩)
    (halone : BulkAlone d2 c b (Hdr.addr h / 8)) (hok : s.dev.bBulkOk c b (Hdr.addr h / 8) 4 true = true) :
    GivesDev (.bTileWrite c) s (fun d =>
      Tab.get d.mem.bulk c none = some ⟨0, h, 0, b, Hdr.addr h + 32, y :: rest, [], rest.length + 1, false⟩ ∧
      Memory.FlitStored s.dev.mem.bmem d.mem.bmem (bBase c b + Hdr.addr h) x) := by
  subst hb hd2
  obtain ⟨e, -, hstored, hwrite⟩ := Dev.bTileWrite_stores hpop hfree halign halone hok
  exact givesDev_of_eq rfl (hwrite.trans (e.bulkNext_of_more c (Nat.succ_lt_succ (Nat.succ_pos _)))) ⟨Serving_bulk _ _ _, hstored⟩

theorem bTileWrite_waits_for_port (c : Fin 32) (s : State) (h b : Nat) (x : Item) (payload : List Item) (d1 : Dev)
    (hpop : s.dev.popPacket c 0 = some (h, x :: payload, d1)) (hb : b = Hdr.target h % 4) (halign : Hdr.addr h % 32 = 0)
    (hfree : s.dev.bulkFree c b = true) (hused : s.dev.bUsed (4 * c + b) 3 = true) :
    GivesDev (.bTileWrite c) s (fun d => d = Serving d1 c ⟨0, h, 0, b, Hdr.addr h, x :: payload, [], payload.length + 1, false⟩) := by
  subst hb
  obtain ⟨-, hmem, -⟩ := Dev.popPacket_keeps hpop
  have hused' : (Serving d1 c (writeService h (x :: payload))).bUsed (4 * c + Hdr.target h % 4) 3 = true := by
    rw [← hused, Dev.bUsed, Dev.bUsed, ← hmem]
    rfl
  have hwaits := Dev.bulkTurn_of_used (Serving_bulk d1 c (writeService h (x :: payload))) (fun h2 => nomatch h2) hused'
  have hleft : (writeService h (x :: payload)).left ≠ 0 := Nat.succ_ne_zero _
  exact givesDev_of_eq rfl ((Dev.bTileWrite_of_aligned hpop hfree halign).trans ((d1.bulkStart_of_left c hleft).trans hwaits)) rfl

theorem bTileWrite_misaligned (c : Fin 32) (s : State) (h b : Nat) (payload : List Item) (d1 : Dev)
    (hpop : s.dev.popPacket c 0 = some (h, payload, d1)) (hb : b = Hdr.target h % 4) (hfree : s.dev.bulkFree c b = true)
    (halign : Hdr.addr h % 32 ≠ 0) :
    GivesDev (.bTileWrite c) s (fun d => d.mem = s.dev.mem ∧ bitAt (d.rd (Pg.btile c b) Reg.HDR.FLT_STAT) 3 = true) := by
  subst hb
  obtain ⟨-, hmem, -⟩ := Dev.popPacket_keeps hpop
  have htile : Hdr.target h % 4 < 4 := Nat.mod_lt _ (by decide)
  have hraised : bitAt ((d1.bBulkMiss c (Hdr.target h % 4) (Hdr.addr h / 8)).rd (Pg.btile c (Hdr.target h % 4))
      Reg.HDR.FLT_STAT) 3 = true :=
    Dev.fltStat_raiseFull _ _ _ _ (by decide)
  have hmiss : (d1.bBulkMiss c (Hdr.target h % 4) (Hdr.addr h / 8)).mem = d1.mem :=
    (d1.bBulkMiss_readFrame _ _ _).mem_eq
  generalize hd2 : d1.bBulkMiss c (Hdr.target h % 4) (Hdr.addr h / 8) = d2 at hraised hmiss
  obtain ⟨hregs3, hmem3⟩ := d2.ldrRecordBad_keeps c h true
  have hkeeps := Dev.keepsPage_bulkAck (Pg.apart_btile_xnode c htile) (d2.ldrRecordBad c h true) c h true
  refine givesDev_of_eq rfl (Dev.bTileWrite_of_misaligned hpop hfree halign) ⟨?_, ?_⟩
  · rw [Dev.bulkServed, Dev.count_mem, Dev.bulkAck_mem, hd2, hmem3, hmiss, hmem]
  · rw [Dev.bulkServed, Dev.rd_congr (Dev.count_regs _ _ _ _ _), hd2, hkeeps.rd (by decide), Dev.rd_congr hregs3, hraised]

theorem bTileWrite_waits_for_service (c : Fin 32) (s : State) (h b : Nat) (payload : List Item) (d1 : Dev)
    (hpop : s.dev.popPacket c 0 = some (h, payload, d1)) (_ : b = Hdr.target h % 4)
    (hserved : (Tab.get s.dev.mem.bulk c none).isSome = true) : GivesDev (.bTileWrite c) s (fun d => d = s.dev) := by
  have hbusy : s.dev.bulkFree c (Hdr.target h % 4) = false := by
    rw [Dev.bulkFree, Option.isNone_eq_false_iff.mpr hserved, Bool.false_and]
  exact givesDev_of_eq rfl (Dev.bTileWrite_of_busy hpop hbusy) rfl

theorem readRequest_answers (c : Fin 32) (s : State) (h b v : Nat) (p : Bool) (payload : List Item) (d1 d2 d3 : Dev)
    (hpop : s.dev.popPacket c 3 = some (h, payload, d1)) (hb : b = Hdr.target h % 4) (halign : Hdr.addr h % 32 = 0)
    (hone : bitsOf (Hdr.target h) 6 10 = 0) (hfree : s.dev.bulkFree c b = true)
    (hd2 : d2 = Serving d1 c ⟨3, h, 0, b, Hdr.addr h, [], [], 1, false⟩) (halone : BulkAlone d2 c b (Hdr.addr h / 8))
    (hok : s.dev.bBulkOk c b (Hdr.addr h / 8) 4 false = true)
    (hread : (d2.bTake c b 3 (banksOf (Hdr.addr h / 8) 4)).bReadWords c b (Hdr.addr h / 8) 4 .none_ = (v, p, d3)) :
    GivesDev (.readRequest c) s (fun d => d.mem.bmem = s.dev.mem.bmem ∧
      d = ((({ d3 with mem := { d3.mem with bulk := Tab.set d3.mem.bulk c none none } } : Dev).sendPacket c (Hdr.srcn h) 4 (Hdr.target h)
        (Hdr.addr h) (Hdr.txid h) (Hdr.cls h) [Item.ofNat v p] none false).2).bulkServed c b) := by
  subst hb hd2
  obtain ⟨hregs, hmem, -⟩ := Dev.popPacket_keeps hpop
  obtain ⟨hbmem, hstart⟩ := Dev.bulkStart_read halone ((Dev.bBulkOk_congr hregs _ _ _ _ _).trans hok) hread
  have hend := (Dev.readRequest_of_aligned hpop hfree halign hone).trans (hstart.trans (d3.bulkEnd_read c rfl))
  refine givesDev_of_eq rfl hend ⟨?_, rfl⟩
  rw [Dev.bulkServed, Dev.count_mem, Dev.sendPacket_mem, ← hmem, ← hbmem]
  rfl

/-- Settles O43, clause by clause. That a core serves one packet at a time and makes the first access in the command's own cycle is the
model's choice (logs 57, 145). -/
theorem bulkPacketsAccessTiles : Obligations.BulkPacketsAccessTiles :=
  ⟨bTileWrite_stores_one, bTileWrite_goes_on, bTileWrite_waits_for_port, bTileWrite_misaligned, bTileWrite_waits_for_service,
    readRequest_answers⟩

end Sys2Proof
end

section
/-!
PROOFS of 07_buffer_tiles_and_stripes.md: the scrubber of a B tile and its initialisation (R213, R215, R216).
-/

namespace Sys2Proof.Machine

/-! ### Scrub accesses (R213, R216) -/

/-- A word without an error pattern is delivered as stored. -/
theorem eccDecode_zero (d : Dev) (data : Nat) : eccDecode d 0 data = (.clean, data, d) := by
  have hsymbols : symbolsIn 19 0 = 0 := by decide
  simp only [eccDecode, hsymbols, if_true]

/-- The scrubber accesses `banks` of its tile on port 3, an access that event `ev` counts; it leaves memories `m`. -/
def Dev.scrubAccess (d : Dev) (c b : Nat) (m : Mem) (banks : List Nat) (ev : Nat) : Dev :=
  (({ d with mem := m } : Dev).bTake c b 3 banks).count (Pg.btile c b) 0xF ev

theorem Dev.scrubAccess_mem (d : Dev) (c b : Nat) (m : Mem) (banks : List Nat) (ev : Nat) :
    (d.scrubAccess c b m banks ev).mem = { m with buse := (4 * c + b, 3, banks) :: m.buse } := by
  rw [Dev.scrubAccess, Dev.count_mem, Dev.bTake, Dev.count_mem]

theorem Dev.scrubAccess_frame (d : Dev) (c b : Nat) (m : Mem) (banks : List Nat) (ev : Nat) :
    d.scrubAccess c b m banks ev = { d with mem := (d.scrubAccess c b m banks ev).mem, perf := (d.scrubAccess c b m banks ev).perf } := by
  rw [Dev.scrubAccess, Dev.count_frame, Dev.bTake, Dev.count_frame]

/-- The memories once the scrubber of tile `b` has moved on by one access. -/
def Dev.scrubMoved (d : Dev) (c b : Nat) : Mem :=
  { d.mem with
    bscrub := Tab.set d.mem.bscrub (4 * c + b) ((Tab.get d.mem.bscrub (4 * c + b) 0 + 4) % 0x20000) 0
    scrubDue := Tab.set d.mem.scrubDue (4 * c + b) ((if Tab.get d.mem.scrubDue (4 * c + b) 0 = 0 then d.cycle
      else Tab.get d.mem.scrubDue (4 * c + b) 0) + d.scrubGap c b) 0 }

/-- What the scrubber of tile `b` does with word `w0 + i`: `acc` says whether it corrected one before, and the device. -/
def Dev.scrubWord (c b w0 : Nat) (acc : Bool × Dev) (i : Nat) : Bool × Dev :=
  match eccDecode acc.2 (Tab.get acc.2.mem.berr ((4 * c + b) * 0x20000 + (w0 + i)) 0) (acc.2.bRaw c b (w0 + i)) with
  | (.clean, _, d1) => (acc.1, d1)
  | (.corrected, _, d1) => (true, { d1.bump (Pg.btile c b) Reg.BTILE.BT_CORR with mem :=
      { (d1.bump (Pg.btile c b) Reg.BTILE.BT_CORR).mem with
        bscrubWb := (d1.bump (Pg.btile c b) Reg.BTILE.BT_CORR).mem.bscrubWb ++ [(4 * c + b, w0 + i)] } })
  | (.uncorrectable, _, d1) => (acc.1, d1.bUe c b (w0 + i) true .none_)

theorem Dev.scrubWord_of_clean {c b w0 i : Nat} {acc : Bool × Dev}
    (hclean : Tab.get acc.2.mem.berr ((4 * c + b) * 0x20000 + (w0 + i)) 0 = 0) : Dev.scrubWord c b w0 acc i = acc := by
  unfold Dev.scrubWord
  rw [hclean, eccDecode_zero]

/-- A scrub access that is due and has its turn reads its four words. -/
theorem Dev.btScrub_of_turn {d : Dev} {c b w0 : Nat} {words : Bool × Dev} (hw0 : w0 = Tab.get d.mem.bscrub (4 * c + b) 0)
    (hdue : d.scrubDueNow c b = true) (hturn : d.scrubTurn c b w0 4 = true)
    (hwords : words = (List.range 4).foldl (Dev.scrubWord c b w0) (false, d.scrubAccess c b (d.scrubMoved c b) (banksOf w0 4) 4)) :
    d.btScrub c b = if words.1 then words.2.count (Pg.btile c b) 0xF 3 else words.2 := by
  subst hw0
  have hgo : ¬ ((!true || !true) = true) := by decide
  simp only [Dev.btScrub, hdue, hturn, if_neg hgo]
  generalize hreads : List.foldl _ _ (List.range 4) = reads
  have hreads' : reads = words := by
    rw [hwords, ← hreads]
    exact congrArg₂ (fun f x => List.foldl f x (List.range 4)) rfl rfl
  rw [hreads']

/-- A scrub access that finds no error only moves on. -/
theorem Dev.btScrub_of_clean {d : Dev} {c b w0 : Nat} (hw0 : w0 = Tab.get d.mem.bscrub (4 * c + b) 0)
    (hdue : d.scrubDueNow c b = true) (hturn : d.scrubTurn c b w0 4 = true)
    (hclean : ∀ i < 4, Tab.get d.mem.berr ((4 * c + b) * 0x20000 + (w0 + i)) 0 = 0) :
    d.btScrub c b = d.scrubAccess c b (d.scrubMoved c b) (banksOf w0 4) 4 := by
  have hberr : (d.scrubAccess c b (d.scrubMoved c b) (banksOf w0 4) 4).mem.berr = d.mem.berr := by
    rw [Dev.scrubAccess_mem, Dev.scrubMoved]
  generalize hd0 : d.scrubAccess c b (d.scrubMoved c b) (banksOf w0 4) 4 = d0 at hberr
  have hquiet : (List.range 4).foldl (Dev.scrubWord c b w0) (false, d0) = (false, d0) :=
    List.foldlRecOn (motive := fun acc => acc = (false, d0)) _ _ rfl (fun acc hacc i hi => by
      rw [hacc]
      exact Dev.scrubWord_of_clean (by rw [hberr, hclean i (List.mem_range.mp hi)]))
  exact Dev.btScrub_of_turn hw0 hdue hturn (by rw [hd0, hquiet])

/-- The oldest corrected word of the tile is written back when port 3 and its bank are free. -/
theorem Dev.btScrubWriteback_of_turn {d : Dev} {c b : Nat} {e : Nat × Nat}
    (hfind : d.mem.bscrubWb.find? (fun e => e.1 == 4 * c + b) = some e) (hturn : d.scrubTurn c b e.2 1 = true) :
    d.btScrubWriteback c b = d.scrubAccess c b { d.mem with
      berr := Tab.set d.mem.berr ((4 * c + b) * 0x20000 + e.2) 0 0
      bscrubWb := d.mem.bscrubWb.erase e } (banksOf e.2 1) 5 := by
  simp only [Dev.btScrubWriteback, hfind, hturn]
  rfl

/-! ### Initialisation (R215) -/

theorem Tab.get_filter {α : Type} (p : Nat → Bool) (k : Nat) (v : α) :
    ∀ t : Tab α, Tab.get (t.filter (fun e => p e.1)) k v = if p k then Tab.get t k v else v
  | [] => (ite_self v).symm
  | (j, w) :: r => by
    by_cases hj : p j
    · rw [List.filter_cons_of_pos (p := fun e : Nat × α => p e.1) hj]
      by_cases hjk : j = k
      · subst hjk
        simp [Tab.get, hj]
      · simp only [Tab.get, if_neg hjk, Tab.get_filter p k v r]
    · rw [List.filter_cons_of_neg (p := fun e : Nat × α => p e.1) hj, Tab.get_filter p k v r]
      by_cases hjk : j = k
      · subst hjk
        simp [hj]
      · simp only [Tab.get, if_neg hjk]

/-- A tile that was not READY is READY, and its MiB holds no byte but 0. -/
theorem Dev.btInitDone_of_not_ready {d : Dev} {c b : Nat} (hready : d.flag (Pg.btile c b) Reg.HDR.READY = false) :
    ∃ m : Mem, (m.bmem = d.mem.bmem.filter (fun e => decide (e.1 < bBase c b ∨ bBase c b + 0x100000 ≤ e.1))) ∧
      d.btInitDone c b = ({ d with mem := m } : Dev).wr (Pg.btile c b) Reg.HDR.READY 1 := by
  unfold Dev.btInitDone
  rw [hready]
  exact ⟨_, rfl, rfl⟩

end Sys2Proof.Machine

namespace Sys2Proof

open Machine

/-! ### The clauses of O21 -/

theorem btScrub_moves_on (c : Fin 32) (b : Fin 4) (s : State) (hdue : s.dev.scrubDueNow c b = true)
    (hturn : s.dev.scrubTurn c b (Tab.get s.dev.mem.bscrub (4 * c.val + b.val) 0) 4 = true)
    (hclean : ∀ i < 4,
      Tab.get s.dev.mem.berr ((4 * c.val + b.val) * 0x20000 + (Tab.get s.dev.mem.bscrub (4 * c.val + b.val) 0 + i)) 0 = 0) :
    GivesDev (.btScrub c b) s (fun d => d = { s.dev with mem := d.mem, perf := d.perf } ∧
      d.mem.bmem = s.dev.mem.bmem ∧ d.mem.berr = s.dev.mem.berr ∧ d.mem.bscrubWb = s.dev.mem.bscrubWb ∧
      Tab.get d.mem.bscrub (4 * c.val + b.val) 0 = (Tab.get s.dev.mem.bscrub (4 * c.val + b.val) 0 + 4) % 0x20000) := by
  refine givesDev_of_eq rfl (Dev.btScrub_of_clean rfl hdue hturn hclean) ⟨Dev.scrubAccess_frame _ _ _ _ _ _, ?_⟩
  rw [Dev.scrubAccess_mem]
  exact ⟨rfl, rfl, rfl, by simp only [Dev.scrubMoved, Tab.get_set_same]⟩

theorem btScrubWriteback_clears (c : Fin 32) (b : Fin 4) (s : State) (e : Nat × Nat)
    (hfind : s.dev.mem.bscrubWb.find? (fun e => e.1 == 4 * c.val + b.val) = some e) (hturn : s.dev.scrubTurn c b e.2 1 = true) :
    GivesDev (.btScrubWriteback c b) s (fun d => d = { s.dev with mem := d.mem, perf := d.perf } ∧ d.mem.bmem = s.dev.mem.bmem ∧
      Tab.get d.mem.berr ((4 * c.val + b.val) * 0x20000 + e.2) 0 = 0 ∧ d.mem.bscrubWb = s.dev.mem.bscrubWb.erase e) := by
  refine givesDev_of_eq rfl (Dev.btScrubWriteback_of_turn hfind hturn) ⟨Dev.scrubAccess_frame _ _ _ _ _ _, ?_⟩
  rw [Dev.scrubAccess_mem]
  exact ⟨rfl, by simp only [Tab.get_set_same], rfl⟩

theorem btInitDone_zeroes (c : Fin 32) (b : Fin 4) (s : State) (hready : s.dev.flag (Pg.btile c b) Reg.HDR.READY = false) :
    GivesDev (.btInitDone c b) s (fun d => d = { s.dev with mem := d.mem, regs := d.regs } ∧
      d.flag (Pg.btile c b) Reg.HDR.READY = true ∧
      (∀ k < 0x100000, Memory.read d.mem.bmem (bBase c b + k) 0 = 0) ∧
      (∀ a, (a < bBase c b ∨ bBase c b + 0x100000 ≤ a) → Memory.read d.mem.bmem a 0 = Memory.read s.dev.mem.bmem a 0)) := by
  obtain ⟨m, hbmem, hdone⟩ := Dev.btInitDone_of_not_ready hready
  have hread (a : Nat) : Memory.read m.bmem a 0 =
      if a < bBase c b ∨ bBase c b + 0x100000 ≤ a then Memory.read s.dev.mem.bmem a 0 else 0 := by
    rw [hbmem, Memory.read, Tab.get_filter (fun a => decide (a < bBase c b ∨ bBase c b + 0x100000 ≤ a))]
    simp only [decide_eq_true_eq]
    rfl
  refine givesDev_of_eq rfl hdone ⟨rfl, Dev.flag_wr_one _ _ (by decide) (by decide), fun k hk => ?_, fun a ha => ?_⟩
  · exact (hread _).trans (if_neg (by omega))
  · exact (hread a).trans (if_pos ha)

/-- Settles O21, clause by clause. -/
theorem bTileScrubs : Obligations.BTileScrubs := ⟨btScrub_moves_on, btScrubWriteback_clears, btInitDone_zeroes⟩

end Sys2Proof
end

section
/-!
PROOFS of 08_fetch_memory_translation.md: how a memory port serves a request, refreshes and scrubs (R252, R260 to R268).
-/

namespace Sys2Proof.Machine

/-! ### Numbers and lists -/

theorem leNat_leBytes : ∀ n v : Nat, leNat (leBytes n v) = v % 256 ^ n
  | 0, v => by rw [pow_zero, Nat.mod_one]; rfl
  | n + 1, v => by
    have hcut : v % (256 * 256 ^ n) = v % 256 + 256 * (v / 256 % 256 ^ n) := Nat.mod_mul
    rw [leBytes, leNat, leNat_leBytes n, BitVec.toNat_ofNat, pow_succ' 256 n, hcut]

theorem flatten_chunks {α : Type} {n : Nat} : ∀ (fuel : Nat) {l : List α}, l.length = n * fuel → (chunks fuel n l).flatten = l
  | 0, l, h => by
    rw [List.length_eq_zero_iff.mp h]
    rfl
  | fuel + 1, l, h => by
    unfold chunks
    split
    next hempty => rw [List.isEmpty_iff.mp hempty, List.flatten_nil]
    next =>
      have hrest : (l.drop n).length = n * fuel := by rw [List.length_drop, h, Nat.mul_succ, Nat.add_sub_cancel]
      rw [List.flatten_cons, flatten_chunks fuel hrest, List.take_append_drop]

theorem length_of_mem_chunks {α : Type} {n : Nat} : ∀ (fuel : Nat) {l : List α}, l.length = n * fuel →
    ∀ x ∈ chunks fuel n l, x.length = n
  | 0, _, _, x, hx => absurd hx List.not_mem_nil
  | fuel + 1, l, h, x, hx => by
    unfold chunks at hx
    split at hx
    · exact absurd hx List.not_mem_nil
    · have hrest : (l.drop n).length = n * fuel := by rw [List.length_drop, h, Nat.mul_succ, Nat.add_sub_cancel]
      rcases List.mem_cons.mp hx with rfl | hmem
      · rw [List.length_take, h, Nat.mul_succ]
        omega
      · exact length_of_mem_chunks fuel hrest x hmem

theorem getD_replicate_self {α : Type} (x : α) (n k : Nat) : (List.replicate n x).getD k x = x :=
  (List.getD_eq_getElem?_getD ..).trans (List.getElem?_getD_replicate_default_eq _ _ _)

theorem Memory.readList_congr {m m' : Memory} {d : Byte} : ∀ {n a : Nat},
    (∀ x, a ≤ x → x < a + n → Memory.read m x d = Memory.read m' x d) → Memory.readList m a n d = Memory.readList m' a n d
  | 0, _, _ => rfl
  | n + 1, a, h => by
    simp only [Memory.readList]
    rw [h a (by omega) (by omega), Memory.readList_congr (fun x hlo hhi => h x (by omega) (by omega))]

theorem Memory.readList_writeList_same {d : Byte} (m : Memory) (a : Nat) (bs : List Byte) :
    Memory.readList (Memory.writeList m a bs d) a bs.length d = bs := by
  rw [Memory.readList_eq_map]
  refine List.ext_getElem (by simp) (fun i _ hi => ?_)
  rw [List.getElem_map, List.getElem_range, Memory.read_writeList_same hi]

/-! ### What decoding leaves unchanged (R265 to R269) -/

theorem Dev.FaultFrame.mem_eq {d e : Dev} (h : d.FaultFrame e) : e.mem = d.mem := h.packetFrame.mem_eq

theorem Dev.ddrImageUe_frame (d : Dev) (p pa : Nat) : d.FaultFrame (d.ddrImageUe p pa) := by
  refine List.foldlRecOn (motive := d.FaultFrame) _ _ rfl (fun e he m _ => ?_)
  split
  · exact he.trans (e.withFlt_frame _)
  · exact he

theorem Dev.ddrCorrected_frame (d : Dev) (p j : Nat) : d.FaultFrame (d.ddrCorrected p j) := by
  have hcount : d.FaultFrame ((d.bump (Pg.memport p) Reg.MEMPORT.CORR_CNT).bump (Pg.memport p) Reg.MEMPORT.CORR_DEV 1 j) :=
    (d.wr_frame _ _ _ _).wr _ _ _ _
  unfold Dev.ddrCorrected
  dsimp only
  split
  · exact hcount.raise _ _ _
  · exact hcount

theorem Dev.ddrUe_frame (d : Dev) (p pa : Nat) (scrub : Bool) (attr : Attr) : d.FaultFrame (d.ddrUe p pa scrub attr) := by
  have hcount : d.FaultFrame (d.bump (Pg.memport p) Reg.MEMPORT.UE_CNT) := d.wr_frame _ _ _ _
  have hcapture := (((hcount.wr (Pg.memport p) Reg.MEMPORT.UE_PA_LO pa 0).wr (Pg.memport p) Reg.MEMPORT.UE_PA_HI (pa / 2 ^ 32) 0).wr
    (Pg.memport p) Reg.MEMPORT.UE_SCRUB (if scrub then 1 else 0) 0).hit (Pg.memport p) Reg.MEMPORT.UE_VALID 1 0
  unfold Dev.ddrUe
  dsimp only
  split
  · exact (hcount.raise _ _ _).trans (Dev.ddrImageUe_frame _ _ _)
  · exact (hcapture.raise _ _ _).trans (Dev.ddrImageUe_frame _ _ _)

theorem Dev.ddrBeat_frame (d : Dev) (b : Nat) (attr : Attr) : d.FaultFrame (d.ddrBeat b attr).2.2 := by
  unfold Dev.ddrBeat
  dsimp only
  split <;> dsimp only
  · rfl
  · exact d.ddrCorrected_frame _ _
  · exact d.ddrUe_frame _ _ _ _
  · rfl

theorem Dev.ddrBeats_frame (attr : Attr) : ∀ (n b : Nat) (d : Dev), d.FaultFrame (d.ddrBeats b n attr).2.2
  | 0, _, _ => rfl
  | n + 1, b, d => (d.ddrBeat_frame b attr).trans (Dev.ddrBeats_frame attr n (b + 1) _)

theorem Dev.length_ddrBeats (attr : Attr) : ∀ (n b : Nat) (d : Dev), (d.ddrBeats b n attr).1.length = 4 * n
  | 0, _, _ => rfl
  | n + 1, b, d => by
    have hrest := Dev.length_ddrBeats attr n (b + 1) (d.ddrBeat b attr).2.2
    simp only [Dev.ddrBeats, List.length_append, length_leBytes, hrest]
    omega

theorem Dev.ddrRead_frame (d : Dev) (pa len : Nat) (attr : Attr) : d.FaultFrame (d.ddrRead pa len attr).2.2 :=
  Dev.ddrBeats_frame attr _ _ _

theorem Dev.length_ddrRead (d : Dev) (pa len : Nat) (attr : Attr) : (d.ddrRead pa len attr).1.length = len := by
  simp only [Dev.ddrRead, List.length_take, List.length_drop, Dev.length_ddrBeats]
  omega

/-! ### Beats stored (R261, R267, R268) -/

theorem Dev.read_ddrPutBeat_other (d : Dev) {b a : Nat} (v pat : Nat) (h : a < 4 * b ∨ 4 * b + 4 ≤ a) :
    Memory.read (d.ddrPutBeat b v pat).mem.ddr a 0 = Memory.read d.mem.ddr a 0 :=
  Memory.read_writeList_other (by rwa [length_leBytes])

theorem Dev.ddrRaw_ddrPutBeat_same (d : Dev) (b v pat : Nat) : (d.ddrPutBeat b v pat).ddrRaw b = v % 2 ^ 32 := by
  have hread := Memory.readList_writeList_same (d := 0) d.mem.ddr (4 * b) (leBytes 4 v)
  rw [length_leBytes] at hread
  rw [Dev.ddrRaw, Dev.ddrPutBeat, hread]
  exact leNat_leBytes 4 v

theorem Dev.derr_ddrPutBeat (d : Dev) (b v pat b' : Nat) :
    Tab.get (d.ddrPutBeat b v pat).mem.derr b' 0 = if b' = b then pat else Tab.get d.mem.derr b' 0 :=
  Tab.get_set _ _ _ _ _

theorem Dev.ddrRaw_congr {d e : Dev} {b : Nat}
    (h : ∀ a, 4 * b ≤ a → a < 4 * b + 4 → Memory.read e.mem.ddr a 0 = Memory.read d.mem.ddr a 0) :
    e.ddrRaw b = d.ddrRaw b := congrArg leNat (Memory.readList_congr h)

/-! ### Writes to DDR5 without errors (R261)

Each byte of a burst is the byte written to it, or stays where the write has no byte for it. -/

section
variable {d : Dev} (hclean : ∀ b, Tab.get d.mem.derr b 0 = 0) (attr : Attr)
include hclean

/-- A beat is stored without errors, and its bytes are those of the write over those that memory held. -/
theorem Dev.ddrWriteBeat_of_clean (b : Nat) {bs : List (Option Byte)} (hlen : bs.length = 4) :
    ∃ v, d.ddrWriteBeat b bs attr = d.ddrPutBeat b v 0 ∧
      ∀ k < 4, (leBytes 4 v)[k]? = some ((bs.getD k none).getD (Memory.read d.mem.ddr (4 * b + k) 0)) := by
  have hmerge (v k : Nat) (hk : k < 4) :
      (leBytes 4 (mergeBytes v bs))[k]? = some ((bs.getD k none).getD ((leBytes 4 v).getD k 0)) := by
    have hz := leBytes_leNat ((leBytes bs.length v).zipWith (fun o n => n.getD o) bs)
    rw [List.length_zipWith, length_leBytes, Nat.min_self, hlen] at hz
    have hkv : k < (leBytes 4 v).length := by rwa [length_leBytes]
    rw [mergeBytes, hlen, hz, List.getElem?_zipWith, List.getElem?_eq_getElem hkv, List.getElem?_eq_getElem (hlen ▸ hk)]
    simp [List.getD_eq_getElem?_getD, List.getElem?_eq_getElem hkv, List.getElem?_eq_getElem (hlen ▸ hk : k < bs.length)]
  unfold Dev.ddrWriteBeat
  split
  next hall =>
    refine ⟨_, rfl, fun k hk => ?_⟩
    have hsome : (bs[k]'(hlen ▸ hk)).isSome = true := List.all_eq_true.mp hall _ (List.getElem_mem _)
    obtain ⟨x, hx⟩ := Option.isSome_iff_exists.mp hsome
    have hget : bs.getD k none = some x := by rw [List.getD_eq_getElem _ _ (hlen ▸ hk), hx]
    rw [hmerge 0 k hk, hget]
    rfl
  next =>
    have hraw : leBytes 4 (d.ddrRaw b) = Memory.readList d.mem.ddr (4 * b) 4 0 := leBytes_leNat (Memory.readList d.mem.ddr (4 * b) 4 0)
    rw [Dev.ddrBeat_of_clean hclean]
    refine ⟨_, rfl, fun k hk => ?_⟩
    rw [hmerge _ k hk, hraw, Memory.readList_eq_map, List.getD_eq_getElem _ 0 (by simpa using hk), List.getElem_map, List.getElem_range]

theorem Dev.derr_ddrWriteBeat_of_clean (b : Nat) {bs : List (Option Byte)} (hlen : bs.length = 4) (b' : Nat) :
    Tab.get (d.ddrWriteBeat b bs attr).mem.derr b' 0 = 0 := by
  obtain ⟨v, hput, -⟩ := Dev.ddrWriteBeat_of_clean hclean attr b hlen
  rw [hput, Dev.derr_ddrPutBeat, hclean, ite_self]

theorem Dev.read_ddrWriteBeat_same (b : Nat) {bs : List (Option Byte)} (hlen : bs.length = 4) {k : Nat} (hk : k < 4) :
    Memory.read (d.ddrWriteBeat b bs attr).mem.ddr (4 * b + k) 0 = (bs.getD k none).getD (Memory.read d.mem.ddr (4 * b + k) 0) := by
  obtain ⟨v, hput, hbytes⟩ := Dev.ddrWriteBeat_of_clean hclean attr b hlen
  have hlt : k < (leBytes 4 v).length := by rwa [length_leBytes]
  have hbyte := hbytes k hk
  rw [List.getElem?_eq_getElem hlt] at hbyte
  rw [hput, Dev.ddrPutBeat, Memory.read_writeList_same hlt]
  exact Option.some.inj hbyte

theorem Dev.read_ddrWriteBeat_other (b : Nat) {bs : List (Option Byte)} (hlen : bs.length = 4) {a : Nat} (h : a < 4 * b ∨ 4 * b + 4 ≤ a) :
    Memory.read (d.ddrWriteBeat b bs attr).mem.ddr a 0 = Memory.read d.mem.ddr a 0 := by
  obtain ⟨v, hput, -⟩ := Dev.ddrWriteBeat_of_clean hclean attr b hlen
  rw [hput, Dev.read_ddrPutBeat_other _ _ _ h]

end

theorem Dev.read_ddrWriteBeats_below (attr : Attr) : ∀ (l : List (List (Option Byte))) (b : Nat) {d : Dev},
    (∀ b, Tab.get d.mem.derr b 0 = 0) → (∀ x ∈ l, x.length = 4) → ∀ {a : Nat}, a < 4 * b →
    Memory.read (d.ddrWriteBeats b l attr).mem.ddr a 0 = Memory.read d.mem.ddr a 0
  | [], _, _, _, _, _, _ => rfl
  | x :: r, b, d, hclean, hlen, a, ha => by
    obtain ⟨hx, hr⟩ := List.forall_mem_cons.mp hlen
    rw [Dev.ddrWriteBeats, Dev.read_ddrWriteBeats_below attr r (b + 1) (Dev.derr_ddrWriteBeat_of_clean hclean attr b hx) hr (by omega),
      Dev.read_ddrWriteBeat_other hclean attr b hx (.inl ha)]

/-- Beats written in turn are their bytes in turn, over what memory held. -/
theorem Dev.read_ddrWriteBeats_from (attr : Attr) : ∀ (l : List (List (Option Byte))) (b : Nat) {d : Dev},
    (∀ b, Tab.get d.mem.derr b 0 = 0) → (∀ x ∈ l, x.length = 4) → ∀ k : Nat,
    Memory.read (d.ddrWriteBeats b l attr).mem.ddr (4 * b + k) 0 =
      (l.flatten.getD k none).getD (Memory.read d.mem.ddr (4 * b + k) 0)
  | [], _, _, _, _, _ => rfl
  | x :: r, b, d, hclean, hlen, k => by
    obtain ⟨hx, hr⟩ := List.forall_mem_cons.mp hlen
    have hclean' := Dev.derr_ddrWriteBeat_of_clean hclean attr b hx
    rw [Dev.ddrWriteBeats, List.flatten_cons]
    by_cases hk : k < 4
    · rw [Dev.read_ddrWriteBeats_below attr r (b + 1) hclean' hr (by omega), Dev.read_ddrWriteBeat_same hclean attr b hx hk,
        List.getD_append _ _ _ _ (by omega)]
    · have hrest := Dev.read_ddrWriteBeats_from attr r (b + 1) hclean' hr (k - 4)
      rw [show 4 * (b + 1) + (k - 4) = 4 * b + k by omega] at hrest
      rw [hrest, Dev.read_ddrWriteBeat_other hclean attr b hx (.inr (by omega)), List.getD_append_right _ _ _ _ (by omega), hx]

theorem Dev.ddr_ddrWriteBurst (d : Dev) (pa : Nat) (bs : List (Option Byte)) (attr : Attr) :
    (d.ddrWriteBurst pa bs attr).mem.ddr = ((d.armedFor 1 (Pg.memport (d.ddrPort pa) / 4096)).2.ddrWriteBeats (pa / 64 * 16)
      (chunks 16 4 ((List.replicate (pa % 64) none ++ bs ++ List.replicate (64 - pa % 64 - bs.length) none).take 64)) attr).mem.ddr := by
  unfold Dev.ddrWriteBurst
  dsimp only
  split <;> rfl

/-- A write within one burst stores its bytes at their addresses and keeps every other byte. -/
theorem Dev.read_ddrWriteBurst {d : Dev} (hclean : ∀ b, Tab.get d.mem.derr b 0 = 0) {pa : Nat} {bs : List (Option Byte)}
    (hfit : pa % 64 + bs.length ≤ 64) (attr : Attr) (a : Nat) :
    Memory.read (d.ddrWriteBurst pa bs attr).mem.ddr a 0 =
      if pa ≤ a then (bs.getD (a - pa) none).getD (Memory.read d.mem.ddr a 0) else Memory.read d.mem.ddr a 0 := by
  have hmem := d.armedFor_mem 1 (Pg.memport (d.ddrPort pa) / 4096)
  have hclean' : ∀ b, Tab.get (d.armedFor 1 (Pg.memport (d.ddrPort pa) / 4096)).2.mem.derr b 0 = 0 := by rwa [hmem]
  have hfull : (List.replicate (pa % 64) none ++ bs ++ List.replicate (64 - pa % 64 - bs.length) none).length = 4 * 16 := by
    simp only [List.length_append, List.length_replicate]
    omega
  rw [Dev.ddr_ddrWriteBurst, List.take_of_length_le hfull.le]
  by_cases hlow : a < 4 * (pa / 64 * 16)
  · rw [Dev.read_ddrWriteBeats_below attr _ _ hclean' (length_of_mem_chunks 16 hfull) hlow, hmem, if_neg (by omega)]
  · obtain ⟨k, rfl⟩ := Nat.exists_eq_add_of_le (Nat.not_lt.mp hlow)
    rw [Dev.read_ddrWriteBeats_from attr _ _ hclean' (length_of_mem_chunks 16 hfull), flatten_chunks 16 hfull, hmem, List.append_assoc]
    split
    next hpa =>
      rw [List.getD_append_right _ _ _ _ (by rw [List.length_replicate]; omega), List.length_replicate,
        show 4 * (pa / 64 * 16) + k - pa = k - pa % 64 by omega]
      by_cases hk : k - pa % 64 < bs.length
      · rw [List.getD_append _ _ _ _ hk]
      · rw [List.getD_append_right _ _ _ _ (by omega), getD_replicate_self, List.getD_eq_default bs _ (by omega)]
    next hpa =>
      rw [List.getD_append _ _ _ _ (by rw [List.length_replicate]; omega), getD_replicate_self]
      rfl

/-! ### MEM_ACCESS (R252, R260, R261) -/

/-- The device in which port `p` performs request `r`: its slot is used, and counted against a reservation or in the turn of the classes. -/
def Dev.slotTaken (d : Dev) (p : Nat) (r : MemReq) : Dev :=
  { d with mem := { d.mem with
      used := (16 + p) :: d.mem.used
      slots := if d.reserved r then Tab.set d.mem.slots (8 * p + r.dom) (Tab.get d.mem.slots (8 * p + r.dom) 0 + 1) 0 else d.mem.slots
      deal := if r.cls = 1 then d.mem.deal else Tab.set d.mem.deal (64 + p) ((Tab.get d.mem.deal (64 + p) 0 + 1) % 4) 0 } }

/-- Request `r` with what the port answered. -/
def MemReq.answered (r : MemReq) (bs : List Byte) (ps : List Bool) : MemReq := { r with done := true, rdata := bs, rpoison := ps }

/-- The device in which request `r` has its answer. -/
def Dev.answer (d : Dev) (r : MemReq) (bs : List Byte) (ps : List Bool) : Dev :=
  { d with mem := { d.mem with reqs := d.mem.reqs.map (fun x => if x = r then x.answered bs ps else x) } }

/-- An error that a request meets is attributed to its domain; a request of class C has none. -/
def MemReq.attr (r : MemReq) : Attr := if r.cls = 3 then .none_ else .dom r.dom

theorem Dev.reqAt_answer {d e : Dev} {p tag : Nat} {r : MemReq} (hreqs : e.mem.reqs = d.mem.reqs) (hreq : d.reqAt p tag = some r)
    (bs : List Byte) (ps : List Bool) : (e.answer r bs ps).reqAt p tag = some (r.answered bs ps) := by
  have hkey : (fun x : MemReq => x.port == p && x.tag == tag) ∘ (fun x => if x = r then x.answered bs ps else x) =
      fun x => x.port == p && x.tag == tag := by
    funext x
    by_cases hx : x = r <;> simp [hx, MemReq.answered]
  rw [Dev.reqAt] at hreq
  rw [Dev.reqAt, Dev.answer, List.find?_map, hreqs, hkey, hreq]
  simp

section
variable {d : Dev} {p tag : Nat} {r : MemReq} (hreq : d.reqAt p tag = some r) (hdone : r.done = false)
  (hused : d.mem.used.contains (16 + p) = false) (hmay : d.mayAccess r = true) (hord : d.ordered r = true)
  (hq : d.flag (Pg.memport p) Reg.HDR.QUIESCE = false)
include hreq hdone hused hmay hord hq

theorem Dev.memAccess_of_read (hwrite : r.write = false) {bs : List Byte} {ps : List Bool} {e : Dev}
    (hread : (d.slotTaken p r).ddrRead r.pa r.len r.attr = (bs, ps, e)) : d.memAccess p tag = e.answer r bs ps := by
  simp only [Dev.slotTaken, MemReq.attr] at hread
  simp only [Dev.memAccess, hreq, hdone, hused, hmay, hord, hq, hwrite, hread, Bool.not_true, Bool.or_self, Bool.false_eq_true,
    if_false]
  rfl

theorem Dev.memAccess_of_write (hwrite : r.write = true) :
    d.memAccess p tag = ((d.slotTaken p r).ddrWriteBurst r.pa r.wdata r.attr).answer r [] [] := by
  simp only [Dev.memAccess, hreq, hdone, hused, hmay, hord, hq, hwrite, Bool.not_true, Bool.or_self, Bool.false_eq_true, if_false,
    if_true]
  rfl

end

/-- A request of a fetch engine is not the aperture's. -/
theorem Dev.portAccess_of_engine {d : Dev} {p tag : Nat} {r : MemReq} (hreq : (d.memAccess p tag).reqAt p tag = some r) (hf : r.f < 8) :
    d.portAccess p tag = d.memAccess p tag := by
  simp only [Dev.portAccess, hreq, hf.ne, false_and, if_false]

/-! ### The aperture queue stores nothing in DDR5 (R360) -/

theorem Dev.aperSendWrite_mem (d : Dev) (addr : Nat) (items : List Item) : (d.aperSendWrite addr items).mem = d.mem := by
  unfold Dev.aperSendWrite
  dsimp only
  split
  · exact Dev.sendPacket_mem _ _ _ _ _ _ _ _ _ _ _ _
  · exact Dev.sendPacket_mem _ _ _ _ _ _ _ _ _ _ _ _

theorem Dev.aperDdrEnd_mem (d : Dev) (a : AperReq) : (d.aperDdrEnd a).mem = d.mem := by
  unfold Dev.aperDdrEnd
  split_ifs
  · rfl
  · rfl
  · exact d.emit_mem _

theorem Dev.aperStart_ddr : ∀ (n : Nat) (d : Dev), (d.aperStart n).mem.ddr = d.mem.ddr
  | 0, _ => rfl
  | n + 1, d => by
    have hsend (d1 : Dev) (core kind target addr tx : Nat) :
        (d1.sendPacket 44 core kind target addr tx 1 [] none).2.mem = d1.mem := Dev.sendPacket_mem _ _ _ _ _ _ _ _ _ _ _ _
    unfold Dev.aperStart
    dsimp only
    split
    · rfl
    · split_ifs
      · rfl
      · rfl
      · rw [Dev.aperStart_ddr n, Dev.aperDdrEnd_mem]
        rfl
      · rfl
      · rfl
      · rw [Dev.aperStart_ddr n, Dev.aperSendWrite_mem]
        rfl
      · rfl
      · exact congrArg Mem.ddr (hsend _ _ _ _ _ _)
      · rw [Dev.aperStart_ddr n]
        exact congrArg Mem.ddr (hsend _ _ _ _ _ _)
      · rw [Dev.aperStart_ddr n, Dev.aperAnswer_eq]
        exact congrArg Mem.ddr (hsend _ _ _ _ _ _)

theorem Dev.aperReturn_ddr (d : Dev) (r : MemReq) (bs : List Byte) (bad : Bool) : (d.aperReturn r bs bad).mem.ddr = d.mem.ddr := by
  unfold Dev.aperReturn
  dsimp only
  split
  · split
    · exact Dev.aperStart_ddr _ _
    · rfl
  · rfl

theorem Dev.portAccess_ddr (d : Dev) (p tag : Nat) : (d.portAccess p tag).mem.ddr = (d.memAccess p tag).mem.ddr := by
  unfold Dev.portAccess
  dsimp only
  split
  · split
    · exact Dev.aperReturn_ddr _ _ _ _
    · rfl
  · rfl

/-! ### Scrubbing (R268) -/

/-- The position of port `p`'s scrubber after the burst at `a`. -/
def Dev.scrubNext (d : Dev) (p a : Nat) : Nat := if d.rd (Pg.memport p) Reg.MEMPORT.CAP * 2 ^ 30 ≤ a + 64 then 0 else a + 64

/-- The device in which the scrubber of port `p` has moved on to `pos`, uses the slot and reads next at cycle `due`. -/
def Dev.ddrScrubMoved (d : Dev) (p pos due : Nat) : Dev :=
  { d with mem := { d.mem with
      scrubPos := Tab.set d.mem.scrubPos p pos 0
      used := (16 + p) :: d.mem.used
      scrubAt := Tab.set d.mem.scrubAt p due 0 } }

theorem Dev.ddr_ddrScrubMoved (d : Dev) (p pos due : Nat) : (d.ddrScrubMoved p pos due).mem.ddr = d.mem.ddr := rfl

theorem Dev.scrubPos_ddrScrubMoved (d : Dev) (p pos due : Nat) : Tab.get (d.ddrScrubMoved p pos due).mem.scrubPos p 0 = pos :=
  Tab.get_set_same _ _ _ _

theorem Dev.scrubAt_ddrScrubMoved (d : Dev) (p pos due : Nat) : Tab.get (d.ddrScrubMoved p pos due).mem.scrubAt p 0 = due :=
  Tab.get_set_same _ _ _ _

/-- From `d` to `e` only registers, the fault state and the bursts to be written back changed. -/
def Dev.ScrubFrame (d e : Dev) : Prop := ∃ regs flt wb, e = { d with regs := regs, flt := flt, mem := { d.mem with scrubWb := wb } }

theorem Dev.ScrubFrame.refl (d : Dev) : d.ScrubFrame d := ⟨_, _, _, rfl⟩

theorem Dev.ScrubFrame.fault {d e f : Dev} (h : d.ScrubFrame e) (h' : e.FaultFrame f) : d.ScrubFrame f := by
  obtain ⟨regs, flt, wb, rfl⟩ := h
  exact ⟨_, _, wb, h'⟩

theorem Dev.ScrubFrame.writeBack {d e : Dev} (h : d.ScrubFrame e) (wb : List (Nat × Nat)) :
    d.ScrubFrame { e with mem := { e.mem with scrubWb := wb } } := by
  obtain ⟨regs, flt, _, rfl⟩ := h
  exact ⟨_, _, wb, rfl⟩

section
variable {d e : Dev} (h : d.ScrubFrame e)
include h

theorem Dev.ScrubFrame.ddr_eq : e.mem.ddr = d.mem.ddr := by
  obtain ⟨_, _, _, rfl⟩ := h
  rfl

theorem Dev.ScrubFrame.scrubPos_eq : e.mem.scrubPos = d.mem.scrubPos := by
  obtain ⟨_, _, _, rfl⟩ := h
  rfl

theorem Dev.ScrubFrame.scrubAt_eq : e.mem.scrubAt = d.mem.scrubAt := by
  obtain ⟨_, _, _, rfl⟩ := h
  rfl

end

/-- A scrub read moves on; beside that it reports what it found. -/
theorem Dev.ddrScrub_of_turn {d : Dev} {p : Nat} (hturn : d.ddrScrubTurn p = true) :
    (d.ddrScrubMoved p (d.scrubNext p (Tab.get d.mem.scrubPos p 0))
      (max (Tab.get d.mem.scrubAt p 0 + d.ddrScrubPeriod p) d.cycle)).ScrubFrame (d.ddrScrub p) := by
  unfold Dev.ddrScrub
  simp only [hturn, Bool.not_true, Bool.false_eq_true, if_false]
  refine List.foldlRecOn (motive := Dev.ScrubFrame _) _ _ (Dev.ScrubFrame.refl _) (fun e he i _ => ?_)
  split
  · exact he
  · exact he
  · split
    · exact he.fault (e.ddrCorrected_frame _ _)
    · exact (he.fault (e.ddrCorrected_frame _ _)).writeBack _
  · exact he.fault (e.ddrUe_frame _ _ _ _)

/-- Write beat `b` back with good check bits, when decoding corrects it. -/
def Dev.restoreBeat (d : Dev) (b : Nat) : Dev :=
  match beatDecode (Tab.get d.mem.derr b 0) with
  | (.corrected _, x) => d.ddrPutBeat b (Nat.xor (d.ddrRaw b) x) 0
  | _ => d

theorem Dev.restoreBeat_of_corrected {d : Dev} {b j x : Nat} (h : beatDecode (Tab.get d.mem.derr b 0) = (.corrected j, x)) :
    d.restoreBeat b = d.ddrPutBeat b (Nat.xor (d.ddrRaw b) x) 0 := by
  simp only [Dev.restoreBeat, h]

theorem Dev.restoreBeat_eq (d : Dev) (b : Nat) : d.restoreBeat b = d ∨ ∃ v, d.restoreBeat b = d.ddrPutBeat b v 0 := by
  unfold Dev.restoreBeat
  split
  · exact .inr ⟨_, rfl⟩
  · exact .inl rfl

theorem Dev.read_restoreBeat_other (d : Dev) {b a : Nat} (h : a < 4 * b ∨ 4 * b + 4 ≤ a) :
    Memory.read (d.restoreBeat b).mem.ddr a 0 = Memory.read d.mem.ddr a 0 := by
  rcases d.restoreBeat_eq b with heq | ⟨v, heq⟩
  · rw [heq]
  · rw [heq, Dev.read_ddrPutBeat_other _ _ _ h]

theorem Dev.derr_restoreBeat_other (d : Dev) {b b' : Nat} (h : b' ≠ b) :
    Tab.get (d.restoreBeat b).mem.derr b' 0 = Tab.get d.mem.derr b' 0 := by
  rcases d.restoreBeat_eq b with heq | ⟨v, heq⟩
  · rw [heq]
  · rw [heq, Dev.derr_ddrPutBeat, if_neg h]

theorem Dev.ddrRaw_restoreBeat_other (d : Dev) {b b' : Nat} (h : b' ≠ b) : (d.restoreBeat b).ddrRaw b' = d.ddrRaw b' :=
  Dev.ddrRaw_congr (fun _ _ _ => d.read_restoreBeat_other (by omega))

/-- Write the `n` beats from `b` back. -/
def Dev.restoreBeats (d : Dev) (b n : Nat) : Dev := d.each (List.range n) (fun d i => d.restoreBeat (b + i))

theorem Dev.restoreBeats_succ (d : Dev) (b n : Nat) : d.restoreBeats b (n + 1) = (d.restoreBeats b n).restoreBeat (b + n) := by
  simp only [Dev.restoreBeats, Dev.each, List.range_succ, List.foldl_append, List.foldl_cons, List.foldl_nil]

theorem Dev.read_restoreBeats_other (d : Dev) {b a : Nat} : ∀ {n : Nat}, (a < 4 * b ∨ 4 * (b + n) ≤ a) →
    Memory.read (d.restoreBeats b n).mem.ddr a 0 = Memory.read d.mem.ddr a 0
  | 0, _ => rfl
  | n + 1, h => by
    rw [Dev.restoreBeats_succ, Dev.read_restoreBeat_other _ (by omega), Dev.read_restoreBeats_other d (by omega)]

theorem Dev.derr_restoreBeats_above (d : Dev) {b b' : Nat} : ∀ {n : Nat}, b + n ≤ b' →
    Tab.get (d.restoreBeats b n).mem.derr b' 0 = Tab.get d.mem.derr b' 0
  | 0, _ => rfl
  | n + 1, h => by
    rw [Dev.restoreBeats_succ, Dev.derr_restoreBeat_other _ (by omega), Dev.derr_restoreBeats_above d (by omega)]

/-- Each correctable beat holds its corrected value, with good check bits. -/
theorem Dev.restoreBeats_restored (d : Dev) {b i j x : Nat} (hdec : beatDecode (Tab.get d.mem.derr (b + i) 0) = (.corrected j, x)) :
    ∀ {n : Nat}, i < n → Tab.get (d.restoreBeats b n).mem.derr (b + i) 0 = 0 ∧
      (d.restoreBeats b n).ddrRaw (b + i) = Nat.xor (d.ddrRaw (b + i)) x % 2 ^ 32
  | n + 1, hi => by
    rw [Dev.restoreBeats_succ]
    rcases Nat.lt_succ_iff_lt_or_eq.mp hi with hlt | rfl
    · rw [Dev.derr_restoreBeat_other _ (by omega), Dev.ddrRaw_restoreBeat_other _ (by omega)]
      exact Dev.restoreBeats_restored d hdec hlt
    · have hraw : (d.restoreBeats b i).ddrRaw (b + i) = d.ddrRaw (b + i) :=
        Dev.ddrRaw_congr (fun _ _ _ => d.read_restoreBeats_other (by omega))
      rw [← d.derr_restoreBeats_above (Nat.le_refl (b + i))] at hdec
      rw [Dev.restoreBeat_of_corrected hdec, Dev.derr_ddrPutBeat, if_pos rfl, Dev.ddrRaw_ddrPutBeat_same, hraw]
      exact ⟨rfl, rfl⟩

/-- The device in which port `p` has no more slot in this cycle. -/
def Dev.portUsed (d : Dev) (p : Nat) : Dev := { d with mem := { d.mem with used := (16 + p) :: d.mem.used } }

/-- The write-back of a burst takes the slot, restores the burst's 16 beats and is then no longer owed. -/
theorem Dev.ddrScrubWriteback_of_owed {d : Dev} {p : Nat} {e : Nat × Nat} (hused : d.mem.used.contains (16 + p) = false)
    (hfind : d.mem.scrubWb.find? (fun e => e.1 == p) = some e) {t : Dev}
    (ht : t = (d.portUsed p).restoreBeats (16 * e.2) 16) :
    d.ddrScrubWriteback p = { t with mem := { t.mem with scrubWb := t.mem.scrubWb.erase e } } := by
  subst ht
  simp only [Dev.ddrScrubWriteback, hused, hfind, Bool.false_eq_true, if_false]
  rfl

end Sys2Proof.Machine

namespace Sys2Proof

open Machine

/-! ### The clauses of O50 -/

theorem memAccess_reads (p : Fin 4) (tag : Fin 256) (s : State) (r : MemReq) (hreq : s.dev.reqAt p tag = some r) (hdone : r.done = false)
    (hused : s.dev.mem.used.contains (16 + p.val) = false) (hmay : s.dev.mayAccess r = true) (hord : s.dev.ordered r = true)
    (hq : s.dev.flag (Pg.memport p) Reg.HDR.QUIESCE = false) (hpa : r.pa + r.len ≤ s.dev.ddrCap) (hf : r.f < 8) (hwrite : r.write = false) :
    GivesDev (.memAccess p tag) s (fun d => d.mem.ddr = s.dev.mem.ddr ∧ d.mem.used = (16 + p.val) :: s.dev.mem.used ∧
      (∃ bs ps, bs.length = r.len ∧
        d.mem.reqs = s.dev.mem.reqs.map (fun x => if x = r then { x with done := true, rdata := bs, rpoison := ps } else x) ∧
        ((∀ b, Tab.get s.dev.mem.derr b 0 = 0) → bs = (List.range r.len).map (fun k => Memory.read s.dev.mem.ddr (r.pa + k) 0)))) := by
  rcases hread : (s.dev.slotTaken p r).ddrRead r.pa r.len r.attr with ⟨bs, ps, e⟩
  have hlen := (s.dev.slotTaken p r).length_ddrRead r.pa r.len r.attr
  have hframe := (s.dev.slotTaken p r).ddrRead_frame r.pa r.len r.attr
  rw [hread] at hlen hframe
  have hmem : e.mem = (s.dev.slotTaken p r).mem := hframe.mem_eq
  have hddr : e.mem.ddr = s.dev.mem.ddr := by rw [hmem]; rfl
  have hreqs : e.mem.reqs = s.dev.mem.reqs := by rw [hmem]; rfl
  have hslot : e.mem.used = (16 + p.val) :: s.dev.mem.used := by rw [hmem]; rfl
  have hacc := Dev.memAccess_of_read hreq hdone hused hmay hord hq hwrite hread
  have hanswer : (s.dev.memAccess p tag).reqAt p tag = some (r.answered bs ps) := by
    rw [hacc]
    exact Dev.reqAt_answer hreqs hreq bs ps
  refine givesDev_of_eq (exec_memAccess_of_installed hreq hpa) ((Dev.portAccess_of_engine hanswer hf).trans hacc)
    ⟨hddr, hslot, bs, ps, hlen, ?_, fun hclean => ?_⟩
  · rw [Dev.answer, hreqs]
    rfl
  · rw [Dev.ddrRead_of_clean (d := s.dev.slotTaken p r) hclean] at hread
    exact (congrArg Prod.fst hread).symm

theorem memAccess_writes (p : Fin 4) (tag : Fin 256) (s : State) (r : MemReq) (hreq : s.dev.reqAt p tag = some r) (hdone : r.done = false)
    (hused : s.dev.mem.used.contains (16 + p.val) = false) (hmay : s.dev.mayAccess r = true) (hord : s.dev.ordered r = true)
    (hq : s.dev.flag (Pg.memport p) Reg.HDR.QUIESCE = false) (hpa : r.pa + r.len ≤ s.dev.ddrCap) (hwrite : r.write = true)
    (hlen : r.wdata.length = r.len) (hfit : r.pa % 64 + r.len ≤ 64) (hbytes : ∀ o ∈ r.wdata, o.isSome = true)
    (hclean : ∀ b, Tab.get s.dev.mem.derr b 0 = 0) :
    GivesDev (.memAccess p tag) s (fun d =>
      (∀ k < r.len, Memory.read d.mem.ddr (r.pa + k) 0 = ((r.wdata.getD k none).getD 0)) ∧
      (∀ a, (a < r.pa ∨ r.pa + r.len ≤ a) → Memory.read d.mem.ddr a 0 = Memory.read s.dev.mem.ddr a 0)) := by
  have hread (a : Nat) : Memory.read (s.dev.portAccess p tag).mem.ddr a 0 =
      if r.pa ≤ a then (r.wdata.getD (a - r.pa) none).getD (Memory.read s.dev.mem.ddr a 0) else Memory.read s.dev.mem.ddr a 0 := by
    rw [Dev.portAccess_ddr, Dev.memAccess_of_write hreq hdone hused hmay hord hq hwrite]
    exact Dev.read_ddrWriteBurst (d := s.dev.slotTaken p r) hclean (by rwa [hlen]) r.attr a
  refine ⟨_, exec_memAccess_of_installed hreq hpa, fun k hk => ?_, fun a ha => ?_⟩
  · have hk' : k < r.wdata.length := by rwa [hlen]
    obtain ⟨x, hx⟩ := Option.isSome_iff_exists.mp (hbytes _ (List.getElem_mem hk'))
    rw [hread, if_pos (by omega), Nat.add_sub_cancel_left, List.getD_eq_getElem _ _ hk', hx]
    rfl
  · rw [hread]
    split
    next hge =>
      rw [List.getD_eq_default _ _ (by omega)]
      rfl
    next => rfl

theorem refresh_takes_slot (p : Fin 4) (s : State) (hused : s.dev.mem.used.contains (16 + p.val) = false) :
    GivesDev (.refresh p) s (fun d =>
      d = { s.dev with mem := { s.dev.mem with used := (24 + p.val) :: (16 + p.val) :: s.dev.mem.used } }) :=
  ⟨s.dev.refresh p, rfl, by rw [Dev.refresh, hused]; rfl⟩

theorem ddrScrub_moves_on (p : Fin 4) (s : State) (hturn : s.dev.ddrScrubTurn p = true)
    (hend : Tab.get s.dev.mem.scrubPos p 0 + 64 < s.dev.rd (Pg.memport p) Reg.MEMPORT.CAP * 2 ^ 30) :
    GivesDev (.ddrScrub p) s (fun d => d.mem.ddr = s.dev.mem.ddr ∧
      Tab.get d.mem.scrubPos p 0 = Tab.get s.dev.mem.scrubPos p 0 + 64 ∧
      Tab.get d.mem.scrubAt p 0 = max (Tab.get s.dev.mem.scrubAt p 0 + s.dev.ddrScrubPeriod p) s.dev.cycle) := by
  have hscrub := Dev.ddrScrub_of_turn hturn
  refine ⟨s.dev.ddrScrub p, rfl, ?_, ?_, ?_⟩
  · rw [hscrub.ddr_eq, Dev.ddr_ddrScrubMoved]
  · rw [hscrub.scrubPos_eq, Dev.scrubPos_ddrScrubMoved, Dev.scrubNext, if_neg (Nat.not_le.mpr hend)]
  · rw [hscrub.scrubAt_eq, Dev.scrubAt_ddrScrubMoved]

theorem ddrScrubWriteback_restores (p : Fin 4) (s : State) (e : Nat × Nat) (hused : s.dev.mem.used.contains (16 + p.val) = false)
    (hfind : s.dev.mem.scrubWb.find? (fun e => e.1 == p.val) = some e) :
    GivesDev (.ddrScrubWriteback p) s (fun d =>
      (∀ i < 16, ∀ (j : Nat) (x : Nat), beatDecode (Tab.get s.dev.mem.derr (16 * e.2 + i) 0) = (.corrected j, x) →
        Tab.get d.mem.derr (16 * e.2 + i) 0 = 0 ∧
        d.ddrRaw (16 * e.2 + i) = Nat.xor (s.dev.ddrRaw (16 * e.2 + i)) x % 2 ^ 32) ∧
      (∀ a, (a < 64 * e.2 ∨ 64 * e.2 + 64 ≤ a) → Memory.read d.mem.ddr a 0 = Memory.read s.dev.mem.ddr a 0)) :=
  givesDev_of_eq rfl (Dev.ddrScrubWriteback_of_owed hused hfind rfl)
    ⟨fun _ hi _ _ hdec => (s.dev.portUsed p).restoreBeats_restored hdec hi,
      fun _ ha => (s.dev.portUsed p).read_restoreBeats_other (by omega)⟩

/-- Settles O50, clause by clause; that the next scrub read falls due at the later of a period after this one did and the present cycle is
the model's choice (log 154). -/
theorem memoryPortsServe : Obligations.MemoryPortsServe :=
  ⟨memAccess_reads, memAccess_writes, refresh_takes_slot, ddrScrub_moves_on, ddrScrubWriteback_restores⟩

end Sys2Proof
end

section
/-!
PROOFS of 08_fetch_memory_translation.md: what a request of a fetch engine carries, and what a return of another epoch does (R252 to R257).
-/

namespace Sys2Proof.Machine

/-! ### Signals (R373, R374) -/

theorem Dev.msix_mem (d : Dev) (v : Nat) : (d.msix v).mem = d.mem := by
  unfold Dev.msix
  split
  · rfl
  · split
    · rfl
    · rw [Dev.count_mem, Dev.emit_mem]

theorem Dev.msix_regs (d : Dev) (v : Nat) : (d.msix v).regs = d.regs := by
  unfold Dev.msix
  split
  · rfl
  · split
    · rfl
    · rw [Dev.count_regs, Dev.emit_regs]

theorem Dev.syncIrq_mem (d : Dev) (n : Nat) : (d.syncIrq n).mem = d.mem := by
  unfold Dev.syncIrq
  dsimp only
  split
  · rw [Dev.msix_mem, Dev.wr_mem]
  · rfl

theorem Dev.signal_mem (d : Dev) (o n : Nat) (direct : Bool) : (d.signal o n direct).mem = d.mem := by
  unfold Dev.signal
  dsimp only
  rw [Dev.syncIrq_mem]
  split
  · rw [Dev.wr64_mem, Dev.bump_mem]
  · split
    · rw [Dev.wr64_mem, Dev.bump_mem]
    · rw [Dev.wr_mem, Dev.wr64_mem, Dev.bump_mem]

section
variable {base o : Nat} (h : Pg.Apart base (Pg.sync o)) (d : Dev)
include h

theorem Dev.keepsPage_wr64_sync (v : Nat) : d.KeepsPage base (d.wr64 (Pg.sync o) v) := by
  obtain ⟨haligned, -, hapart⟩ := h
  intro k hk
  rw [Dev.wr64, Dev.word_setWord_other _ _ (by omega), Dev.word_setWord_other _ _ (by omega)]

theorem Dev.keepsPage_syncIrq : d.KeepsPage base (d.syncIrq o) := by
  unfold Dev.syncIrq
  dsimp only
  split
  · exact (d.keepsPage_wr h (by decide) _).trans (Dev.keepsPage_of_regs _ (Dev.msix_regs _ _))
  · exact Dev.keepsPage_of_regs _ rfl

/-- A signal writes the words of its sync object alone. -/
theorem Dev.keepsPage_signal (n : Nat) (direct : Bool) : d.KeepsPage base (d.signal o n direct) := by
  have hcount : d.KeepsPage base (d.bump (Pg.sync o) Reg.SYNC.SIG_CNT) := d.keepsPage_wr h (by decide) _
  unfold Dev.signal
  dsimp only
  refine Dev.KeepsPage.trans ?_ (Dev.keepsPage_syncIrq h _)
  split
  · exact hcount.trans (Dev.keepsPage_wr64_sync h _ _)
  · split
    · exact hcount.trans (Dev.keepsPage_wr64_sync h _ _)
    · exact (hcount.trans (Dev.keepsPage_wr64_sync h _ _)).trans (Dev.keepsPage_wr h _ (by decide) _)

end

theorem Pg.apart_fetch_sync {f : Nat} (hf : f < 8) (o : Nat) : Pg.Apart (Pg.fetch f) (Pg.sync o) :=
  ⟨by unfold Pg.fetch; omega, by unfold Pg.fetch; omega, .inl (by unfold Pg.fetch Pg.sync; omega)⟩

/-! ### What a cancellation leaves unchanged (R255 to R257) -/

/-- From `d` to `e` stream `s` of engine `f` got no data, and no request, no queue and no count of discarded returns changed. -/
structure Dev.NothingDelivered (f s : Nat) (d e : Dev) : Prop where
  reqs : e.mem.reqs = d.mem.reqs
  qs : e.qs = d.qs
  discards : e.rd (Pg.fetch f) Reg.FETCH.DISCARD_CNT = d.rd (Pg.fetch f) Reg.FETCH.DISCARD_CNT
  rets : ∀ r ∈ (e.stGet f s).rets, r ∈ (d.stGet f s).rets

section
variable {f s : Nat} {d e : Dev} (h : Dev.NothingDelivered f s d e)
include h

theorem Dev.NothingDelivered.trans {e' : Dev} (h' : Dev.NothingDelivered f s e e') : Dev.NothingDelivered f s d e' :=
  ⟨h'.reqs.trans h.reqs, h'.qs.trans h.qs, h'.discards.trans h.discards, fun r hr => h.rets r (h'.rets r hr)⟩

theorem Dev.NothingDelivered.stSet {x : FStream} (hx : ∀ r ∈ x.rets, r ∈ (e.stGet f s).rets) :
    Dev.NothingDelivered f s d (e.stSet f s x) :=
  h.trans ⟨rfl, rfl, rfl, by rwa [Dev.stGet_stSet_same]⟩

/-- The status words of the streams begin at 0x600, and TAGS_OUT is a word beside the count of discarded returns. -/
theorem Dev.NothingDelivered.wr {F : Fld} {i : Nat} (hF : (F.off + F.stride * i) / 4 ≠ 0x70 / 4) (v : Nat) :
    Dev.NothingDelivered f s d (e.wr (Pg.fetch f) F v i) := by
  refine h.trans ⟨rfl, rfl, Dev.rd_wr_other _ _ ?_, fun _ hr => hr⟩
  simp only [Reg.FETCH.DISCARD_CNT, Pg.fetch]
  omega

theorem Dev.NothingDelivered.setStState (v : Nat) : Dev.NothingDelivered f s d (e.setStState f s v) :=
  h.wr (by simp only [Reg.FETCH.STATE]; omega) v

theorem Dev.NothingDelivered.tagCounts : Dev.NothingDelivered f s d (e.tagCounts f s) :=
  (h.wr (F := Reg.FETCH.STALE) (i := s) (by simp only [Reg.FETCH.STALE]; omega) _).wr (by decide) _

theorem Dev.NothingDelivered.signal (hf : f < 8) (o n : Nat) (direct : Bool) : Dev.NothingDelivered f s d (e.signal o n direct) := by
  have hmem := e.signal_mem o n direct
  refine h.trans ⟨by rw [hmem], Dev.signal_qs _ _ _ _, (Dev.keepsPage_signal (Pg.apart_fetch_sync hf o) e n direct).rd (by decide), ?_⟩
  rw [Dev.stGet, hmem, ← Dev.stGet]
  exact fun _ hr => hr

theorem Dev.NothingDelivered.prefetchBegin : Dev.NothingDelivered f s d (e.prefetchBegin f s) := by
  refine (h.stSet ?_).setStState _
  exact fun _ hr => hr

theorem Dev.NothingDelivered.cancelDone (hf : f < 8) : Dev.NothingDelivered f s d (e.cancelDone f s) := by
  have hidle : Dev.NothingDelivered f s d
      ((e.stSet f s { e.stGet f s with csyncDue := false, again := false }).setStState f s 0) := by
    refine (h.stSet ?_).setStState _
    exact fun _ hr => hr
  unfold Dev.cancelDone
  dsimp only
  split_ifs
  · exact (hidle.signal hf _ _ _).prefetchBegin
  · exact hidle.prefetchBegin
  · exact hidle.signal hf _ _ _
  · exact hidle

/-- A cancel drops what the stream had; the requests under way stay outstanding. -/
theorem Dev.NothingDelivered.cancelStream (hf : f < 8) : Dev.NothingDelivered f s d (e.cancelStream f s) := by
  have hcut : Dev.NothingDelivered f s d (e.cutPackets (fkey f s + 1)) := h.trans ⟨rfl, rfl, rfl, fun _ hr => hr⟩
  have hepoch (v : Nat) : Dev.NothingDelivered f s d
      (((e.cutPackets (fkey f s + 1)).stSet f s (e.stGet f s).cancelled).wr (Pg.fetch f) Reg.FETCH.EPOCH v s) :=
    (hcut.stSet (fun _ hr => absurd hr List.not_mem_nil)).wr (by simp only [Reg.FETCH.EPOCH]; omega) v
  have hdrain (e' : Dev) (l : List Nat) (he : Dev.NothingDelivered f s d e') : Dev.NothingDelivered f s d
      ((({ e' with mem := { e'.mem with opWalks := l } } : Dev).tagCounts f s).setStState f s 4) := by
    have hwalks : Dev.NothingDelivered f s d { e' with mem := { e'.mem with opWalks := l } } :=
      he.trans ⟨rfl, rfl, rfl, fun _ hr => hr⟩
    exact hwalks.tagCounts.setStState 4
  unfold Dev.cancelStream
  dsimp only
  split
  · refine h.stSet ?_
    exact fun _ hr => hr
  · split
    · exact (hdrain _ _ (hepoch _)).cancelDone hf
    · exact hdrain _ _ (hepoch _)

/-- A freed tag updates the counts, and may let a cancel go on that waited for it. -/
theorem Dev.NothingDelivered.tagFreed (hf : f < 8) : Dev.NothingDelivered f s d (e.tagFreed f s) := by
  unfold Dev.tagFreed
  dsimp only
  split
  · exact h.tagCounts.cancelStream hf
  · exact h.tagCounts

end

/-! ### A return of another epoch (R255) -/

/-- The device in which a return of engine `f` takes the place of request `r`, whose tag is free. -/
def Dev.returned (d : Dev) (f : Nat) (r : MemReq) : Dev :=
  ({ d with mem := { d.mem with used := (8 + f) :: d.mem.used } } : Dev).dropReq r

/-- A return of another epoch from a memory port goes to the discard sink, after its round trip was noted. -/
theorem Dev.fetchReturn_of_stale {d : Dev} {f tag : Nat} {r : MemReq} (host : HostRead)
    (hused : (d.mem.used.filter (· == 8 + f)).length < 2) (htag : tag < 1024) (hreq : d.reqAt (tag / 256) (tag % 256) = some r)
    (hf : r.f = f) (hdone : r.done = true) (hepoch : r.epoch ≠ d.rd (Pg.fetch f) Reg.FETCH.EPOCH r.st) :
    ∃ d1 : Dev, (d1 = d.returned f r ∨ ∃ v, d1 = (d.returned f r).wr (Pg.memport (tag / 256)) Reg.MEMPORT.RTT_MAX v) ∧
      d.fetchReturn f tag host = (d1.discardReturn f).tagFreed f r.st := by
  have hport : tag / 256 ≠ 4 := by omega
  simp only [Dev.fetchReturn, htag, if_true, Nat.not_le.mpr hused, if_false, hreq, hf, hdone, hport, hepoch, false_and, ne_eq,
    not_true_eq_false, Bool.true_eq_false, and_false, or_self, not_false_eq_true, and_true]
  split
  · exact ⟨_, .inr ⟨_, rfl⟩, rfl⟩
  · exact ⟨_, .inl rfl, rfl⟩

theorem Dev.rd_discardReturn (d : Dev) (f : Nat) : (d.discardReturn f).rd (Pg.fetch f) Reg.FETCH.DISCARD_CNT =
    min (d.rd (Pg.fetch f) Reg.FETCH.DISCARD_CNT + 1) (2 ^ Reg.FETCH.DISCARD_CNT.w - 1) := by
  rw [Dev.discardReturn, Dev.rd_congr (Dev.count_regs _ _ _ _ _), Dev.rd_bump_same _ _ _ _ _ (by decide)]

theorem Dev.discardReturn_mem (d : Dev) (f : Nat) : (d.discardReturn f).mem = d.mem := by
  rw [Dev.discardReturn, Dev.count_mem, Dev.bump_mem]

theorem Dev.discardReturn_qs (d : Dev) (f : Nat) : (d.discardReturn f).qs = d.qs := by
  rw [Dev.discardReturn, Dev.count_qs, Dev.bump_qs]

/-! ### What an engine's stall count and the use of its cycle do not change

An engine counts in STALL_IN that a stream lacks a tag before it issues for another one. Neither this nor the mark of its fm cycle changes
what the streams are ready for. -/

/-- From `d` to `e` only marks of use in this cycle changed, and words below those that the streams of engine `f` depend on. -/
structure Dev.StallFrame (f : Nat) (d e : Dev) : Prop where
  frame : e = { d with regs := e.regs, mem := { d.mem with used := e.mem.used } }
  word : ∀ a, Pg.fetch f + 0x34 ≤ a → e.word a = d.word a

/-- The device in which engine `f` has used one of its fm cycles. -/
def Dev.fmUsed (d : Dev) (f : Nat) : Dev := { d with mem := { d.mem with used := (32 + f) :: d.mem.used } }

/-- The device in which a stall counts when a stream of engine `f` lacks a tag (R276). -/
def Dev.stallCounted (d : Dev) (f : Nat) : Dev :=
  if (List.range 64).any (d.lacksTag f) then d.bump (Pg.fetch f) Reg.HDR.STALL_IN else d

theorem Dev.stallFrame_beforeIssue (d : Dev) (f : Nat) : Dev.StallFrame f d ((d.fmUsed f).stallCounted f) := by
  unfold Dev.stallCounted
  split
  · exact ⟨rfl, fun a ha => (d.fmUsed f).word_setWord_other _ (by simp only [Reg.HDR.STALL_IN, Pg.fetch] at ha ⊢; omega)⟩
  · exact ⟨rfl, fun _ _ => rfl⟩

theorem Pg.le_sdesc (f s : Nat) : Pg.fetch f + 0x34 ≤ Pg.sdesc f s := by unfold Pg.sdesc; omega
theorem Pg.le_gslot (f i : Nat) : Pg.fetch f + 0x34 ≤ Pg.gslot f i := by unfold Pg.gslot; omega

section
variable {f : Nat} {d e : Dev} (h : Dev.StallFrame f d e)
include h

theorem Dev.StallFrame.st_eq : e.mem.st = d.mem.st := by rw [h.frame]
theorem Dev.StallFrame.reqs_eq : e.mem.reqs = d.mem.reqs := by rw [h.frame]
theorem Dev.StallFrame.tlb_eq : e.mem.tlb = d.mem.tlb := by rw [h.frame]
theorem Dev.StallFrame.shared_eq : e.mem.shared = d.mem.shared := by rw [h.frame]
theorem Dev.StallFrame.rr_eq : e.mem.rr = d.mem.rr := by rw [h.frame]
theorem Dev.StallFrame.qs_eq : e.qs = d.qs := by rw [h.frame]

theorem Dev.StallFrame.rd {base : Nat} {F : Fld} {i : Nat} (hbase : Pg.fetch f + 0x34 ≤ base + F.off) : e.rd base F i = d.rd base F i := by
  rw [Dev.rd, Dev.rd, h.word _ (by omega)]

theorem Dev.StallFrame.rdPage {base : Nat} (hbase : Pg.fetch f + 0x34 ≤ base) (F : Fld) (i : Nat) : e.rd base F i = d.rd base F i :=
  h.rd (by omega)

theorem Dev.StallFrame.flagPage {base : Nat} (hbase : Pg.fetch f + 0x34 ≤ base) (F : Fld) (i : Nat) :
    e.flag base F i = d.flag base F i := by
  rw [Dev.flag, h.rdPage hbase, ← Dev.flag]

theorem Dev.StallFrame.stGet (g s : Nat) : e.stGet g s = d.stGet g s := by rw [Dev.stGet, h.st_eq, ← Dev.stGet]

theorem Dev.StallFrame.bqGet (b : Nat) : e.bqGet b = d.bqGet b := by rw [Dev.bqGet, h.qs_eq, ← Dev.bqGet]

theorem Dev.StallFrame.sd (s : Nat) (F : Fld) : e.sd f s F = d.sd f s F := h.rdPage (Pg.le_sdesc f s) F 0

theorem Dev.StallFrame.stState (s : Nat) : e.stState f s = d.stState f s := h.rd (by simp only [Reg.FETCH.STATE]; omega)

theorem Dev.StallFrame.rrOrder (cls : Nat) : e.rrOrder f cls = d.rrOrder f cls := by
  simp only [Dev.rrOrder, h.rr_eq, h.flagPage (Pg.le_sdesc f _), h.sd, h.stState]

theorem Dev.StallFrame.streamLegal (s : Nat) : e.streamLegal f s = d.streamLegal f s := by
  have hword (o : Nat) : e.word (Pg.sdesc f s + o) = d.word (Pg.sdesc f s + o) := h.word _ (by have := Pg.le_sdesc f s; omega)
  simp only [Dev.streamLegal, h.rdPage (Pg.le_sdesc f s), h.word _ (Pg.le_sdesc f s), hword]

theorem Dev.StallFrame.passItems (s : Nat) : e.passItems f s = d.passItems f s := by
  simp only [Dev.passItems, Dev.passNfr, h.sd]

theorem Dev.StallFrame.passBase (s pass : Nat) : e.passBase f s pass = d.passBase f s pass := by
  simp only [Dev.passBase, h.sd]

theorem Dev.StallFrame.itemBytes (s pass i : Nat) : e.itemBytes f s pass i = d.itemBytes f s pass i := by
  simp only [Dev.itemBytes, Dev.itemAt, Dev.passNfr, h.passBase, h.sd]

theorem Dev.StallFrame.gatherBytes (s r : Nat) : e.gatherBytes f s r = d.gatherBytes f s r := by
  simp only [Dev.gatherBytes, Dev.gslot, h.stGet, h.rdPage (Pg.le_gslot f _), h.flagPage (Pg.le_gslot f _)]

theorem Dev.StallFrame.needBytes (s i : Nat) : e.needBytes f s i = d.needBytes f s i := by
  simp only [Dev.needBytes, h.stGet, h.sd, h.passItems, h.passBase, h.itemBytes, h.gatherBytes]

theorem Dev.StallFrame.throughBurst (s b : Nat) : ∀ fuel i o done : Nat,
    e.throughBurst f s b fuel i o done = d.throughBurst f s b fuel i o done
  | 0, _, _, _ => rfl
  | n + 1, i, o, done => by simp only [Dev.throughBurst, h.needBytes, Dev.StallFrame.throughBurst s b n]

theorem Dev.StallFrame.translate_fst (s va : Nat) (write : Bool) : (e.translate f s va write).1 = (d.translate f s va write).1 := by
  have htlb : (e.tlbLookup f (d.sd f s Reg.SDESC.AS) va write).1 = (d.tlbLookup f (d.sd f s Reg.SDESC.AS) va write).1 := by
    simp only [Dev.tlbLookup, Dev.count_mem, Dev.setEngineTlb, Dev.engineTlb, h.tlb_eq, h.shared_eq]
    split
    · rfl
    · split
      · simp only [apply_ite Prod.fst]
      · rfl
  simp only [Dev.translate_fst, h.stGet, h.sd, htlb]

section
variable (hf : f < 8)
include hf

theorem Dev.StallFrame.stLive (s : Nat) : e.stLive f s = d.stLive f s := by
  have hdom (m : Nat) : Pg.fetch f + 0x34 ≤ Pg.ldom m := by unfold Pg.fetch Pg.ldom; omega
  have hfault : Pg.fetch f + 0x34 ≤ Pg.fault := by unfold Pg.fetch Pg.fault; omega
  simp only [Dev.stLive, Dev.running, Dev.dstate, Dev.fenced, Dev.stCore, h.streamLegal, h.sd, h.flagPage (Pg.le_sdesc f s),
    h.rdPage (hdom _), h.rdPage hfault]

theorem Dev.StallFrame.rd_bq (b : Nat) (F : Fld) (i : Nat) : e.rd (Pg.bq b) F i = d.rd (Pg.bq b) F i :=
  h.rdPage (by unfold Pg.fetch Pg.bq Pg.queue; omega) F i

theorem Dev.StallFrame.bqEn (b : Nat) : e.bqEn b = d.bqEn b := by
  unfold Dev.bqEn Dev.bqLog Dev.flag
  rw [h.rd_bq hf, h.rd_bq hf]

theorem Dev.StallFrame.bqFree (b : Nat) : e.bqFree b = d.bqFree b := by
  simp only [Dev.bqFree, Dev.bqMod, Dev.bqCap, Dev.bqLog, h.bqGet, h.rd_bq hf]

theorem Dev.StallFrame.creditOk_endpoint (i n : Nat) : e.creditOk f 13 i n = d.creditOk f 13 i n := by
  have hqeng : Pg.fetch f + 0x34 ≤ Pg.qeng f := by unfold Pg.fetch Pg.qeng Pg.core; omega
  have hcounter : counterRef f 13 = some (Pg.qeng f, Reg.QENG.ECNT, Reg.QENG.E_EXEMPT, Reg.QENG.ECAP) := rfl
  simp only [Dev.creditOk, hcounter, h.flagPage hqeng, h.rdPage hqeng]

theorem Dev.StallFrame.itemRoom (s extra : Nat) : e.itemRoom f s extra = d.itemRoom f s extra := by
  simp only [Dev.itemRoom, h.sd, h.bqEn hf, h.bqFree hf, h.creditOk_endpoint hf]

theorem Dev.StallFrame.nextRead (s : Nat) : e.nextRead f s = d.nextRead f s := by
  simp only [Dev.nextRead, h.stGet, h.sd, h.needBytes, h.throughBurst, h.itemRoom hf]

theorem Dev.StallFrame.rd_memport (p : Nat) (F : Fld) (i : Nat) : e.rd (Pg.memport p) F i = d.rd (Pg.memport p) F i :=
  h.rdPage (by unfold Pg.fetch Pg.memport; omega) F i

end

end

/-! ### Translations and tags (R253, R270, R271) -/

theorem Dev.engineFill_regs_reqs (d : Dev) (f : Nat) (x : TlbEnt) :
    (d.engineFill f x).regs = d.regs ∧ (d.engineFill f x).mem.reqs = d.mem.reqs := by
  unfold Dev.engineFill
  dsimp only
  split
  · exact ⟨rfl, rfl⟩
  · unfold Dev.choose
    split <;> exact ⟨rfl, rfl⟩

/-- A lookup that finds an entry changes no register and no request. -/
theorem Dev.tlbLookup_of_found {d d1 : Dev} {f as va : Nat} {write : Bool} {x : TlbEnt} (h : d.tlbLookup f as va write = (some x, d1)) :
    d1.regs = d.regs ∧ d1.mem.reqs = d.mem.reqs := by
  unfold Dev.tlbLookup at h
  extract_lets ok d0 at h
  split at h
  · obtain ⟨-, rfl⟩ := Prod.mk.inj h
    exact ⟨rfl, rfl⟩
  next d2 _ _ =>
    have hregs : d2.regs = d.regs := d0.count_regs _ _ _ _
    have hreqs : d2.mem.reqs = d0.mem.reqs := congrArg Mem.reqs (d0.count_mem _ _ _ _)
    split at h
    · split at h
      · cases h
      · split at h
        · obtain ⟨-, rfl⟩ := Prod.mk.inj h
          obtain ⟨hfregs, hfreqs⟩ := d2.engineFill_regs_reqs f _
          exact ⟨hfregs.trans hregs, hfreqs.trans hreqs⟩
        · cases h
    · cases h

/-- A translation that succeeds changes no register and no request. -/
theorem Dev.translate_of_found {d d1 : Dev} {f s va pa : Nat} {write : Bool} (h : d.translate f s va write = (some pa, d1)) :
    d1.regs = d.regs ∧ d1.mem.reqs = d.mem.reqs := by
  have htranslated (e : Dev) (p : Nat) : (e.translated f s va p).2.regs = e.regs ∧ (e.translated f s va p).2.mem = e.mem := by
    unfold Dev.translated
    dsimp only
    split
    · exact ⟨rfl, rfl⟩
    · exact ⟨rfl, rfl⟩
  unfold Dev.translate at h
  dsimp only at h
  split at h
  next p _ =>
    obtain ⟨hregs, hmem⟩ := htranslated d p
    rw [h] at hregs hmem
    exact ⟨hregs, congrArg Mem.reqs hmem⟩
  next =>
    split at h
    next x e hlook =>
      obtain ⟨hlregs, hlreqs⟩ := Dev.tlbLookup_of_found hlook
      obtain ⟨hregs, hmem⟩ := htranslated
        (e.stSet f s { e.stGet f s with xl := some (va / 4096 * 4096, (x.pa + va % 2 ^ x.lg) / 4096 * 4096) })
        ((x.pa + va % 2 ^ x.lg) / 4096 * 4096)
      rw [h] at hregs hmem
      exact ⟨hregs.trans hlregs, (congrArg Mem.reqs hmem).trans hlreqs⟩
    next => cases h

/-- Class A has tags at the memory ports alone: TAGA of them, less those in use. -/
theorem Dev.tagRoom_classA (d : Dev) (p : Nat) :
    d.tagRoom p 1 = (p != 4 && decide (d.tagsUsed p true < d.rd (Pg.memport p) Reg.MEMPORT.TAGA)) := by
  by_cases hp : p = 4 <;> simp [Dev.tagRoom, hp]

section
variable {d e : Dev} (hport : ∀ (p : Nat) (F : Fld) (i : Nat), e.rd (Pg.memport p) F i = d.rd (Pg.memport p) F i)
include hport

theorem Dev.paPort_congr (pa : Nat) : e.paPort pa = d.paPort pa := by
  unfold Dev.paPort Dev.ddrPort Dev.ddrPorts Dev.flag
  rw [hport, hport]

theorem Dev.tagRoom_classA_congr (hreqs : e.mem.reqs = d.mem.reqs) (p : Nat) : e.tagRoom p 1 = d.tagRoom p 1 := by
  rw [Dev.tagRoom_classA, Dev.tagRoom_classA, Dev.tagsUsed, Dev.tagsUsed, hreqs, hport]

end

/-! ### A request is issued (R252) -/

/-- The request for a read of the burst at `pa` by stream `s` of engine `f`. -/
def Dev.readReq (d : Dev) (f s pa va : Nat) : MemReq :=
  { port := d.paPort pa, tag := d.freeTag (d.paPort pa), f := f, st := s, epoch := d.rd (Pg.fetch f) Reg.FETCH.EPOCH s,
    seq := (d.stGet f s).iseq, pa := pa, va := va, len := 64, write := false, wdata := [], cls := d.sd f s Reg.SDESC.CLS,
    dom := d.sd f s Reg.SDESC.DOM, at_ := d.cycle, done := false, rdata := [], rpoison := [] }

theorem Dev.sendRequest_of_read (d : Dev) (f s pa va : Nat) :
    (d.sendRequest f s pa va 64 []).mem.reqs = d.mem.reqs ++ [d.readReq f s pa va] := by
  have hst (mask ev : Nat) : (d.count (Pg.fetch f) mask ev).stGet f s = d.stGet f s := by
    rw [Dev.stGet, Dev.count_mem, ← Dev.stGet]
  simp only [Dev.sendRequest, List.isEmpty_nil, Bool.not_true, Bool.false_eq_true, and_false, if_false, hst]
  split_ifs <;> simp [Dev.tagCounts, Dev.stSet, Dev.tagDealt, Dev.readReq]

/-- The device in which stream `s` has asked for all that stands before byte `o` of item `i`. -/
def Dev.readUpTo (d : Dev) (f s i o : Nat) : Dev := d.stSet f s { d.stGet f s with pos := i, poff := o }

theorem Dev.writeEnd_reqs (d : Dev) (f s : Nat) : (d.writeEnd f s).mem.reqs = d.mem.reqs := by
  unfold Dev.writeEnd
  dsimp only
  split <;> rfl

section
variable {d d1 : Dev} {f s va i o pa : Nat} (hstate : d.stState f s = 1) (hlive : d.stLive f s = true)
  (h5 : d.sd f s Reg.SDESC.KIND ≠ 5) (h6 : d.sd f s Reg.SDESC.KIND ≠ 6) (hnext : d.nextRead f s = some (va, i, o))
  (htr : d.translate f s va false = (some pa, d1))
include hstate hlive h5 h6 hnext htr

theorem Dev.wantOf_of_read : d.wantOf f s =
    (some ⟨pa / 64 * 64, va / 64 * 64, 64, [], { d1.stGet f s with pos := i, poff := o }⟩, d1) := by
  simp only [Dev.wantOf, hstate, hlive, h5, h6, hnext, htr, ne_eq, not_true_eq_false, Bool.true_eq_false, or_self, if_false]

/-- A stream that is ready to read and has a tag issues its request. -/
theorem Dev.tryStream_of_read (hroom : d1.tagRoom (d1.paPort (pa / 64 * 64)) (d.sd f s Reg.SDESC.CLS) = true) :
    ∃ e : Dev, d.tryStream f s = (.issued, e) ∧
      e.mem.reqs = d1.mem.reqs ++ [(d1.readUpTo f s i o).readReq f s (pa / 64 * 64) (va / 64 * 64)] := by
  have hsend := (d1.readUpTo f s i o).sendRequest_of_read f s (pa / 64 * 64) (va / 64 * 64)
  refine ⟨((d1.readUpTo f s i o).sendRequest f s (pa / 64 * 64) (va / 64 * 64) 64 []).writeEnd f s, ?_,
    (Dev.writeEnd_reqs _ f s).trans hsend⟩
  simp only [Dev.tryStream, Dev.wantOf_of_read hstate hlive h5 h6 hnext htr, hroom, Bool.not_true, Bool.false_eq_true, if_false]
  rfl

end

/-- Class A goes first: when its first stream in turn issues, no other does. -/
theorem Dev.issueOne_of_classA {d : Dev} {f s : Nat} {rest : List Nat} (horder : (d.stallCounted f).rrOrder f 1 = s :: rest) {e : Dev}
    (htry : (d.stallCounted f).tryStream f s = (.issued, e)) : (d.issueOne f).mem.reqs = e.mem.reqs := by
  have hclasses (cs : List Nat) : (d.stallCounted f).tryClasses f (1 :: cs) =
      (some 1, { e with mem := { e.mem with rr := Tab.set e.mem.rr (4 * f + 1) ((s + 1) % 64) 0 } }) := by
    simp only [Dev.tryClasses, horder, Dev.tryStreams, htry]
  obtain ⟨cs, hcs⟩ : ∃ cs, (if d.plat.bcStop then [1] else if Tab.get d.mem.deal f 0 = 3 then [1, 3, 2] else [1, 2, 3]) = 1 :: cs := by
    split_ifs
    · exact ⟨[], rfl⟩
    · exact ⟨[3, 2], rfl⟩
    · exact ⟨[2, 3], rfl⟩
  unfold Dev.issueOne
  dsimp only
  rw [← Dev.stallCounted, hcs, hclasses]
  rfl

/-- With no return that waits, and without QUIESCE, an engine's fm cycle issues one request. -/
theorem Dev.fetchIssue_of_no_returns {d : Dev} {f : Nat} (hused : (d.mem.used.filter (· == 32 + f)).length < 2)
    (hq : d.flag (Pg.fetch f) Reg.HDR.QUIESCE = false) (hrets : ∀ k < 64, (d.stGet f k).rets = []) :
    d.fetchIssue f = (d.fmUsed f).issueOne f := by
  have hdrain : (d.fmUsed f).each (List.range 64)
      (fun d s => if (d.stGet f s).rets.isEmpty then d else d.drainStream f s 600) = d.fmUsed f := by
    refine List.foldlRecOn (motive := (· = d.fmUsed f)) _ _ rfl (fun e he k hk => ?_)
    have hnone : (e.stGet f k).rets = [] := by rw [he]; exact hrets k (List.mem_range.mp hk)
    rw [hnone]
    exact he
  have hroom : (List.range 64).any (fun s => ((d.fmUsed f).stGet f s).waitsRoom) = false := by
    refine List.any_eq_false.mpr (fun k hk => ?_)
    have hnone : ((d.fmUsed f).stGet f k).rets = [] := hrets k (List.mem_range.mp hk)
    simp [FStream.waitsRoom, hnone]
  have hq' : (d.fmUsed f).flag (Pg.fetch f) Reg.HDR.QUIESCE = false := hq
  unfold Dev.fetchIssue
  rw [if_neg (Nat.not_le.mpr hused)]
  dsimp only
  rw [← Dev.fmUsed, hdrain, hroom, if_neg Bool.false_ne_true, hq', if_neg Bool.false_ne_true]

/-- A stream that is in turn stands in its class and is ACTIVE. -/
theorem Dev.of_mem_rrOrder {d : Dev} {f cls s : Nat} (h : s ∈ d.rrOrder f cls) : d.sd f s Reg.SDESC.CLS = cls ∧ d.stState f s = 1 := by
  simp only [Dev.rrOrder, List.mem_filter, Bool.and_eq_true, beq_iff_eq] at h
  obtain ⟨-, ⟨-, hcls⟩, hstate⟩ := h
  exact ⟨hcls, hstate⟩

end Sys2Proof.Machine

namespace Sys2Proof

open Machine

/-! ### The clauses of O46 -/

theorem fetchIssue_carries_epoch (f : Fin 8) (s : State) (st : Nat) (rest : List Nat) (va i o pa : Nat) (d1 : Dev)
    (hused : (s.dev.mem.used.filter (· == 32 + f.val)).length < 2) (hq : s.dev.flag (Pg.fetch f) Reg.HDR.QUIESCE = false)
    (hrets : ∀ k < 64, (s.dev.stGet f k).rets = []) (horder : s.dev.rrOrder f 1 = st :: rest) (hlive : s.dev.stLive f st = true)
    (h5 : s.dev.sd f st Reg.SDESC.KIND ≠ 5) (h6 : s.dev.sd f st Reg.SDESC.KIND ≠ 6)
    (hnext : s.dev.nextRead f st = some (va, i, o)) (htr : s.dev.translate f st va false = (some pa, d1))
    (hroom : d1.tagRoom (d1.paPort (pa / 64 * 64)) 1 = true) :
    GivesDev (.fetchIssue f) s (fun d => ∃ r : MemReq, d.mem.reqs = s.dev.mem.reqs ++ [r] ∧ r.f = f.val ∧ r.st = st ∧
      r.epoch = s.dev.rd (Pg.fetch f) Reg.FETCH.EPOCH st ∧ r.epoch < 256 ∧ r.pa = pa / 64 * 64 ∧ r.va = va / 64 * 64 ∧ r.len = 64 ∧
      r.write = false ∧ r.done = false ∧ r.port = d1.paPort (pa / 64 * 64)) := by
  obtain ⟨b, hb⟩ : ∃ b, b = (s.dev.fmUsed f).stallCounted f := ⟨_, rfl⟩
  have hframe : Dev.StallFrame f s.dev b := hb ▸ s.dev.stallFrame_beforeIssue f
  obtain ⟨hcls, hstate⟩ := Dev.of_mem_rrOrder (horder ▸ List.mem_cons_self : st ∈ s.dev.rrOrder f 1)
  obtain ⟨hregs, hreqs⟩ := Dev.translate_of_found htr
  obtain ⟨e, htr'⟩ : ∃ e, b.translate f st va false = (some pa, e) :=
    ⟨_, Prod.ext ((hframe.translate_fst st va false).trans (by rw [htr])) rfl⟩
  obtain ⟨hregs', hreqs'⟩ := Dev.translate_of_found htr'
  have hport (p : Nat) (F : Fld) (k : Nat) : e.rd (Pg.memport p) F k = d1.rd (Pg.memport p) F k :=
    calc e.rd (Pg.memport p) F k = b.rd (Pg.memport p) F k := Dev.rd_congr hregs' _ _ _
      _ = s.dev.rd (Pg.memport p) F k := hframe.rd_memport f.isLt p F k
      _ = d1.rd (Pg.memport p) F k := (Dev.rd_congr hregs _ _ _).symm
  have hepoch : e.rd (Pg.fetch f) Reg.FETCH.EPOCH st = s.dev.rd (Pg.fetch f) Reg.FETCH.EPOCH st :=
    (Dev.rd_congr hregs' _ _ _).trans (hframe.rd (by simp only [Reg.FETCH.EPOCH]; omega))
  have hroom' : e.tagRoom (e.paPort (pa / 64 * 64)) (b.sd f st Reg.SDESC.CLS) = true := by
    rw [hframe.sd, hcls, Dev.paPort_congr hport, Dev.tagRoom_classA_congr hport (by rw [hreqs', hreqs, hframe.reqs_eq])]
    exact hroom
  obtain ⟨t, htry, htreqs⟩ := Dev.tryStream_of_read ((hframe.stState st).trans hstate) ((hframe.stLive f.isLt st).trans hlive)
    (by rwa [hframe.sd]) (by rwa [hframe.sd]) ((hframe.nextRead f.isLt st).trans hnext) htr' hroom'
  refine givesDev_of_eq rfl (Dev.fetchIssue_of_no_returns hused hq hrets)
    ⟨(e.readUpTo f st i o).readReq f st (pa / 64 * 64) (va / 64 * 64), ?_, rfl, rfl, hepoch, Dev.rd_lt _ _ _ _, rfl, rfl, rfl, rfl, rfl,
      Dev.paPort_congr hport (pa / 64 * 64)⟩
  have horder' : b.rrOrder f 1 = st :: rest := (hframe.rrOrder 1).trans horder
  rw [Dev.issueOne_of_classA (hb ▸ horder') (hb ▸ htry), htreqs, hreqs', hframe.reqs_eq]

theorem fetchReturn_discards_stale (f : Fin 8) (tag : Fin 2048) (host : HostRead) (s : State) (r : MemReq)
    (hused : (s.dev.mem.used.filter (· == 8 + f.val)).length < 2) (htag : tag.val < 1024)
    (hreq : s.dev.reqAt (tag.val / 256) (tag.val % 256) = some r) (hf : r.f = f.val) (hdone : r.done = true)
    (hepoch : r.epoch ≠ s.dev.rd (Pg.fetch f) Reg.FETCH.EPOCH r.st) :
    GivesDev (.fetchReturn f tag host) s (fun d => d.mem.reqs = s.dev.mem.reqs.erase r ∧ d.qs = s.dev.qs ∧
      d.rd (Pg.fetch f) Reg.FETCH.DISCARD_CNT =
        min (s.dev.rd (Pg.fetch f) Reg.FETCH.DISCARD_CNT + 1) (2 ^ Reg.FETCH.DISCARD_CNT.w - 1) ∧
      (∀ e ∈ (d.stGet f r.st).rets, e ∈ (s.dev.stGet f r.st).rets)) := by
  obtain ⟨d1, hd1, hreturn⟩ := Dev.fetchReturn_of_stale host hused htag hreq hf hdone hepoch
  have hmem : d1.mem = (s.dev.returned f r).mem := by rcases hd1 with rfl | ⟨v, rfl⟩ <;> rfl
  have hqs : d1.qs = s.dev.qs := by rcases hd1 with rfl | ⟨v, rfl⟩ <;> rfl
  have hcount : d1.rd (Pg.fetch f) Reg.FETCH.DISCARD_CNT = s.dev.rd (Pg.fetch f) Reg.FETCH.DISCARD_CNT := by
    rcases hd1 with rfl | ⟨v, rfl⟩
    · rfl
    · exact Dev.rd_wr_other _ _ (by simp only [Reg.FETCH.DISCARD_CNT, Reg.MEMPORT.RTT_MAX, Pg.fetch, Pg.memport]; omega)
  have hfreed : Dev.NothingDelivered f r.st (d1.discardReturn f) ((d1.discardReturn f).tagFreed f r.st) :=
    Dev.NothingDelivered.tagFreed ⟨rfl, rfl, rfl, fun _ hr => hr⟩ f.isLt
  refine givesDev_of_eq rfl hreturn ⟨?_, ?_, ?_, ?_⟩
  · rw [hfreed.reqs, Dev.discardReturn_mem, hmem]
    rfl
  · rw [hfreed.qs, Dev.discardReturn_qs, hqs]
  · rw [hfreed.discards, Dev.rd_discardReturn, hcount]
  · have hst : (d1.discardReturn f).stGet f r.st = s.dev.stGet f r.st := by
      rw [Dev.stGet, Dev.discardReturn_mem, hmem]
      rfl
    rw [← hst]
    exact hfreed.rets

/-- Settles O46: what a request carries, and what a return of another epoch does. -/
theorem staleReturnsAreDiscarded : Obligations.StaleReturnsAreDiscarded :=
  ⟨fetchIssue_carries_epoch, fun f tag host s r hused htag hreq hf hdone hepoch _ =>
    fetchReturn_discards_stale f tag host s r hused htag hreq hf hdone hepoch⟩

end Sys2Proof
end

section
/-!
PROOFS of 09_images_and_overlays.md: loading and unloading an image (R286), and START, DRAIN and STOP by the state of the domain (R292).
-/

namespace Sys2Proof.Machine

@[simp] theorem Dev.jobOf_setJob_same (d : Dev) (m : Nat) (j : LJob) : (d.setJob m j).jobOf m = j := Tab.get_set_same _ _ _ _

/-! ### LOAD_IMAGE (R286, Table 9.7) -/

section
variable {d : Dev} {c : LCmd} {img : HostRead} {ptes : List HostPte} (hfront : d.ldrFront 1 = some c) (hlen : c.u 8 4 ≠ 0)
  (hbc : d.plat.bcStop = false)
include hfront hlen hbc

theorem Dev.loadImage_of_first_failed {e : Nat × Nat} (hfirst : d.loadFirst c = some e) :
    d.loadImage img ptes = (d.ldrBusy c.dom).ldrDone c.dom 1 e.1 e.2 := by
  simp [Dev.loadImage, hfront, hlen, hbc, hfirst]

variable {bs : List Byte} {fail : Option Nat} {d1 : Dev} (hfirst : d.loadFirst c = none)
  (hread : (d.ldrBusy c.dom).imgRead c img = (bs, fail, d1))
include hfirst hread

theorem Dev.loadImage_of_verify_failed {e : Nat × Nat} (hverify : d1.loadVerify c bs fail = some e) :
    d.loadImage img ptes = d1.ldrDone c.dom 1 e.1 e.2 := by
  simp [Dev.loadImage, hfront, hlen, hbc, hfirst, hread, hverify]

variable (hverify : d1.loadVerify c bs fail = none)
include hverify

theorem Dev.loadImage_of_pads_failed {k : Nat} (hpads : d1.pads bs = .error k) :
    d.loadImage img ptes = d1.ldrDone c.dom 1 0xA k := by
  simp [Dev.loadImage, hfront, hlen, hbc, hfirst, hread, hverify, hpads]

variable {pads : Nat} (hpads : d1.pads bs = .ok pads)
include hpads

theorem Dev.loadImage_of_no_place (hplace : d1.choosePlace bs (c.u 33 1) = none) :
    d.loadImage img ptes = d1.ldrDone c.dom 1 0xB 0 := by
  simp [Dev.loadImage, hfront, hlen, hbc, hfirst, hread, hverify, hpads, hplace]

variable {p0 : Place} (hplace : d1.choosePlace bs (c.u 33 1) = some p0)
include hplace

theorem Dev.loadImage_of_resources_failed {e : Nat × Nat} (hres : d1.resources bs c.dom p0 = .error e) :
    d.loadImage img ptes = d1.ldrDone c.dom 1 e.1 e.2 := by
  simp [Dev.loadImage, hfront, hlen, hbc, hfirst, hread, hverify, hpads, hplace, hres]

variable {p : Place} {d3 : Dev} (hres : d1.resources bs c.dom p0 = .ok p)
include hres

/-- A failure of step 7 drops the device in which the image was being staged. -/
theorem Dev.loadImage_of_map_failed {e : Nat × Nat}
    (hmap : (if c.u 32 1 = 1 then d1.ddrPut (c.u 16 8) bs else d1).loadMap c bs ptes p = (some e, d3)) :
    d.loadImage img ptes = d1.ldrDone c.dom 1 e.1 e.2 := by
  split_ifs at hmap with hhost <;>
    simp [Dev.loadImage, hfront, hlen, hbc, hfirst, hread, hverify, hpads, hplace, hres, hhost, hmap]

/-- An image that passes every check has its records sent, and the command waits for them. -/
theorem Dev.loadImage_of_verified
    (hmap : (if c.u 32 1 = 1 then d1.ddrPut (c.u 16 8) bs else d1).loadMap c bs ptes p = (none, d3)) :
    d.loadImage img ptes =
      ((((d3.loadSet c bs pads p (if c.u 32 1 = 1 then c.u 16 8 else c.u 0 8)).ldrClear c.dom).sendRecs c.dom
        (segSectRecs bs 5 0)).2.segRegs c.dom 0 false).setJob c.dom .load := by
  split_ifs at hmap with hhost <;>
    simp [Dev.loadImage, hfront, hlen, hbc, hfirst, hread, hverify, hpads, hplace, hres, hhost, hmap]

end

/-! ### LOAD_COMPLETE and UNLOAD (R286) -/

/-- Records that are all delivered to cores of which none was fenced meanwhile take effect. -/
theorem Dev.loadComplete_of_delivered {d : Dev} {m : Nat} (hjob : d.jobOf m = .load) (hquiet : d.ldrQuiet m = true)
    (hcores : ∀ c < 32, bitAt (Tab.get d.ldr.cores m 0) c = true → d.fenced c = false) :
    d.loadComplete m =
      (((((d.ldrClear m).swapEvent m false true).setState m stLOADED).keyChange).count Pg.loader 0xF 0).ldrDone m 1 0 0 := by
  have hnone : (List.range 32).any (fun c => bitAt (Tab.get d.ldr.cores m 0) c && d.fenced c) = false := by
    refine List.any_eq_false.mpr (fun c hc => ?_)
    have hfence := hcores c (List.mem_range.mp hc)
    rw [Bool.and_eq_true, not_and, Bool.not_eq_true]
    exact hfence
  simp only [Dev.loadComplete, hjob, hquiet, hnone, Bool.not_true, Bool.false_eq_true, if_false]

theorem Dev.unload_of_loaded_or_stopped {d : Dev} {c : LCmd} (hfront : d.ldrFront 1 = some c) (hlen : c.u 8 4 = 0)
    (hst : d.dstate c.dom = stLOADED ∨ d.dstate c.dom = stSTOPPED) :
    d.unload = (((d.ldrBusy c.dom).clearDomain c.dom).keyChange).ldrDone c.dom 1 0 0 := by
  have hallowed : ¬(d.dstate c.dom ≠ stLOADED ∧ d.dstate c.dom ≠ stSTOPPED) := fun h => hst.elim h.1 h.2
  simp only [Dev.unload, hfront, hlen, ne_eq, not_true_eq_false, if_false]
  exact if_neg hallowed

/-! ### START, DRAIN and STOP (R292) -/

/-- With its reservations granted and no segment that waits to be installed, a LOADED domain runs. -/
theorem Dev.startCmd_of_loaded {d : Dev} {c : LCmd} (hfront : d.ldrFront 3 = some c) (hst : d.dstate c.dom = stLOADED)
    (hok : d.startBad c.dom = none) (hseg : Tab.get d.ldr.segPend c.dom false = false) :
    d.startCmd = ((d.ldrBusy c.dom).startDomain c.dom).ldrEnd 0 0 := by
  simp [Dev.startCmd, hfront, hst, hok, hseg]

theorem Dev.startCmd_of_wrong_state {d : Dev} {c : LCmd} (hfront : d.ldrFront 3 = some c) (hauto : c.auto = false)
    (hst : d.dstate c.dom ≠ stLOADED) : d.startCmd = (d.ldrBusy c.dom).ldrEnd 1 (d.dstate c.dom) := by
  simp [Dev.startCmd, hfront, hauto, hst]

theorem Dev.drainBegin_of_running {d : Dev} {c : LCmd} (hfront : d.ldrFront 5 = some c) (hst : d.dstate c.dom = stRUNNING)
    (hseg : d.nseg c.dom = 1) :
    d.drainBegin = (((d.ldrBusy c.dom).setJob c.dom .drainWait).stopInputs c.dom).setState c.dom stDRAINING := by
  simp [Dev.drainBegin, hfront, hst, hseg]

theorem Dev.drainBegin_of_wrong_state {d : Dev} {c : LCmd} (hfront : d.ldrFront 5 = some c) (hst : d.dstate c.dom ≠ stRUNNING) :
    d.drainBegin = (d.ldrBusy c.dom).ldrEnd 1 (d.dstate c.dom) := by
  simp [Dev.drainBegin, hfront, hst]

/-- A drain that DRAIN asked for, away from a segment boundary, ends in LOADED with its command. -/
theorem Dev.drainComplete_of_drainWait {d : Dev} {m : Nat} (hst : d.dstate m = stDRAINING) (hdrained : d.drained m = true)
    (hseg : Tab.get d.ldr.segDrain m false = false) (hjob : d.jobOf m = .drainWait) :
    d.drainComplete m = (((((d.discardInputs m).setState m stLOADED).tagaUpdate).setJob m .idle).ldrEnd 0 0) := by
  simp [Dev.drainComplete, hst, hdrained, hseg, hjob]

/-- The device in which STOP has stopped the domain and is about to restore its base configuration. -/
def Dev.stopBegun (d : Dev) (m : Nat) : Dev := ((d.ldrBusy m).stopDomain m (Pg.loader / 4096) 0 true).setJob m .stopRestore

section
variable {d d1 : Dev} {c : LCmd} {rest : List LCmd} (hqueue : d.ldr.queue = c :: rest) (hopc : c.opc = 4)
  (hjob : d.jobOf c.dom = .idle) (hbusy : d.flag Pg.loader Reg.LOADER.BUSY = false) (hrun : d.running c.dom = true)
  (hbc : d.plat.bcStop = false)
include hqueue hopc hjob hbusy hrun hbc

theorem Dev.stopCmd_of_sent (hsend : ((d.stopBegun c.dom).reloadBegin c.dom).restoreSend c.dom 0 = (none, d1)) : d.stopCmd = d1 := by
  rw [Dev.stopBegun] at hsend
  simp [Dev.stopCmd, hqueue, hopc, hjob, hbusy, hrun, hbc, hsend]

/-- A restore of which a record cannot be sent fails at that record. -/
theorem Dev.stopCmd_of_send_failed {o : Nat}
    (hsend : ((d.stopBegun c.dom).reloadBegin c.dom).restoreSend c.dom 0 = (some o, d1)) :
    d.stopCmd = ((d1.reloadFail c.dom).setJob c.dom .idle).ldrEnd 0x19 o := by
  rw [Dev.stopBegun] at hsend
  simp [Dev.stopCmd, hqueue, hopc, hjob, hbusy, hrun, hbc, hsend]

end

end Sys2Proof.Machine

namespace Sys2Proof

open Machine

/-! ### The clauses of O22 and O23 -/

/-- Settles O22: LOAD_IMAGE check by check in the order of Table 9.7, then LOAD_COMPLETE and UNLOAD. -/
theorem loadAndUnload : Obligations.LoadAndUnload := by
  unfold Obligations.LoadAndUnload
  refine ⟨fun img ptes s c hfront hlen hbc => ?load,
    fun m s hjob hquiet hcores => ⟨s.dev.loadComplete m, rfl, Dev.loadComplete_of_delivered hjob hquiet hcores⟩,
    fun s c hfront hlen hst => ⟨s.dev.unload, rfl, Dev.unload_of_loaded_or_stopped hfront hlen hst⟩⟩
  refine ⟨s.dev.loadImage img ptes, rfl, ?_⟩
  rcases hfirst : s.dev.loadFirst c with _ | e
  case some => exact Dev.loadImage_of_first_failed hfront hlen hbc hfirst
  rcases hread : (s.dev.ldrBusy c.dom).imgRead c img with ⟨bs, fail, d1⟩
  dsimp only
  rcases hverify : d1.loadVerify c bs fail with _ | e
  case some => exact Dev.loadImage_of_verify_failed hfront hlen hbc hfirst hread hverify
  rcases hpads : d1.pads bs with k | pads
  case error => exact Dev.loadImage_of_pads_failed hfront hlen hbc hfirst hread hverify hpads
  rcases hplace : d1.choosePlace bs (c.u 33 1) with _ | p0
  case none => exact Dev.loadImage_of_no_place hfront hlen hbc hfirst hread hverify hpads hplace
  dsimp only
  rcases hres : d1.resources bs c.dom p0 with e | p
  case error => exact Dev.loadImage_of_resources_failed hfront hlen hbc hfirst hread hverify hpads hplace hres
  dsimp only
  rcases hmap : (if c.u 32 1 = 1 then d1.ddrPut (c.u 16 8) bs else d1).loadMap c bs ptes p with ⟨_ | e, d3⟩
  · have hsent := Dev.loadImage_of_verified hfront hlen hbc hfirst hread hverify hpads hplace hres hmap
    exact ⟨by rw [hsent, Dev.jobOf_setJob_same], hsent⟩
  · exact Dev.loadImage_of_map_failed hfront hlen hbc hfirst hread hverify hpads hplace hres hmap

/-- Settles O23, clause by clause; that a restore which cannot be sent ends STOP with 0x19 is the model's choice (log 85). -/
theorem domainCommands : Obligations.DomainCommands := by
  unfold Obligations.DomainCommands
  refine ⟨fun s c hfront hst hok hseg => ⟨s.dev.startCmd, rfl, Dev.startCmd_of_loaded hfront hst hok hseg⟩,
    fun s c hfront hst hseg => ⟨s.dev.drainBegin, rfl, Dev.drainBegin_of_running hfront hst hseg⟩,
    fun m s hst hdrained hseg hjob => ⟨s.dev.drainComplete m, rfl, Dev.drainComplete_of_drainWait hst hdrained hseg hjob⟩,
    fun s c rest hqueue hopc hjob hbusy hrun hbc => ⟨s.dev.stopCmd, rfl, ?stop⟩,
    fun s c hfront hauto hst => ⟨s.dev.startCmd, rfl, Dev.startCmd_of_wrong_state hfront hauto hst⟩,
    fun s c hfront hst => ⟨s.dev.drainBegin, rfl, Dev.drainBegin_of_wrong_state hfront hst⟩⟩
  rw [← Dev.stopBegun]
  rcases hsend : ((s.dev.stopBegun c.dom).reloadBegin c.dom).restoreSend c.dom 0 with ⟨_ | o, d1⟩
  · exact Dev.stopCmd_of_sent hqueue hopc hjob hbusy hrun hbc hsend
  · exact Dev.stopCmd_of_send_failed hqueue hopc hjob hbusy hrun hbc hsend

end Sys2Proof
end

section
/-!
PROOFS of 11_scoresheet_and_journal.md: journal records, compaction, operating counts and user words (R343 to R348).
-/

namespace Sys2Proof.Machine

/-! ### Flags -/

theorem Dev.flag_wr_zero (d : Dev) (base : Nat) {F : Fld} (hF : F.lo + F.w ≤ 32) : (d.wr base F 0).flag base F = false := by
  simp [Dev.flag, Dev.rd_wr_same d base F 0 0 hF]

theorem Dev.flag_wr_disjoint (d : Dev) {base : Nat} {F G : Fld} (v : Nat) (ha : base + G.off + G.stride * 0 = base + F.off + F.stride * 0)
    (hF : F.lo + F.w ≤ 32) (h : G.lo + G.w ≤ F.lo ∨ F.lo + F.w ≤ G.lo) : (d.wr base F v).flag base G = d.flag base G := by
  rw [Dev.flag, Dev.flag, Dev.rd_wr_disjoint d v ha hF h]

theorem Dev.KeepsPage.flag {base : Nat} {d e : Dev} (h : d.KeepsPage base e) {F : Fld} {i : Nat} (hF : F.off + F.stride * i < 0x1000) :
    e.flag base F i = d.flag base F i := by
  rw [Dev.flag, Dev.flag, h.rd hF]

theorem Dev.KeepsPage.then_if {base : Nat} {d e f : Dev} {p : Prop} [Decidable p] (h : d.KeepsPage base e) (hf : e.KeepsPage base f) :
    d.KeepsPage base (if p then f else e) := by
  split
  · exact h.trans hf
  · exact h

/-! ### Changes that wait (R345) -/

theorem Dev.journalDue_frame (d : Dev) (item idx : Nat) :
    d.journalDue item idx = { d with sco := { d.sco with jdue := (d.journalDue item idx).sco.jdue } } := by
  unfold Dev.journalDue
  dsimp only
  split <;> rfl

theorem Dev.journalDue_regs (d : Dev) (item idx : Nat) : (d.journalDue item idx).regs = d.regs := by
  rw [Dev.journalDue_frame]

/-- The change of the item waits, and the others wait as before. -/
theorem Dev.contains_journalDue (d : Dev) (item idx k : Nat) :
    (d.journalDue item idx).sco.jdue.contains k = (d.sco.jdue.contains k || k == 256 * item + idx) := by
  unfold Dev.journalDue
  dsimp only
  split
  next hwaits =>
    by_cases hk : k = 256 * item + idx
    · subst hk
      rw [hwaits, Bool.true_or]
    · rw [beq_false_of_ne hk, Bool.or_false]
  next => simp only [List.contains_append, List.contains_cons, List.contains_nil, Bool.or_false]

/-! ### A privileged source leaves the JOURNAL page alone (R317, R318) -/

theorem Pg.apart_journal_fault : Pg.Apart Pg.journal Pg.fault := ⟨by decide, by decide, by decide⟩
theorem Pg.apart_journal_score : Pg.Apart Pg.journal Pg.score := ⟨by decide, by decide, by decide⟩
theorem Pg.apart_journal_host : Pg.Apart Pg.journal Pg.host := ⟨by decide, by decide, by decide⟩
theorem Pg.apart_journal_dealer : Pg.Apart Pg.journal Pg.dealer := ⟨by decide, by decide, by decide⟩

section
variable {base : Nat} (hfault : Pg.Apart base Pg.fault) (d : Dev)
include hfault

theorem Dev.keepsPage_armedFor (kind page : Nat) : d.KeepsPage base (d.armedFor kind page).2 := by
  unfold Dev.armedFor
  split
  · split
    · exact Dev.keepsPage_wr hfault _ (by decide) 0
    · exact Dev.keepsPage_of_regs base rfl
  · exact Dev.keepsPage_of_regs base rfl

theorem Dev.keepsPage_bqStore (b i : Nat) (x : Item) : d.KeepsPage base (d.bqStore b i x) :=
  (d.keepsPage_armedFor hfault 4 ((bqBlock b).1 / 4096)).trans (Dev.keepsPage_of_regs base rfl)

theorem Dev.keepsPage_firstCapture (page bit : Nat) (priv : Bool) (dom : Option Nat) (sev time : Nat) :
    d.KeepsPage base (d.firstCapture page bit priv dom sev time) := by
  have hwr (e : Dev) (F : Fld) (v : Nat) (hF : F.off + F.stride * 0 < 0x1000) : e.KeepsPage base (e.wr Pg.fault F v) :=
    e.keepsPage_wr hfault hF v
  unfold Dev.firstCapture
  split
  · exact (hwr _ _ _ (by decide)).trans (hwr _ _ _ (by decide))
  · refine Dev.KeepsPage.trans ?_ (hwr _ _ _ (by decide))
    refine Dev.KeepsPage.trans ?_ (hwr _ _ _ (by decide))
    refine Dev.KeepsPage.trans ?_ (Dev.keepsPage_hit hfault _ (by decide) 1)
    exact (((((hwr _ _ _ (by decide)).trans (hwr _ _ _ (by decide))).trans (hwr _ _ _ (by decide))).trans
      (hwr _ _ _ (by decide))).trans (hwr _ _ _ (by decide))).trans (hwr _ _ _ (by decide))

end

/-- A host ring notifies by its vector alone, which is no register. -/
theorem Dev.bqThresh_regs_of_ring (d : Dev) {b : Nat} (hb : b < 1536) : (d.bqThresh b).regs = d.regs := by
  have hnotify (e : Dev) : (e.bqNotify b).regs = e.regs := by
    rw [Dev.bqNotify, if_pos hb]
    split
    · exact Dev.msix_regs _ _
    · rfl
  unfold Dev.bqThresh
  dsimp only
  split
  · rfl
  split
  · split <;> rfl
  split
  · rfl
  · exact hnotify _

section
variable {base : Nat} (hfault : Pg.Apart base Pg.fault) (hhost : Pg.Apart base Pg.host) (d : Dev)
include hfault

theorem Dev.keepsPage_bqWrite_ring {b : Nat} (hb : b < 1536) (x : Item) : d.KeepsPage base (d.bqWrite b x) := by
  rw [Dev.bqWrite]
  refine Dev.KeepsPage.trans ?_ (Dev.keepsPage_of_regs base (Dev.bqThresh_regs_of_ring _ hb))
  exact (d.keepsPage_bqStore hfault b _ _).trans (Dev.keepsPage_of_regs base (Dev.bqSet_regs _ _ _))

theorem Dev.keepsPage_bqPush_ring {b : Nat} (hb : b < 1536) (x : Item) : d.KeepsPage base (d.bqPush b x) := by
  have hset (s : BqSt) : d.KeepsPage base (d.bqSet b s) := Dev.keepsPage_of_regs base (d.bqSet_regs b s)
  rw [Dev.bqPush]
  split
  · exact (hset _).trans (Dev.keepsPage_bqWrite_ring hfault _ hb x)
  · exact hset _

theorem Dev.keepsPage_postEvent {b : Nat} (hb : b < 1536) (evt dom frame e0 e1 : Nat) :
    d.KeepsPage base (d.postEvent b evt dom frame e0 e1) := by
  have hpush (e : Dev) (x : Item) : e.KeepsPage base (e.bqPush b x) := e.keepsPage_bqPush_ring hfault hb x
  have hset (e : Dev) (s : BqSt) : e.KeepsPage base (e.bqSet b s) := Dev.keepsPage_of_regs base (e.bqSet_regs b s)
  rw [Dev.postEvent]
  refine Dev.KeepsPage.trans ?_ (Dev.keepsPage_of_regs base (Dev.count_regs _ _ _ _ _))
  refine Dev.KeepsPage.trans ?_ (hset _ _)
  refine Dev.KeepsPage.trans ?_ (hpush _ _)
  refine Dev.KeepsPage.trans ?_ (hpush _ _)
  exact (hset _ _).trans (hpush _ _)

include hhost

theorem Dev.keepsPage_postOrDrop (en : Bool) (b evt dom frame e0 : Nat) : d.KeepsPage base (d.postOrDrop en b evt dom frame e0) := by
  unfold Dev.postOrDrop
  split
  next hroom =>
    simp only [Dev.eventRoom, Bool.and_eq_true, decide_eq_true_eq] at hroom
    obtain ⟨-, ⟨⟨⟨hb, -⟩, -⟩, -⟩, -⟩ := hroom
    exact d.keepsPage_postEvent hfault hb evt dom frame e0 0
  next => exact d.keepsPage_wr hhost (by decide) _

end

theorem Dev.keepsPage_recordQ {base : Nat} (hscore : Pg.Apart base Pg.score) (d : Dev) (typ sev : Nat) (inj : Bool) (body : List Nat)
    (key : Option (Nat × Nat)) (priv : Bool) : d.KeepsPage base (d.recordQ typ sev inj body key priv).2 := by
  unfold Dev.recordQ
  split
  · exact Dev.keepsPage_of_regs base rfl
  split
  · exact d.keepsPage_wr hscore (by decide) _
  · exact Dev.keepsPage_of_regs base rfl

theorem Dev.keepsJournal_privNoted (d : Dev) (i pg : Nat) (inj : Bool) : d.KeepsPage Pg.journal (d.privNoted i pg inj) := by
  have hstat := d.keepsPage_hit Pg.apart_journal_fault (F := Reg.FAULT.PRIV_STAT) (i := 0) (by decide) (2 ^ i)
  have hfirst := hstat.trans (Dev.keepsPage_firstCapture Pg.apart_journal_fault _ (pg / 4096) i true none 0 d.fs)
  have hrec := hfirst.trans (Dev.keepsPage_recordQ Pg.apart_journal_score _ 3 0 inj ([i + d.privReact i * 8] ++ timeWords d.fs) none true)
  unfold Dev.privNoted
  dsimp only
  split
  next hq =>
    rw [hq] at hrec
    exact hrec.trans (Dev.keepsPage_postOrDrop Pg.apart_journal_fault Pg.apart_journal_host _ _ _ _ _ _ _)
  next hq => rwa [hq] at hrec

theorem Dev.keepsJournal_privReactions (d : Dev) (i react : Nat) : d.KeepsPage Pg.journal (d.privReactions i react) := by
  have hmsix := (Dev.keepsPage_of_regs Pg.journal rfl).then_if (p := bitAt react 0) (Dev.keepsPage_of_regs _ (d.msix_regs 0))
  have hnmi := hmsix.then_if (p := bitAt react 1) (Dev.keepsPage_of_regs _ (Dev.emit_regs _ .nmi))
  unfold Dev.privReactions
  refine Dev.KeepsPage.then_if ?_ (Dev.keepsPage_wr Pg.apart_journal_fault _ (by decide) 0)
  refine Dev.KeepsPage.then_if ?_ (Dev.keepsPage_of_regs _ rfl)
  exact hnmi.then_if ((Dev.keepsPage_of_regs _ rfl).trans (Dev.keepsPage_wr Pg.apart_journal_dealer _ (by decide) 0))

theorem Dev.keepsJournal_privOccurs (d : Dev) (i pg : Nat) (inj : Bool) : d.KeepsPage Pg.journal (d.privOccurs i pg inj) :=
  (d.keepsJournal_privNoted i pg inj).trans (Dev.keepsJournal_privReactions _ _ _)

/-- A flash failure counts on the JOURNAL page behind the status word, whose flags stay. -/
theorem Dev.flag_journalFail (d : Dev) {F : Fld} (hF : F.off = 0x40 ∧ F.stride = 0) :
    d.journalFail.flag Pg.journal F = d.flag Pg.journal F := by
  obtain ⟨hoff, hstride⟩ := hF
  rw [Dev.journalFail, (Dev.keepsJournal_privOccurs _ _ _ _).flag (by omega), Dev.flag, Dev.flag, Dev.bump,
    Dev.rd_wr_other _ _ (by rw [hoff, hstride, Nat.zero_mul]; decide)]

/-! ### JOURNAL_RECORD (R345, R347) -/

/-- The device whose first waiting change, of item `k`, is journalled. -/
def Dev.journalled (d : Dev) (k : Nat) (rest : List Nat) : Dev :=
  ({ d with sco := { d.sco with jdue := rest, jcopy := Tab.set d.sco.jcopy k (d.jval k) [] } } : Dev).wr Pg.journal Reg.JOURNAL.WRPTR
    (d.rd Pg.journal Reg.JOURNAL.WRPTR + (jRecord k (d.jval k)).length)

section
variable {d : Dev} {k : Nat} {rest : List Nat} (hdue : d.sco.jdue = k :: rest) (hready : d.flag Pg.journal Reg.JOURNAL.READY = true)
  (hstop : d.flag Pg.journal Reg.JOURNAL.JSTOP = false) (hcomp : d.flag Pg.journal Reg.JOURNAL.COMPACTING = false)
include hdue hready hstop hcomp

theorem Dev.journalRecord_of_unchanged (hcopy : Tab.get d.sco.jcopy k [] = d.jval k) (fl : Memory) (fails : Bool) :
    d.journalRecord fl fails = (fl, { d with sco := { d.sco with jdue := rest } }) := by
  simp [Dev.journalRecord, hdue, hready, hstop, hcomp, hcopy]

variable (hcopy : Tab.get d.sco.jcopy k [] ≠ d.jval k)
include hcopy

theorem Dev.journalRecord_of_no_room (hroom : 196608 < d.rd Pg.journal Reg.JOURNAL.WRPTR + (jRecord k (d.jval k)).length) (fl : Memory)
    (fails : Bool) : d.journalRecord fl fails = (fl, d.wr Pg.journal Reg.JOURNAL.COMPACTING 1) := by
  simp [Dev.journalRecord, hdue, hready, hstop, hcomp, hcopy, hroom]

/-- A record of OPSEC also sets OPSEC_J. -/
theorem Dev.journalRecord_of_room (hroom : d.rd Pg.journal Reg.JOURNAL.WRPTR + (jRecord k (d.jval k)).length ≤ 196608) (fl : Memory) :
    d.journalRecord fl false =
      (flashProgram fl (d.jPart (d.rd Pg.journal Reg.JOURNAL.PART) + d.rd Pg.journal Reg.JOURNAL.WRPTR) (jRecord k (d.jval k)),
        if k / 256 = 1 then (d.journalled k rest).wr Pg.journal Reg.JOURNAL.OPSEC_J ((d.jval k).headD 0) else d.journalled k rest) := by
  simp [Dev.journalRecord, Dev.journalled, hdue, hready, hstop, hcomp, hcopy, hroom.not_gt]

end

/-- WRPTR has 18 bits, enough for every offset below the threshold of R347. -/
theorem Dev.wrptr_journalled {d : Dev} {k : Nat} {rest : List Nat}
    (hroom : d.rd Pg.journal Reg.JOURNAL.WRPTR + (jRecord k (d.jval k)).length ≤ 196608) :
    (d.journalled k rest).rd Pg.journal Reg.JOURNAL.WRPTR = d.rd Pg.journal Reg.JOURNAL.WRPTR + (jRecord k (d.jval k)).length := by
  rw [Dev.journalled, Dev.rd_wr_same _ _ _ _ _ (by decide)]
  exact Nat.mod_eq_of_lt (hroom.trans_lt (by decide))

theorem Dev.jcopy_journalled (d : Dev) (k : Nat) (rest : List Nat) : Tab.get (d.journalled k rest).sco.jcopy k [] = d.jval k :=
  Tab.get_set_same _ _ _ _

/-! ### COMPACTION_DONE (R347, R348) -/

/-- The device when partition `p` holds a snapshot of number `seq` and the other one is erased. -/
def Dev.compacted (d : Dev) (fl : Memory) (p seq : Nat) : Dev :=
  ((d.takeSnapshot fl p seq).2.wr Pg.journal Reg.JOURNAL.COMPACTING 0).bump Pg.journal Reg.JOURNAL.COMPACT_CNT

section
variable {d : Dev} (hcomp : d.flag Pg.journal Reg.JOURNAL.COMPACTING = true) (hstop : d.flag Pg.journal Reg.JOURNAL.JSTOP = false)
include hcomp hstop

theorem Dev.compactionDone_of_failed (fl : Memory) :
    d.compactionDone fl true =
      (fl, ((d.wr Pg.journal Reg.JOURNAL.COMPACTING 0).wr Pg.journal Reg.JOURNAL.JSTOP 1).journalFail) := by
  simp [Dev.compactionDone, hcomp, hstop]

theorem Dev.compactionDone_of_programmed {p seq : Nat} (hp : p = d.rd Pg.journal Reg.JOURNAL.PART)
    (hseq : seq = (d.rd Pg.journal Reg.JOURNAL.SEQ + 1) % 2 ^ 32) (fl : Memory) :
    d.compactionDone fl false =
      (flashErase (flashProgram (flashErase fl (d.jPart (1 - p)) 0x40000) (d.jPart (1 - p)) (d.snapshot seq)) (d.jPart p) 0x40000,
        d.compacted fl (1 - p) seq) := by
  subst hp hseq
  simp [Dev.compactionDone, Dev.compacted, Dev.takeSnapshot, hcomp, hstop]

end

section
variable (d : Dev) (fl : Memory) (p : Nat) {seq : Nat}

theorem Dev.takeSnapshot_frame : (d.takeSnapshot fl p seq).2 = { d with regs := (d.takeSnapshot fl p seq).2.regs } := by
  simp only [Dev.takeSnapshot]
  rfl

theorem Dev.compacted_frame : d.compacted fl p seq = { d with regs := (d.compacted fl p seq).regs } := by
  rw [Dev.compacted, Dev.takeSnapshot_frame]
  rfl

theorem Dev.part_compacted (hp : p < 2) : (d.compacted fl p seq).rd Pg.journal Reg.JOURNAL.PART = p := by
  simp only [Dev.compacted, Dev.takeSnapshot, Dev.bump]
  rw [Dev.rd_wr_other _ _ (by decide), Dev.rd_wr_disjoint _ _ (by decide) (by decide) (by decide), Dev.rd_wr_other _ _ (by decide),
    Dev.rd_wr_other _ _ (by decide), Dev.rd_wr_same _ _ _ _ _ (by decide)]
  exact Nat.mod_eq_of_lt hp

theorem Dev.seq_compacted (hseq : seq < 2 ^ 32) : (d.compacted fl p seq).rd Pg.journal Reg.JOURNAL.SEQ = seq := by
  simp only [Dev.compacted, Dev.takeSnapshot, Dev.bump]
  rw [Dev.rd_wr_other _ _ (by decide), Dev.rd_wr_other _ _ (by decide), Dev.rd_wr_other _ _ (by decide),
    Dev.rd_wr_same _ _ _ _ _ (by decide)]
  exact Nat.mod_eq_of_lt hseq

theorem Dev.compacting_compacted : (d.compacted fl p seq).flag Pg.journal Reg.JOURNAL.COMPACTING = false := by
  rw [Dev.compacted, Dev.bump, Dev.flag, Dev.rd_wr_other _ _ (by decide), ← Dev.flag, Dev.flag_wr_zero _ _ (by decide)]

end

/-! ### OPSEC_JOURNAL and USER_WRITE (R345) -/

theorem Dev.opsecJournal_of_early {d : Dev} (h : d.rd Pg.score Reg.SCORE.OPSEC < d.rd Pg.journal Reg.JOURNAL.OPSEC_J + 60) :
    d.opsecJournal = d := if_pos h

theorem Dev.opsecJournal_of_due {d : Dev} (h : d.rd Pg.journal Reg.JOURNAL.OPSEC_J + 60 ≤ d.rd Pg.score Reg.SCORE.OPSEC) :
    d.opsecJournal = ((d.journalDue 1 0).journalDue 5 0).journalDue 6 0 := if_neg h.not_gt

/-- The user words are words of their own. -/
theorem Dev.rd_user_wr_other (d : Dev) (v : Nat) {i j : Nat} (h : j ≠ i) :
    (d.wr Pg.journal Reg.JOURNAL.USER v i).rd Pg.journal Reg.JOURNAL.USER j = d.rd Pg.journal Reg.JOURNAL.USER j :=
  Dev.rd_wr_other _ _ (by simp only [Pg.journal, Reg.JOURNAL.USER]; omega)

theorem Dev.rd_userWrite (d : Dev) (i v : Nat) (F : Fld) (j : Nat) :
    (d.userWrite i v).rd Pg.journal F j = (d.wr Pg.journal Reg.JOURNAL.USER v i).rd Pg.journal F j :=
  Dev.rd_congr (Dev.journalDue_regs _ _ _) _ _ _

end Sys2Proof.Machine

namespace Sys2Proof

open Machine

/-! ### The clauses of O60 -/

theorem exec_journalRecord {s : State} {fails : Bool} {fl : Memory} {e : Dev} (h : s.dev.journalRecord s.flash fails = (fl, e)) :
    exec (.journalRecord fails) s = .next { s with dev := e, flash := fl } := by
  rw [show exec (.journalRecord fails) s = execJournalRecord fails s from rfl, execJournalRecord, h]

theorem exec_compactionDone {s : State} {fails : Bool} {fl : Memory} {e : Dev} (h : s.dev.compactionDone s.flash fails = (fl, e)) :
    exec (.compactionDone fails) s = .next { s with dev := e, flash := fl } := by
  rw [show exec (.compactionDone fails) s = execCompactionDone fails s from rfl, execCompactionDone, h]

theorem journalRecord_programs (s : State) (k p : Nat) (rest : List Nat) (hdue : s.dev.sco.jdue = k :: rest)
    (hready : s.dev.flag Pg.journal Reg.JOURNAL.READY = true) (hstop : s.dev.flag Pg.journal Reg.JOURNAL.JSTOP = false)
    (hcomp : s.dev.flag Pg.journal Reg.JOURNAL.COMPACTING = false) (hcopy : Tab.get s.dev.sco.jcopy k [] ≠ s.dev.jval k)
    (hp : p = s.dev.rd Pg.journal Reg.JOURNAL.WRPTR) (hroom : p + (jRecord k (s.dev.jval k)).length ≤ 196608) :
    Gives (.journalRecord false) s (fun t => t = { s with flash := t.flash, dev := t.dev } ∧
      t.flash = flashProgram s.flash (s.dev.jPart (s.dev.rd Pg.journal Reg.JOURNAL.PART) + p) (jRecord k (s.dev.jval k)) ∧
      t.dev = { s.dev with regs := t.dev.regs, sco := t.dev.sco } ∧ t.dev.sco.jdue = rest ∧
      Tab.get t.dev.sco.jcopy k [] = s.dev.jval k ∧
      t.dev.rd Pg.journal Reg.JOURNAL.WRPTR = p + (jRecord k (s.dev.jval k)).length) := by
  subst hp
  refine ⟨_, exec_journalRecord (Dev.journalRecord_of_room hdue hready hstop hcomp hcopy hroom s.flash), rfl, rfl, ?_⟩
  dsimp only
  split
  · refine ⟨rfl, rfl, ?_, ?_⟩
    · rw [Dev.wr_sco, Dev.jcopy_journalled]
    · rw [Dev.rd_wr_other _ _ (by decide), Dev.wrptr_journalled hroom]
  · refine ⟨rfl, rfl, ?_, ?_⟩
    · rw [Dev.jcopy_journalled]
    · rw [Dev.wrptr_journalled hroom]

theorem compactionDone_selects_other (s : State) (p seq : Nat) (hcomp : s.dev.flag Pg.journal Reg.JOURNAL.COMPACTING = true)
    (hstop : s.dev.flag Pg.journal Reg.JOURNAL.JSTOP = false) (hp : p = s.dev.rd Pg.journal Reg.JOURNAL.PART)
    (hseq : seq = (s.dev.rd Pg.journal Reg.JOURNAL.SEQ + 1) % 2 ^ 32) :
    Gives (.compactionDone false) s (fun t => t = { s with flash := t.flash, dev := t.dev } ∧
      t.flash = flashErase (flashProgram (flashErase s.flash (s.dev.jPart (1 - p)) 0x40000) (s.dev.jPart (1 - p)) (s.dev.snapshot seq))
        (s.dev.jPart p) 0x40000 ∧ t.dev = { s.dev with regs := t.dev.regs } ∧ t.dev.rd Pg.journal Reg.JOURNAL.PART = 1 - p ∧
      t.dev.rd Pg.journal Reg.JOURNAL.SEQ = seq ∧ t.dev.flag Pg.journal Reg.JOURNAL.COMPACTING = false) := by
  have hseqlt : seq < 2 ^ 32 := hseq ▸ Nat.mod_lt _ (by decide)
  exact ⟨_, exec_compactionDone (Dev.compactionDone_of_programmed hcomp hstop hp hseq s.flash), rfl, rfl, Dev.compacted_frame _ _ _,
    Dev.part_compacted _ _ _ (by omega), Dev.seq_compacted _ _ _ hseqlt, Dev.compacting_compacted _ _ _⟩

/-- That any failed compaction stops the journal is the model's choice (log 67; R348 says it of a failed program). -/
theorem compactionDone_stops (s : State) (hcomp : s.dev.flag Pg.journal Reg.JOURNAL.COMPACTING = true)
    (hstop : s.dev.flag Pg.journal Reg.JOURNAL.JSTOP = false) :
    GivesDev (.compactionDone true) s (fun d => d.flag Pg.journal Reg.JOURNAL.COMPACTING = false ∧
      d.flag Pg.journal Reg.JOURNAL.JSTOP = true) := by
  refine ⟨_, exec_compactionDone (Dev.compactionDone_of_failed hcomp hstop s.flash), ?_, ?_⟩
  · rw [Dev.flag_journalFail _ (by decide), Dev.flag_wr_disjoint _ _ (by decide) (by decide) (by decide),
      Dev.flag_wr_zero _ _ (by decide)]
  · rw [Dev.flag_journalFail _ (by decide), Dev.flag_wr_one _ _ (by decide) (by decide)]

theorem opsecJournal_notes_counts (s : State)
    (h : s.dev.rd Pg.journal Reg.JOURNAL.OPSEC_J + 60 ≤ s.dev.rd Pg.score Reg.SCORE.OPSEC) :
    GivesDev .opsecJournal s (fun d => d = { s.dev with sco := { s.dev.sco with jdue := d.sco.jdue } } ∧
      (∀ k, d.sco.jdue.contains k = (s.dev.sco.jdue.contains k || [0x100, 0x500, 0x600].contains k))) := by
  refine givesDev_of_eq rfl (Dev.opsecJournal_of_due h) ⟨?_, fun k => ?_⟩
  · rw [Dev.journalDue_frame _ 6 0, Dev.journalDue_frame _ 5 0, Dev.journalDue_frame _ 1 0]
  · simp only [Dev.contains_journalDue, List.contains_cons, List.contains_nil, Bool.or_false, Bool.or_assoc]

theorem userWrite_stores (i : Fin 16) (v : Word) (s : State) : GivesDev (.userWrite i v) s (fun d =>
    d = { s.dev with regs := d.regs, sco := { s.dev.sco with jdue := d.sco.jdue } } ∧
    d.rd Pg.journal Reg.JOURNAL.USER i = v.toNat ∧
    (∀ j < 16, j ≠ i.val → d.rd Pg.journal Reg.JOURNAL.USER j = s.dev.rd Pg.journal Reg.JOURNAL.USER j) ∧
    d.sco.jdue.contains (0x800 + i.val) = true) := by
  refine ⟨s.dev.userWrite i v.toNat, rfl, ?frame, ?word, fun j _ hj => ?others, ?waits⟩
  case frame =>
    rw [Dev.userWrite, Dev.journalDue_frame]
    rfl
  case word =>
    rw [Dev.rd_userWrite, Dev.rd_wr_same _ _ _ _ _ (by decide)]
    exact Nat.mod_eq_of_lt v.isLt
  case others => rw [Dev.rd_userWrite, Dev.rd_user_wr_other _ _ hj]
  case waits => rw [Dev.userWrite, Dev.contains_journalDue, beq_self_eq_true, Bool.or_true]

/-- Settles O60, clause by clause. -/
theorem journalProceeds : Obligations.JournalProceeds := by
  unfold Obligations.JournalProceeds
  refine ⟨journalRecord_programs, fun s k rest fails hdue hready hstop hcomp => ⟨fun hcopy => ?drop, fun hcopy hroom => ?full⟩,
    compactionDone_selects_other, compactionDone_stops, opsecJournal_notes_counts,
    fun s h => ⟨s.dev.opsecJournal, rfl, Dev.opsecJournal_of_early h⟩, userWrite_stores⟩
  case drop => exact ⟨_, exec_journalRecord (Dev.journalRecord_of_unchanged hdue hready hstop hcomp hcopy _ _), rfl⟩
  case full =>
    exact ⟨_, exec_journalRecord (Dev.journalRecord_of_no_room hdue hready hstop hcomp hcopy hroom _ _), rfl,
      Dev.flag_wr_one _ _ (by decide) (by decide)⟩

end Sys2Proof
end

section
/-!
PROOFS of 12_host_port_and_registers.md: steps and commands, waits, the rings' registers and the sync objects (R359, R365, R366, R370 to
R375).
-/

namespace Sys2Proof.Machine

/-! ### What changes registers only -/

/-- From `d` to `e` only registers changed. -/
def Dev.RegFrame (d e : Dev) : Prop := ∃ r, e = { d with regs := r }

theorem Dev.RegFrame.refl (d : Dev) : d.RegFrame d := ⟨_, rfl⟩

theorem Dev.RegFrame.trans {d e f : Dev} (h : d.RegFrame e) (h' : e.RegFrame f) : d.RegFrame f := by
  obtain ⟨r, rfl⟩ := h
  obtain ⟨r', rfl⟩ := h'
  exact ⟨r', rfl⟩

theorem Dev.RegFrame.setWord {d e : Dev} (h : d.RegFrame e) (a v : Nat) : d.RegFrame (e.setWord a v) := h.trans ⟨_, rfl⟩

theorem Dev.RegFrame.wr {d e : Dev} (h : d.RegFrame e) (base : Nat) (F : Fld) (v i : Nat) : d.RegFrame (e.wr base F v i) :=
  h.setWord _ _

theorem Dev.RegFrame.bump {d e : Dev} (h : d.RegFrame e) (base : Nat) (F : Fld) (n i : Nat) : d.RegFrame (e.bump base F n i) :=
  h.wr _ _ _ _

theorem Dev.RegFrame.eq {d e : Dev} (h : d.RegFrame e) : e = { d with regs := e.regs } := by
  obtain ⟨r, rfl⟩ := h
  rfl

/-! ### Waits (R375) -/

theorem Dev.cmdOf_of_cmdWaits {d : Dev} {r opc : Nat} {c : RingCmd} (h : d.cmdWaits r opc = some c) : d.cmdOf r = some c := by
  unfold Dev.cmdWaits at h
  split at h
  next c' hc' =>
    split at h
    · rwa [← Option.some.inj h]
    · exact absurd h (by simp)
  · exact absurd h (by simp)

/-- From `d` to `e` the wait of ring `r` with command `c` ends with a result: its object has one waiter less. -/
def Dev.WaitEnded (d : Dev) (r : Nat) (c : RingCmd) (result : Nat) (e : Dev) : Prop :=
  e = { d with hp := e.hp, regs := e.regs } ∧
    e.rd (Pg.sync (c.field 24 2)) Reg.SYNC.WAITERS = d.rd (Pg.sync (c.field 24 2)) Reg.SYNC.WAITERS - 1 ∧
    e.cmdOf r = some { c with stage := 2, result := result, detail := 0, aux := d.syncValue (c.field 24 2) % 2 ^ 32, entry1 := 0 }

theorem Dev.waitEnded_waitEnd {d : Dev} {r : Nat} {c : RingCmd} (hcmd : d.cmdOf r = some c) (result : Nat) :
    d.WaitEnded r c result (d.waitEnd r c result) := by
  have hcmd' : (d.wr (Pg.sync (c.field 24 2)) Reg.SYNC.WAITERS (d.rd (Pg.sync (c.field 24 2)) Reg.SYNC.WAITERS - 1)).cmdOf r = some c :=
    hcmd
  have hfew : d.rd (Pg.sync (c.field 24 2)) Reg.SYNC.WAITERS < 2 ^ Reg.SYNC.WAITERS.w := Dev.rd_lt _ _ _ _
  refine ⟨?_, ?_, Dev.cmdOf_cmdDone hcmd' _ _ _ _⟩
  · rw [Dev.waitEnd, Dev.cmdDone, hcmd']
    rfl
  · rw [Dev.waitEnd, Dev.rd_congr (Dev.cmdDone_regs _ _ _ _ _ _), Dev.rd_wr_same _ _ _ _ _ (by decide)]
    exact Nat.mod_eq_of_lt (by omega)

theorem Dev.waitComplete_of_reached {d : Dev} {r opc : Nat} {c : RingCmd} (hwaits : d.cmdWaits r opc = some c)
    (hreached : c.target ≤ d.syncValue (c.field 24 2)) : d.waitComplete r opc = d.waitEnd r c 0 := by
  simp only [Dev.waitComplete, hwaits, if_pos hreached]

theorem Dev.waitEnded_waitComplete {d : Dev} {r opc : Nat} {c : RingCmd} (hwaits : d.cmdWaits r opc = some c)
    (hreached : c.target ≤ d.syncValue (c.field 24 2)) : d.WaitEnded r c 0 (d.waitComplete r opc) := by
  rw [Dev.waitComplete_of_reached hwaits hreached]
  exact Dev.waitEnded_waitEnd (Dev.cmdOf_of_cmdWaits hwaits) 0

theorem Dev.waitEnded_waitTimeout {d : Dev} {r : Nat} {c : RingCmd} (hcmd : d.cmdOf r = some c) (hstage : c.stage = 1)
    (hopc : c.opc = 0x0B ∨ c.opc = 0x0C) (htime : 0 < c.timeout) (hpassed : c.at_ + usCycles c.timeout ≤ d.cycle)
    (hbelow : d.syncValue (c.field 24 2) < c.target) : d.WaitEnded r c 0x32 (d.waitTimeout r) := by
  have hends : d.waitTimeout r = d.waitEnd r c 0x32 := by
    simp only [Dev.waitTimeout, hcmd]
    exact if_pos ⟨hstage, hopc, htime, hpassed, hbelow⟩
  rw [hends]
  exact Dev.waitEnded_waitEnd hcmd _

/-! ### Commands are taken, queued and completed (R370, R371) -/

/-- The command that two entries of a command ring spell, taken at a cycle. -/
def RingCmd.ofEntries (x0 x1 : Item) (cycle : Nat) : RingCmd :=
  { bytes := leBytes 32 x0.data.toNat ++ leBytes 32 x1.data.toNat, stage := 0, result := 0, detail := 0, aux := 0, entry1 := 0, target := 0,
    at_ := cycle, gone := false }

theorem Dev.commandDispatch_of_legal {d d1 d2 : Dev} {r : Nat} {x0 x1 : Item}
    (hnext : ((List.range 64).map (fun i => (d.hp.next + i) % 64)).find? (fun r => d.cmdReady r) = some r)
    (hpop0 : d.bqPop r = (x0, d1)) (hpop1 : d1.bqPop r = (x1, d2)) (hgood0 : x0.poison = false) (hgood1 : x1.poison = false)
    (hopc : (RingCmd.ofEntries x0 x1 d.cycle).opc < 0x0D) (hlegal : (RingCmd.ofEntries x0 x1 d.cycle).legal = true) :
    d.commandDispatch = ({ d2 with hp := { d2.hp with next := (r + 1) % 64 } } : Dev).setCmd r (some (RingCmd.ofEntries x0 x1 d.cycle)) := by
  rw [RingCmd.ofEntries] at hopc hlegal ⊢
  unfold Dev.commandDispatch
  rw [hnext]
  simp only [hpop0, hpop1, hgood0, hgood1, Nat.not_le.mpr hopc, hlegal]
  rfl

theorem Dev.loaderQueueEnter_of_room {d : Dev} {r : Nat} {c : RingCmd} (hcmd : d.cmdOf r = some c) (hstep : d.plat.step = 4)
    (hauto : d.plat.auto = 4) (hstage : c.stage = 0) (hlo : 1 ≤ c.opc) (hhi : c.opc ≤ 6) (hroom : d.ldr.queue.length < 16) :
    d.loaderQueueEnter r = { d.setCmd r (some { c with stage := 1 }) with
      ldr := { d.ldr with queue := d.ldr.queue ++ [⟨c.opc, c.dom, r, c.bytes.drop 24, false⟩] } } := by
  simp only [Dev.loaderQueueEnter, hcmd]
  exact if_pos ⟨hstep, hauto, hstage, hlo, hhi, hroom⟩

theorem Dev.cmdFinish_of_no_signal {c : RingCmd} (hsigen : c.sigen = false) (d : Dev) (r : Nat) : d.cmdFinish r c = d.setCmd r none := by
  simp only [Dev.cmdFinish, hsigen]
  rfl

section
variable {d : Dev} {r : Nat} {c : RingCmd} (hcmd : d.cmdOf r = some c) (hstage : c.stage = 2) (hgone : c.gone = false)
  (hsigen : c.sigen = false)
include hcmd hstage hgone hsigen

theorem Dev.completionEvent_of_no_event (hnoevt : c.noevt = true) (hresult : c.result = 0) :
    d.completionEvent r = (d.count Pg.host 0xF 2).setCmd r none := by
  simp only [Dev.completionEvent, hcmd, hstage, hgone, hnoevt, hresult, Dev.cmdFinish_of_no_signal hsigen]
  rfl

theorem Dev.completionEvent_of_event (hevt : (c.noevt && c.result == 0) = false) (hlink : d.flag (Pg.ring r) Reg.RING.LINK_EN = true)
    (hroom : d.eventRoom (d.ringRd r Reg.RING.LINK % 2048) = true) : ∃ e0,
    d.completionEvent r = ((d.count Pg.host 0xF 2).postEvent (d.ringRd r Reg.RING.LINK % 2048) 1 c.dom 0 e0 c.entry1).setCmd r none := by
  simp only [Dev.completionEvent, hcmd, hstage, hgone, hevt, hlink, hroom, Dev.cmdFinish_of_no_signal hsigen]
  exact ⟨_, rfl⟩

end

theorem Dev.bqGet_count (d : Dev) (base mask ev n b : Nat) : (d.count base mask ev n).bqGet b = d.bqGet b := by
  rw [Dev.bqGet, Dev.count_qs, ← Dev.bqGet]

theorem Dev.pseq_postEvent (d : Dev) (b evt dom frame e0 e1 : Nat) :
    ((d.postEvent b evt dom frame e0 e1).bqGet b).pseq = ((d.bqGet b).pseq + 1) % 2 ^ 32 := by
  rw [Dev.postEvent, Dev.bqGet_count, Dev.bqGet_bqSet_same]

/-! ### Ring registers (R359, R365, R366) -/

/-- A number written to HOST_IDX of a ring leaves DEV_IDX alone, which is the word before it. -/
theorem Dev.devIdx_wr_hostIdx (d : Dev) (b v : Nat) : (d.wr (Pg.ring b) Reg.RING.HOST_IDX v).devIdx b = d.devIdx b :=
  Dev.rd_wr_other d v (by simp only [Reg.RING.HOST_IDX, Reg.RING.DEV_IDX]; omega)

theorem Dev.hostIdx_wr_hostIdx (d : Dev) (b v : Nat) : (d.wr (Pg.ring b) Reg.RING.HOST_IDX v).hostIdx b = v % 2 ^ 32 :=
  Dev.rd_wr_same d _ _ v 0 (by decide)

theorem Dev.devIdx_wr_devIdx (d : Dev) (b v : Nat) : (d.wr (Pg.ring b) Reg.RING.DEV_IDX v).devIdx b = v % 2 ^ 32 :=
  Dev.rd_wr_same d _ _ v 0 (by decide)

/-- HEN stands below the indices. -/
theorem Dev.hen_wr_index (d : Dev) (b v : Nat) {F : Fld} (hF : 0xC ≤ F.off) : (d.wr (Pg.ring b) F v).hen b = d.hen b := by
  rw [Dev.hen, Dev.hen, Dev.flag, Dev.flag, Dev.rd_wr_other d v (by simp only [Reg.RING.HEN]; omega)]

theorem Dev.doorbell_of_inbound {d : Dev} {b v : Nat} (hhen : d.hen b = true) (hin : d.bqOut b = false)
    (hfits : idxSub v (d.devIdx b) ≤ d.ringSize b) (hwhole : ¬(d.ringRd b Reg.RING.ROLE = 1 ∧ v % 2 = 1)) :
    d.doorbell b v = d.wr (Pg.ring b) Reg.RING.HOST_IDX v := by
  have hgood : ¬(d.ringSize b < idxSub v (d.devIdx b) ∨ (d.ringRd b Reg.RING.ROLE = 1 ∧ v % 2 = 1)) :=
    not_or.mpr ⟨Nat.not_lt.mpr hfits, hwhole⟩
  simp only [Dev.doorbell, hhen, hin, Bool.not_true, Bool.not_false, Bool.false_eq_true, if_false, if_true, if_neg hgood]

/-- A ring that starts: enabled, with both indices at 0. -/
def Dev.ringStarted (d : Dev) (b : Nat) : Dev :=
  ((d.wr (Pg.ring b) Reg.RING.HEN 1).wr (Pg.ring b) Reg.RING.DEV_IDX 0).wr (Pg.ring b) Reg.RING.HOST_IDX 0

theorem Dev.regFrame_ringStarted (d : Dev) (b : Nat) : d.RegFrame (d.ringStarted b) :=
  (((Dev.RegFrame.refl d).wr _ _ _ _).wr _ _ _ _).wr _ _ _ _

theorem Dev.hen_ringStarted (d : Dev) (b : Nat) : (d.ringStarted b).hen b = true := by
  rw [Dev.ringStarted, Dev.hen_wr_index _ _ _ (by decide), Dev.hen_wr_index _ _ _ (by decide)]
  exact Dev.flag_wr_one _ _ (by decide) (by decide)

theorem Dev.devIdx_ringStarted (d : Dev) (b : Nat) : (d.ringStarted b).devIdx b = 0 := by
  rw [Dev.ringStarted, Dev.devIdx_wr_hostIdx, Dev.devIdx_wr_devIdx, Nat.zero_mod]

theorem Dev.hostIdx_ringStarted (d : Dev) (b : Nat) : (d.ringStarted b).hostIdx b = 0 := by
  rw [Dev.ringStarted, Dev.hostIdx_wr_hostIdx, Nat.zero_mod]

theorem Dev.ringEnable_of_data_ring {d : Dev} {b : Nat} (hhen : d.hen b = false) (hlo : 4 ≤ d.rd (Pg.ring b) Reg.RING.HLOG2)
    (hhi : d.rd (Pg.ring b) Reg.RING.HLOG2 ≤ 20) (hrole : d.rd (Pg.ring b) Reg.RING.ROLE = 0) :
    d.ringEnable b = (d.ringStarted b).bqSet b { (d.ringStarted b).bqGet b with fcnt := 0, copied := 0, crossed := false } := by
  simp only [Dev.ringEnable, hhen, hrole, decide_eq_true (And.intro hlo hhi)]
  rfl

theorem Dev.ringDisable_of_data_ring {d : Dev} {b : Nat} (hhen : d.hen b = true) (hb : 64 ≤ b) :
    d.ringDisable b = { d.wr (Pg.ring b) Reg.RING.HEN 0 with hp := { d.hp with
      reads := d.hp.reads.map (fun r => if r.b = b then { r with n := 0 } else r) } } := by
  simp only [Dev.ringDisable, hhen, if_neg (Nat.not_lt.mpr hb)]
  rfl

/-! ### Signals of counter objects (R373, R374) -/

/-- A signal of amount `n` at a counter object: it counts, and VALUE saturates at 2^64 − 1. -/
def Dev.signalled (d : Dev) (o n : Nat) : Dev :=
  (d.bump (Pg.sync o) Reg.SYNC.SIG_CNT).wr64 (Pg.sync o) (min (d.syncValue o + n) (2 ^ 64 - 1))

theorem Dev.regFrame_signalled (d : Dev) (o n : Nat) : d.RegFrame (d.signalled o n) :=
  (((Dev.RegFrame.refl d).bump _ _ _ _).setWord _ _).setWord _ _

theorem Dev.syncValue_signalled (d : Dev) (o n : Nat) : (d.signalled o n).syncValue o = min (d.syncValue o + n) (2 ^ 64 - 1) :=
  Dev.rd64_wr64_same _ _ _ (by omega)

/-- VALUE and SIG_CNT are other words than that of MODE and IRQ_EN. -/
theorem Dev.flag_signalled (d : Dev) (o n : Nat) {F : Fld} (hF : F.off = 8 ∧ F.stride = 0) :
    (d.signalled o n).flag (Pg.sync o) F = d.flag (Pg.sync o) F := by
  obtain ⟨hoff, hstride⟩ := hF
  rw [Dev.flag, Dev.flag, Dev.signalled, Dev.rd_wr64_other _ _ (by omega) (by omega), Dev.bump,
    Dev.rd_wr_other _ _ (by simp only [Reg.SYNC.SIG_CNT]; omega)]

theorem Dev.signal_of_counter {d : Dev} {o : Nat} (hmode : d.flag (Pg.sync o) Reg.SYNC.MODE = false)
    (hirq : d.flag (Pg.sync o) Reg.SYNC.IRQ_EN = false) (n : Nat) (direct : Bool) : d.signal o n direct = d.signalled o n := by
  have hquiet : (d.signalled o n).flag (Pg.sync o) Reg.SYNC.IRQ_EN = false := by rwa [Dev.flag_signalled _ _ _ (by decide)]
  simp only [Dev.signal, hmode, Bool.not_false, if_true]
  rw [← Dev.signalled, Dev.syncIrq, hquiet]
  rfl

/-- The rank controller's signal words without the oldest, `rest`. -/
def Dev.signalTaken (d : Dev) (r : Nat) (rest : List Nat) : Dev :=
  { d with qs := { d.qs with sigIn := Tab.set d.qs.sigIn r rest [] } }

theorem Dev.signalWord_of_counter {d : Dev} {r w : Nat} {rest : List Nat} (hwords : Tab.get d.qs.sigIn r [] = w :: rest)
    (hmode : d.flag (Pg.sync (bitsOf w 0 13)) Reg.SYNC.MODE = false) (hirq : d.flag (Pg.sync (bitsOf w 0 13)) Reg.SYNC.IRQ_EN = false) :
    d.signalWord r = (d.signalTaken r rest).signalled (bitsOf w 0 13) (bitsOf w 14 16) := by
  rw [Dev.signalWord, hwords]
  exact Dev.signal_of_counter (d := d.signalTaken r rest) hmode hirq _ _

end Sys2Proof.Machine

namespace Sys2Proof

open Machine

/-- Settles O1: the step looks at the front of the queue and runs what it finds there. -/
theorem stepRunsFront : Obligations.StepRunsFront := by
  intro c rest s hpending
  rw [step, hpending]

/-! ### The commands behind the one that runs (R370) -/

theorem pending_chipReset (s : State) (reason : Nat) : (s.chipReset reason).pending = s.pending := by rw [State.chipReset]

theorem pending_chipResetDue (s : State) : s.chipResetDue.pending = s.pending := by
  unfold State.chipResetDue
  split
  · rfl
  · split
    · exact pending_chipReset s 2
    · rfl

theorem pending_resetPulse (s : State) (ns : Nat) : (s.resetPulse ns).pending = s.pending := by
  unfold State.resetPulse
  split
  · rfl
  split
  · exact pending_chipReset s 1
  · dsimp only
    split
    · exact pending_chipReset _ 1
    · rfl

theorem pending_of_next {s t u : State} (h : Host.Outcome.next (φ := Fault) (ρ := Refusal) u = .next t) (hu : u.pending = s.pending) :
    t.pending = s.pending := Host.Outcome.next.inj h ▸ hu

/-- Settles O5: a command gives the state another device and other memories; only the resets and the accesses of a memory port are told
in other words. -/
theorem commandKeepsQueue : Obligations.CommandKeepsQueue := by
  intro c s t h
  cases c with
  | pwrokFall => exact pending_of_next h (pending_chipReset s 0)
  | resetL ns => exact pending_of_next h (pending_resetPulse s ns)
  | chipReset => exact pending_of_next h (pending_chipResetDue s)
  | memAccess p tag =>
    rw [exec, execMemAccess] at h
    split at h
    · exact absurd h (by simp)
    · exact pending_of_next h rfl
  | _ => exact pending_of_next h rfl

/-- Settles O10: each end of a wait is `Dev.waitEnd`. -/
theorem waitsEnd : Obligations.WaitsEnd :=
  ⟨fun r s _ hwaits hreached => ⟨s.dev.waitComplete r 0x0B, rfl, Dev.waitEnded_waitComplete hwaits hreached⟩,
    fun r s _ hwaits hreached => ⟨s.dev.waitComplete r 0x0C, rfl, Dev.waitEnded_waitComplete hwaits hreached⟩,
    fun r s _ hcmd hstage hopc htime hpassed hbelow =>
      ⟨s.dev.waitTimeout r, rfl, Dev.waitEnded_waitTimeout hcmd hstage hopc htime hpassed hbelow⟩⟩

/-! ### The clauses of O11 -/

theorem commandDispatch_takes (s : State) (r : Nat) (x0 x1 : Item) (d1 d2 : Dev)
    (hnext : ((List.range 64).map (fun i => (s.dev.hp.next + i) % 64)).find? (fun r => s.dev.cmdReady r) = some r)
    (hpop0 : s.dev.bqPop r = (x0, d1)) (hpop1 : d1.bqPop r = (x1, d2)) (hgood0 : x0.poison = false) (hgood1 : x1.poison = false)
    (hlegal : ∀ c : RingCmd, c.bytes = leBytes 32 x0.data.toNat ++ leBytes 32 x1.data.toNat → c.opc < 0x0D ∧ c.legal = true) :
    GivesDev .commandDispatch s (fun d => d = { d2 with hp := d.hp } ∧ d.hp.next = (r + 1) % 64 ∧
      d.cmdOf r = some (RingCmd.ofEntries x0 x1 s.dev.cycle)) := by
  obtain ⟨hopc, hlegal⟩ := hlegal (RingCmd.ofEntries x0 x1 s.dev.cycle) rfl
  refine ⟨s.dev.commandDispatch, rfl, ?_⟩
  rw [Dev.commandDispatch_of_legal hnext hpop0 hpop1 hgood0 hgood1 hopc hlegal]
  exact ⟨rfl, rfl, Dev.cmdOf_setCmd_same _ _ _⟩

theorem loaderQueueEnter_queues (r : Fin 64) (s : State) (c : RingCmd) (hcmd : s.dev.cmdOf r = some c) (hstep : s.dev.plat.step = 4)
    (hauto : s.dev.plat.auto = 4) (hstage : c.stage = 0) (hlo : 1 ≤ c.opc) (hhi : c.opc ≤ 6) (hroom : s.dev.ldr.queue.length < 16) :
    GivesDev (.loaderQueueEnter r) s (fun d => d = { s.dev with hp := d.hp, ldr := d.ldr } ∧
      d.ldr = { s.dev.ldr with queue := s.dev.ldr.queue ++ [⟨c.opc, c.dom, r, c.bytes.drop 24, false⟩] } ∧
      d.cmdOf r = some { c with stage := 1 }) := by
  refine ⟨s.dev.loaderQueueEnter r, rfl, ?_⟩
  rw [Dev.loaderQueueEnter_of_room hcmd hstep hauto hstage hlo hhi hroom]
  exact ⟨rfl, rfl, Dev.cmdOf_setCmd_same s.dev _ _⟩

theorem completionEvent_ends_silently (r : Fin 64) (s : State) (c : RingCmd) (hcmd : s.dev.cmdOf r = some c) (hstage : c.stage = 2)
    (hgone : c.gone = false) (hsigen : c.sigen = false) (hnoevt : c.noevt = true) (hresult : c.result = 0) :
    GivesDev (.completionEvent r) s (fun d => d = { s.dev with hp := d.hp, perf := d.perf } ∧ d.cmdOf r = none) := by
  refine ⟨s.dev.completionEvent r, rfl, ?_⟩
  rw [Dev.completionEvent_of_no_event hcmd hstage hgone hsigen hnoevt hresult, Dev.count_frame]
  exact ⟨rfl, Dev.cmdOf_setCmd_same _ _ _⟩

theorem completionEvent_posts_event (r : Fin 64) (s : State) (c : RingCmd) (hcmd : s.dev.cmdOf r = some c) (hstage : c.stage = 2)
    (hgone : c.gone = false) (hsigen : c.sigen = false) (hevt : (c.noevt && c.result == 0) = false)
    (hlink : s.dev.flag (Pg.ring r) Reg.RING.LINK_EN = true) (hroom : s.dev.eventRoom (s.dev.ringRd r Reg.RING.LINK % 2048) = true) :
    GivesDev (.completionEvent r) s (fun d => d.cmdOf r = none ∧
      (d.bqGet (s.dev.ringRd r Reg.RING.LINK % 2048)).pseq =
        ((s.dev.bqGet (s.dev.ringRd r Reg.RING.LINK % 2048)).pseq + 1) % 2 ^ 32) := by
  obtain ⟨e0, hends⟩ := Dev.completionEvent_of_event hcmd hstage hgone hsigen hevt hlink hroom
  refine ⟨s.dev.completionEvent r, rfl, ?_⟩
  rw [hends]
  refine ⟨Dev.cmdOf_setCmd_same _ _ _, (Dev.pseq_postEvent _ _ _ _ _ _ _).trans ?_⟩
  rw [Dev.bqGet_count]

/-- Settles O11, clause by clause. -/
theorem commandsFlow : Obligations.CommandsFlow :=
  ⟨commandDispatch_takes, loaderQueueEnter_queues, completionEvent_ends_silently, completionEvent_posts_event⟩

/-! ### The clauses of O14 -/

theorem doorbell_writes_hostIdx (b : Fin 1536) (v : Word) (s : State) (hhen : s.dev.hen b = true) (hin : s.dev.bqOut b = false)
    (hfits : idxSub v.toNat (s.dev.devIdx b) ≤ s.dev.ringSize b) (hwhole : ¬(s.dev.ringRd b Reg.RING.ROLE = 1 ∧ v.toNat % 2 = 1)) :
    GivesDev (.doorbell b v) s (fun d => d = { s.dev with regs := d.regs } ∧ d.hostIdx b = v.toNat ∧ d.devIdx b = s.dev.devIdx b) := by
  refine ⟨s.dev.doorbell b v.toNat, rfl, ?_⟩
  rw [Dev.doorbell_of_inbound hhen hin hfits hwhole]
  exact ⟨rfl, (Dev.hostIdx_wr_hostIdx _ _ _).trans (Nat.mod_eq_of_lt v.isLt), Dev.devIdx_wr_hostIdx _ _ _⟩

theorem ringEnable_starts (b : Fin 1536) (s : State) (hhen : s.dev.hen b = false) (hlo : 4 ≤ s.dev.rd (Pg.ring b) Reg.RING.HLOG2)
    (hhi : s.dev.rd (Pg.ring b) Reg.RING.HLOG2 ≤ 20) (hrole : s.dev.rd (Pg.ring b) Reg.RING.ROLE = 0) :
    GivesDev (.ringEnable b) s (fun d => d = { s.dev with regs := d.regs, qs := d.qs } ∧
      d.hen b = true ∧ d.devIdx b = 0 ∧ d.hostIdx b = 0 ∧ (d.bqGet b).fcnt = 0) := by
  refine ⟨s.dev.ringEnable b, rfl, ?_⟩
  rw [Dev.ringEnable_of_data_ring hhen hlo hhi hrole]
  refine ⟨?_, ?_, ?_, ?_, by rw [Dev.bqGet_bqSet_same]⟩
  · obtain ⟨r, hframe⟩ := s.dev.regFrame_ringStarted b
    rw [hframe, Dev.bqSet]
  · exact (Dev.flag_congr (Dev.bqSet_regs _ _ _) _ _ _).trans (s.dev.hen_ringStarted b)
  · exact (Dev.rd_congr (Dev.bqSet_regs _ _ _) _ _ _).trans (s.dev.devIdx_ringStarted b)
  · exact (Dev.rd_congr (Dev.bqSet_regs _ _ _) _ _ _).trans (s.dev.hostIdx_ringStarted b)

theorem ringDisable_drops_reads (b : Fin 1536) (s : State) (hhen : s.dev.hen b = true) (hb : 64 ≤ b.val) :
    GivesDev (.ringDisable b) s (fun d => d = { s.dev with regs := d.regs, hp := d.hp } ∧ d.hen b = false ∧
      d.hp.reads = s.dev.hp.reads.map (fun r => if r.b = b.val then { r with n := 0 } else r)) := by
  refine ⟨s.dev.ringDisable b, rfl, ?_⟩
  rw [Dev.ringDisable_of_data_ring hhen hb]
  exact ⟨rfl, Dev.flag_wr_zero s.dev _ (by decide), rfl⟩

/-- Settles O14, clause by clause. That a ring which is disabled does not use the data of the reads outstanding is the model's choice. -/
theorem ringRegistersFollow : Obligations.RingRegistersFollow :=
  ⟨doorbell_writes_hostIdx, ringEnable_starts, ringDisable_drops_reads⟩

/-! ### The clauses of O19 -/

theorem syncAdd_saturates (n : Fin 8192) (v : Word) (s : State) (hmode : s.dev.flag (Pg.sync n) Reg.SYNC.MODE = false)
    (hirq : s.dev.flag (Pg.sync n) Reg.SYNC.IRQ_EN = false) :
    GivesDev (.syncAdd n v) s (fun d => d = { s.dev with regs := d.regs } ∧
      d.syncValue n = min (s.dev.syncValue n + v.toNat) (2 ^ 64 - 1)) := by
  refine ⟨s.dev.syncAdd n v.toNat, rfl, ?_⟩
  rw [Dev.syncAdd, Dev.signal_of_counter hmode hirq]
  exact ⟨(s.dev.regFrame_signalled _ _).eq, s.dev.syncValue_signalled _ _⟩

theorem signalWord_saturates (r : Fin 4) (s : State) (w : Nat) (rest : List Nat) (hwords : Tab.get s.dev.qs.sigIn r [] = w :: rest)
    (hmode : s.dev.flag (Pg.sync (bitsOf w 0 13)) Reg.SYNC.MODE = false)
    (hirq : s.dev.flag (Pg.sync (bitsOf w 0 13)) Reg.SYNC.IRQ_EN = false) :
    GivesDev (.signalWord r) s (fun d => d = { s.dev with regs := d.regs, qs := d.qs } ∧ Tab.get d.qs.sigIn r [] = rest ∧
      d.syncValue (bitsOf w 0 13) = min (s.dev.syncValue (bitsOf w 0 13) + bitsOf w 14 16) (2 ^ 64 - 1)) := by
  refine ⟨s.dev.signalWord r, rfl, ?_⟩
  rw [Dev.signalWord_of_counter hwords hmode hirq]
  have hvalue := (s.dev.signalTaken r rest).syncValue_signalled (bitsOf w 0 13) (bitsOf w 14 16)
  obtain ⟨regs, hframe⟩ := (s.dev.signalTaken r rest).regFrame_signalled (bitsOf w 0 13) (bitsOf w 14 16)
  refine ⟨?_, ?_, hvalue⟩
  · rw [hframe, Dev.signalTaken]
  · rw [hframe]
    exact Tab.get_set_same _ _ _ _

theorem syncValueRead_latches (who : Requester) (n : Fin 8192) (s : State) :
    GivesDev (.syncValueRead who n) s (fun d => d = { s.dev with hp := d.hp, out := d.out } ∧
      d.out = .readDone who (Pg.sync n) (s.dev.syncValue n % 2 ^ 32) :: s.dev.out ∧
      Tab.get d.hp.valHi ((match who with | .host => 0 | .dealer => 8192) + n.val) 0 = s.dev.syncValue n / 2 ^ 32) := by
  refine ⟨s.dev.syncValueRead who n, rfl, ?_⟩
  unfold Dev.syncValueRead
  dsimp only
  rw [Dev.emit_readDone]
  exact ⟨rfl, rfl, Tab.get_set_same _ _ _ _⟩

/-- Settles O19, clause by clause. -/
theorem syncObjectsCount : Obligations.SyncObjectsCount := ⟨syncAdd_saturates, signalWord_saturates, syncValueRead_latches⟩

end Sys2Proof
end

section
/-!
PROOFS of 13_ingress_and_gostan_links.md: camera frames, lines and timing (R381 to R384), and the Gostan links with their tunnel (R389, R393 to
R398).
-/

namespace Sys2Proof.Machine

/-! ### Camera ports (R378 to R384) -/

/-- What an enabled channel's context says of the port and of its data type. -/
theorem Dev.of_csiCtx {d : Dev} {n v : Nat} {c : CsiCtx} (h : d.csiCtx n v = some c) :
    d.flag (Pg.csi n) Reg.INGRESS.EN = true ∧ d.rd (Pg.csi n) Reg.INGRESS.LANES ≠ 3 ∧ c.dt = d.rd (Pg.csi n) Reg.INGRESS.DT v ∧
      (csiFormat c.dt).isSome = true := by
  unfold Dev.csiCtx at h
  dsimp only at h
  split at h
  next hcond =>
    obtain rfl := Option.some.inj h
    simp only [Bool.and_eq_true, bne_iff_ne] at hcond
    obtain ⟨⟨⟨hen, hlanes⟩, -⟩, hok⟩ := hcond
    refine ⟨hen, hlanes, rfl, ?_⟩
    unfold csiCtxOk at hok
    split at hok
    · exact absurd hok (by simp)
    next hformat => rw [hformat]; rfl
  next => exact absurd h (by simp)

/-- No format of Table 13.1 has a data type of the generic packets. -/
theorem not_generic_of_csiFormat {dt : Nat} (h : (csiFormat dt).isSome = true) : ¬(0x10 ≤ dt ∧ dt ≤ 0x12) := by
  rintro ⟨hlo, hhi⟩
  interval_cases dt <;> exact absurd h (by decide)

theorem Dev.csiGet_csiSet (d : Dev) (n v : Nat) (s : CsiVc) : (d.csiSet n v s).csiGet n v = s := Tab.get_set_same _ _ _ _

theorem Dev.csiGet_congr {d e : Dev} (h : e.links = d.links) (n v : Nat) : e.csiGet n v = d.csiGet n v := by
  rw [Dev.csiGet, h, ← Dev.csiGet]

/-- Nothing is known of a skew: a burst shows no error. -/
theorem Dev.csiBurst_of_no_skew {d : Dev} {n : Nat} (hlanes : d.rd (Pg.csi n) Reg.INGRESS.LANES ≠ 3)
    (hskew : ∀ l < 4, d.flag (Pg.csi n) Reg.INGRESS.SKEW_VALID l = false) (v : Nat) : d.csiBurst n v = d := by
  have hfew : 2 ^ d.rd (Pg.csi n) Reg.INGRESS.LANES ≤ 4 := by
    have hlt : d.rd (Pg.csi n) Reg.INGRESS.LANES < 4 := Dev.rd_lt _ _ _ _
    have hpow : 2 ^ d.rd (Pg.csi n) Reg.INGRESS.LANES ≤ 2 ^ 2 := Nat.pow_le_pow_right (by decide) (by omega)
    exact hpow
  refine if_neg ?_
  simp only [Bool.and_eq_true, List.any_eq_true, List.mem_range, not_and, not_exists]
  intro _ l hl hvalid
  rw [hskew l (lt_of_lt_of_le hl hfew)] at hvalid
  exact absurd hvalid (by decide)

/-! CSI_FS -/

/-- The frame number against the one before it. -/
def Dev.csiFnumChecked (d : Dev) (n v fnum : Nat) : Dev :=
  if d.flag (Pg.csi n) Reg.INGRESS.FNUM_CHK v && (d.csiGet n v).seen && fnum != (d.rd (Pg.csi n) Reg.INGRESS.LAST_FNUM v + 1) % 65536 &&
    fnum != 1 then d.bump (Pg.csi n) Reg.INGRESS.FNUM_ERR 1 v else d

/-- A frame's number is checked and kept. -/
def Dev.csiNumbered (d : Dev) (n v fnum : Nat) : Dev :=
  ((d.csiFnumChecked n v fnum).wr (Pg.csi n) Reg.INGRESS.LAST_FNUM fnum v).csiSet n v { d.csiGet n v with seen := true }

/-- The queues `qs` take entries again. -/
def Dev.csiTakes (d : Dev) (qs : List Nat) : Dev := d.each qs (fun d b => d.bqSet b { d.bqGet b with dropping := false })

theorem Dev.csiNumbered_frame (d : Dev) (n v fnum : Nat) : ∃ r l, d.csiNumbered n v fnum = { d with regs := r, links := l } := by
  have hcheck : d.RegFrame (d.csiFnumChecked n v fnum) := by
    unfold Dev.csiFnumChecked
    split
    · exact (Dev.RegFrame.refl d).bump _ _ _ _
    · exact .refl d
  obtain ⟨r, hframe⟩ := hcheck.wr (Pg.csi n) Reg.INGRESS.LAST_FNUM fnum v
  rw [Dev.csiNumbered, hframe]
  exact ⟨_, _, rfl⟩

theorem Dev.csiTakes_frame (d : Dev) : ∀ qs : List Nat, ∃ x, d.csiTakes qs = { d with qs := x }
  | [] => ⟨_, rfl⟩
  | b :: qs => by
    obtain ⟨x, hframe⟩ := Dev.csiTakes_frame (d.bqSet b { d.bqGet b with dropping := false }) qs
    exact ⟨x, hframe⟩

theorem Dev.csiClose_of_closed {d : Dev} {n v : Nat} (h : (d.csiGet n v).open_ = false) (c : CsiCtx) (early : Bool) :
    d.csiClose n v c early = d := by
  rw [Dev.csiClose, h]
  rfl

theorem Dev.csiFs_of_running {d : Dev} {n v : Nat} {c : CsiCtx} (hctx : d.csiCtx n v = some c)
    (hskew : ∀ l < 4, d.flag (Pg.csi n) Reg.INGRESS.SKEW_VALID l = false) (hclosed : (d.csiGet n v).open_ = false)
    (hrun : ((List.range c.planes).all (fun p => !(d.bqGet (c.queue n p)).stopped)) = true) (fnum : Nat) : ∃ e,
    e = (d.csiNumbered n v fnum).csiTakes ((List.range c.planes).map (fun p => c.queue n p)) ∧
      d.csiFs n v fnum = e.csiSet n v { e.csiGet n v with open_ := true, dropped := false, line := 0 } := by
  obtain ⟨-, hlanes, -, -⟩ := Dev.of_csiCtx hctx
  have hqueues : ¬(((List.range c.planes).map (fun p => c.queue n p)).any (fun b => ((d.csiNumbered n v fnum).bqGet b).stopped)) = true := by
    obtain ⟨r, l, hframe⟩ := d.csiNumbered_frame n v fnum
    have hsame (b : Nat) : (d.csiNumbered n v fnum).bqGet b = d.bqGet b := by rw [hframe]; rfl
    simpa only [hsame, List.any_map, List.any_eq_true, List.all_eq_true, List.mem_range, Function.comp_apply, not_exists, not_and,
      Bool.not_eq_true, Bool.not_eq_true'] using hrun
  refine ⟨_, rfl, ?_⟩
  simp only [Dev.csiFs, hctx, Dev.csiBurst_of_no_skew hlanes hskew, Dev.csiClose_of_closed hclosed]
  exact if_neg hqueues

/-! CSI_LONG_PACKET -/

theorem Dev.csiLong_of_line {d : Dev} {n v : Nat} {c : CsiCtx} {bs : List Byte} (hctx : d.csiCtx n v = some c)
    (hskew : ∀ l < 4, d.flag (Pg.csi n) Reg.INGRESS.SKEW_VALID l = false) (hopen : (d.csiGet n v).open_ = true)
    (hline : (d.csiGet n v).line < c.lines) (hlen : bs.length = csiBytes c.dt c.w) :
    d.csiLong n .ok v c.dt bs true = ((d.count (Pg.csi n) 0xF 0).csiLine n c (d.csiGet n v).line bs.toArray (d.csiGet n v).dropped).csiSet n v
      { d.csiGet n v with line := (d.csiGet n v).line + 1 } := by
  obtain ⟨hen, hlanes, hdt, hformat⟩ := Dev.of_csiCtx hctx
  have hgate : ¬(!d.flag (Pg.csi n) Reg.INGRESS.EN || d.rd (Pg.csi n) Reg.INGRESS.LANES == 3) = true := by
    rw [hen, beq_false_of_ne hlanes]
    decide
  have haccept : d.csiAccept n v c bs true = ((d.count (Pg.csi n) 0xF 0).csiLine n c (d.csiGet n v).line bs.toArray
      (d.csiGet n v).dropped).csiSet n v { d.csiGet n v with line := (d.csiGet n v).line + 1 } := by
    simp only [Dev.csiAccept, hopen, if_neg (Nat.not_le.mpr hline), if_pos hlen]
    rfl
  rw [Dev.csiLong, if_neg hgate, Dev.csiBurst_of_no_skew hlanes hskew]
  simp only [reduceCtorEq, if_false]
  rw [if_neg (not_generic_of_csiFormat hformat), if_neg (not_not.mpr hdt), hctx]
  exact haccept

/-! CSI_FE -/

theorem Dev.csiFe_of_whole {d : Dev} {n v : Nat} {c : CsiCtx} (hctx : d.csiCtx n v = some c)
    (hskew : ∀ l < 4, d.flag (Pg.csi n) Reg.INGRESS.SKEW_VALID l = false) (hopen : (d.csiGet n v).open_ = true)
    (hall : c.lines ≤ (d.csiGet n v).line) (hkept : (d.csiGet n v).dropped = false) :
    d.csiFe n v = ((d.bump (Pg.csi n) Reg.INGRESS.FRAMES_OK 1 v).csiSet n v
      { d.csiGet n v with open_ := false, dropped := false, line := 0 }).count (Pg.csi n) 0xF 2 := by
  obtain ⟨-, hlanes, -, -⟩ := Dev.of_csiCtx hctx
  simp only [Dev.csiFe, hctx, Dev.csiBurst_of_no_skew hlanes hskew, Dev.csiClose, hopen, Nat.sub_eq_zero_of_le hall]
  simp only [Bool.not_true, Bool.false_eq_true, if_false, lt_irrefl, or_self, List.range_zero]
  rw [Dev.each, List.foldl_nil, if_neg (by rw [hkept]; decide)]
  rfl

/-! CSI_TIMING -/

theorem Dev.csiDrop_of_open {d : Dev} {n v : Nat} (hopen : (d.csiGet n v).open_ = true) (hkept : (d.csiGet n v).dropped = false) :
    d.csiDrop n v = ((d.csiSet n v { d.csiGet n v with dropped := true }).bump (Pg.csi n) Reg.INGRESS.FRAMES_BAD 1 v).count (Pg.csi n) 0xF 3 := by
  simp only [Dev.csiDrop, hopen, hkept]
  rfl

/-- The timing condition is counted and raised. -/
def Dev.csiTimed (d : Dev) (n v : Nat) : Dev :=
  (d.bump (Pg.csi n) Reg.INGRESS.TIM_ERR).raise (Pg.csi n) 4 ((d.bump (Pg.csi n) Reg.INGRESS.TIM_ERR).csiAttr n v)

theorem Dev.csiTiming_of_data_lane {d : Dev} {n : Nat} {why : CsiTimingKind} {lane : Nat} (hen : d.flag (Pg.csi n) Reg.INGRESS.EN = true)
    (hlanes : d.rd (Pg.csi n) Reg.INGRESS.LANES ≠ 3) (hlane : lane < 4) (hwhy : why ≠ .clockLoss) (v : Nat) :
    d.csiTiming n why lane v = (d.csiTimed n v).csiDrop n v := by
  rw [Dev.csiTiming, if_neg (by rw [hen, beq_false_of_ne hlanes]; decide)]
  exact if_neg (not_or.mpr ⟨hlane.ne, hwhy⟩)

theorem Dev.links_csiTimed (d : Dev) (n v : Nat) : (d.csiTimed n v).links = d.links := by
  rw [Dev.csiTimed, Dev.raise_links]
  rfl

section
variable (d : Dev) (n v : Nat)

theorem Dev.timErr_csiTimed :
    (d.csiTimed n v).rd (Pg.csi n) Reg.INGRESS.TIM_ERR = min (d.rd (Pg.csi n) Reg.INGRESS.TIM_ERR + 1) (2 ^ 32 - 1) := by
  rw [Dev.csiTimed, Dev.rd_raise_same_page _ _ _ _ (by decide) (by decide), Dev.bump, Dev.rd_wr_same _ _ _ _ _ (by decide)]
  exact Nat.mod_eq_of_lt (by simp only [Reg.INGRESS.TIM_ERR]; omega)

theorem Dev.framesBad_csiTimed (hv : v < 16) :
    (d.csiTimed n v).rd (Pg.csi n) Reg.INGRESS.FRAMES_BAD v = d.rd (Pg.csi n) Reg.INGRESS.FRAMES_BAD v := by
  rw [Dev.csiTimed, Dev.rd_raise_same_page _ _ _ _ (by simp only [Reg.INGRESS.FRAMES_BAD]; omega)
    (by simp only [Reg.INGRESS.FRAMES_BAD]; omega), Dev.bump,
    Dev.rd_wr_other _ _ (by simp only [Reg.INGRESS.FRAMES_BAD, Reg.INGRESS.TIM_ERR, Pg.csi]; omega)]

theorem Dev.csiTiming_fltStat : bitAt ((d.csiTimed n v).rd (Pg.csi n) Reg.HDR.FLT_STAT) 4 = true := Dev.fltStat_raiseFull _ _ _ _ (by decide)

end

/-! CSI_DESKEW -/

/-- Lane `l` has its measured skew. -/
def Dev.csiSkewed (skew : List Nat) (n : Nat) (d : Dev) (l : Nat) : Dev :=
  (d.wr (Pg.csi n) Reg.INGRESS.SKEW (skew.getD l 0) l).wr (Pg.csi n) Reg.INGRESS.SKEW_VALID 1 l

/-- From `d` to `e` the first `m` lanes have their measured skews; of the port's page only their words changed. -/
structure Dev.SkewsKept (n : Nat) (skew : List Nat) (m : Nat) (d e : Dev) : Prop where
  frame : d.RegFrame e
  deskewed : e.flag (Pg.csi n) Reg.INGRESS.DESKEWED = d.flag (Pg.csi n) Reg.INGRESS.DESKEWED
  skew : ∀ l < m, e.rd (Pg.csi n) Reg.INGRESS.SKEW l = skew.getD l 0 % 2 ^ 12
  valid : ∀ l < m, e.flag (Pg.csi n) Reg.INGRESS.SKEW_VALID l = true

theorem Dev.rd_csiSkewed_same (d : Dev) (skew : List Nat) (n l : Nat) :
    (Dev.csiSkewed skew n d l).rd (Pg.csi n) Reg.INGRESS.SKEW l = skew.getD l 0 % 2 ^ 12 ∧
      (Dev.csiSkewed skew n d l).rd (Pg.csi n) Reg.INGRESS.SKEW_VALID l = 1 := by
  constructor
  · rw [Dev.csiSkewed, Dev.rd_wr_disjoint _ (F := Reg.INGRESS.SKEW_VALID) (G := Reg.INGRESS.SKEW) _ rfl (by decide) (by decide),
      Dev.rd_wr_same _ _ _ _ _ (by decide)]
    rfl
  · rw [Dev.csiSkewed, Dev.rd_wr_same _ _ _ _ _ (by decide)]
    rfl

theorem Dev.rd_csiSkewed_other (d : Dev) (skew : List Nat) (n l : Nat) {F : Fld} {i : Nat}
    (h : (Pg.csi n + F.off + F.stride * i) / 4 ≠ (Pg.csi n + 0x80 + 4 * l) / 4) :
    (Dev.csiSkewed skew n d l).rd (Pg.csi n) F i = d.rd (Pg.csi n) F i := by
  rw [Dev.csiSkewed, Dev.rd_wr_other _ _ h, Dev.rd_wr_other _ _ h]

theorem Dev.SkewsKept.lane {n : Nat} {skew : List Nat} {m : Nat} {d e : Dev} (h : Dev.SkewsKept n skew m d e) :
    Dev.SkewsKept n skew (m + 1) d (Dev.csiSkewed skew n e m) := by
  have hother {F : Fld} {l : Nat} (hl : l < m) (hoff : F.off = 0x80 ∧ F.stride = 4) :
      (Dev.csiSkewed skew n e m).rd (Pg.csi n) F l = e.rd (Pg.csi n) F l :=
    Dev.rd_csiSkewed_other _ _ _ _ (by rw [hoff.1, hoff.2]; simp only [Pg.csi]; omega)
  refine ⟨(h.frame.wr _ _ _ _).wr _ _ _ _, ?_, fun l hl => ?_, fun l hl => ?_⟩
  · rw [Dev.flag, Dev.rd_csiSkewed_other _ _ _ _ (by simp only [Reg.INGRESS.DESKEWED, Pg.csi]; omega), ← Dev.flag, h.deskewed]
  · rcases Nat.lt_succ_iff_lt_or_eq.mp hl with hlt | rfl
    · rw [hother hlt (by decide), h.skew l hlt]
    · exact (e.rd_csiSkewed_same skew n l).1
  · rcases Nat.lt_succ_iff_lt_or_eq.mp hl with hlt | rfl
    · rw [Dev.flag, hother hlt (by decide), ← Dev.flag, h.valid l hlt]
    · rw [Dev.flag, (e.rd_csiSkewed_same skew n l).2]
      rfl

theorem Dev.skewsKept_foldl (d : Dev) (n : Nat) (skew : List Nat) :
    ∀ m, Dev.SkewsKept n skew m d ((List.range m).foldl (Dev.csiSkewed skew n) d)
  | 0 => ⟨.refl d, rfl, fun _ h => absurd h (Nat.not_lt_zero _), fun _ h => absurd h (Nat.not_lt_zero _)⟩
  | m + 1 => by
    rw [List.range_succ, List.foldl_append]
    exact (Dev.skewsKept_foldl d n skew m).lane

theorem Dev.csiDeskew_of_four_lanes {d : Dev} {n : Nat} (hen : d.flag (Pg.csi n) Reg.INGRESS.EN = true)
    (hlanes : d.rd (Pg.csi n) Reg.INGRESS.LANES = 2) (skew : List Nat) :
    d.csiDeskew n skew = (List.range 4).foldl (Dev.csiSkewed skew n) (d.wr (Pg.csi n) Reg.INGRESS.DESKEWED 1) := by
  rw [Dev.csiDeskew, if_neg (by rw [hen, hlanes]; decide), hlanes]
  rfl

/-! ### Gostan links (R389, R393 to R395, R398) -/

/-- Two fields of a link's page stand in different words. -/
abbrev Fld.OtherGlWord (F G : Fld) : Prop := F.stride = 0 ∧ G.stride = 0 ∧ F.off / 4 ≠ G.off / 4

/-- Two fields of a link's page share a word and no bit. -/
abbrev Fld.SameGlWord (F G : Fld) : Prop :=
  F.stride = 0 ∧ G.stride = 0 ∧ G.off = F.off ∧ F.lo + F.w ≤ 32 ∧ (G.lo + G.w ≤ F.lo ∨ F.lo + F.w ≤ G.lo)

section
variable (d : Dev) (k v : Nat) {F G : Fld}

theorem Dev.rd_gl_wr_other (h : F.OtherGlWord G) : (d.wr (Pg.gl k) F v).rd (Pg.gl k) G = d.rd (Pg.gl k) G := by
  obtain ⟨hF, hG, hword⟩ := h
  refine Dev.rd_wr_other _ _ ?_
  simp only [hF, hG, Pg.gl]
  omega

theorem Dev.rd_gl_wr_beside (h : F.SameGlWord G) : (d.wr (Pg.gl k) F v).rd (Pg.gl k) G = d.rd (Pg.gl k) G := by
  obtain ⟨hF, hG, hoff, hwide, hdisjoint⟩ := h
  exact Dev.rd_wr_disjoint _ _ (by rw [hF, hG, hoff]) hwide hdisjoint

theorem Dev.lstate_wr_lstate (hv : v < 8) : (d.wr (Pg.gl k) Reg.GLINK.LSTATE v).lstate k = v :=
  (Dev.rd_wr_same _ _ _ _ _ (by decide)).trans (Nat.mod_eq_of_lt hv)

theorem Dev.rd_glSet (g : GlSt) (base : Nat) : (d.glSet k g).rd base F = d.rd base F := rfl

theorem Dev.glGet_glSet (g : GlSt) : (d.glSet k g).glGet k = g := Tab.get_set_same _ _ _ _

end

theorem Dev.glGet_wr (d : Dev) (base : Nat) (F : Fld) (v i k : Nat) : (d.wr base F v i).glGet k = d.glGet k := rfl

theorem Dev.glGet_congr {d e : Dev} (h : e.links = d.links) (k : Nat) : e.glGet k = d.glGet k := by rw [Dev.glGet, h, ← Dev.glGet]

/-- From `d` to `e` only registers and the links changed. -/
def Dev.LinkFrame (d e : Dev) : Prop := ∃ r l, e = { d with regs := r, links := l }

theorem Dev.LinkFrame.refl (d : Dev) : d.LinkFrame d := ⟨_, _, rfl⟩

theorem Dev.LinkFrame.wr {d e : Dev} (h : d.LinkFrame e) (base : Nat) (F : Fld) (v i : Nat) : d.LinkFrame (e.wr base F v i) := by
  obtain ⟨r, l, rfl⟩ := h
  exact ⟨_, l, rfl⟩

theorem Dev.LinkFrame.glSet {d e : Dev} (h : d.LinkFrame e) (k : Nat) (g : GlSt) : d.LinkFrame (e.glSet k g) := by
  obtain ⟨r, l, rfl⟩ := h
  exact ⟨r, _, rfl⟩

theorem Dev.LinkFrame.tunSend {d e : Dev} (h : d.LinkFrame e) (k : Nat) (ps : List (List Byte)) : d.LinkFrame (e.tunSend k ps) := by
  obtain ⟨r, l, rfl⟩ := h
  exact ⟨r, _, rfl⟩

theorem Dev.LinkFrame.eq {d e : Dev} (h : d.LinkFrame e) : e = { d with links := e.links, regs := e.regs } := by
  obtain ⟨r, l, rfl⟩ := h
  rfl

/-! Training -/

/-- The lanes are locked, in the order and with the polarities found. -/
def Dev.glLocked (d : Dev) (k : Nat) (rev : Bool) (pol : Nat) : Dev :=
  ((d.wr (Pg.gl k) Reg.GLINK.REVERSED (if rev then 1 else 0)).wr (Pg.gl k) Reg.GLINK.POL pol).wr (Pg.gl k) Reg.GLINK.LSTATE 3

/-- The frames that are not acknowledged go again, and the timers of the acknowledgements start. -/
def Dev.glResumed (d : Dev) (k : Nat) : Dev :=
  (d.glSet k { d.glGet k with resend := (d.glGet k).buf.length }).glSet k
    { d.glGet k with resend := (d.glGet k).buf.length, ackAt := d.cycle, ackSentAt := d.cycle }

section
variable {d : Dev} {k : Nat} (hen : d.flag (Pg.gl k) Reg.GLINK.EN = true)
include hen

theorem Dev.glTrain_detected (hstate : d.lstate k < 2) : d.glTrain k .detected = d.wr (Pg.gl k) Reg.GLINK.LSTATE 2 := by
  simp only [Dev.glTrain, hen, hstate]
  rfl

theorem Dev.glTrain_locked (hstate : d.lstate k = 2) (rev : Bool) (pol : BitVec 4) :
    d.glTrain k (.locked rev pol) = d.glLocked k rev pol.toNat := by
  simp only [Dev.glTrain, hen, hstate]
  rfl

theorem Dev.glTrain_equalised (hstate : d.lstate k = 3) {loss : BitVec 10} (hloss : loss.toNat ≤ 300) :
    d.glTrain k (.equalised loss) = ((d.glLoss k loss.toNat).wr (Pg.gl k) Reg.GLINK.LSTATE 4).glSet k
      { (d.glLoss k loss.toNat).glGet k with caps := [1, 2, 3] } := by
  simp only [Dev.glTrain, hen, hstate, Bool.not_true, Bool.false_eq_true, if_false, ne_eq, not_true_eq_false, if_neg (Nat.not_lt.mpr hloss)]

theorem Dev.glTrain_exchanged (hstate : d.lstate k = 4) : ∃ lead,
    d.glTrain k (.exchanged true) = ((d.glResumed k).wr (Pg.gl k) Reg.GLINK.LEAD lead).wr (Pg.gl k) Reg.GLINK.LSTATE 5 := by
  simp only [Dev.glTrain, hen, hstate, Bool.not_true, Bool.false_eq_true, if_false, ne_eq, not_true_eq_false, if_true, Dev.glGet_glSet]
  exact ⟨_, rfl⟩

end

section
variable (d : Dev) (k : Nat)

theorem Dev.regFrame_glLocked (rev : Bool) (pol : Nat) : d.RegFrame (d.glLocked k rev pol) :=
  (((Dev.RegFrame.refl d).wr _ _ _ _).wr _ _ _ _).wr _ _ _ _

theorem Dev.reversed_glLocked (rev : Bool) (pol : Nat) : (d.glLocked k rev pol).flag (Pg.gl k) Reg.GLINK.REVERSED = rev := by
  rw [Dev.flag, Dev.glLocked, Dev.rd_gl_wr_beside _ _ _ (by decide), Dev.rd_gl_wr_beside _ _ _ (by decide),
    Dev.rd_wr_same _ _ _ _ _ (by decide)]
  cases rev <;> rfl

theorem Dev.pol_glLocked (rev : Bool) {pol : Nat} (hpol : pol < 16) : (d.glLocked k rev pol).rd (Pg.gl k) Reg.GLINK.POL = pol := by
  rw [Dev.glLocked, Dev.rd_gl_wr_beside _ _ _ (by decide), Dev.rd_wr_same _ _ _ _ _ (by decide)]
  exact Nat.mod_eq_of_lt hpol

/-- A measured loss is shown with a length, which is free without a loss per mm. -/
theorem Dev.glLoss_shows (loss : Nat) : ∃ len, ∃ e : Dev, e.regs = d.regs ∧ e.links = d.links ∧
    d.glLoss k loss = (e.wr (Pg.gl k) Reg.GLINK.LOSS loss).wr (Pg.gl k) Reg.GLINK.EQ_LEN len := by
  unfold Dev.glLoss
  dsimp only
  split
  · exact ⟨(d.free 10).1, (d.free 10).2, rfl, rfl, rfl⟩
  · exact ⟨_, d, rfl, rfl, rfl⟩

theorem Dev.loss_glLoss {loss : Nat} (hloss : loss < 1024) : (d.glLoss k loss).rd (Pg.gl k) Reg.GLINK.LOSS = loss := by
  obtain ⟨len, e, -, -, hshows⟩ := d.glLoss_shows k loss
  rw [hshows, Dev.rd_gl_wr_beside _ _ _ (by decide), Dev.rd_wr_same _ _ _ _ _ (by decide)]
  exact Nat.mod_eq_of_lt hloss

theorem Dev.glGet_glLoss (loss : Nat) : (d.glLoss k loss).glGet k = d.glGet k := by
  obtain ⟨len, e, -, hlinks, hshows⟩ := d.glLoss_shows k loss
  rw [hshows, Dev.glGet_wr, Dev.glGet_wr, Dev.glGet_congr hlinks]

theorem Dev.glGet_glResumed : (d.glResumed k).glGet k =
    { d.glGet k with resend := (d.glGet k).buf.length, ackAt := d.cycle, ackSentAt := d.cycle } := Dev.glGet_glSet _ _ _

end

/-! Going down -/

/-- From `d` to `e` the page's registers above FLT_STAT and its captures, and the links, stay as they are. -/
structure Dev.RaisedOn (base : Nat) (d e : Dev) : Prop where
  rd : ∀ G : Fld, 0x24 ≤ G.off + G.stride * 0 → G.off + G.stride * 0 < 0x1000 → e.rd base G = d.rd base G
  links : e.links = d.links

theorem Dev.RaisedOn.raise {base : Nat} {d e : Dev} (h : Dev.RaisedOn base d e) (bit : Nat) (attr : Attr) :
    Dev.RaisedOn base d (e.raise base bit attr) :=
  ⟨fun G hlo hhi => (Dev.rd_raise_same_page _ _ _ _ hlo hhi).trans (h.rd G hlo hhi), (Dev.raise_links _ _ _ _).trans h.links⟩

theorem Dev.raisedOn_each (base bit : Nat) (d : Dev) (doms : List Nat) :
    Dev.RaisedOn base d (d.each doms (fun d m => d.raise base bit (.dom m))) :=
  List.foldlRecOn (motive := Dev.RaisedOn base d) doms _ ⟨fun _ _ _ => rfl, rfl⟩ (fun _ h _ _ => h.raise _ _)

theorem Dev.raisedOn_glRaiseDoms (d : Dev) (k bit : Nat) : Dev.RaisedOn (Pg.gl k) d (d.glRaiseDoms k bit) := by
  unfold Dev.glRaiseDoms
  dsimp only
  split
  · exact Dev.RaisedOn.raise ⟨fun _ _ _ => rfl, rfl⟩ _ _
  · exact Dev.raisedOn_each _ _ _ _

section
variable (d : Dev) (k : Nat)

/-- What the link raises before it retrains: GL_DOWN, counted. -/
def Dev.glDownRaised : Dev := (d.glRaiseDoms k 5).bump (Pg.gl k) Reg.GLINK.RETRAIN_CNT

theorem Dev.rd_glDownRaised {G : Fld} (h : Reg.GLINK.RETRAIN_CNT.OtherGlWord G) (hlo : 0x24 ≤ G.off) (hhi : G.off < 0x1000) :
    (d.glDownRaised k).rd (Pg.gl k) G = d.rd (Pg.gl k) G := by
  rw [Dev.glDownRaised, Dev.bump, Dev.rd_gl_wr_other _ _ _ h, (d.raisedOn_glRaiseDoms k 5).rd G hlo hhi]

theorem Dev.retrainCnt_glDownRaised : (d.glDownRaised k).rd (Pg.gl k) Reg.GLINK.RETRAIN_CNT =
    min (d.rd (Pg.gl k) Reg.GLINK.RETRAIN_CNT + 1) (2 ^ 16 - 1) := by
  rw [Dev.glDownRaised, Dev.bump, Dev.rd_wr_same _ _ _ _ _ (by decide),
    (d.raisedOn_glRaiseDoms k 5).rd Reg.GLINK.RETRAIN_CNT (by decide) (by decide)]
  exact Nat.mod_eq_of_lt (by simp only [Reg.GLINK.RETRAIN_CNT]; omega)

theorem Dev.glGet_glDownRaised : (d.glDownRaised k).glGet k = d.glGet k := Dev.glGet_congr (d.raisedOn_glRaiseDoms k 5).links k

theorem Dev.rd_glRestartTraining {G : Fld} (h : Reg.GLINK.LSTATE.OtherGlWord G ∨ Reg.GLINK.LSTATE.SameGlWord G) :
    (d.glRestartTraining k).rd (Pg.gl k) G = d.rd (Pg.gl k) G := by
  rcases h with h | h
  · exact Dev.rd_gl_wr_other (d.glSet k _) _ _ h
  · exact Dev.rd_gl_wr_beside (d.glSet k _) _ _ h

theorem Dev.glGet_glRestartTraining : (d.glRestartTraining k).glGet k = { d.glGet k with
    resend := 0, nakDue := false, nakSent := false, nakRx := false, replays := 0, caps := [], inReplay := false, repEnd := 0 } :=
  Dev.glGet_glSet _ _ _

theorem Dev.rd_glGoDown {G : Fld} (h : Reg.GLINK.LSTATE.SameGlWord G) : (d.glGoDown k).rd (Pg.gl k) G = d.rd (Pg.gl k) G := by
  have hoff : G.off = 0x64 := h.2.2.1
  rw [Dev.glGoDown, ← Dev.glDownRaised, Dev.rd_glRestartTraining _ _ (.inr h),
    Dev.rd_glDownRaised _ _ ⟨rfl, h.2.1, by rw [hoff]; decide⟩ (by rw [hoff]; decide) (by rw [hoff]; decide)]

end

/-- From `d` to `e` link `k` begins at DETECT again; its frames stay. -/
structure Dev.GlRestarted (k : Nat) (d e : Dev) : Prop where
  lstate : e.lstate k = 1
  buf : (e.glGet k).buf = (d.glGet k).buf
  replays : (e.glGet k).replays = 0
  beside : ∀ G : Fld, Reg.GLINK.LSTATE.SameGlWord G → e.rd (Pg.gl k) G = d.rd (Pg.gl k) G

section
variable {d : Dev} {k : Nat} (hen : d.flag (Pg.gl k) Reg.GLINK.EN = true)
include hen

theorem Dev.glRestarted_glRestartTraining : Dev.GlRestarted k d (d.glRestartTraining k) where
  lstate := by
    rw [Dev.glRestartTraining, hen]
    exact Dev.lstate_wr_lstate _ _ _ (by decide)
  buf := by rw [Dev.glGet_glRestartTraining]
  replays := by rw [Dev.glGet_glRestartTraining]
  beside _ h := d.rd_glRestartTraining k (.inr h)

theorem Dev.glRestarted_glGoDown : Dev.GlRestarted k d (d.glGoDown k) := by
  have hen' : (d.glDownRaised k).flag (Pg.gl k) Reg.GLINK.EN = true := by
    rw [Dev.flag, Dev.rd_glDownRaised _ _ (by decide) (by decide) (by decide), ← Dev.flag, hen]
  obtain ⟨hlstate, hbuf, hreplays, -⟩ := Dev.glRestarted_glRestartTraining hen'
  exact ⟨hlstate, hbuf.trans (by rw [Dev.glGet_glDownRaised]), hreplays, fun _ h => d.rd_glGoDown k h⟩

theorem Dev.glRestarted_glDrop : Dev.GlRestarted k d (d.glDrop k) := by
  unfold Dev.glDrop
  split
  · exact Dev.glRestarted_glGoDown hen
  · exact Dev.glRestarted_glRestartTraining hen

theorem Dev.en_wr_fail (c : Nat) : (d.wr (Pg.gl k) Reg.GLINK.FAIL c).flag (Pg.gl k) Reg.GLINK.EN = true := by
  rw [Dev.flag, Dev.rd_gl_wr_other _ _ _ (by decide), ← Dev.flag, hen]

end

theorem Dev.GlRestarted.fail {k c : Nat} {d e : Dev} (h : Dev.GlRestarted k (d.wr (Pg.gl k) Reg.GLINK.FAIL c) e) (hc : c < 8) :
    e.rd (Pg.gl k) Reg.GLINK.FAIL = c := by
  rw [h.beside Reg.GLINK.FAIL (by decide), Dev.rd_wr_same _ _ _ _ _ (by decide)]
  exact Nat.mod_eq_of_lt hc

theorem Dev.retrainCnt_glGoDown (d : Dev) (k : Nat) :
    (d.glGoDown k).rd (Pg.gl k) Reg.GLINK.RETRAIN_CNT = min (d.rd (Pg.gl k) Reg.GLINK.RETRAIN_CNT + 1) (2 ^ 16 - 1) := by
  rw [Dev.glGoDown, ← Dev.glDownRaised, Dev.rd_glRestartTraining _ _ (.inl (by decide)), Dev.retrainCnt_glDownRaised]

/-! Tunnel accesses of the registers -/

theorem Dev.glGet_tunSend (d : Dev) (k : Nat) (ps : List (List Byte)) :
    (d.tunSend k ps).glGet k = { d.glGet k with tun := (d.glGet k).tun ++ ps } := Tab.get_set_same _ _ _ _

/-- What an access of the tunnel registers sends for the partner's BAR0. -/
def Dev.tunAccess (d : Dev) (k op : Nat) (data : List Byte) : List Byte :=
  tunPayload (d.rd (Pg.gl k) Reg.GLINK.TUN_TPOS) (d.rd Pg.pins Reg.PINS.POS) op (d.glGet k).tunTag 0xF
    (d.rd (Pg.gl k) Reg.GLINK.TUN_OFFSET) data

/-- A read of the tunnel registers is outstanding. -/
def Dev.tunReading (d : Dev) (k : Nat) : Dev :=
  (d.glSet k { d.glGet k with tunTag := ((d.glGet k).tunTag + 1) % 32, tunOut := some (d.cycle, (d.glGet k).tunTag, true) }).wr (Pg.gl k)
    Reg.GLINK.TUN_BUSY 1

section
variable {d : Dev} {k : Nat} (hidle : d.flag (Pg.gl k) Reg.GLINK.TUN_BUSY = false) (hbar0 : d.flag (Pg.gl k) Reg.GLINK.TUN_SPACE = false)
include hidle hbar0

theorem Dev.tunWr_of_idle : d.tunWr k = (d.glSet k { d.glGet k with tunTag := ((d.glGet k).tunTag + 1) % 32 }).tunSend k
    [d.tunAccess k 0 (leBytes 4 (d.rd (Pg.gl k) Reg.GLINK.TUN_WDATA))] := by
  simp only [Dev.tunWr, hidle, hbar0, Bool.false_eq_true, if_false]
  rfl

theorem Dev.tunRd_of_idle : d.tunRd k = (d.tunReading k).tunSend k [d.tunAccess k 1 []] := by
  simp only [Dev.tunRd, hidle, hbar0, Bool.false_eq_true, if_false]
  rfl

end

theorem Dev.glGet_tunReading (d : Dev) (k : Nat) : (d.tunReading k).glGet k =
    { d.glGet k with tunTag := ((d.glGet k).tunTag + 1) % 32, tunOut := some (d.cycle, (d.glGet k).tunTag, true) } :=
  Dev.glGet_glSet _ _ _

theorem Dev.linkFrame_tunReading (d : Dev) (k : Nat) : d.LinkFrame (d.tunReading k) := ((Dev.LinkFrame.refl d).glSet _ _).wr _ _ _ _

section
variable (d : Dev) (k v : Nat)

theorem Dev.linkFrame_tunEnd (terr : Bool) : d.LinkFrame (d.tunEnd k v terr) :=
  ((((Dev.LinkFrame.refl d).glSet _ _).wr _ _ _ _).wr _ _ _ _).wr _ _ _ _

theorem Dev.glGet_tunEnd (terr : Bool) : (d.tunEnd k v terr).glGet k = { d.glGet k with tunOut := none } := Dev.glGet_glSet _ _ _

theorem Dev.busy_tunEnd (terr : Bool) : (d.tunEnd k v terr).flag (Pg.gl k) Reg.GLINK.TUN_BUSY = false := by
  rw [Dev.flag, Dev.tunEnd, Dev.rd_gl_wr_beside _ _ _ (by decide), Dev.rd_gl_wr_other _ _ _ (by decide), ← Dev.flag,
    Dev.flag_wr_zero _ _ (by decide)]

theorem Dev.terr_tunEnd : (d.tunEnd k v true).flag (Pg.gl k) Reg.GLINK.TERR = true := by
  rw [Dev.tunEnd, if_pos rfl, Dev.flag_wr_one _ _ (by decide) (by decide)]

theorem Dev.rdata_tunEnd (terr : Bool) : (d.tunEnd k v terr).rd (Pg.gl k) Reg.GLINK.TUN_RDATA = v % 2 ^ 32 := by
  rw [Dev.tunEnd, Dev.rd_gl_wr_other _ _ _ (by decide), Dev.rd_wr_same _ _ _ _ _ (by decide)]
  rfl

end

theorem Dev.tunTimeout_of_late {d : Dev} {k t tag : Nat} {r : Bool} (hout : (d.glGet k).tunOut = some (t, tag, r))
    (hlate : t + usCycles 1000 ≤ d.cycle) : d.tunTimeout k = d.tunEnd k 0 true := by
  rw [Dev.tunTimeout, hout]
  exact if_pos hlate

end Sys2Proof.Machine

namespace Sys2Proof

open Machine

/-! ### The clauses of O52 -/

theorem csiFs_opens_frame (n : Fin 4) (v : Fin 16) (fnum : BitVec 16) (s : State) (c : CsiCtx) (hctx : s.dev.csiCtx n v = some c)
    (hskew : ∀ l < 4, s.dev.flag (Pg.csi n) Reg.INGRESS.SKEW_VALID l = false) (hclosed : (s.dev.csiGet n v).open_ = false)
    (hrun : ((List.range c.planes).all (fun p => !(s.dev.bqGet (c.queue n p)).stopped)) = true) :
    GivesDev (.csiFs n v fnum) s (fun d => (d.csiGet n v) = { open_ := true, dropped := false, line := 0, seen := true } ∧
      d.rd (Pg.csi n) Reg.INGRESS.LAST_FNUM v = fnum.toNat ∧ d.mem = s.dev.mem ∧ d.fab = s.dev.fab) := by
  obtain ⟨e, he, hfs⟩ := Dev.csiFs_of_running hctx hskew hclosed hrun fnum.toNat
  obtain ⟨x, htakes⟩ := (s.dev.csiNumbered n v fnum.toNat).csiTakes_frame ((List.range c.planes).map (fun p => c.queue n p))
  obtain ⟨r, l, hframe⟩ := s.dev.csiNumbered_frame n v fnum.toNat
  rw [htakes] at he
  have hseen : e.csiGet n v = { s.dev.csiGet n v with seen := true } := by
    rw [he]
    exact Dev.csiGet_csiSet _ _ _ _
  have hnumber : e.rd (Pg.csi n) Reg.INGRESS.LAST_FNUM v = fnum.toNat := by
    rw [he]
    exact (Dev.rd_wr_same (s.dev.csiFnumChecked n v fnum.toNat) _ _ _ _ (by decide)).trans (Nat.mod_eq_of_lt fnum.isLt)
  refine ⟨s.dev.csiFs n v fnum.toNat, rfl, ?_⟩
  rw [hfs]
  refine ⟨?_, hnumber, ?_, ?_⟩
  · rw [Dev.csiGet_csiSet, hseen]
  · rw [he, hframe]
    rfl
  · rw [he, hframe]
    rfl

theorem csiLongPacket_writes_line (n : Fin 4) (v : Fin 16) (dt : BitVec 6) (payload : List Byte) (s : State) (c : CsiCtx)
    (hctx : s.dev.csiCtx n v = some c) (hskew : ∀ l < 4, s.dev.flag (Pg.csi n) Reg.INGRESS.SKEW_VALID l = false) (hdt : dt.toNat = c.dt)
    (hopen : (s.dev.csiGet n v).open_ = true) (hline : (s.dev.csiGet n v).line < c.lines) (hlen : payload.length = csiBytes c.dt c.w) :
    GivesDev (.csiLongPacket n .ok v dt payload true) s (fun d =>
      d = ((s.dev.count (Pg.csi n) 0xF 0).csiLine n c (s.dev.csiGet n v).line payload.toArray (s.dev.csiGet n v).dropped).csiSet n v
        { s.dev.csiGet n v with line := (s.dev.csiGet n v).line + 1 } ∧
      (d.csiGet n v).line = (s.dev.csiGet n v).line + 1) := by
  refine ⟨s.dev.csiLong n .ok v dt.toNat payload true, rfl, ?_⟩
  rw [hdt, Dev.csiLong_of_line hctx hskew hopen hline hlen]
  exact ⟨rfl, by rw [Dev.csiGet_csiSet]⟩

theorem csiFe_counts_good_frame (n : Fin 4) (v : Fin 16) (s : State) (c : CsiCtx) (hctx : s.dev.csiCtx n v = some c)
    (hskew : ∀ l < 4, s.dev.flag (Pg.csi n) Reg.INGRESS.SKEW_VALID l = false) (hopen : (s.dev.csiGet n v).open_ = true)
    (hall : c.lines ≤ (s.dev.csiGet n v).line) (hkept : (s.dev.csiGet n v).dropped = false) :
    GivesDev (.csiFe n v) s (fun d => d = { s.dev with regs := d.regs, links := d.links, perf := d.perf } ∧
      (d.csiGet n v) = { s.dev.csiGet n v with open_ := false, dropped := false, line := 0 } ∧
      d.rd (Pg.csi n) Reg.INGRESS.FRAMES_OK v = min (s.dev.rd (Pg.csi n) Reg.INGRESS.FRAMES_OK v + 1) (2 ^ 32 - 1)) := by
  refine ⟨s.dev.csiFe n v, rfl, ?_⟩
  rw [Dev.csiFe_of_whole hctx hskew hopen hall hkept, Dev.count_frame]
  refine ⟨rfl, Dev.csiGet_csiSet _ _ _ _, ?_⟩
  refine (Dev.rd_wr_same s.dev (Pg.csi n) Reg.INGRESS.FRAMES_OK _ v (by decide)).trans ?_
  exact Nat.mod_eq_of_lt (by simp only [Reg.INGRESS.FRAMES_OK]; omega)

theorem csiTiming_drops_frame (n : Fin 4) (why : CsiTimingKind) (lane : Fin 5) (v : Fin 16) (s : State)
    (hen : s.dev.flag (Pg.csi n) Reg.INGRESS.EN = true) (hlanes : s.dev.rd (Pg.csi n) Reg.INGRESS.LANES ≠ 3) (hlane : lane.val < 4)
    (hwhy : why ≠ .clockLoss) (hopen : (s.dev.csiGet n v).open_ = true) (hkept : (s.dev.csiGet n v).dropped = false) :
    GivesDev (.csiTiming n why lane v) s (fun d =>
      d.rd (Pg.csi n) Reg.INGRESS.TIM_ERR = min (s.dev.rd (Pg.csi n) Reg.INGRESS.TIM_ERR + 1) (2 ^ 32 - 1) ∧
      bitAt (d.rd (Pg.csi n) Reg.HDR.FLT_STAT) 4 = true ∧ (d.csiGet n v).dropped = true ∧
      d.rd (Pg.csi n) Reg.INGRESS.FRAMES_BAD v = min (s.dev.rd (Pg.csi n) Reg.INGRESS.FRAMES_BAD v + 1) (2 ^ 32 - 1)) := by
  have hsame : (s.dev.csiTimed n v).csiGet n v = s.dev.csiGet n v := Dev.csiGet_congr (s.dev.links_csiTimed n v) n v
  have hother {F : Fld} (hF : F.off < 0x140 ∧ F.stride = 0) :
      ((s.dev.csiTimed n v).csiDrop n v).rd (Pg.csi n) F = (s.dev.csiTimed n v).rd (Pg.csi n) F := by
    rw [Dev.csiDrop_of_open (by rw [hsame, hopen]) (by rw [hsame, hkept]), Dev.rd_congr (Dev.count_regs _ _ _ _ _)]
    refine Dev.rd_wr_other _ _ ?_
    rw [hF.2]
    simp only [Reg.INGRESS.FRAMES_BAD, Pg.csi]
    omega
  refine ⟨s.dev.csiTiming n why lane v, rfl, ?_⟩
  rw [Dev.csiTiming_of_data_lane hen hlanes hlane hwhy]
  refine ⟨?_, ?_, ?_, ?_⟩
  · rw [hother (by decide), Dev.timErr_csiTimed]
  · rw [hother (by decide), Dev.csiTiming_fltStat]
  · rw [Dev.csiDrop_of_open (by rw [hsame, hopen]) (by rw [hsame, hkept]), Dev.csiGet_congr (Dev.count_links _ _ _ _ _)]
    exact congrArg CsiVc.dropped (Dev.csiGet_csiSet (s.dev.csiTimed n v) n v { (s.dev.csiTimed n v).csiGet n v with dropped := true })
  · rw [Dev.csiDrop_of_open (by rw [hsame, hopen]) (by rw [hsame, hkept]), Dev.rd_congr (Dev.count_regs _ _ _ _ _), Dev.bump,
      Dev.rd_wr_same _ _ _ _ _ (by decide), ← s.dev.framesBad_csiTimed n v v.isLt]
    exact Nat.mod_eq_of_lt (by simp only [Reg.INGRESS.FRAMES_BAD]; omega)

theorem csiDeskew_keeps_skews (n : Fin 4) (skew : List (BitVec 12)) (s : State) (hen : s.dev.flag (Pg.csi n) Reg.INGRESS.EN = true)
    (hlanes : s.dev.rd (Pg.csi n) Reg.INGRESS.LANES = 2) (_ : skew.length = 4) :
    GivesDev (.csiDeskew n skew) s (fun d => d = { s.dev with regs := d.regs } ∧
      d.flag (Pg.csi n) Reg.INGRESS.DESKEWED = true ∧
      (∀ l < 4, d.rd (Pg.csi n) Reg.INGRESS.SKEW l = (skew.getD l 0).toNat ∧
        d.flag (Pg.csi n) Reg.INGRESS.SKEW_VALID l = true)) := by
  refine ⟨_, rfl, ?_⟩
  have hwr : s.dev.RegFrame (s.dev.wr (Pg.csi n) Reg.INGRESS.DESKEWED 1) := (Dev.RegFrame.refl s.dev).wr _ _ _ _
  have hkept := Dev.skewsKept_foldl (s.dev.wr (Pg.csi n) Reg.INGRESS.DESKEWED 1) n (skew.map (·.toNat)) 4
  rw [← Dev.csiDeskew_of_four_lanes hen hlanes] at hkept
  obtain ⟨hframe, hdeskewed, hskew, hvalid⟩ := hkept
  refine ⟨(hwr.trans hframe).eq, ?_, fun l hl => ⟨?_, hvalid l hl⟩⟩
  · rw [hdeskewed]
    exact Dev.flag_wr_one _ _ (by decide) (by decide)
  · have hlane : (skew.map (·.toNat)).getD l 0 = (skew.getD l 0).toNat := List.getD_map skew 0 (·.toNat)
    rw [hskew l hl, hlane]
    exact Nat.mod_eq_of_lt (skew.getD l 0).isLt

/-- Settles O52, clause by clause. -/
theorem camerasDeliver : Obligations.CamerasDeliver :=
  ⟨csiFs_opens_frame, csiLongPacket_writes_line, csiFe_counts_good_frame, csiTiming_drops_frame, csiDeskew_keeps_skews⟩

/-! ### The clauses of O54 -/

section
variable (k : Fin 2) (s : State)

theorem glTrainAdvance_detected (hen : s.dev.flag (Pg.gl k) Reg.GLINK.EN = true) (hstate : s.dev.lstate k < 2) :
    GivesDev (.glTrainAdvance k .detected) s (fun d => d = { s.dev with regs := d.regs } ∧ d.lstate k = 2) := by
  refine ⟨s.dev.glTrain k .detected, rfl, ?_⟩
  rw [Dev.glTrain_detected hen hstate]
  exact ⟨rfl, Dev.lstate_wr_lstate _ _ _ (by decide)⟩

theorem glTrainAdvance_locked (rev : Bool) (pol : BitVec 4) (hen : s.dev.flag (Pg.gl k) Reg.GLINK.EN = true)
    (hstate : s.dev.lstate k = 2) :
    GivesDev (.glTrainAdvance k (.locked rev pol)) s (fun d => d = { s.dev with regs := d.regs } ∧ d.lstate k = 3 ∧
      d.flag (Pg.gl k) Reg.GLINK.REVERSED = rev ∧ d.rd (Pg.gl k) Reg.GLINK.POL = pol.toNat) := by
  refine ⟨s.dev.glTrain k (.locked rev pol), rfl, ?_⟩
  rw [Dev.glTrain_locked hen hstate]
  exact ⟨(s.dev.regFrame_glLocked k rev pol.toNat).eq, Dev.lstate_wr_lstate _ _ _ (by decide), s.dev.reversed_glLocked k rev pol.toNat,
    s.dev.pol_glLocked k rev pol.isLt⟩

theorem glTrainAdvance_equalised (loss : BitVec 10) (hen : s.dev.flag (Pg.gl k) Reg.GLINK.EN = true) (hstate : s.dev.lstate k = 3)
    (hloss : loss.toNat ≤ 300) :
    GivesDev (.glTrainAdvance k (.equalised loss)) s (fun d => d.lstate k = 4 ∧ d.rd (Pg.gl k) Reg.GLINK.LOSS = loss.toNat ∧
      d.glGet k = { s.dev.glGet k with caps := [1, 2, 3] }) := by
  refine ⟨s.dev.glTrain k (.equalised loss), rfl, ?_⟩
  rw [Dev.glTrain_equalised hen hstate hloss]
  refine ⟨?_, ?_, ?_⟩
  · rw [Dev.lstate, Dev.rd_glSet, ← Dev.lstate, Dev.lstate_wr_lstate _ _ _ (by decide)]
  · rw [Dev.rd_glSet, Dev.rd_gl_wr_other _ _ _ (by decide), Dev.loss_glLoss _ _ loss.isLt]
  · rw [Dev.glGet_glSet, Dev.glGet_glLoss]

theorem glTrainAdvance_exchanged (hen : s.dev.flag (Pg.gl k) Reg.GLINK.EN = true) (hstate : s.dev.lstate k = 4) :
    GivesDev (.glTrainAdvance k (.exchanged true)) s (fun d => d = { s.dev with links := d.links, regs := d.regs } ∧ d.lstate k = 5 ∧
      (d.glGet k).buf = (s.dev.glGet k).buf ∧ (d.glGet k).resend = (s.dev.glGet k).buf.length ∧
      (d.glGet k).rxSeq = (s.dev.glGet k).rxSeq) := by
  obtain ⟨lead, htrain⟩ := Dev.glTrain_exchanged hen hstate
  have hframe : s.dev.LinkFrame (((s.dev.glResumed k).wr (Pg.gl k) Reg.GLINK.LEAD lead).wr (Pg.gl k) Reg.GLINK.LSTATE 5) :=
    ((((Dev.LinkFrame.refl s.dev).glSet _ _).glSet _ _).wr _ _ _ _).wr _ _ _ _
  have hlink : (((s.dev.glResumed k).wr (Pg.gl k) Reg.GLINK.LEAD lead).wr (Pg.gl k) Reg.GLINK.LSTATE 5).glGet k =
    (s.dev.glResumed k).glGet k := rfl
  refine ⟨s.dev.glTrain k (.exchanged true), rfl, ?_⟩
  rw [htrain]
  refine ⟨hframe.eq, Dev.lstate_wr_lstate _ _ _ (by decide), ?_, ?_, ?_⟩ <;> rw [hlink, Dev.glGet_glResumed]

theorem glDown_after_replays (hen : s.dev.flag (Pg.gl k) Reg.GLINK.EN = true) (hstate : s.dev.lstate k = 5)
    (hreplays : 4 ≤ (s.dev.glGet k).replays) :
    GivesDev (.glDown k .replays) s (fun d => d.lstate k = 1 ∧ d.rd (Pg.gl k) Reg.GLINK.FAIL = 5 ∧
      (d.glGet k).buf = (s.dev.glGet k).buf ∧ (d.glGet k).replays = 0 ∧
      d.rd (Pg.gl k) Reg.GLINK.RETRAIN_CNT = min (s.dev.rd (Pg.gl k) Reg.GLINK.RETRAIN_CNT + 1) (2 ^ 16 - 1)) := by
  have hdown : s.dev.glDown k .replays = (s.dev.wr (Pg.gl k) Reg.GLINK.FAIL 5).glGoDown k := by
    rw [Dev.glDown]
    exact if_pos ⟨hstate, hreplays⟩
  have h := Dev.glRestarted_glGoDown (Dev.en_wr_fail hen 5)
  refine ⟨s.dev.glDown k .replays, rfl, ?_⟩
  rw [hdown]
  refine ⟨h.lstate, h.fail (by decide), ?_, h.replays, ?_⟩
  · rw [h.buf, Dev.glGet_wr]
  · rw [Dev.retrainCnt_glGoDown, Dev.rd_gl_wr_other _ _ _ (by decide)]

theorem glDown_after_lane_lost (hen : s.dev.flag (Pg.gl k) Reg.GLINK.EN = true) (hstate : 2 ≤ s.dev.lstate k) :
    GivesDev (.glDown k .laneLost) s (fun d => d.lstate k = 1 ∧ d.rd (Pg.gl k) Reg.GLINK.FAIL = 6) := by
  have hdown : s.dev.glDown k .laneLost = (s.dev.wr (Pg.gl k) Reg.GLINK.FAIL 6).glDrop k := if_pos hstate
  have h := Dev.glRestarted_glDrop (Dev.en_wr_fail hen 6)
  refine ⟨s.dev.glDown k .laneLost, rfl, ?_⟩
  rw [hdown]
  exact ⟨h.lstate, h.fail (by decide)⟩

theorem retrain_begins_at_detect (hen : s.dev.flag (Pg.gl k) Reg.GLINK.EN = true) (hstate : s.dev.lstate k ≠ 0) :
    GivesDev (.retrain k) s (fun d => d.lstate k = 1 ∧ (d.glGet k).buf = (s.dev.glGet k).buf) := by
  have hretrain : s.dev.glRetrain k = s.dev.glDrop k := if_neg hstate
  have h := Dev.glRestarted_glDrop hen
  refine ⟨s.dev.glRetrain k, rfl, ?_⟩
  rw [hretrain]
  exact ⟨h.lstate, h.buf⟩

theorem glKeyUpdate_sends_keys (hstate : s.dev.lstate k = 5) :
    GivesDev (.glKeyUpdate k) s (fun d => d = { s.dev with links := d.links } ∧ d.glGet k = { s.dev.glGet k with caps := [1, 2, 3] }) := by
  have hupdate : s.dev.glKeyUpdate k = s.dev.glSet k { s.dev.glGet k with caps := [1, 2, 3] } := if_pos hstate
  refine ⟨s.dev.glKeyUpdate k, rfl, ?_⟩
  rw [hupdate]
  exact ⟨rfl, Dev.glGet_glSet _ _ _⟩

theorem tunWr_queues_write (hidle : s.dev.flag (Pg.gl k) Reg.GLINK.TUN_BUSY = false)
    (hbar0 : s.dev.flag (Pg.gl k) Reg.GLINK.TUN_SPACE = false) :
    GivesDev (.tunWr k) s (fun d => d = { s.dev with links := d.links } ∧
      (d.glGet k).tun = (s.dev.glGet k).tun ++ [tunPayload (s.dev.rd (Pg.gl k) Reg.GLINK.TUN_TPOS) (s.dev.rd Pg.pins Reg.PINS.POS) 0
        (s.dev.glGet k).tunTag 0xF (s.dev.rd (Pg.gl k) Reg.GLINK.TUN_OFFSET) (leBytes 4 (s.dev.rd (Pg.gl k) Reg.GLINK.TUN_WDATA))]) := by
  refine ⟨s.dev.tunWr k, rfl, ?_⟩
  rw [Dev.tunWr_of_idle hidle hbar0]
  refine ⟨rfl, ?_⟩
  rw [Dev.glGet_tunSend, Dev.glGet_glSet]
  rfl

theorem tunRd_queues_read (hidle : s.dev.flag (Pg.gl k) Reg.GLINK.TUN_BUSY = false)
    (hbar0 : s.dev.flag (Pg.gl k) Reg.GLINK.TUN_SPACE = false) :
    GivesDev (.tunRd k) s (fun d => d = { s.dev with links := d.links, regs := d.regs } ∧
      d.flag (Pg.gl k) Reg.GLINK.TUN_BUSY = true ∧
      (d.glGet k).tunOut = some (s.dev.cycle, (s.dev.glGet k).tunTag, true) ∧
      (d.glGet k).tun = (s.dev.glGet k).tun ++ [tunPayload (s.dev.rd (Pg.gl k) Reg.GLINK.TUN_TPOS) (s.dev.rd Pg.pins Reg.PINS.POS) 1
        (s.dev.glGet k).tunTag 0xF (s.dev.rd (Pg.gl k) Reg.GLINK.TUN_OFFSET) []]) := by
  have hframe := (s.dev.linkFrame_tunReading k).tunSend k [s.dev.tunAccess k 1 []]
  refine ⟨s.dev.tunRd k, rfl, ?_⟩
  rw [Dev.tunRd_of_idle hidle hbar0]
  refine ⟨hframe.eq, Dev.flag_wr_one (s.dev.glSet k _) _ (by decide) (by decide), ?_, ?_⟩
  · rw [Dev.glGet_tunSend, Dev.glGet_tunReading]
  · rw [Dev.glGet_tunSend, Dev.glGet_tunReading]
    rfl

theorem tunTimeout_ends_read (t tag : Nat) (r : Bool) (hout : (s.dev.glGet k).tunOut = some (t, tag, r))
    (hlate : t + usCycles 1000 ≤ s.dev.cycle) :
    GivesDev (.tunTimeout k) s (fun d => d = { s.dev with links := d.links, regs := d.regs } ∧
      (d.glGet k).tunOut = none ∧ d.flag (Pg.gl k) Reg.GLINK.TUN_BUSY = false ∧ d.flag (Pg.gl k) Reg.GLINK.TERR = true ∧
      d.rd (Pg.gl k) Reg.GLINK.TUN_RDATA = 0) := by
  refine ⟨s.dev.tunTimeout k, rfl, ?_⟩
  rw [Dev.tunTimeout_of_late hout hlate]
  refine ⟨(s.dev.linkFrame_tunEnd k 0 true).eq, ?_, s.dev.busy_tunEnd k 0 true, s.dev.terr_tunEnd k 0, s.dev.rdata_tunEnd k 0 true⟩
  rw [Dev.glGet_tunEnd]

end

/-- Settles O54, clause by clause. That a write of the tunnel registers is posted and sets no BUSY is the model's choice (log 114). -/
theorem linksTrainAndTunnel : Obligations.LinksTrainAndTunnel :=
  ⟨glTrainAdvance_detected, fun k rev pol s => glTrainAdvance_locked k s rev pol, fun k loss s => glTrainAdvance_equalised k s loss,
    glTrainAdvance_exchanged, glDown_after_replays, glDown_after_lane_lost, retrain_begins_at_detect, glKeyUpdate_sends_keys,
    tunWr_queues_write, tunRd_queues_read, tunTimeout_ends_read⟩

end Sys2Proof
end

section
/-!
PROOFS of 14_power_clocks_boot_security.md: the memories at reset, supplies and temperature, triggers, wear, violations and attestation
(R404, R406, R416 to R421, R425, R426).
-/

namespace Sys2Proof.Machine

/-! ### A privileged source stays noted through what it does (R317, R318) -/

/-- From `d` to `e` PRIV_STAT and the platform stay as they are. -/
structure Dev.KeepsPriv (d e : Dev) : Prop where
  stat : e.rd Pg.fault Reg.FAULT.PRIV_STAT = d.rd Pg.fault Reg.FAULT.PRIV_STAT
  plat : e.plat = d.plat

theorem Dev.KeepsPriv.of_regs {d e : Dev} (hregs : e.regs = d.regs) (hplat : e.plat = d.plat) : d.KeepsPriv e :=
  ⟨Dev.rd_congr hregs _ _ _, hplat⟩

theorem Dev.KeepsPriv.trans {d e f : Dev} (h : d.KeepsPriv e) (h' : e.KeepsPriv f) : d.KeepsPriv f :=
  ⟨h'.stat.trans h.stat, h'.plat.trans h.plat⟩

theorem Dev.KeepsPriv.then_if {d e f : Dev} {p : Prop} [Decidable p] (h : d.KeepsPriv e) (hf : e.KeepsPriv f) :
    d.KeepsPriv (if p then f else e) := by
  split
  · exact h.trans hf
  · exact h

/-- The field's word at `base` is not that of PRIV_STAT. -/
abbrev Fld.besidePriv (F : Fld) (base : Nat) : Prop :=
  (Pg.fault + Reg.FAULT.PRIV_STAT.off + Reg.FAULT.PRIV_STAT.stride * 0) / 4 ≠ (base + F.off + F.stride * 0) / 4

section
variable (d : Dev) {base : Nat} {F : Fld} (hF : F.besidePriv base)
include hF

theorem Dev.keepsPriv_wr (v : Nat) : d.KeepsPriv (d.wr base F v) := ⟨Dev.rd_wr_other d v hF, rfl⟩

theorem Dev.keepsPriv_withFlt_wr (x : Flt) (v : Nat) : d.KeepsPriv (({ d with flt := x } : Dev).wr base F v) :=
  ⟨Dev.rd_wr_other _ v hF, rfl⟩

theorem Dev.keepsPriv_hit (v : Nat) : d.KeepsPriv (d.hit base F v) :=
  ⟨Dev.rd_hit_other d v hF (by simp only [eventKey, Pg.fault, Reg.FAULT.PRIV_STAT]; omega), rfl⟩

end

section
variable (d : Dev)

theorem Dev.keepsPriv_armedFor (kind page : Nat) : d.KeepsPriv (d.armedFor kind page).2 := by
  unfold Dev.armedFor
  split
  · split
    · exact d.keepsPriv_withFlt_wr (by decide) _ 0
    · exact .of_regs rfl rfl
  · exact .of_regs rfl rfl

theorem Dev.keepsPriv_msix (vec : Nat) : d.KeepsPriv (d.msix vec) := by
  refine .of_regs (d.msix_regs vec) ?_
  unfold Dev.msix
  split
  · rfl
  split
  · rfl
  · rw [Dev.count_plat, Dev.emit_plat]

theorem Dev.plat_bqThresh_of_ring {b : Nat} (hb : b < 1536) : (d.bqThresh b).plat = d.plat := by
  have hnotify (e : Dev) : (e.bqNotify b).plat = e.plat := by
    rw [Dev.bqNotify, if_pos hb]
    split
    · exact (e.keepsPriv_msix _).plat
    · rfl
  unfold Dev.bqThresh
  dsimp only
  split
  · rfl
  split
  · split <;> rfl
  split
  · rfl
  · exact hnotify _

theorem Dev.keepsPriv_bqWrite_ring {b : Nat} (hb : b < 1536) (x : Item) : d.KeepsPriv (d.bqWrite b x) := by
  have hstore (i : Nat) (y : Item) : d.KeepsPriv (d.bqStore b i y) :=
    (d.keepsPriv_armedFor 4 ((bqBlock b).1 / 4096)).trans (.of_regs rfl rfl)
  rw [Dev.bqWrite]
  refine Dev.KeepsPriv.trans ?_ (.of_regs (Dev.bqThresh_regs_of_ring _ hb) (Dev.plat_bqThresh_of_ring _ hb))
  exact (hstore _ _).trans (.of_regs (Dev.bqSet_regs _ _ _) (Dev.bqSet_plat _ _ _))

theorem Dev.keepsPriv_bqPush_ring {b : Nat} (hb : b < 1536) (x : Item) : d.KeepsPriv (d.bqPush b x) := by
  have hset (s : BqSt) : d.KeepsPriv (d.bqSet b s) := .of_regs (d.bqSet_regs b s) (d.bqSet_plat b s)
  rw [Dev.bqPush]
  split
  · exact (hset _).trans (Dev.keepsPriv_bqWrite_ring _ hb x)
  · exact hset _

theorem Dev.keepsPriv_postEvent {b : Nat} (hb : b < 1536) (evt dom frame e0 e1 : Nat) :
    d.KeepsPriv (d.postEvent b evt dom frame e0 e1) := by
  have hpush (e : Dev) (x : Item) : e.KeepsPriv (e.bqPush b x) := e.keepsPriv_bqPush_ring hb x
  have hset (e : Dev) (s : BqSt) : e.KeepsPriv (e.bqSet b s) := .of_regs (e.bqSet_regs b s) (e.bqSet_plat b s)
  refine Dev.KeepsPriv.trans ?_ (.of_regs (Dev.count_regs _ _ _ _ _) (Dev.count_plat _ _ _ _ _))
  refine Dev.KeepsPriv.trans ?_ (hset _ _)
  exact (((hset _ _).trans (hpush _ _)).trans (hpush _ _)).trans (hpush _ _)

theorem Dev.keepsPriv_postOrDrop (en : Bool) (b evt dom frame e0 : Nat) : d.KeepsPriv (d.postOrDrop en b evt dom frame e0) := by
  unfold Dev.postOrDrop
  split
  next hroom =>
    simp only [Dev.eventRoom, Bool.and_eq_true, decide_eq_true_eq] at hroom
    obtain ⟨-, ⟨⟨⟨hb, -⟩, -⟩, -⟩, -⟩ := hroom
    exact d.keepsPriv_postEvent hb evt dom frame e0 0
  next => exact d.keepsPriv_wr (by decide) _

theorem Dev.keepsPriv_firstCapture (page bit : Nat) (priv : Bool) (dom : Option Nat) (sev time : Nat) :
    d.KeepsPriv (d.firstCapture page bit priv dom sev time) := by
  have hwr (e : Dev) {F : Fld} (v : Nat) (hF : F.besidePriv Pg.fault) : e.KeepsPriv (e.wr Pg.fault F v) := e.keepsPriv_wr hF v
  unfold Dev.firstCapture
  split
  · exact (hwr _ _ (by decide)).trans (hwr _ _ (by decide))
  · refine Dev.KeepsPriv.trans ?_ (hwr _ _ (by decide))
    refine Dev.KeepsPriv.trans ?_ (hwr _ _ (by decide))
    refine Dev.KeepsPriv.trans ?_ (Dev.keepsPriv_hit _ (by decide) 1)
    exact (((((hwr _ _ (by decide)).trans (hwr _ _ (by decide))).trans (hwr _ _ (by decide))).trans
      (hwr _ _ (by decide))).trans (hwr _ _ (by decide))).trans (hwr _ _ (by decide))

theorem Dev.keepsPriv_recordQ (typ sev : Nat) (inj : Bool) (body : List Nat) (key : Option (Nat × Nat)) (priv : Bool) :
    d.KeepsPriv (d.recordQ typ sev inj body key priv).2 := by
  unfold Dev.recordQ
  split
  · exact .of_regs rfl rfl
  split
  · exact d.keepsPriv_wr (by decide) _
  · exact .of_regs rfl rfl

/-- The platform as before, and PRIV_STAT as the occurrence's own bit leaves it. -/
theorem Dev.keepsPriv_privNoted (i pg : Nat) (inj : Bool) : (d.hit Pg.fault Reg.FAULT.PRIV_STAT (2 ^ i)).KeepsPriv (d.privNoted i pg inj) := by
  have hfirst := (d.hit Pg.fault Reg.FAULT.PRIV_STAT (2 ^ i)).keepsPriv_firstCapture (pg / 4096) i true none 0 d.fs
  have hrec := hfirst.trans (Dev.keepsPriv_recordQ _ 3 0 inj ([i + d.privReact i * 8] ++ timeWords d.fs) none true)
  unfold Dev.privNoted
  dsimp only
  split
  next hq =>
    rw [hq] at hrec
    exact hrec.trans (Dev.keepsPriv_postOrDrop _ _ _ _ _ _ _)
  next hq => rwa [hq] at hrec

theorem Dev.keepsPriv_privReactions (i react : Nat) : d.KeepsPriv (d.privReactions i react) := by
  have hmsix := (Dev.KeepsPriv.of_regs rfl rfl).then_if (p := bitAt react 0) (d.keepsPriv_msix 0)
  have hnmi := hmsix.then_if (p := bitAt react 1) (.of_regs (Dev.emit_regs _ .nmi) (Dev.emit_plat _ .nmi))
  unfold Dev.privReactions
  refine Dev.KeepsPriv.then_if ?_ (Dev.keepsPriv_wr _ (by decide) 0)
  refine Dev.KeepsPriv.then_if ?_ (.of_regs rfl rfl)
  exact hnmi.then_if (Dev.keepsPriv_withFlt_wr _ (by decide) _ 0)

theorem Dev.keepsPriv_privOccurs (i pg : Nat) (inj : Bool) : (d.hit Pg.fault Reg.FAULT.PRIV_STAT (2 ^ i)).KeepsPriv (d.privOccurs i pg inj) :=
  (d.keepsPriv_privNoted i pg inj).trans (Dev.keepsPriv_privReactions _ _ _)

/-- A privileged source that occurs shows its bit. -/
theorem Dev.bitAt_privStat_privOccurs {i : Nat} (hi : i < 8) (pg : Nat) (inj : Bool) :
    bitAt ((d.privOccurs i pg inj).rd Pg.fault Reg.FAULT.PRIV_STAT) i = true := by
  rw [(d.keepsPriv_privOccurs i pg inj).stat, Dev.bitAt_rd_hit d _ _ _ 0 (by decide) hi]
  simp [bitAt]

theorem Dev.plat_privOccurs (i pg : Nat) (inj : Bool) : (d.privOccurs i pg inj).plat = d.plat := (d.keepsPriv_privOccurs i pg inj).plat

end

/-! ### Supplies and temperature (R404, R418) -/

theorem Dev.monitorSample_of_none_out (d : Dev) (mv : List Nat) : d.monitorSample mv 0 = d := by
  simp [Dev.monitorSample, bitAt]

theorem Dev.monitorSample_of_high {d : Dev} {mv : List Nat} {out i : Nat} (hi : i < 8) (hout : out.testBit i = true)
    (hhigh : 108 * d.railNominal i < 100 * mv.getD i 0) : d.monitorSample mv out = d.privOccurs 0 Pg.power :=
  if_pos (List.any_eq_true.mpr ⟨i, List.mem_range.mpr hi, by
    dsimp only
    rw [bitAt, hout, decide_eq_true hhigh, Bool.or_true, Bool.and_true]⟩)

/-- The readings of a rail are shown, and it answers again. -/
def Dev.railRead (d : Dev) (rail : Nat) (r : PmbusReply) : Dev :=
  ((d.plat_ (fun p => { p with pmbFail := Tab.set p.pmbFail rail 0 0 })).wr Pg.power Reg.POWER.V r.vout.toNat rail).wr Pg.power
    Reg.POWER.I r.iout.toNat rail

theorem Dev.pmbusPoll_of_reply {r : PmbusReply} (hgood : r.faulted = false) (d : Dev) (rail : Nat) :
    d.pmbusPoll rail (some r) = d.railRead rail r := by
  simp only [Dev.pmbusPoll, hgood, Bool.false_eq_true, if_false]
  rfl

theorem Dev.railRead_frame (d : Dev) (rail : Nat) (r : PmbusReply) :
    d.railRead rail r = { d with regs := (d.railRead rail r).regs, plat := (d.railRead rail r).plat } := by
  obtain ⟨regs, hframe⟩ := ((Dev.RegFrame.refl (d.plat_ (fun p => { p with pmbFail := Tab.set p.pmbFail rail 0 0 }))).wr Pg.power
    Reg.POWER.V r.vout.toNat rail).wr Pg.power Reg.POWER.I r.iout.toNat rail
  rw [Dev.railRead, hframe]
  rfl

/-- Voltage and current of a rail are the halves of one word. -/
theorem Dev.rd_railRead (d : Dev) (rail : Nat) (r : PmbusReply) :
    (d.railRead rail r).rd Pg.power Reg.POWER.V rail = r.vout.toNat ∧ (d.railRead rail r).rd Pg.power Reg.POWER.I rail = r.iout.toNat := by
  constructor
  · rw [Dev.railRead, Dev.rd_wr_disjoint _ (F := Reg.POWER.I) (G := Reg.POWER.V) _ rfl (by decide) (by decide),
      Dev.rd_wr_same _ _ _ _ _ (by decide)]
    exact Nat.mod_eq_of_lt r.vout.isLt
  · rw [Dev.railRead, Dev.rd_wr_same _ _ _ _ _ (by decide)]
    exact Nat.mod_eq_of_lt r.iout.isLt

/-- A rail whose regulator failed to answer. -/
def Dev.railFailed (d : Dev) (rail n : Nat) : Dev := d.plat_ (fun p => { p with pmbFail := Tab.set p.pmbFail rail n 0 })

theorem Dev.pmbusPoll_of_third_failure {d : Dev} {rail : Nat} (h : Tab.get d.plat.pmbFail rail 0 = 2) :
    d.pmbusPoll rail none = ((d.railFailed rail 3).hit Pg.power Reg.POWER.PMB_ERR).plat_ (fun p => { p with estOnly := true }) := by
  simp only [Dev.pmbusPoll, h]
  rfl

theorem Dev.thermtrip_eq (d : Dev) :
    d.thermtrip = { d with plat := { d.plat with trip := true }, out := .pin "THERMTRIP_L" 0 :: d.out } := by
  have hnone (e : Dev) : (if e.noPcie then e.tunRequests (.pin "THERMTRIP_L" 0) else []) = [] := ite_self _
  simp only [Dev.thermtrip, Dev.emit, hnone, List.isEmpty_nil, if_true]
  rfl

/-! ### GOVERNOR_MEASURE (R416) -/

/-- The field's word is not that of the junction sensors. -/
abbrev Fld.besideTj (F : Fld) : Prop := (Pg.power + F.off + F.stride * 0) / 4 ≠ (Pg.power + 0x60) / 4

theorem Dev.rd_junction (d : Dev) (tj : List Int) {F : Fld} (hF : F.besideTj) : (d.junction tj).rd Pg.power F = d.rd Pg.power F := by
  unfold Dev.junction
  split
  · rfl
  · rw [Dev.rd_wr_other _ _ hF, Dev.rd_wr_other _ _ hF]

theorem Dev.regFrame_junction (d : Dev) (tj : List Int) : d.RegFrame (d.junction tj) := by
  unfold Dev.junction
  split
  · exact .refl d
  · exact ((Dev.RegFrame.refl d).wr _ _ _ _).wr _ _ _ _

/-- TJ shows the hottest sensor. -/
theorem Dev.tj_junction (d : Dev) {tj : List Int} (hsome : tj ≠ []) (hcool : ∀ t ∈ tj, 0 ≤ t ∧ t < 60) :
    (d.junction tj).rd Pg.power Reg.POWER.TJ < 60 := by
  cases tj with
  | nil => exact absurd rfl hsome
  | cons t r =>
    have hmax : 0 ≤ r.foldl max t ∧ r.foldl max t < 60 :=
      List.foldlRecOn (motive := fun m => 0 ≤ m ∧ m < 60) r max (hcool t List.mem_cons_self) (fun m hm x hx => by
        have hx60 := hcool x (List.mem_cons_of_mem _ hx)
        omega)
    rw [Dev.junction, Dev.rd_wr_disjoint _ (F := Reg.POWER.TJ_PEAK) (G := Reg.POWER.TJ) _ rfl (by decide) (by decide),
      Dev.rd_wr_same _ _ _ _ _ (by decide)]
    refine lt_of_le_of_lt (Nat.mod_le _ _) ?_
    omega

theorem Dev.hotter_of_le {d : Dev} {lim : Nat} (h : d.rd Pg.power Reg.POWER.TJ ≤ lim) : d.hotter lim = false := by
  simp only [Dev.hotter, decide_eq_false_iff_not]
  omega

/-- Sensors and measured power are shown. -/
def Dev.measured (d : Dev) (p : Nat) (tj : List Int) : Dev := (d.junction tj).wr Pg.power Reg.POWER.P_NOW p

section
variable (d : Dev) (p : Nat) (tj : List Int)

theorem Dev.regFrame_measured : d.RegFrame (d.measured p tj) := (d.regFrame_junction tj).wr _ _ _ _

theorem Dev.rd_measured {F : Fld} (hF : F.besideTj)
    (hnow : (Pg.power + F.off + F.stride * 0) / 4 ≠ (Pg.power + Reg.POWER.P_NOW.off + Reg.POWER.P_NOW.stride * 0) / 4) :
    (d.measured p tj).rd Pg.power F = d.rd Pg.power F := by
  rw [Dev.measured, Dev.rd_wr_other _ _ hnow, Dev.rd_junction _ _ hF]

theorem Dev.capping_measured : (d.measured p tj).flag Pg.power Reg.POWER.CAPPING = d.flag Pg.power Reg.POWER.CAPPING := by
  rw [Dev.flag, Dev.flag, Dev.measured, Dev.rd_wr_disjoint _ _ (by decide) (by decide) (by decide), Dev.rd_junction _ _ (by decide)]

theorem Dev.rd_setCredit (c : Nat) {F : Fld}
    (hF : (Pg.power + F.off + F.stride * 0) / 4 ≠ (Pg.power + Reg.POWER.CREDIT.off + Reg.POWER.CREDIT.stride * 0) / 4) :
    (d.setCredit c).rd Pg.power F = d.rd Pg.power F := Dev.rd_wr_other _ _ hF

theorem Dev.capping_setCredit (c : Nat) : (d.setCredit c).flag Pg.power Reg.POWER.CAPPING = d.flag Pg.power Reg.POWER.CAPPING := by
  rw [Dev.flag, Dev.flag, d.rd_setCredit c (by decide)]

end

/-- A measurement of a cool device that is not capping, while the credit lasts: the credit grows by what the power stays below the cap. -/
theorem Dev.governorMeasure_of_cool {d : Dev} {p c : Nat} {tj : List Int} (hcool : ∀ t ∈ tj, 0 ≤ t ∧ t < 60) (hsome : tj ≠ [])
    (hthr : 60 ≤ d.rd Pg.power Reg.POWER.T_THR) (htrip : 61 ≤ d.rd Pg.power Reg.POWER.T_TRIP)
    (hcap : d.flag Pg.power Reg.POWER.CAPPING = false)
    (hc : c = min (1000 * d.rd Pg.power Reg.POWER.CREDIT_MAX) (d.plat.credit + 100 * d.rd Pg.power Reg.POWER.P_CAP - p)) (hpos : 0 < c) :
    d.governorMeasure p tj = (d.measured p tj).setCredit c := by
  have htj : (d.measured p tj).rd Pg.power Reg.POWER.TJ < 60 := by
    rw [Dev.measured, Dev.rd_wr_other _ _ (by decide)]
    exact d.tj_junction hsome hcool
  have hno_trip : (d.measured p tj).hotter ((d.measured p tj).rd Pg.power Reg.POWER.T_TRIP - 1) = false := by
    rw [Dev.rd_measured _ _ _ (by decide) (by decide)]
    exact Dev.hotter_of_le (by omega)
  have hno_thr : (d.measured p tj).hotter ((d.measured p tj).rd Pg.power Reg.POWER.T_THR) = false := by
    rw [Dev.rd_measured _ _ _ (by decide) (by decide)]
    exact Dev.hotter_of_le (by omega)
  have hcredit : (d.measured p tj).plat.credit = d.plat.credit := by
    obtain ⟨r, hframe⟩ := d.regFrame_measured p tj
    rw [hframe]
  have hflag : ((d.measured p tj).setCredit c).flag Pg.power Reg.POWER.CAPPING = false := by
    rw [Dev.capping_setCredit, Dev.capping_measured, hcap]
  have hne : (c == 0) = false := beq_false_of_ne hpos.ne'
  unfold Dev.governorMeasure
  dsimp only
  rw [← Dev.measured, hno_trip, Bool.and_false, if_neg Bool.false_ne_true, hno_thr, if_neg Bool.false_ne_true,
    Dev.rd_measured _ _ _ (by decide) (by decide), Dev.rd_measured _ _ _ (by decide) (by decide), hcredit, ← hc, hflag, hne]
  simp only [Bool.false_and, Bool.and_false, Bool.false_eq_true, if_false, hflag, Bool.not_false, Bool.true_or, if_true]

/-! ### GOVERNOR_WINDOW (R417) -/

/-- Domain `m` is not held in the next window. -/
def Dev.unheld (d : Dev) (m : Nat) : Dev :=
  { d.wr Pg.power Reg.POWER.H 0 m with hold := { d.hold with win := Tab.set d.hold.win m 0 0 } }

/-- A new window, in which no limit is reached so far. -/
def Dev.windowOpened (d : Dev) : Dev := (d.wr Pg.power Reg.POWER.AT_FLOOR 0).wr Pg.power Reg.POWER.THROTTLING 0

theorem Dev.regFrame_windowOpened (d : Dev) : d.RegFrame d.windowOpened := ((Dev.RegFrame.refl d).wr _ _ _ _).wr _ _ _ _

theorem Dev.flag_windowOpened (d : Dev) : d.windowOpened.flag Pg.power Reg.POWER.AT_FLOOR = false ∧
    d.windowOpened.flag Pg.power Reg.POWER.THROTTLING = false := by
  constructor
  · rw [Dev.windowOpened, Dev.flag_wr_disjoint (F := Reg.POWER.THROTTLING) (G := Reg.POWER.AT_FLOOR) _ _ rfl (by decide) (by decide),
      Dev.flag_wr_zero _ _ (by decide)]
  · rw [Dev.windowOpened, Dev.flag_wr_zero _ _ (by decide)]

theorem Dev.governorWindow_of_not_capping {d : Dev} (hcap : d.flag Pg.power Reg.POWER.CAPPING = false) :
    d.governorWindow = (List.range 4).foldl Dev.unheld d.windowOpened := by
  simp only [Dev.governorWindow, hcap, Bool.false_and, Bool.false_eq_true, if_false]
  rfl

theorem Dev.win_unheld (d : Dev) (m : Nat) : (d.unheld m).hold.win = Tab.set d.hold.win m 0 0 := rfl

/-- From `d` to `e` the first `n` domains are not held in the next window; only registers and hold windows changed, and of the POWER page
the words of the hold cycles alone. -/
structure Dev.NotHeld (n : Nat) (d e : Dev) : Prop where
  frame : ∃ r x, e = { d with regs := r, hold := x }
  keeps : ∀ F : Fld, F.off = 0x4C → F.stride = 0 → e.rd Pg.power F = d.rd Pg.power F
  cycles : ∀ m < n, e.rd Pg.power Reg.POWER.H m = 0
  win : ∀ m < n, Tab.get e.hold.win m 0 = 0

theorem Dev.NotHeld.unheld {n : Nat} {d e : Dev} (h : Dev.NotHeld n d e) : Dev.NotHeld (n + 1) d (e.unheld n) := by
  obtain ⟨⟨r, x, hframe⟩, hkeeps, hcycles, hwin⟩ := h
  refine ⟨⟨(e.unheld n).regs, (e.unheld n).hold, by rw [hframe]; rfl⟩, fun F hoff hstride => ?_, fun m hm => ?_, fun m hm => ?_⟩
  · refine Eq.trans (Dev.rd_wr_other e 0 ?_) (hkeeps F hoff hstride)
    rw [hoff, hstride]
    simp only [Reg.POWER.H]
    omega
  · rcases Nat.lt_succ_iff_lt_or_eq.mp hm with hlt | rfl
    · exact (Dev.rd_wr_other e 0 (by simp only [Reg.POWER.H]; omega)).trans (hcycles m hlt)
    · exact (Dev.rd_wr_same e _ _ _ _ (by decide)).trans rfl
  · rcases Nat.lt_succ_iff_lt_or_eq.mp hm with hlt | rfl
    · rw [Dev.win_unheld, Tab.get_set_other _ _ _ _ hlt.ne, hwin m hlt]
    · rw [Dev.win_unheld, Tab.get_set_same]

theorem Dev.NotHeld.frame_of_regFrame {n : Nat} {d e f : Dev} (h : Dev.NotHeld n e f) (hregs : d.RegFrame e) :
    f = { d with regs := f.regs, hold := f.hold } := by
  obtain ⟨r, x, rfl⟩ := h.frame
  obtain ⟨r', rfl⟩ := hregs
  rfl

theorem Dev.notHeld_foldl (d : Dev) : ∀ n, Dev.NotHeld n d ((List.range n).foldl Dev.unheld d)
  | 0 => ⟨⟨_, _, rfl⟩, fun _ _ _ => rfl, fun _ h => absurd h (Nat.not_lt_zero _), fun _ h => absurd h (Nat.not_lt_zero _)⟩
  | n + 1 => by
    rw [List.range_succ, List.foldl_append]
    exact (Dev.notHeld_foldl d n).unheld

/-! ### Security violations (R425) -/

theorem Dev.securityEvent_noted {d : Dev} {why : SecViolation} (hlocked : why = .jtagLocked → d.plat.fuse.life = 2) :
    bitAt ((d.securityEvent why).rd Pg.fault Reg.FAULT.PRIV_STAT) 4 = true := by
  have hnoted (e : Dev) : bitAt ((e.privOccurs 4 Pg.security).rd Pg.fault Reg.FAULT.PRIV_STAT) 4 = true :=
    e.bitAt_privStat_privOccurs (by decide) _ _
  cases why with
  | jtagLocked => rw [Dev.securityEvent, if_pos (hlocked rfl)]; exact hnoted _
  | unwrapFailure => exact hnoted _
  | trngHealth => exact hnoted _
  | fuseReadBack => exact hnoted _
  | glitch => exact hnoted _

theorem Dev.idBad_securityEvent (d : Dev) : (d.securityEvent .unwrapFailure).plat.idBad = true := by
  rw [Dev.securityEvent, Dev.plat_privOccurs]
  rfl

/-! ### ATTEST (R426) -/

theorem Dev.cmdOf_of_cmdBegin {d : Dev} {r opc : Nat} {c : RingCmd} (h : d.cmdBegin r opc = some c) : d.cmdOf r = some c := by
  unfold Dev.cmdBegin at h
  split at h
  next c' hc' =>
    split at h
    · rwa [← Option.some.inj h]
    · exact absurd h (by simp)
  · exact absurd h (by simp)

section
variable {d : Dev} {r : Nat} {c : RingCmd} (hbegin : d.cmdBegin r 8 = some c) (hlife : d.plat.fuse.life = 1 ∨ d.plat.fuse.life = 2)
include hbegin hlife

theorem Dev.cmdAttest_of_key_bad (hkey : d.plat.idBad = true) : d.cmdAttest r = d.cmdDone r 0x41 0 0 := by
  simp only [Dev.cmdAttest, hbegin, hkey, if_true]
  exact if_neg (by omega)

theorem Dev.cmdAttest_of_key_good (hkey : d.plat.idBad = false) : d.cmdAttest r = d.setCmd r (some { c with stage := 1 }) := by
  simp only [Dev.cmdAttest, hbegin, hkey, Bool.false_eq_true, if_false]
  exact if_neg (by omega)

end

/-- The only element that a partial function keeps of a range. -/
theorem filterMap_range_of_only {α : Type} {f : Nat → Option α} {r : Nat} {c : α} (hr : f r = some c) (hother : ∀ i, i ≠ r → f i = none) :
    ∀ n, (List.range n).filterMap f = if r < n then [c] else []
  | 0 => by simp
  | n + 1 => by
    rw [List.range_succ, List.filterMap_append, filterMap_range_of_only hr hother n]
    rcases lt_trichotomy r n with h | rfl | h
    · simp [h, Nat.lt_succ_of_lt h, hother n h.ne']
    · simp [hr]
    · simp [h.not_gt, hother n h.ne, show ¬ r < n + 1 by omega]

theorem Dev.hp_postAll : ∀ (fuel : Nat) (d : Dev) (a : Nat) (bs : List Byte), (d.postAll a bs fuel).hp = d.hp
  | 0, _, _, _ => rfl
  | fuel + 1, d, a, bs => by
    cases bs with
    | nil => rfl
    | cons b bs =>
      rw [Dev.postAll, Dev.hp_postAll fuel]
      · exact Dev.emit_hp _ _
      · exact List.cons_ne_nil b bs

theorem Dev.cmdOf_postAll (d : Dev) (a : Nat) (bs : List Byte) (fuel r : Nat) : (d.postAll a bs fuel).cmdOf r = d.cmdOf r := by
  rw [Dev.cmdOf, Dev.hp_postAll, ← Dev.cmdOf]

theorem Dev.attestWrite_of_only_waiter {d : Dev} {r : Nat} {c : RingCmd} (hr : r < 64) (hwaits : d.cmdWaits r 8 = some c)
    (hother : ∀ r', r' ≠ r → d.cmdWaits r' 8 = none) (hready : d.flag Pg.score Reg.SCORE.READY = true) (hkey : d.ldr.keyValid = true)
    (hawake : d.hp.cfg.d3hot = false) :
    d.attestWrite false = (d.postAll (c.field 56 8) (d.attestReport ((c.bytes.drop 24).take 32)) 512).cmdDone r 0 0 512 := by
  have honly : (List.range 64).filterMap (fun i => (d.cmdWaits i 8).map (fun c => (i, c))) = [(r, c)] :=
    (filterMap_range_of_only (c := (r, c)) (by rw [hwaits]; rfl) (fun i hi => by rw [hother i hi]; rfl) 64).trans (if_pos hr)
  simp only [Dev.attestWrite, honly, List.foldl_cons, List.foldl_nil, hready, hkey, hawake, Bool.not_true, Bool.or_self,
    Bool.false_eq_true, if_false]

/-! ### OPSEC_TICK (R419) -/

/-- The seconds of operation, and those that wear, one further. -/
def Dev.secondCounted (d : Dev) (wear : Nat) : Dev :=
  if 500 < wear then (d.wr Pg.score Reg.SCORE.OPSEC (d.rd Pg.score Reg.SCORE.OPSEC + 1)).wr Pg.journal Reg.JOURNAL.WEAR
    (d.rd Pg.journal Reg.JOURNAL.WEAR + 1)
  else d.wr Pg.score Reg.SCORE.OPSEC (d.rd Pg.score Reg.SCORE.OPSEC + 1)

theorem Dev.regFrame_secondCounted (d : Dev) (wear : Nat) : d.RegFrame (d.secondCounted wear) := by
  have hwr := (Dev.RegFrame.refl d).wr Pg.score Reg.SCORE.OPSEC (d.rd Pg.score Reg.SCORE.OPSEC + 1) 0
  unfold Dev.secondCounted
  split
  · exact hwr.wr _ _ _ _
  · exact hwr

theorem Dev.wear_secondCounted {d : Dev} (wear : Nat) (hroom : d.rd Pg.journal Reg.JOURNAL.WEAR < 2 ^ 32 - 1) :
    (d.secondCounted wear).rd Pg.journal Reg.JOURNAL.WEAR = d.rd Pg.journal Reg.JOURNAL.WEAR + (if 500 < wear then 1 else 0) := by
  unfold Dev.secondCounted
  split
  · rw [Dev.rd_wr_same _ _ _ _ _ (by decide)]
    refine Nat.mod_eq_of_lt ?_
    simp only [Reg.JOURNAL.WEAR] at hroom ⊢
    omega
  · exact Dev.rd_wr_other _ _ (by decide)

theorem Dev.opsecTick_of_due {d : Dev} {wear : Nat} (hready : d.flag Pg.journal Reg.JOURNAL.READY = true)
    (hdue : d.sco.secAt + usCycles 1000000 ≤ d.cycle) :
    d.opsecTick wear = { d.secondCounted wear with sco := { (d.secondCounted wear).sco with secAt := d.sco.secAt + usCycles 1000000 } } := by
  rw [Dev.opsecTick, hready, decide_eq_false (Nat.not_lt.mpr hdue)]
  rfl

/-! ### Trigger inputs (R420, R421) -/

/-- From `d` to `e` only registers and the platform changed. -/
def Dev.PlatFrame (d e : Dev) : Prop := ∃ r p, e = { d with regs := r, plat := p }

theorem Dev.PlatFrame.wr {d e : Dev} (h : d.PlatFrame e) (base : Nat) (F : Fld) (v i : Nat) : d.PlatFrame (e.wr base F v i) := by
  obtain ⟨r, p, rfl⟩ := h
  exact ⟨_, p, rfl⟩

theorem Dev.PlatFrame.trgSet {d e : Dev} (h : d.PlatFrame e) (i : Nat) (t : TrgSt) : d.PlatFrame (e.trgSet i t) := by
  obtain ⟨r, p, rfl⟩ := h
  exact ⟨_, _, rfl⟩

theorem Dev.PlatFrame.eq {d e : Dev} (h : d.PlatFrame e) : e = { d with regs := e.regs, plat := e.plat } := by
  obtain ⟨r, p, rfl⟩ := h
  rfl

section
variable (d : Dev) (i : Nat) (t : TrgSt)

theorem Dev.trgGet_trgSet : (d.trgSet i t).trgGet i = t := Tab.get_set_same _ _ _ _

/-- The state of an input shows in the word of PENDING alone. -/
theorem Dev.rd_trgSet {base : Nat} {F : Fld} {j : Nat} (h : (base + F.off + F.stride * j) / 4 ≠ (Pg.pins + 0x6C + 16 * i) / 4) :
    (d.trgSet i t).rd base F j = d.rd base F j := Dev.rd_wr_other _ _ h

/-- LEVEL and STUCK stand below PENDING in its word. -/
theorem Dev.flag_trgSet {F : Fld} (hoff : F.off = 0x6C) (hstride : F.stride = 16) (hlo : F.lo + F.w ≤ 2) :
    (d.trgSet i t).flag Pg.pins F i = d.flag Pg.pins F i := by
  rw [Dev.flag, Dev.flag, Dev.trgSet, Dev.rd_wr_disjoint _ (F := Reg.PINS.PENDING) (G := F) _ (by rw [hoff, hstride]; rfl) (by decide)
    (.inl hlo)]
  rfl

/-- Input `i` stands high from now on. -/
def Dev.trgRose : Dev := (d.wr Pg.pins Reg.PINS.LEVEL 1 i).trgSet i { d.trgGet i with since := d.cycle }

theorem Dev.rd_trgRose {base : Nat} {F : Fld} {j : Nat} (h : (base + F.off + F.stride * j) / 4 ≠ (Pg.pins + 0x6C + 16 * i) / 4) :
    (d.trgRose i).rd base F j = d.rd base F j := by
  rw [Dev.trgRose, Dev.rd_trgSet _ _ _ h]
  exact Dev.rd_wr_other _ _ h

theorem Dev.rd_pins_trgRose {F : Fld} (hF : 0x60 ≤ F.off ∧ F.off < 0x6C ∧ F.stride = 16) :
    (d.trgRose i).rd Pg.pins F i = d.rd Pg.pins F i := by
  obtain ⟨hlo, hhi, hstride⟩ := hF
  exact Dev.rd_trgRose _ _ (by rw [hstride]; simp only [Pg.pins]; omega)

theorem Dev.dstate_trgRose (m : Nat) : (d.trgRose i).dstate m = d.dstate m :=
  Dev.rd_trgRose _ _ (by simp only [Reg.LDOM.STATE, Pg.ldom, Pg.pins]; omega)

theorem Dev.trgRec_trgRose (hi : i < 4) : (d.trgRose i).rd Pg.score Reg.SCORE.TRG_REC = d.rd Pg.score Reg.SCORE.TRG_REC :=
  Dev.rd_trgRose _ _ (by simp only [Reg.SCORE.TRG_REC, Pg.score, Pg.pins]; omega)

theorem Dev.level_trgRose : (d.trgRose i).flag Pg.pins Reg.PINS.LEVEL i = true := by
  rw [Dev.trgRose, Dev.flag_trgSet _ _ _ rfl rfl (by decide), Dev.flag, Dev.rd_wr_same _ _ _ _ _ (by decide)]
  rfl

theorem Dev.trgGet_trgRose : (d.trgRose i).trgGet i = { d.trgGet i with since := d.cycle } := Dev.trgGet_trgSet _ _ _

end

section
variable {d : Dev} {i : Nat} (hstep : 3 ≤ d.plat.step)
  (hhigh : d.flag Pg.pins Reg.PINS.ACT_LOW i = false)

include hhigh in
theorem Dev.trgActive_trgRose : (d.trgRose i).trgActive i = true := by
  have hkept : (d.trgRose i).flag Pg.pins Reg.PINS.ACT_LOW i = false := by
    rw [Dev.flag, Dev.rd_trgRose _ _ (by simp only [Reg.PINS.ACT_LOW]; omega), ← Dev.flag, hhigh]
  rw [Dev.trgActive, Dev.level_trgRose, hkept]
  rfl

variable (hfree : d.flag Pg.pins Reg.PINS.STUCK i = false) (hedges : bitAt (d.rd Pg.pins Reg.PINS.EDGES i) 0 = true)
include hstep hhigh hfree hedges

theorem Dev.trgEdge_selects : ¬(decide (d.plat.step < 3) || d.flag Pg.pins Reg.PINS.STUCK i ||
    !bitAt (d.rd Pg.pins Reg.PINS.EDGES i) (if (d.trgRose i).trgActive i then 0 else 1)) = true := by
  rw [Dev.trgActive_trgRose hhigh, hfree, if_pos rfl, hedges, decide_eq_false (Nat.not_lt.mpr hstep)]
  decide

variable (hlevel : d.flag Pg.pins Reg.PINS.LEVEL i = false)
include hlevel

theorem Dev.trgEdge_of_first (hfirst : (d.trgGet i).acceptAt = none) : d.trgEdge i true = (d.trgRose i).trgAccept i true := by
  rw [Dev.trgEdge, if_neg (by rw [hlevel]; decide)]
  refine (if_neg (Dev.trgEdge_selects hstep hhigh hfree hedges)).trans ?_
  split
  next t hlast => exact absurd (hlast.symm.trans hfirst) (by simp)
  next => exact congrArg ((d.trgRose i).trgAccept i) (Dev.trgActive_trgRose hhigh)

theorem Dev.trgEdge_of_soon {t : Nat} (hlast : (d.trgGet i).acceptAt = some t) (hsoon : d.cycle < t + usCycles 1000) :
    d.trgEdge i true = (d.trgRose i).trgOverrun i := by
  rw [Dev.trgEdge, if_neg (by rw [hlevel]; decide)]
  refine (if_neg (Dev.trgEdge_selects hstep hhigh hfree hedges)).trans ?_
  split
  next t' hlast' =>
    obtain rfl : t = t' := Option.some.inj (hlast.symm.trans hlast')
    exact if_pos hsoon
  next hfirst => exact absurd (hlast.symm.trans hfirst) (by simp)

end

/-! An accepted edge -/

/-- An edge of input `i` is accepted now. -/
def Dev.trgCounted (d : Dev) (i : Nat) : Dev :=
  (d.bump Pg.pins Reg.PINS.ACCEPT_CNT 1 i).trgSet i { d.trgGet i with acceptAt := some d.cycle }

theorem Dev.trgGet_trgCounted (d : Dev) (i : Nat) : (d.trgCounted i).trgGet i = { d.trgGet i with acceptAt := some d.cycle } :=
  Dev.trgGet_trgSet _ _ _

/-- The edge's token waits for its place in the queue. -/
def Dev.trgTokenWaits (d : Dev) (i : Nat) (rising : Bool) : Dev :=
  d.trgSet i { d.trgGet i with pend := (d.trgGet i).pend ++ [rising] }

theorem Dev.trgAccept_of_room {d : Dev} {i : Nat} (hrec : bitAt (d.rd Pg.score Reg.SCORE.TRG_REC) i = false)
    (htok : d.flag Pg.pins Reg.PINS.TOK_EN i = true) (hrun : d.dstate (d.rd Pg.pins Reg.PINS.DOM i) = stRUNNING)
    (hroom : (d.trgGet i).pend.length < 4) (rising : Bool) : d.trgAccept i rising = (d.trgCounted i).trgTokenWaits i rising := by
  have hroom' : ¬ 4 ≤ ((d.trgCounted i).trgGet i).pend.length := by rw [Dev.trgGet_trgCounted]; exact Nat.not_le.mpr hroom
  unfold Dev.trgAccept
  dsimp only
  rw [hrec, htok, hrun, if_neg Bool.false_ne_true, ← Dev.trgCounted, if_neg (by decide), if_neg hroom', Dev.trgTokenWaits]

theorem Dev.acceptCnt_trgCounted (d : Dev) (i : Nat) :
    (d.trgCounted i).rd Pg.pins Reg.PINS.ACCEPT_CNT i = min (d.rd Pg.pins Reg.PINS.ACCEPT_CNT i + 1) (2 ^ 16 - 1) := by
  rw [Dev.trgCounted, Dev.rd_trgSet _ _ _ (by simp only [Reg.PINS.ACCEPT_CNT]; omega), Dev.bump, Dev.rd_wr_same _ _ _ _ _ (by decide)]
  exact Nat.mod_eq_of_lt (by simp only [Reg.PINS.ACCEPT_CNT]; omega)

theorem Dev.level_trgCounted (d : Dev) (i : Nat) :
    (d.trgCounted i).flag Pg.pins Reg.PINS.LEVEL i = d.flag Pg.pins Reg.PINS.LEVEL i := by
  rw [Dev.trgCounted, Dev.flag_trgSet _ _ _ rfl rfl (by decide), Dev.flag, Dev.bump,
    Dev.rd_wr_other _ _ (by simp only [Reg.PINS.LEVEL, Reg.PINS.ACCEPT_CNT, Pg.pins]; omega), ← Dev.flag]

theorem Dev.level_trgTokenWaits (d : Dev) (i : Nat) (rising : Bool) :
    (d.trgTokenWaits i rising).flag Pg.pins Reg.PINS.LEVEL i = d.flag Pg.pins Reg.PINS.LEVEL i := Dev.flag_trgSet _ _ _ rfl rfl (by decide)

theorem Dev.acceptCnt_trgTokenWaits (d : Dev) (i : Nat) (rising : Bool) :
    (d.trgTokenWaits i rising).rd Pg.pins Reg.PINS.ACCEPT_CNT i = d.rd Pg.pins Reg.PINS.ACCEPT_CNT i :=
  Dev.rd_trgSet _ _ _ (by simp only [Reg.PINS.ACCEPT_CNT, Pg.pins]; omega)

theorem Dev.platFrame_trgRose (d : Dev) (i : Nat) : d.PlatFrame (d.trgRose i) := Dev.PlatFrame.trgSet (.wr ⟨_, _, rfl⟩ _ _ _ _) _ _

theorem Dev.PlatFrame.trgCounted {d e : Dev} (h : d.PlatFrame e) {i : Nat} : d.PlatFrame (e.trgCounted i) := (h.wr _ _ _ _).trgSet _ _

theorem Dev.PlatFrame.trgTokenWaits {d e : Dev} (h : d.PlatFrame e) {i : Nat} {rising : Bool} : d.PlatFrame (e.trgTokenWaits i rising) :=
  h.trgSet _ _

/-! An edge that is not accepted -/

section
variable (d : Dev) (i : Nat) {F : Fld}

theorem Dev.rd_trgOverrun (hlo : 0x24 ≤ F.off + F.stride * i) (hhi : F.off + F.stride * i < 0x1000) :
    (d.trgOverrun i).rd Pg.pins F i = (d.bump Pg.pins Reg.PINS.OVR_CNT 1 i).rd Pg.pins F i := Dev.rd_raise_same_page _ _ _ _ hlo hhi

theorem Dev.ovrCnt_trgOverrun (hi : i < 4) :
    (d.trgOverrun i).rd Pg.pins Reg.PINS.OVR_CNT i = min (d.rd Pg.pins Reg.PINS.OVR_CNT i + 1) (2 ^ 16 - 1) := by
  rw [Dev.rd_trgOverrun _ _ (by simp only [Reg.PINS.OVR_CNT]; omega) (by simp only [Reg.PINS.OVR_CNT]; omega), Dev.bump,
    Dev.rd_wr_same _ _ _ _ _ (by decide)]
  exact Nat.mod_eq_of_lt (by simp only [Reg.PINS.OVR_CNT]; omega)

theorem Dev.acceptCnt_trgOverrun (hi : i < 4) : (d.trgOverrun i).rd Pg.pins Reg.PINS.ACCEPT_CNT i = d.rd Pg.pins Reg.PINS.ACCEPT_CNT i := by
  rw [Dev.rd_trgOverrun _ _ (by simp only [Reg.PINS.ACCEPT_CNT]; omega) (by simp only [Reg.PINS.ACCEPT_CNT]; omega), Dev.bump,
    Dev.rd_wr_disjoint _ (F := Reg.PINS.OVR_CNT) (G := Reg.PINS.ACCEPT_CNT) _ rfl (by decide) (by decide)]

theorem Dev.trgGet_trgOverrun : (d.trgOverrun i).trgGet i = d.trgGet i := by
  rw [Dev.trgGet, Dev.trgOverrun, Dev.raise_plat]
  rfl

end

/-! Inputs that stand too long, and tokens -/

theorem Dev.trgStuck_of_long {d : Dev} {i : Nat} (hstep : 3 ≤ d.plat.step) (hactive : d.trgActive i = true)
    (hfree : d.flag Pg.pins Reg.PINS.STUCK i = false)
    (hlong : (d.trgGet i).since + usCycles (1000000 * d.rd Pg.pins Reg.PINS.STUCK_S i) ≤ d.cycle) :
    d.trgStuck i = (d.wr Pg.pins Reg.PINS.STUCK 1 i).raise Pg.pins 0 .none_ := by
  rw [Dev.trgStuck, decide_eq_false (Nat.not_lt.mpr hstep), hactive, hfree, decide_eq_false (Nat.not_lt.mpr hlong)]
  rfl

theorem Dev.trgUnstuck_of_long {d : Dev} {i : Nat} (hidle : d.trgActive i = false) (hstuck : d.flag Pg.pins Reg.PINS.STUCK i = true)
    (hlong : (d.trgGet i).since + usCycles 100000 ≤ d.cycle) : d.trgUnstuck i = d.wr Pg.pins Reg.PINS.STUCK 0 i := by
  rw [Dev.trgUnstuck, hidle, hstuck, decide_eq_false (Nat.not_lt.mpr hlong)]
  rfl

/-- A queue without a body is full with 4 items in its head. -/
theorem Dev.qFull_of_no_body {d : Dev} {q : Nat} (hsize : d.qSize q = 0) : d.qFull q = decide (4 ≤ d.rd (Pg.queue q) Reg.FQ.COUNT) := by
  simp only [Dev.qFull, Dev.qMode, Dev.qCap, Dev.qCount, hsize, if_true]
  rfl

/-- The oldest token of input `i` leaves, `rest` stays. -/
def Dev.trgTaken (d : Dev) (i : Nat) (rest : List Bool) : Dev :=
  d.trgSet i { d.trgGet i with pend := rest, seq := ((d.trgGet i).seq + 1) % 4 }

theorem Dev.rd_queue_trgTaken (d : Dev) {i : Nat} (hi : i < 4) (rest : List Bool) (q : Nat) {F : Fld} :
    (d.trgTaken i rest).rd (Pg.queue q) F = d.rd (Pg.queue q) F :=
  Dev.rd_trgSet _ _ _ (by simp only [Pg.queue, Pg.pins]; omega)

theorem Dev.trgTokenPush_of_room {d : Dev} {i q : Nat} {e : Bool} {rest : List Bool} (hi : i < 4) (hpend : (d.trgGet i).pend = e :: rest)
    (hqueue : d.rd Pg.pins Reg.PINS.DQUEUE i = q) (hq : q < 61440) (hopen : d.fenced (qCore q) = false) (hnet : d.qNet q = 2)
    (hwin : d.winWrites q = true) (hsize : d.qSize q = 0) (hcap : d.qCount q < d.qCap q) (hfull : d.qFull q = false)
    (hhead : (d.qHead q).length < 4) :
    d.trgTokenPush i = (d.trgTaken i rest).enterHead q (eventToken i (d.trgGet i).seq e) := by
  have hsize' : (d.trgTaken i rest).qSize q = 0 := (d.rd_queue_trgTaken hi rest q).trans hsize
  have hfull' : (d.trgTaken i rest).qFull q = false := by
    rw [Dev.qFull_of_no_body hsize', Dev.rd_queue_trgTaken _ hi, ← Dev.qFull_of_no_body hsize, hfull]
  have hgoes : ¬(61440 ≤ q ∨ d.fenced (qCore q) = true ∨ d.qNet q ≠ 2 ∨ d.winWrites q = false ∨ d.qCap q ≤ d.qCount q) := by
    simp [hopen, hnet, hwin, hq, hcap]
  unfold Dev.trgTokenPush
  dsimp only
  rw [hpend, hqueue]
  dsimp only
  rw [if_neg hgoes]
  exact Dev.winPush_of_head hq hsize' hfull' hhead _

theorem Dev.trgGet_enterHead (d : Dev) (q : Nat) (x : Item) (i : Nat) : (d.enterHead q x).trgGet i = d.trgGet i := rfl

theorem Dev.qHead_trgTaken (d : Dev) (i : Nat) (rest : List Bool) (q : Nat) : (d.trgTaken i rest).qHead q = d.qHead q := rfl

theorem Dev.trgTaken_enterHead_frame (d : Dev) (i : Nat) (rest : List Bool) (q : Nat) (x : Item) :
    ∃ r y p, (d.trgTaken i rest).enterHead q x = { d with regs := r, qs := y, plat := p } := by
  obtain ⟨r, p, hframe⟩ : d.PlatFrame (d.trgTaken i rest) := Dev.PlatFrame.trgSet ⟨_, _, rfl⟩ _ _
  rw [hframe]
  exact ⟨_, _, p, rfl⟩

end Sys2Proof.Machine

namespace Sys2Proof

open Machine

/-! ### The clauses of O33 -/

theorem monitorSample_raises_supply (mv : List (BitVec 16)) (out : BitVec 8) (s : State) (i : Nat) (hi : i < 8)
    (hout : out.toNat.testBit i = true) (hhigh : 108 * s.dev.railNominal i < 100 * ((mv.map (·.toNat)).getD i 0)) :
    GivesDev (.monitorSample mv out) s (fun d => d = s.dev.privOccurs 0 Pg.power ∧
      bitAt (d.rd Pg.fault Reg.FAULT.PRIV_STAT) 0 = true) := by
  refine ⟨s.dev.monitorSample (mv.map (·.toNat)) out.toNat, rfl, ?_⟩
  rw [Dev.monitorSample_of_high hi hout hhigh]
  exact ⟨rfl, s.dev.bitAt_privStat_privOccurs (by decide) _ _⟩

theorem pmbusPoll_keeps_reply (rail : Fin 8) (r : PmbusReply) (s : State) (hgood : r.faulted = false) :
    GivesDev (.pmbusPoll rail (some r)) s (fun d => d = { s.dev with regs := d.regs, plat := d.plat } ∧
      d.rd Pg.power Reg.POWER.V rail = r.vout.toNat ∧ d.rd Pg.power Reg.POWER.I rail = r.iout.toNat) := by
  refine ⟨s.dev.pmbusPoll rail (some r), rfl, ?_⟩
  rw [Dev.pmbusPoll_of_reply hgood]
  exact ⟨s.dev.railRead_frame rail r, s.dev.rd_railRead rail r⟩

theorem pmbusPoll_sets_error (rail : Fin 8) (s : State) (h : Tab.get s.dev.plat.pmbFail rail 0 = 2) :
    GivesDev (.pmbusPoll rail none) s (fun d => d = { s.dev with regs := d.regs, plat := d.plat } ∧
      d.flag Pg.power Reg.POWER.PMB_ERR = true ∧ d.plat.estOnly = true) := by
  refine ⟨s.dev.pmbusPoll rail none, rfl, ?_⟩
  rw [Dev.pmbusPoll_of_third_failure h]
  exact ⟨rfl, Dev.flag_hit_one (s.dev.railFailed rail 3) _ 0 (by decide) (by decide), rfl⟩

theorem governorMeasure_adds_credit (p : BitVec 16) (tj : List Int) (s : State) (hcool : ∀ t ∈ tj, 0 ≤ t ∧ t < 60) (hsome : tj ≠ [])
    (hthr : 60 ≤ s.dev.rd Pg.power Reg.POWER.T_THR) (htrip : 61 ≤ s.dev.rd Pg.power Reg.POWER.T_TRIP)
    (hcap : s.dev.flag Pg.power Reg.POWER.CAPPING = false)
    (hpos : 0 < min (1000 * s.dev.rd Pg.power Reg.POWER.CREDIT_MAX)
      (s.dev.plat.credit + 100 * s.dev.rd Pg.power Reg.POWER.P_CAP - p.toNat)) :
    GivesDev (.governorMeasure p tj) s (fun d => d = { s.dev with regs := d.regs, plat := d.plat } ∧
      d.rd Pg.power Reg.POWER.P_NOW = p.toNat ∧ d.flag Pg.power Reg.POWER.CAPPING = false ∧
      d.plat.credit = min (1000 * s.dev.rd Pg.power Reg.POWER.CREDIT_MAX)
        (s.dev.plat.credit + 100 * s.dev.rd Pg.power Reg.POWER.P_CAP - p.toNat)) := by
  refine ⟨s.dev.governorMeasure p.toNat tj, rfl, ?_⟩
  rw [Dev.governorMeasure_of_cool hcool hsome hthr htrip hcap rfl hpos]
  refine ⟨?_, ?_, ?_, rfl⟩
  · obtain ⟨r, hframe⟩ := s.dev.regFrame_measured p.toNat tj
    rw [hframe]
    rfl
  · rw [Dev.rd_setCredit _ _ (by decide), Dev.measured, Dev.rd_wr_same _ _ _ _ _ (by decide)]
    exact Nat.mod_eq_of_lt p.isLt
  · rw [Dev.capping_setCredit, Dev.capping_measured, hcap]

theorem governorCalibrate_takes_sum (s : State) (h : s.dev.plat.estOnly = false) : GivesDev .governorCalibrate s (fun d =>
    d = { s.dev with plat := { s.dev.plat with calib := (List.range 8).foldl (fun n i =>
      n + s.dev.rd Pg.power Reg.POWER.V i * s.dev.rd Pg.power Reg.POWER.I i) 0 } }) := by
  refine ⟨s.dev.governorCalibrate, rfl, ?_⟩
  exact if_neg (ne_true_of_eq_false h)

theorem governorWindow_holds_none (s : State) (hcap : s.dev.flag Pg.power Reg.POWER.CAPPING = false) :
    GivesDev .governorWindow s (fun d => d = { s.dev with regs := d.regs, hold := d.hold } ∧
      (∀ m < 4, d.rd Pg.power Reg.POWER.H m = 0 ∧ Tab.get d.hold.win m 0 = 0) ∧
      d.flag Pg.power Reg.POWER.AT_FLOOR = false ∧ d.flag Pg.power Reg.POWER.THROTTLING = false) := by
  refine ⟨s.dev.governorWindow, rfl, ?_⟩
  rw [Dev.governorWindow_of_not_capping hcap]
  have h := Dev.notHeld_foldl s.dev.windowOpened 4
  refine ⟨h.frame_of_regFrame s.dev.regFrame_windowOpened, fun m hm => ⟨h.cycles m hm, h.win m hm⟩, ?_, ?_⟩
  · rw [Dev.flag, h.keeps Reg.POWER.AT_FLOOR rfl rfl]
    exact s.dev.flag_windowOpened.1
  · rw [Dev.flag, h.keeps Reg.POWER.THROTTLING rfl rfl]
    exact s.dev.flag_windowOpened.2

/-- Settles O33, clause by clause. That a sample with no rail out does nothing is the model's choice (log 98), and so are the units of the
calibration (log 97). -/
theorem powerIsGoverned : Obligations.PowerIsGoverned :=
  ⟨fun mv s => ⟨_, rfl, s.dev.monitorSample_of_none_out _⟩, monitorSample_raises_supply, pmbusPoll_keeps_reply, pmbusPoll_sets_error,
    fun s => ⟨s.dev.thermtrip, rfl, by rw [Dev.thermtrip_eq]; exact ⟨rfl, rfl, rfl⟩⟩,
    governorMeasure_adds_credit, governorCalibrate_takes_sum, governorWindow_holds_none⟩

/-! ### The clauses of O35 -/

theorem security_is_noted (why : SecViolation) (s : State) (hlocked : why = .jtagLocked → s.dev.plat.fuse.life = 2) :
    GivesDev (.security why) s (fun d => bitAt (d.rd Pg.fault Reg.FAULT.PRIV_STAT) 4 = true ∧
      (why = .unwrapFailure → d.plat.idBad = true)) :=
  ⟨s.dev.securityEvent why, rfl, Dev.securityEvent_noted hlocked, fun h => h ▸ s.dev.idBad_securityEvent⟩

theorem attest_fails_without_key (r : Fin 64) (s : State) (c : RingCmd) (hbegin : s.dev.cmdBegin r 8 = some c)
    (hlife : s.dev.plat.fuse.life = 1 ∨ s.dev.plat.fuse.life = 2) (hkey : s.dev.plat.idBad = true) :
    GivesDev (.attest r) s (fun d => d = { s.dev with hp := d.hp } ∧
      d.cmdOf r = some { c with stage := 2, result := 0x41, detail := 0, aux := 0, entry1 := 0 }) := by
  have hcmd := Dev.cmdOf_of_cmdBegin hbegin
  refine ⟨s.dev.cmdAttest r, rfl, ?_⟩
  rw [Dev.cmdAttest_of_key_bad hbegin hlife hkey]
  refine ⟨?_, Dev.cmdOf_cmdDone hcmd _ _ _ _⟩
  rw [Dev.cmdDone, hcmd]
  rfl

theorem attest_waits (r : Fin 64) (s : State) (c : RingCmd) (hbegin : s.dev.cmdBegin r 8 = some c)
    (hlife : s.dev.plat.fuse.life = 1 ∨ s.dev.plat.fuse.life = 2) (hkey : s.dev.plat.idBad = false) :
    GivesDev (.attest r) s (fun d => d = { s.dev with hp := d.hp } ∧ d.cmdOf r = some { c with stage := 1 }) := by
  refine ⟨s.dev.cmdAttest r, rfl, ?_⟩
  rw [Dev.cmdAttest_of_key_good hbegin hlife hkey]
  exact ⟨rfl, Dev.cmdOf_setCmd_same _ _ _⟩

theorem attestReportWrite_ends_command (s : State) (r : Fin 64) (c : RingCmd) (hwaits : s.dev.cmdWaits r 8 = some c)
    (hother : ∀ r' : Nat, r' ≠ r.val → s.dev.cmdWaits r' 8 = none) (hready : s.dev.flag Pg.score Reg.SCORE.READY = true)
    (hkey : s.dev.ldr.keyValid = true) (hawake : s.dev.hp.cfg.d3hot = false) :
    GivesDev (.attestReportWrite false) s (fun d =>
      d = (s.dev.postAll (c.field 56 8) (s.dev.attestReport ((c.bytes.drop 24).take 32)) 512).cmdDone r 0 0 512 ∧
      d.cmdOf r = some { c with stage := 2, result := 0, detail := 0, aux := 512, entry1 := 0 }) := by
  refine ⟨s.dev.attestWrite false, rfl, ?_⟩
  rw [Dev.attestWrite_of_only_waiter r.isLt hwaits hother hready hkey hawake]
  exact ⟨rfl, Dev.cmdOf_cmdDone ((Dev.cmdOf_postAll _ _ _ _ _).trans (Dev.cmdOf_of_cmdWaits hwaits)) _ _ _ _⟩

/-- Settles O35, clause by clause. -/
theorem violationsAndAttestation : Obligations.ViolationsAndAttestation :=
  ⟨security_is_noted, attest_fails_without_key, attest_waits, attestReportWrite_ends_command⟩

/-- Settles O58: the count writes two words, and the second is the wear record's. -/
theorem wearCountsSeconds : Obligations.WearCountsSeconds := by
  intro wear s hready hdue hroom
  refine ⟨s.dev.opsecTick wear, rfl, ?_⟩
  rw [Dev.opsecTick_of_due hready hdue]
  refine ⟨?_, Dev.wear_secondCounted wear.val hroom⟩
  obtain ⟨r, hframe⟩ := s.dev.regFrame_secondCounted wear.val
  rw [hframe]

/-! ### The clauses of O34 -/

theorem trgEdge_accepts (i : Fin 4) (s : State) (hstep : 3 ≤ s.dev.plat.step) (hlevel : s.dev.flag Pg.pins Reg.PINS.LEVEL i = false)
    (hhigh : s.dev.flag Pg.pins Reg.PINS.ACT_LOW i = false) (hfree : s.dev.flag Pg.pins Reg.PINS.STUCK i = false)
    (hedges : bitAt (s.dev.rd Pg.pins Reg.PINS.EDGES i) 0 = true) (hfirst : (s.dev.trgGet i).acceptAt = none)
    (hrec : bitAt (s.dev.rd Pg.score Reg.SCORE.TRG_REC) i = false) (htok : s.dev.flag Pg.pins Reg.PINS.TOK_EN i = true)
    (hrun : s.dev.dstate (s.dev.rd Pg.pins Reg.PINS.DOM i) = stRUNNING) (hroom : (s.dev.trgGet i).pend.length < 4) :
    GivesDev (.trgEdge i true) s (fun d => d = { s.dev with regs := d.regs, plat := d.plat } ∧
      d.flag Pg.pins Reg.PINS.LEVEL i = true ∧ (d.trgGet i).pend = (s.dev.trgGet i).pend ++ [true] ∧
      d.rd Pg.pins Reg.PINS.ACCEPT_CNT i = min (s.dev.rd Pg.pins Reg.PINS.ACCEPT_CNT i + 1) (2 ^ 16 - 1)) := by
  have haccept : (s.dev.trgRose i).trgAccept i true = ((s.dev.trgRose i).trgCounted i).trgTokenWaits i true := by
    refine Dev.trgAccept_of_room ?_ ?_ ?_ ?_ true
    · rw [Dev.trgRec_trgRose _ _ i.isLt, hrec]
    · rw [Dev.flag, Dev.rd_pins_trgRose _ _ (by decide), ← Dev.flag, htok]
    · rw [Dev.rd_pins_trgRose _ _ (by decide), Dev.dstate_trgRose, hrun]
    · rw [Dev.trgGet_trgRose]
      exact hroom
  refine ⟨s.dev.trgEdge i true, rfl, ?_⟩
  rw [Dev.trgEdge_of_first hstep hhigh hfree hedges hlevel hfirst, haccept]
  refine ⟨(s.dev.platFrame_trgRose i).trgCounted.trgTokenWaits.eq, ?_, ?_, ?_⟩
  · rw [Dev.level_trgTokenWaits, Dev.level_trgCounted, Dev.level_trgRose]
  · rw [Dev.trgTokenWaits, Dev.trgGet_trgSet, Dev.trgGet_trgCounted, Dev.trgGet_trgRose]
  · rw [Dev.acceptCnt_trgTokenWaits, Dev.acceptCnt_trgCounted, Dev.rd_pins_trgRose _ _ (by decide)]

theorem trgEdge_overruns (i : Fin 4) (s : State) (t : Nat) (hstep : 3 ≤ s.dev.plat.step)
    (hlevel : s.dev.flag Pg.pins Reg.PINS.LEVEL i = false) (hhigh : s.dev.flag Pg.pins Reg.PINS.ACT_LOW i = false)
    (hfree : s.dev.flag Pg.pins Reg.PINS.STUCK i = false) (hedges : bitAt (s.dev.rd Pg.pins Reg.PINS.EDGES i) 0 = true)
    (hlast : (s.dev.trgGet i).acceptAt = some t) (hsoon : s.dev.cycle < t + usCycles 1000) :
    GivesDev (.trgEdge i true) s (fun d => d.rd Pg.pins Reg.PINS.OVR_CNT i = min (s.dev.rd Pg.pins Reg.PINS.OVR_CNT i + 1) (2 ^ 16 - 1) ∧
      d.rd Pg.pins Reg.PINS.ACCEPT_CNT i = s.dev.rd Pg.pins Reg.PINS.ACCEPT_CNT i ∧ (d.trgGet i).pend = (s.dev.trgGet i).pend) := by
  refine ⟨s.dev.trgEdge i true, rfl, ?_⟩
  rw [Dev.trgEdge_of_soon hstep hhigh hfree hedges hlevel hlast hsoon]
  refine ⟨?_, ?_, ?_⟩
  · rw [Dev.ovrCnt_trgOverrun _ _ i.isLt, Dev.rd_pins_trgRose _ _ (by decide)]
  · rw [Dev.acceptCnt_trgOverrun _ _ i.isLt, Dev.rd_pins_trgRose _ _ (by decide)]
  · rw [Dev.trgGet_trgOverrun, Dev.trgGet_trgRose]

theorem trgStuck_sets_stuck (i : Fin 4) (s : State) (hstep : 3 ≤ s.dev.plat.step) (hactive : s.dev.trgActive i = true)
    (hfree : s.dev.flag Pg.pins Reg.PINS.STUCK i = false)
    (hlong : (s.dev.trgGet i).since + usCycles (1000000 * s.dev.rd Pg.pins Reg.PINS.STUCK_S i) ≤ s.dev.cycle) :
    GivesDev (.trgStuck i) s (fun d => d = { s.dev with regs := d.regs, flt := d.flt } ∧ d.flag Pg.pins Reg.PINS.STUCK i = true ∧
      bitAt (d.rd Pg.pins Reg.HDR.FLT_STAT) 0 = true) := by
  refine ⟨s.dev.trgStuck i, rfl, ?_⟩
  rw [Dev.trgStuck_of_long hstep hactive hfree hlong]
  refine ⟨(s.dev.wr_frame _ _ _ _).raise _ _ _, ?_, Dev.fltStat_raiseFull _ _ _ _ (by decide)⟩
  rw [Dev.flag, Dev.rd_raise_same_page _ _ _ _ (by simp only [Reg.PINS.STUCK]; omega) (by simp only [Reg.PINS.STUCK]; omega),
    Dev.rd_wr_same _ _ _ _ _ (by decide)]
  rfl

theorem trgUnstuck_clears_stuck (i : Fin 4) (s : State) (hidle : s.dev.trgActive i = false)
    (hstuck : s.dev.flag Pg.pins Reg.PINS.STUCK i = true) (hlong : (s.dev.trgGet i).since + usCycles 100000 ≤ s.dev.cycle) :
    GivesDev (.trgUnstuck i) s (fun d => d = { s.dev with regs := d.regs } ∧ d.flag Pg.pins Reg.PINS.STUCK i = false) := by
  refine ⟨s.dev.trgUnstuck i, rfl, ?_⟩
  rw [Dev.trgUnstuck_of_long hidle hstuck hlong]
  refine ⟨rfl, ?_⟩
  rw [Dev.flag, Dev.rd_wr_same _ _ _ _ _ (by decide)]
  rfl

theorem trgTokenPush_pushes_oldest (i : Fin 4) (s : State) (e : Bool) (rest : List Bool) (q : Nat)
    (hpend : (s.dev.trgGet i).pend = e :: rest) (hqueue : s.dev.rd Pg.pins Reg.PINS.DQUEUE i = q) (hq : q < 61440)
    (hopen : s.dev.fenced (qCore q) = false) (hnet : s.dev.qNet q = 2) (hwin : s.dev.winWrites q = true) (hsize : s.dev.qSize q = 0)
    (hcap : s.dev.qCount q < s.dev.qCap q) (hfull : s.dev.qFull q = false) (hhead : (s.dev.qHead q).length < 4) :
    GivesDev (.trgTokenPush i) s (fun d => d = { s.dev with regs := d.regs, qs := d.qs, plat := d.plat } ∧
      (d.trgGet i).pend = rest ∧ (d.trgGet i).seq = ((s.dev.trgGet i).seq + 1) % 4 ∧
      d.qHead q = s.dev.qHead q ++ [eventToken i (s.dev.trgGet i).seq e]) := by
  refine ⟨s.dev.trgTokenPush i, rfl, ?_⟩
  rw [Dev.trgTokenPush_of_room i.isLt hpend hqueue hq hopen hnet hwin hsize hcap hfull hhead]
  refine ⟨?_, ?_, ?_, by rw [Dev.enterHead_qHead, Dev.qHead_trgTaken]⟩
  · obtain ⟨r, y, p, hframe⟩ := s.dev.trgTaken_enterHead_frame i rest q (eventToken i (s.dev.trgGet i).seq e)
    rw [hframe]
  · rw [Dev.trgGet_enterHead, Dev.trgTaken, Dev.trgGet_trgSet]
  · rw [Dev.trgGet_enterHead, Dev.trgTaken, Dev.trgGet_trgSet]

/-- Settles O34, clause by clause. -/
theorem triggersAccept : Obligations.TriggersAccept :=
  ⟨trgEdge_accepts, trgEdge_overruns, trgStuck_sets_stuck, trgUnstuck_clears_stuck, trgTokenPush_pushes_oldest⟩

/-- Settles O3: the memories are empty after reset, and the empty table is canonical. -/
theorem resetIsSafe : Obligations.ResetIsSafe := ⟨Memory.wf_nil 0, Memory.wf_nil 0, Memory.wf_nil 0xFF⟩

end Sys2Proof
end
